-- ==== Sys2Proof/Word.lean ====
section
/-!
DEFINITION. The words of the TY6400: every register is 32 bits and little-endian (spec 00_scope, Registers), memory is
addressed by the byte.
-/

namespace Sys2Proof

/-- One byte of memory, or one byte of a frame. -/
abbrev Byte := BitVec 8

/-- One register, or one 32-bit word of memory. -/
abbrev Word := BitVec 32

/-- One 64-bit word of comb memory (R198). -/
abbrev Long := BitVec 64

end Sys2Proof
end

