-- ==== Sys2Proof/Operand.lean ====
section
/-!
DEFINITION. What the commands' operands are made of: masters, accesses, Septari cores, prefixes and operand forms, each
in the fields the spec's encodings give.
-/

namespace Sys2Proof

/-- The masters of Table 1-2. A request of DMA names its channel, whose security counts (R202, Table 2-7). -/
inductive Master where
  | sv0 | sv1 | host
  | dma (ch : Fin 16)
  | stn
  | ce (n : Fin 32)
  deriving DecidableEq, Repr

/-- The 6-bit master number (Table 1-2). -/
def Master.num : Master → Nat
  | .sv0 => 1
  | .sv1 => 2
  | .host => 3
  | .dma _ => 4
  | .stn => 5
  | .ce n => n.val + 8

/-- The access widths of the system interconnect: 1, 2, 4 or 8 bytes. -/
inductive Width where
  | b1 | b2 | b4 | b8
  deriving DecidableEq, Repr

/-- The width in bytes. -/
def Width.bytes : Width → Nat
  | .b1 => 1
  | .b2 => 2
  | .b4 => 4
  | .b8 => 8

/-- One request on the system interconnect: who, where, how wide, and what it writes (`none`: a read). -/
structure Req where
  m : Master
  addr : Word
  w : Width
  wr : Option Long
  deriving DecidableEq, Repr

/-- The Septari cores: SV0 and SV1 run Septari-S, CE00 to CE31 run Septari-E (Table 4-1). -/
inductive Core where
  | sv0 | sv1
  | ce (n : Fin 32)
  deriving DecidableEq, Repr

/-- A core's master. -/
def Core.master : Core → Master
  | .sv0 => .sv0
  | .sv1 => .sv1
  | .ce n => .ce n

/-- The prefix bytes 0xF0 to 0xF5 (Table 4-5). -/
inductive Pfx where
  | lane | wide | rep | repz | atom | nodry
  deriving DecidableEq, Repr

/-- A prefix's byte value (Table 4-5). -/
def Pfx.byte : Pfx → Nat
  | .lane => 0xF0
  | .wide => 0xF1
  | .rep => 0xF2
  | .repz => 0xF3
  | .atom => 0xF4
  | .nodry => 0xF5

/-- What stands before the opcode: the core that executes, and the prefix bytes in their order. -/
structure Sx where
  core : Core
  pfx : List Pfx
  deriving DecidableEq, Repr

/-- A displacement, 1 or 4 bytes (Table 4-4). -/
inductive Disp where
  | d8 (v : BitVec 8)
  | d32 (v : BitVec 32)
  deriving DecidableEq, Repr

/-- A displacement as a signed 32-bit value (R138). -/
def Disp.ext : Disp → Word
  | .d8 v => v.signExtend 32
  | .d32 v => v

/-- A displacement's bytes in the instruction. -/
def Disp.len : Disp → Nat
  | .d8 _ => 1
  | .d32 _ => 4

/-- The eight forms of the arithmetic and logical rows (Table 4-8), with the mode byte's RA and RB. -/
inductive AluOp where
  | rr (ra rb : BitVec 4)
  | ri8 (ra rb : BitVec 4) (imm : BitVec 8)
  | ri32 (ra rb : BitVec 4) (imm : BitVec 32)
  | rm8 (ra rb : BitVec 4) (d : BitVec 8)
  | rm32 (ra rb : BitVec 4) (d : BitVec 32)
  | mr8 (ra rb : BitVec 4) (d : BitVec 8)
  | mr32 (ra rb : BitVec 4) (d : BitVec 32)
  | mi8 (ra rb : BitVec 4) (d imm : BitVec 8)
  deriving DecidableEq, Repr

/-- The forms of MOV (0x58 to 0x5A). -/
inductive MovOp where
  | rr (ra rb : BitVec 4)
  | ri8 (ra rb : BitVec 4) (imm : BitVec 8)
  | ri32 (ra rb : BitVec 4) (imm : BitVec 32)
  deriving DecidableEq, Repr

/-- The forms of XCHG (0x66, 0x67). -/
inductive XchgOp where
  | mem (ra rb : BitVec 4) (d : BitVec 8)
  | reg (ra rb : BitVec 4)
  deriving DecidableEq, Repr

/-- The forms of a shift (0x68 to 0x6F). -/
inductive ShiftOp where
  | reg (ra rb : BitVec 4)
  | imm (ra rb : BitVec 4) (n : BitVec 8)
  deriving DecidableEq, Repr

/-- The forms of CALL (0x98, 0x99). -/
inductive CallOp where
  | rel (d : BitVec 32)
  | reg (ra rb : BitVec 4)
  deriving DecidableEq, Repr

/-- How a frame on an Ethernet lane ends (Table 8-2, R267): check sequence good or bad, a code error or abort inside it, a
reassembly error, an unknown SMD. -/
inductive RxEnd where
  | good | fcs | sym | asm | smd
  deriving DecidableEq, Repr

/-- What link establishment finds at an Ethernet lane's partner (R252, R254): 10BASE-Te rather than 100BASE-TX, negotiation
complete, parallel detection, remote fault, crossover, the partner's page and whether it advertised EEE. -/
structure LinkInfo where
  ten : Bool
  andone : Bool
  pdet : Bool
  rfault : Bool
  xover : Bool
  page : BitVec 16
  peee : Bool
  deriving DecidableEq, Repr

/-- A frame on a multi-drop bus (Table 11-3): identifier format, RTR or RRS, FDF, BRS, ESI, identifier, DLC, data. -/
structure MbFrame where
  ide : Bool := false
  rtr : Bool := false
  fdf : Bool := false
  brs : Bool := false
  esi : Bool := false
  id : BitVec 29
  dlc : BitVec 4
  data : List Byte := []
  deriving DecidableEq, Repr

/-- How a frame received on a multi-drop bus ends (R350, R357): valid; an error; an error after whose flag the next bit is
dominant. -/
inductive MbEnd where
  | good | err | errDom
  deriving DecidableEq, Repr

/-- What becomes of a frame offered on a multi-drop bus (R353): it is under way, it loses arbitration, it meets an error, it
meets no acknowledgement. -/
inductive MbTx where
  | start | lost | err | noAck
  deriving DecidableEq, Repr

/-- How the characters of a burst on a serial lane end (R400, R402): the line goes on or goes idle, a closing flag follows, or a
parity error, a framing error or break, or an HDLC abort meets the frame. -/
inductive SlEnd where
  | more | flag | par | frm | abort
  deriving DecidableEq, Repr

/-- The peripheral blocks of Table 1-4. -/
inductive Blk where
  | sys | clk | pwr | sec | boot | mbx | evt | dma | mem | eng | eth | swc | time | mdb | sln | brg | pio | stn | age
  | jrn
  deriving DecidableEq, Repr

/-- What causes a chip reset from outside or by a watchdog (R43; PWR_RSTCAUSE bits 1 to 3). HIBERNATE ends in one too (WAKE). -/
inductive RstCause where
  | rstn | wdog | supply
  deriving DecidableEq, Repr

/-- The bit of PWR_RSTCAUSE. -/
def RstCause.bit : RstCause → Nat
  | .rstn => 1
  | .wdog => 2
  | .supply => 3

/-- How a clock source fails (CLK_STAT.CAUSE 0x1 to 0x6). -/
inductive ClkCause where
  | mainStopped | mainFreq | coreEngPll | fabricPll | timePll | mainNap
  deriving DecidableEq, Repr

/-- The code of CLK_STAT.CAUSE. -/
def ClkCause.code : ClkCause → Nat
  | .mainStopped => 1
  | .mainFreq => 2
  | .coreEngPll => 3
  | .fabricPll => 4
  | .timePll => 5
  | .mainNap => 6

/-- What one planner run finds (R489, R492, R493): the run could not complete in time; the precision of each ring's clocks in ps
and its rate error in 10^-9, by ring instance; the slack predicted at the next bin in ps; the projected margin in tenths of a
year and its site. -/
structure PlanFacts where
  late : Bool
  rings : List (Nat × Nat)
  ahead : Nat
  years : Nat
  site : BitVec 3
  deriving DecidableEq, Repr

end Sys2Proof
end

