-- ==== Sys2Proof/Syntax.lean ====
section
/-!
DEFINITION. The commands: one constructor per row of spec/opcode_table.json, in its order, with the row's operands.
-/

namespace Sys2Proof

/-- A command of the TY6400. -/
inductive Instr where
  /-- SILL_RESET (R8): Power-on of the sill domain resets the sill domain and everything a chip reset covers. -/
  | sillReset (supply : Bool) (sel : BitVec 2)
  /-- CHIP_RESET (R43): RST_N, a watchdog or a supply failure resets all logic outside the sill domain and restarts
  the boot ROM. -/
  | chipReset (cause : RstCause) (sel : BitVec 2)
  /-- BLOCK_RESET (R37): A software block reset resets one block's registers and logic, clears its staged copies and
  cancels its pending commits. -/
  | blockReset (k : Blk)
  /-- ENGINE_RESET (R116): ENG_CTL.RST resets one engine, discarding its dry-fit state and dropping the item in
  hand, deferred to the end of a drain in progress. -/
  | engineReset (m : Master) (n : Fin 32)
  /-- HOST_PORT_RESET (R234): A PCIe hot, link-down or function-level reset counts as a reset of master 3 for the
  mailboxes. -/
  | hostPortReset
  /-- ENGINE_HALT (R476): ENG_CTL.HALT halts the engine at its next WQNEXT after the item in hand completes. -/
  | engineHalt (m : Master) (n : Fin 32)
  /-- REGISTER_WRITE (R5): A write to a register without behaviour of its own acts by field access type, with SR,
  LK, reserved-bit and gap checks. -/
  | registerWrite (m : Master) (a v : Word)
  /-- SYSTEM_ACCESS (R15): A master's load or store on the system interconnect is routed, arbitrated and checked
  against the address map, ownership, power and poison. -/
  | systemAccess (l : List Req)
  /-- STAGED_WRITE (R20): A write to an ST register updates its staged copy only, held if it arrives inside the
  freeze window. -/
  | stagedWrite (m : Master) (a v : Word)
  /-- ARM_NEXT_BOUNDARY (R24): SYS_CMT_ARM with OP = 0x0 arms the named instance for its next boundary. -/
  | armNextBoundary (m : Master) (inst : BitVec 7)
  /-- ARM_TIMED (R30): SYS_CMT_ARM with OP = 0x1 arms a timed commit at the writer's banked T. -/
  | armTimed (m : Master) (inst : BitVec 7)
  /-- CANCEL_COMMITS (R34): SYS_CMT_ARM with OP = 0x2 cancels the pending next-boundary and timed commits of the
  instance. -/
  | cancelCommits (m : Master) (inst : BitVec 7)
  /-- ARM_INVALID_OP (R33): SYS_CMT_ARM with OP = 0x3 or INST above 80 is rejected with CODE 0x4. -/
  | armInvalidOp (m : Master) (inst : BitVec 7)
  /-- STATION_CYCLE_BOUNDARY (R19): At each multiple of the station-cycle period the instance 0 boundary occurs and
  its armed commits apply. -/
  | stationCycleBoundary
  /-- IDLE_INSTANCE_COMMIT (R36): A next-boundary arm on an idle instance applies within 2 fabric cycles. -/
  | idleInstanceCommit (k : Fin 81)
  /-- IDLE_TIMED_COMMIT (R36): A timed commit on an idle instance applies when the time base reaches T. -/
  | idleTimedCommit (k : Fin 81)
  /-- BOOT_IMAGE_ATTEMPT (R65): The boot ROM chooses an image, reads and verifies it and loads its sections, or
  marks it and turns to the other flash. -/
  | bootImageAttempt (okA okB sfdpA sfdpB : Bool) (pcie : Option (List Byte))
  /-- PLUMB_CHECK (R465): The 1 ms count of the main source against the sill clock ends and passes, fails and
  retries, or degrades the boot. -/
  | plumbCheck (ppm : Int)
  /-- BOOT_RELEASE (R58): The ROM arms every commit instance, locks LK registers and releases SV1, bound engines and
  lanes. -/
  | bootRelease
  /-- BOOT_GO (R47): BOOT_CTL.GO ends the boot ROM's wait and starts a host-image boot or release. -/
  | bootGo (m : Master)
  /-- HOST_RANGE_DONE (R48): BOOT_HCTL.DONE hands the requested push range to the ROM, which consumes it and
  requests the next. -/
  | hostRangeDone (m : Master)
  /-- HOST_BOOT_ABORT (R48): BOOT_HCTL.ABORT ends the host-boot attempt and returns the ROM to waiting for GO. -/
  | hostBootAbort (m : Master)
  /-- BOOT_CONFIRM (R67): BOOT_CTL.CONFIRM confirms the running image and clears its count of unconfirmed starts. -/
  | bootConfirm (m : Master)
  /-- ARB_ADVANCE (R72): BOOT_CTL.ARB_ADV raises the OTP floors when the image is confirmed, otherwise raises the
  boot-error event. -/
  | arbAdvance (m : Master)
  /-- CONFIRM_TIMEOUT (R67): The boot watchdog expires without confirmation within CONFIRM_S and causes a chip
  reset. -/
  | confirmTimeout (sel : BitVec 2)
  /-- SAFE_HOLD_EXPIRY (R65): After 10 minutes of safe hold the ROM clears both marks and starts image selection
  again. -/
  | safeHoldExpiry
  /-- OTP_REVOKE (R62): SEC_OTP_REVOKE with the key revokes a root slot unless it matches the running image or is
  the last one. -/
  | otpRevoke (m : Master) (slot : BitVec 2)
  /-- FLASH_ERASE (R70): BOOT_FCMD OP = 0x1 erases 64 KiB of the inactive flash. -/
  | flashErase (m : Master)
  /-- FLASH_PROGRAM (R70): BOOT_FCMD OP = 0x2 programs 256 bytes from BOOT_FBUF into the inactive flash. -/
  | flashProgram (m : Master)
  /-- FLASH_READ (R70): BOOT_FCMD OP = 0x3 reads 256 bytes of the inactive flash into BOOT_FBUF. -/
  | flashRead (m : Master)
  /-- FLASH_VERIFY (R71): BOOT_FCMD OP = 0x4 runs every image check on the inactive flash without loading it. -/
  | flashVerify (m : Master)
  /-- FLASH_COMMAND_DONE (R70): A flash command completes, clears BUSY, sets RESULT and raises the flash command
  event. -/
  | flashCommandDone (bad sfdp : Bool)
  /-- ATTESTATION_REQUEST (R76): A nonce request on a secure mailbox makes SV0 reserve an LMS leaf and sign an
  attestation report. -/
  | attestationRequest (nonce : BitVec 256) (fail : Bool)
  /-- IDENTITY_REPORT (R77): An identity request returns the device public keys without using a leaf. -/
  | identityReport
  /-- WQNEXT_WAKE (R84): An engine waiting in WQNEXT on an empty queue takes a newly posted item and checkpoints. -/
  | wqnextWake (n : Fin 32)
  /-- FRAME_BYTE_ARRIVAL (R85): A frame-port read stalled on a byte not yet arrived resumes when the byte arrives.
  -/
  | frameByteArrival (n : Fin 32)
  /-- ITEM_VERDICT (R93): The hardware verdict of the item in hand becomes known, releasing the engine to commit or
  roll back. -/
  | itemVerdict (n : Fin 32)
  /-- FRAME_ABORT (R95): A frame aborts at its lane, rolling back and dropping the engine item on it. -/
  | frameAbort (n : Fin 32)
  /-- DRAIN_GRANT (R102): A group's arbiter grants a drain to the ready engine with the lowest end-of-frame stamp
  whose posts fit and lines are free. -/
  | drainGrant (k : Fin 8)
  /-- DRAIN_COMPLETE (R103): A drain writes its commit-buffer entries in order, rolls back conflicting engines and
  releases its lines and token. -/
  | drainComplete (n : Fin 32)
  /-- TOKEN_GRANT (R106): A waiting engine receives its group's commit token and re-executes serially. -/
  | tokenGrant (k : Fin 8)
  /-- HANDLER_LIMIT (R110): An execution exceeding ENG_DFCTL.HLIM cycles is rolled back and dropped. -/
  | handlerLimit (n : Fin 32)
  /-- TRANSMIT_SLOT_FREE (R98): A transmit slot becomes free when its last byte is sent, releasing stalled writes or
  arms to it. -/
  | transmitSlotFree (n : Fin 32) (slot : Fin 4)
  /-- HELD_RELAY_RELEASE (R99): A relay held for a faster egress lane is sent whole, or discarded if bad, when the
  frame's last byte arrives. -/
  | heldRelayRelease (p : Fin 24)
  /-- INTEGRITY_RELOAD_ATTEMPT (R214): A 4 KiB block reload from flash completes and is re-verified, releasing
  stalls or retrying or failing the block. -/
  | integrityReloadAttempt (diff : List (BitVec 12 × Byte))
  /-- INTERRUPT_LINE (R156): A pending interrupt line is taken on a supervisor when enabled, or ends a WFI wait. -/
  | interruptLine (one : Bool)
  /-- NMI_INPUT (R156): An NMI is taken by SV0 unless EXL = 1, when it is held pending. -/
  | nmiInput
  /-- RESERVED_OPCODE (R145): A reserved or absent opcode raises the undefined-instruction fault. -/
  | reservedOpcode (x : Sx) (two : Bool)
  /-- NOP (R145): NOP does nothing. -/
  | nop (x : Sx)
  /-- BRK (R152): BRK takes the BRK exception at vector 6. -/
  | brk (x : Sx)
  /-- ADD (R146): ADD adds its operands in one of eight forms and sets Z N C V H. -/
  | add (x : Sx) (p : AluOp)
  /-- ADC (R146): ADC adds its operands and C. -/
  | adc (x : Sx) (p : AluOp)
  /-- SUB (R146): SUB subtracts its operands. -/
  | sub (x : Sx) (p : AluOp)
  /-- SBB (R146): SBB subtracts its operands and C. -/
  | sbb (x : Sx) (p : AluOp)
  /-- AND (R146): AND forms the bitwise AND. -/
  | and (x : Sx) (p : AluOp)
  /-- OR (R146): OR forms the bitwise OR. -/
  | or (x : Sx) (p : AluOp)
  /-- XOR (R146): XOR forms the bitwise XOR. -/
  | xor (x : Sx) (p : AluOp)
  /-- CMP (R146): CMP sets the flags of a subtraction without writing an operand. -/
  | cmp (x : Sx) (p : AluOp)
  /-- TEST (R146): TEST sets the flags of an AND without writing an operand. -/
  | test (x : Sx) (p : AluOp)
  /-- MOV (R168): MOV copies a register or immediate into RA. -/
  | mov (x : Sx) (p : MovOp)
  /-- LD (R133): LD loads 4 bytes, or 8 under WIDE, or frame bytes under LANE. -/
  | ld (x : Sx) (ra rb : BitVec 4) (p : Disp)
  /-- ST (R133): ST stores 4 bytes, buffered under dry-fit or to a slot under LANE. -/
  | st (x : Sx) (ra rb : BitVec 4) (p : Disp)
  /-- STI (R168): STI stores an immediate word. -/
  | sti (x : Sx) (ra rb : BitVec 4) (p : Disp) (imm : Word)
  /-- LEA (R138): LEA writes RB plus disp32 into RA. -/
  | lea (x : Sx) (ra rb : BitVec 4) (v : Word)
  /-- LDB (R133): LDB loads a byte zero-extended. -/
  | ldb (x : Sx) (ra rb : BitVec 4) (v : BitVec 8)
  /-- LDBS (R133): LDBS loads a byte sign-extended. -/
  | ldbs (x : Sx) (ra rb : BitVec 4) (v : BitVec 8)
  /-- LDH (R133): LDH loads a halfword zero-extended. -/
  | ldh (x : Sx) (ra rb : BitVec 4) (v : BitVec 8)
  /-- LDHS (R133): LDHS loads a halfword sign-extended. -/
  | ldhs (x : Sx) (ra rb : BitVec 4) (v : BitVec 8)
  /-- STB (R133): STB stores RA[7:0]. -/
  | stb (x : Sx) (ra rb : BitVec 4) (v : BitVec 8)
  /-- STH (R133): STH stores RA[15:0]. -/
  | sth (x : Sx) (ra rb : BitVec 4) (v : BitVec 8)
  /-- XCHG (R171): XCHG swaps RA with RB or a memory word, indivisibly only under ATOM. -/
  | xchg (x : Sx) (p : XchgOp)
  /-- SHL (R173): SHL shifts RA left. -/
  | shl (x : Sx) (p : ShiftOp)
  /-- SHR (R173): SHR shifts RA right with zero fill. -/
  | shr (x : Sx) (p : ShiftOp)
  /-- SAR (R173): SAR shifts RA right with sign fill. -/
  | sar (x : Sx) (p : ShiftOp)
  /-- ROL (R173): ROL rotates RA left. -/
  | rol (x : Sx) (p : ShiftOp)
  /-- BCC (R147): Bcc branches PC-relative when its condition code holds. -/
  | bcc (x : Sx) (cc : BitVec 4) (p : Disp)
  /-- NEG (R167): NEG negates RA. -/
  | neg (x : Sx) (ra rb : BitVec 4)
  /-- NOT (R167): NOT inverts RA. -/
  | not (x : Sx) (ra rb : BitVec 4)
  /-- INC (R167): INC adds 1 to RA. -/
  | inc (x : Sx) (ra rb : BitVec 4)
  /-- DEC (R167): DEC subtracts 1 from RA. -/
  | dec (x : Sx) (ra rb : BitVec 4)
  /-- MUL (R172): MUL writes the low 32 bits of RA times RB. -/
  | mul (x : Sx) (ra rb : BitVec 4)
  /-- MULH (R172): MULH writes the unsigned high 32 bits of RA times RB. -/
  | mulh (x : Sx) (ra rb : BitVec 4)
  /-- DIVU (R172): DIVU divides unsigned, faulting on a zero divisor. -/
  | divu (x : Sx) (ra rb : BitVec 4)
  /-- REMU (R172): REMU forms the unsigned remainder, faulting on a zero divisor. -/
  | remu (x : Sx) (ra rb : BitVec 4)
  /-- CALL (R174): CALL pushes the return address and jumps relative or through RB. -/
  | call (x : Sx) (p : CallOp)
  /-- JMP (R174): JMP jumps to RB. -/
  | jmp (x : Sx) (ra rb : BitVec 4)
  /-- RET (R174): RET pops PC. -/
  | ret (x : Sx)
  /-- PUSH (R170): PUSH decrements G15 and stores RA. -/
  | push (x : Sx) (ra rb : BitVec 4)
  /-- POP (R170): POP loads RA and increments G15. -/
  | pop (x : Sx) (ra rb : BitVec 4)
  /-- PUSHM (R170): PUSHM pushes the registers of a mask. -/
  | pushm (x : Sx) (mask : BitVec 16)
  /-- POPM (R170): POPM pops the registers of a mask. -/
  | popm (x : Sx) (mask : BitVec 16)
  /-- BSET (R130): BSET sets a bit variable. -/
  | bset (x : Sx) (v : BitVec 16)
  /-- BCLR (R130): BCLR clears a bit variable. -/
  | bclr (x : Sx) (v : BitVec 16)
  /-- BCPL (R130): BCPL complements a bit variable. -/
  | bcpl (x : Sx) (v : BitVec 16)
  /-- BMOV (R130): BMOV copies bit BB to bit BA. -/
  | bmov (x : Sx) (v : BitVec 32)
  /-- BAND (R130): BAND ANDs bit BB into bit BA. -/
  | band (x : Sx) (v : BitVec 32)
  /-- BOR (R130): BOR ORs bit BB into bit BA. -/
  | bor (x : Sx) (v : BitVec 32)
  /-- BXOR (R130): BXOR XORs bit BB into bit BA. -/
  | bxor (x : Sx) (v : BitVec 32)
  /-- BANDN (R130): BANDN ANDs NOT bit BB into bit BA. -/
  | bandn (x : Sx) (v : BitVec 32)
  /-- BLD (R130): BLD loads a bit into RA. -/
  | bld (x : Sx) (ra rb : BitVec 4) (v : BitVec 16)
  /-- BST (R130): BST stores RA[0] into a bit. -/
  | bst (x : Sx) (ra rb : BitVec 4) (v : BitVec 16)
  /-- BLDI (R131): BLDI loads the bit addressed by RB into RA. -/
  | bldi (x : Sx) (ra rb : BitVec 4)
  /-- BSTI (R131): BSTI stores RA[0] into the bit addressed by RB. -/
  | bsti (x : Sx) (ra rb : BitVec 4)
  /-- BTST (R130): BTST sets Z to the inverse of a bit. -/
  | btst (x : Sx) (v : BitVec 16)
  /-- BRB (R130): BRB branches when a bit is set. -/
  | brb (x : Sx) (p : BitVec 8) (v : BitVec 16)
  /-- BRNB (R130): BRNB branches when a bit is clear. -/
  | brnb (x : Sx) (p : BitVec 8) (v : BitVec 16)
  /-- BRBC (R175): BRBC branches when a bit is set and clears it as one action. -/
  | brbc (x : Sx) (p : BitVec 8) (v : BitVec 16)
  /-- WQNEXT (R186): WQNEXT ends the item in hand, waits for the next item, loads its descriptor and checkpoints. -/
  | wqnext (x : Sx)
  /-- MOVFL (R128): MOVFL copies FL into RA. -/
  | movfl (x : Sx) (ra rb : BitVec 4)
  /-- MOVTOFL (R128): MOVTOFL writes the RW fields of FL from RA. -/
  | movtofl (x : Sx) (ra rb : BitVec 4)
  /-- SEXTB (R167): SEXTB sign-extends RA[7:0]. -/
  | sextb (x : Sx) (ra rb : BitVec 4)
  /-- SEXTH (R167): SEXTH sign-extends RA[15:0]. -/
  | sexth (x : Sx) (ra rb : BitVec 4)
  /-- BSWAP (R167): BSWAP reverses the bytes of RA. -/
  | bswap (x : Sx) (ra rb : BitVec 4)
  /-- CLC (R167): CLC clears C. -/
  | clc (x : Sx)
  /-- STC (R167): STC sets C. -/
  | stc (x : Sx)
  /-- MOVSB (R177): MOVSB copies bytes from G12 to G13, repeated under REP. -/
  | movsb (x : Sx)
  /-- MOVSW (R177): MOVSW copies 4-byte elements. -/
  | movsw (x : Sx)
  /-- MOVSD (R177): MOVSD copies 8-byte elements. -/
  | movsd (x : Sx)
  /-- CMPSB (R177): CMPSB compares bytes at G12 and G13. -/
  | cmpsb (x : Sx)
  /-- CMPSW (R177): CMPSW compares 4-byte elements. -/
  | cmpsw (x : Sx)
  /-- SCASB (R177): SCASB compares RA[7:0] with bytes at G12. -/
  | scasb (x : Sx) (ra rb : BitVec 4)
  /-- STOSB (R142): STOSB stores RA[7:0] at G13. -/
  | stosb (x : Sx) (ra rb : BitVec 4)
  /-- STOSW (R142): STOSW stores RA at G13. -/
  | stosw (x : Sx) (ra rb : BitVec 4)
  /-- BBMOV (R177): BBMOV copies a block of bit variables. -/
  | bbmov (x : Sx)
  /-- BBCLR (R177): BBCLR clears a block of bit variables. -/
  | bbclr (x : Sx)
  /-- BBSET (R177): BBSET sets a block of bit variables. -/
  | bbset (x : Sx)
  /-- BBCMP (R177): BBCMP compares two blocks of bit variables. -/
  | bbcmp (x : Sx)
  /-- BBCNT (R177): BBCNT counts set bits into RA. -/
  | bbcnt (x : Sx) (ra rb : BitVec 4)
  /-- BBSCAN (R177): BBSCAN scans for a set bit. -/
  | bbscan (x : Sx) (ra rb : BitVec 4)
  /-- DAA (R183): DAA decimal-adjusts a byte after addition. -/
  | daa (x : Sx) (ra rb : BitVec 4)
  /-- DAS (R183): DAS decimal-adjusts a byte after subtraction. -/
  | das (x : Sx) (ra rb : BitVec 4)
  /-- BCDADC (R181): BCDADC adds n-byte packed BCD with carry. -/
  | bcdadc (x : Sx) (ra rb : BitVec 4) (n : BitVec 8)
  /-- BCDSBC (R181): BCDSBC subtracts n-byte packed BCD with borrow. -/
  | bcdsbc (x : Sx) (ra rb : BitVec 4) (n : BitVec 8)
  /-- BCD2BIN (R181): BCD2BIN converts n-byte BCD to binary. -/
  | bcd2bin (x : Sx) (ra rb : BitVec 4) (n : BitVec 8)
  /-- BIN2BCD (R181): BIN2BCD converts binary to 2n BCD digits. -/
  | bin2bcd (x : Sx) (ra rb : BitVec 4) (n : BitVec 8)
  /-- DFEND_PASS (R188): DFEND pass supplies a good verdict for a software-verdict item. -/
  | dfendPass (x : Sx) (hi : BitVec 7)
  /-- DFEND_FAIL (R188): DFEND fail makes the verdict bad and drops the item at once. -/
  | dfendFail (x : Sx) (hi : BitVec 7)
  /-- TXARM (R189): TXARM arms a transmit slot for a bound lane, buffered under dry-fit. -/
  | txarm (x : Sx) (ra : BitVec 4) (slot : BitVec 2) (bslot : BitVec 4) (tc : BitVec 3) (hi : BitVec 6)
  /-- TXARM_RELAY (R99): TXARM with RELAY streams the arriving frame unchanged to a bound Ethernet lane at once. -/
  | txarmRelay (x : Sx) (bslot : BitVec 4) (tc : BitVec 3) (hi : BitVec 6)
  /-- TXMEM (R190): TXMEM sends a frame from comb memory, serialising under dry-fit and stalling until read out. -/
  | txmem (x : Sx) (ra rb : BitVec 4) (low : BitVec 2) (bslot : BitVec 4) (tc : BitVec 3) (hi : BitVec 7)
  /-- EVRAISE (R150): EVRAISE raises a permitted event source, buffered under dry-fit. -/
  | evraise (x : Sx) (v : BitVec 16)
  /-- JWRITE (R191): JWRITE hands a 32-byte record to the journal queue. -/
  | jwrite (x : Sx) (ra rb : BitVec 4)
  /-- FPLEN (R192): FPLEN writes the frame bytes arrived so far and FEND into RA. -/
  | fplen (x : Sx) (ra rb : BitVec 4)
  /-- ERET (R154): ERET restores PC and FL from the exception registers and clears EXL. -/
  | eret (x : Sx)
  /-- MOVC_READ (R194): MOVC reads a control register into RA. -/
  | movcRead (x : Sx) (ra rb : BitVec 4) (cr : BitVec 8)
  /-- MOVC_WRITE (R194): MOVC writes RA into a control register, not undone by rollback. -/
  | movcWrite (x : Sx) (ra rb : BitVec 4) (cr : BitVec 8)
  /-- SVC (R195): SVC takes the SVC exception at vector 7. -/
  | svc (x : Sx) (imm : BitVec 8)
  /-- WFI (R156): WFI waits with the core clock gated until an interrupt line or NMI is pending. -/
  | wfi (x : Sx)
  /-- INTOFF (R195): INTOFF clears CR_PSR.IE. -/
  | intoff (x : Sx)
  /-- INTON (R195): INTON sets CR_PSR.IE. -/
  | inton (x : Sx)
  /-- FENCE (R193): FENCE waits for earlier stores to complete and applies protection changes. -/
  | fence (x : Sx)
  /-- BANK_OWNER_WRITE (R203): A write to MEM_BANKOWNb is checked and waits for drains holding lines in the bank. -/
  | bankOwnerWrite (m : Master) (b : Fin 16) (code : BitVec 6)
  /-- BANK_OWNER_APPLY (R203): A new owner code takes effect once no drain holds the bank, rolling back affected
  engines. -/
  | bankOwnerApply (b : Fin 16)
  /-- BANK_POWER_WRITE (R207): A write to PWR_COMBPWR starts power transitions for the banks the writer may own. -/
  | bankPowerWrite (m : Master) (v : Word)
  /-- LOCAL_MEMORY_POWER_WRITE (R208): A write to PWR_LMPWRk starts power transitions for engines in reset or
  halted. -/
  | localMemoryPowerWrite (m : Master) (k : Fin 4) (v : Word)
  /-- MEMORY_POWER_DONE (R205): A memory power transition completes, starting any held transition. -/
  | memoryPowerDone (k : Fin 80)
  /-- DMA_GO (R218): DMA_GO.GO makes the shadow set valid. -/
  | dmaGo (m : Master) (n : Fin 16)
  /-- DMA_ENABLE (R219): DMA_CTL.EN = 1 enables the channel after checking its spaces. -/
  | dmaEnable (m : Master) (n : Fin 16) (v : Word)
  /-- DMA_DISABLE (R224): DMA_CTL.EN = 0 stops a busy channel, losing beats in flight, or returns a halted one to
  idle. -/
  | dmaDisable (m : Master) (n : Fin 16)
  /-- DMA_BEAT (R220): A DMA channel's beat accesses its source or destination in rotation with other channels. -/
  | dmaBeat (n : Fin 16) (pcie : Option (List (BitVec 64 × Byte)))
  /-- DMA_TRANSFER_DONE (R220): A copy transfer completes, sets DONE and promotes a valid shadow. -/
  | dmaTransferDone (n : Fin 16)
  /-- DMA_RING_TAIL_WRITE (R221): A write of TAIL hands descriptors to the ring channel. -/
  | dmaRingTailWrite (m : Master) (n : Fin 17) (tx : Bool) (tail : BitVec 12)
  /-- DMA_DESCRIPTOR (R221): A ring channel processes one descriptor, moves its buffer and writes it back. -/
  | dmaDescriptor (n : Fin 17) (tx : Bool) (pcie : Option (List (BitVec 64 × Byte)))
  /-- MBX_TX_WRITE (R228): A write to MBX_TX appends one word to the assembly buffer. -/
  | mbxTxWrite (m : Master) (box : Fin 64) (side : Fin 2) (v : Word)
  /-- MAILBOX_RING (R228): MBX_RING.RING posts the assembly buffer as one message, or sets TXPEND without room. -/
  | mailboxRing (m : Master) (box : Fin 64) (side : Fin 2)
  /-- MAILBOX_ABORT (R228): MBX_RING.ABORT discards the assembly buffer. -/
  | mailboxAbort (m : Master) (box : Fin 64) (side : Fin 2)
  /-- PENDING_MESSAGE_ENTRY (R229): A TXPEND message enters its queue whole once the receiver has made room. -/
  | pendingMessageEntry (box : Fin 64) (side : Fin 2)
  /-- MAILBOX_DELIVERY (R237): The MBX block accepts a message in rotation, queues it, sets the ready bit and raises
  the doorbell. -/
  | mailboxDelivery
  /-- MBX_RX_READ (R231): A read of MBX_RX removes the next word of the oldest message. -/
  | mbxRxRead (m : Master) (box : Fin 64) (side : Fin 2)
  /-- PEG_READ (R238): A read of a free peg makes the reader its owner; of an owned peg returns the owner. -/
  | pegRead (m : Master) (p : Fin 64)
  /-- PEG_WRITE (R239): A write by the owner of its number frees the peg; any other write is a violation. -/
  | pegWrite (m : Master) (p : Fin 64) (v : BitVec 6)
  /-- PEG_FORCE_FREE (R241): MBX_PEGFREE with the key frees an owned peg, latches CAUSE 0x2 and raises EV019. -/
  | pegForceFree (m : Master) (p : Fin 64)
  /-- SOFTWARE_RAISE (R245): A write of EVT_RAISE raises a permitted event source. -/
  | softwareRaise (m : Master) (n : BitVec 8)
  /-- EVENT_PENDING_CLEAR (R244): A W1C clear of EVT_PENDk clears pending bits, re-raising a grouped source whose
  EVT_SUB bits remain. -/
  | eventPendingClear (m : Master) (k : Fin 8) (v : Word)
  /-- EVENT_MASK_WRITE (R247): A write of EVT_MASKk that unmasks a pending source sends its MSI-X message. -/
  | eventMaskWrite (m : Master) (k : Fin 8) (v : Word)
  /-- ETH_RX_FRAME (R255): A frame received on an Ethernet lane is judged, filtered, classified and admitted, and
  gets its verdict at its end. -/
  | ethRxFrame (p : Fin 24) (b : List Byte) (how : RxEnd) (frags : Nat)
  /-- MAXSDU_LATE_FAIL (R285): Byte MAXSDU + 1 of a provisionally passed frame arrives and the frame is withdrawn or
  poisoned everywhere. -/
  | maxsduLateFail (k : Nat)
  /-- TRANSMISSION_SELECTION (R291): At a transmission opportunity the lane picks the highest eligible class and
  starts its frame. -/
  | transmissionSelection (p : Fin 24) (crcFail : Bool)
  /-- TX_FRAME_END (R272): A frame finishes transmission, counting it and freeing its slot or cells when last
  holder. -/
  | txFrameEnd (p : Fin 24) (crcFail : Bool)
  /-- LINK_UP (R254): A lane's clause link status becomes OK and LINK sets within 1 us. -/
  | linkUp (p : Fin 24) (i : LinkInfo)
  /-- LINK_DOWN (R258): Link loss cuts the frame in transmission and makes the MAC discard frames offered. -/
  | linkDown (p : Fin 24)
  /-- ETH_CTL_WRITE (R254): A write changing SPD, ANEN, MDIX, PWR or ETH_ANADV takes the link down and restarts
  establishment. -/
  | ethCtlWrite (m : Master) (p : Fin 24) (anadv : Bool) (v : Word)
  /-- AN_RESTART (R254): ANRESTART restarts link establishment without a change. -/
  | anRestart (m : Master) (p : Fin 24)
  /-- ENERGY_DETECT (R261): The lane's energy detector fires, sets ED and signals a wake when enabled. -/
  | energyDetect (p : Fin 24)
  /-- RATE_WINDOW (R260): A new 1 ms filter window starts and the broadcast and multicast count restarts. -/
  | rateWindow (p : Fin 24)
  /-- LPI_ENTRY (R263): HOLD expires with nothing offered and the lane asserts low-power idle. -/
  | lpiEntry (p : Fin 24)
  /-- LPI_EXIT (R264): A frame offered during low-power idle deasserts it and leaves TW_TX later. -/
  | lpiExit (p : Fin 24)
  /-- LPI_GATE_WAKE (R263): The lane leaves low-power idle TW_TX before its list opens a closed gate. -/
  | lpiGateWake (p : Fin 24)
  /-- LPI_RX_ENTRY (R264): Low-power idle from the partner is received and counted in LPIRX. -/
  | lpiRxEntry (p : Fin 24)
  /-- LLDP_EEE_TLV (R264): The LLDP agent receives an EEE TLV and writes TW_TX. -/
  | lldpEeeTlv (p : Fin 24) (tw : BitVec 16)
  /-- LLDP_TLV_TIMEOUT (R264): On 10GBASE-R the agent clears EEE EN when the partner's TLV is absent for three
  intervals. -/
  | lldpTlvTimeout (p : Fin 24)
  /-- MM_VERIFY_TIMER (R267): Every VTIME the lane sends a verify mPacket and fails verification after three
  unanswered. -/
  | mmVerifyTimer (p : Fin 24)
  /-- MM_VERIFY_RESPONSE (R267): A verify response sets VSTAT = 0x3 and starts preemptable transmission. -/
  | mmVerifyResponse (p : Fin 24)
  /-- MDIO_READ (R268): ETH_MDIOCMD GO with WRITE = 0 queues a Clause 22 or 45 read. -/
  | mdioRead (m : Master) (p : Fin 24) (prtad regad : BitVec 5) (c45 : Bool)
  /-- MDIO_WRITE (R268): ETH_MDIOCMD GO with WRITE = 1 queues a Clause 22 or 45 write. -/
  | mdioWrite (m : Master) (p : Fin 24) (prtad regad : BitVec 5) (c45 : Bool)
  /-- MDIO_DONE (R268): An MDIO command completes, setting MDIODONE and the next queued command starts. -/
  | mdioDone (reply : Option (BitVec 16))
  /-- ETH_OCTET_READ (R269): A read of an octet counter's LO latches its HI. -/
  | ethOctetRead (m : Master) (p : Fin 24) (tx : Bool)
  /-- STREAM_GATE_ENTRY (R286): A stream gate's entry ends and the next entry's state takes effect. -/
  | streamGateEntry (g : Fin 32)
  /-- GATE_CYCLE_START (R295): A gate-control cycle starts with entry 0, as boundary of instance 1 + p. -/
  | gateCycleStart (p : Fin 24)
  /-- GCL_ENTRY (R295): A gate-control entry's INTERVAL expires and the next entry's gates apply. -/
  | gclEntry (p : Fin 24)
  /-- FDB_ADD_STATIC (R284): SWC_FDBCMD OP = 0x1 adds a static entry. -/
  | fdbAddStatic (m : Master)
  /-- FDB_DELETE (R284): SWC_FDBCMD OP = 0x2 deletes an entry. -/
  | fdbDelete (m : Master)
  /-- FDB_LOOKUP (R284): SWC_FDBCMD OP = 0x3 looks up an entry into the DATA registers. -/
  | fdbLookup (m : Master)
  /-- FDB_FLUSH_DYNAMIC (R284): SWC_FDBCMD OP = 0x4 flushes dynamic entries. -/
  | fdbFlushDynamic (m : Master)
  /-- FDB_COMMAND_DONE (R284): A forwarding-database command completes and clears BUSY. -/
  | fdbCommandDone
  /-- FDB_AGE_OUT (R284): A dynamic entry unrefreshed for its ageing time is removed. -/
  | fdbAgeOut (vid : BitVec 12) (mac : BitVec 48)
  /-- SEQ_RECOVERY_RESET (R288): A recovery function with no frame passed for RESETMS resets. -/
  | seqRecoveryReset (n : Fin 256)
  /-- DUP_ENTRY_EXPIRE (R289): A duplicate-table entry is forgotten after ENTRYMS. -/
  | dupEntryExpire (k : Fin 4) (src : BitVec 48) (seq : BitVec 16)
  /-- TIME_CTL_WRITE (R314): A write of TIME_CTL changes the target domain clock, entering FREE, SLEW, LOCKED or
  HOLDOVER. -/
  | timeCtlWrite (m : Master) (v : Word)
  /-- DC_CFG_WRITE (R312): A write of DCk_CFG changes EN or VALID, possibly changing the time base's target. -/
  | dcCfgWrite (m : Master) (k : Fin 2) (v : Word)
  /-- DC_ADJUST_STEP (R313): DCk_ADJCTL GO with STEP = 1 adds DCk_ADJ to the domain clock in one cycle. -/
  | dcAdjustStep (m : Master) (k : Fin 2)
  /-- DC_ADJUST_SLEW (R313): DCk_ADJCTL GO with STEP = 0 slews DCk_ADJ into the domain clock. -/
  | dcAdjustSlew (m : Master) (k : Fin 2)
  /-- DC_SLEW_DONE (R313): A domain clock's slew ends and BUSY clears. -/
  | dcSlewDone (k : Fin 2)
  /-- TIME_SLEW_DONE (R316): The time base reaches its target within 50 ps and enters LOCKED. -/
  | timeSlewDone
  /-- TIME_REVERT (R314): Under SEL = 0x3 the PRI clock valid for REVERTS seconds becomes the target again. -/
  | timeRevert
  /-- TIME_SET_LOAD (R318): TIME_SETCMD.GO loads TIME_SET into the time base under SEL = 0x0. -/
  | timeSetLoad (m : Master)
  /-- TIME_RATE_WRITE (R317): A write of TIME_RATE takes effect in FREE and HOLDOVER and is ignored otherwise. -/
  | timeRateWrite (m : Master) (v : Word)
  /-- HOLDOVER_LIMIT (R320): TIME_HOLDEST exceeds TIME_HOLDLIM, SYNC clears and EV084 is raised. -/
  | holdoverLimit
  /-- TIME_NOW_READ (R308): A read of TIME_NOW_LO latches HI and FRAC. -/
  | timeNowRead (m : Master)
  /-- DC_NOW_READ (R311): A read of DCk_NOW_LO latches the domain clock's HI and FRAC. -/
  | dcNowRead (m : Master) (k : Fin 2)
  /-- RTC_READ (R322): A read of TIME_RTC_LO latches HI. -/
  | rtcRead (m : Master)
  /-- RTC_REALIGN (R322): At each whole second while SYNC = 1 the real-time clock is realigned and trimmed. -/
  | rtcRealign (trim : BitVec 24)
  /-- CAL_REFRESH (R329): After 65,536 transitions an echo-tap refresh completes and moves the delays in use. -/
  | calRefresh (p : Fin 24) (tx rx : Word)
  /-- CAL_AGED (R330): A lane without refresh within AGEMS enters AGED and raises EV083. -/
  | calAged (p : Fin 24)
  /-- TSQ_LATCH_READ (R332): A read of TIME_TSQ0 latches the oldest stamp-queue entry. -/
  | tsqLatchRead (m : Master)
  /-- TSQ_REMOVE_READ (R332): A read of TIME_TSQ3 removes the latched stamp-queue entry. -/
  | tsqRemoveRead (m : Master)
  /-- PPS_OUT_RISE (R337): PPS_OUT rises at an instant of its series unless gated by SYNC. -/
  | ppsOutRise
  /-- PPS_OUT_FALL (R337): PPS_OUT falls WID after its rise. -/
  | ppsOutFall
  /-- PPS_IN_EDGE (R338): A chosen PPS_IN edge is stamped, replacing the previous stamp, and raises EV080. -/
  | ppsInEdge (rising : Bool)
  /-- PPSI_READ (R338): A read of TIME_PPSI_LO latches HI and FRAC and clears NEW and OVR. -/
  | ppsiRead (m : Master)
  /-- EVENT_INPUT_EDGE (R339): A chosen EVT_INk edge is stamped into its queue and raises EV081 or EV082. -/
  | eventInputEdge (k : Fin 2) (rising : Bool)
  /-- EVIN_LATCH_READ (R339): A read of TIME_EVk_LO latches the oldest entry. -/
  | evinLatchRead (m : Master) (k : Fin 2)
  /-- EVIN_REMOVE_READ (R339): A read of TIME_EVk_FRAC removes the entry. -/
  | evinRemoveRead (m : Master) (k : Fin 2)
  /-- TARGET_ARM (R340): Setting a TIME_TGTCTL.EN bit arms a target, firing at once if already passed. -/
  | targetArm (m : Master) (k : Fin 4)
  /-- TARGET_TIME_FIRE (R340): The time base reaches an armed target, setting HIT, clearing EN and raising EV085. -/
  | targetTimeFire (k : Fin 4)
  /-- MB_ENABLE (R345): MDB_CTL.EN = 1 starts the controller or is refused with CFGERR. -/
  | mbEnable (m : Master) (n : Fin 16) (v : Word)
  /-- MB_RX_FRAME (R348): A frame on an MB lane is filtered, posted at its control field and judged at end of frame.
  -/
  | mbRxFrame (n : Fin 16) (f : MbFrame) (how : MbEnd)
  /-- HELD_ARM_ENTRY (R351): A held arm enters its FIFO, store or buffer when room appears and frees the engine
  slot. -/
  | heldArmEntry (lane : Fin 64)
  /-- MB_TX_OPPORTUNITY (R353): At an opportunity to start a frame the controller offers one frame by preference and
  arbitrates. -/
  | mbTxOpportunity (n : Fin 16) (out : MbTx)
  /-- MB_TX_COMPLETE (R353): A frame sent without error is removed from its slot or FIFO. -/
  | mbTxComplete (n : Fin 16) (tdcv : BitVec 7)
  /-- MB_FLUSH (R356): A FLUSH discards every FIFO frame and the priority-slot frame. -/
  | mbFlush (m : Master) (n : Fin 16)
  /-- MB_RECOVER (R357): RECOVER starts bus-off recovery under BOREC = 1. -/
  | mbRecover (m : Master) (n : Fin 16)
  /-- MB_RECOVERY_COMPLETE (R357): After 128 occurrences of 11 recessive bits recovery completes and transmission
  resumes. -/
  | mbRecoveryComplete (n : Fin 16)
  /-- MB_MODE_CHANGE (R358): A change of MODE takes effect at the next bus-idle. -/
  | mbModeChange (n : Fin 16)
  /-- MB_SLEEP_REQUEST (R359): A sleep request asks the controller to sleep at the next bus-idle. -/
  | mbSleepRequest (m : Master) (n : Fin 16)
  /-- MB_SLEEP_ENTRY (R359): At bus-idle the controller deasserts DE, stops its clock and arms its wake detector. -/
  | mbSleepEntry (n : Fin 16)
  /-- MB_WAKE_DOMINANT (R360): A dominant level longer than FILT at MBn_RX wakes the controller, subject to chatter
  rules. -/
  | mbWakeDominant (n : Fin 16) (long : Bool)
  /-- MB_QUARANTINE_END (R360): The wake input recessive for QUIET ends quarantine. -/
  | mbQuarantineEnd (n : Fin 16)
  /-- MB_STUCK (R360): A dominant level lasting STUCK sets EVSTAT.STUCK once. -/
  | mbStuck (n : Fin 16)
  /-- MB_WAKE_FRAME (R361): The sleep decoder decodes a frame that matches the wake frame, or counts WAKEMISS. -/
  | mbWakeFrame (n : Fin 16) (f : MbFrame) (crc : Bool)
  /-- MB_DECODER_IDLE (R361): The wake-frame decoder stops after 1 ms of bus idle. -/
  | mbDecoderIdle (n : Fin 16)
  /-- MB_DECODER_TRIM (R361): Once per second during sleep the decoder oscillator is trimmed against the sill clock.
  -/
  | mbDecoderTrim (n : Fin 16)
  /-- MB_WAKE_REQUEST (R362): A WAKE request wakes the controller as a wake does. -/
  | mbWakeRequest (m : Master) (n : Fin 16)
  /-- MB_INTEGRATION_DONE (R362): After 11 recessive bits of integration DE is asserted and service resumes. -/
  | mbIntegrationDone (n : Fin 16)
  /-- MB_REF_DUE (R363): At TMBASE + k x TMPER, delayed by backoff when unsynchronised, a potential master's
  reference message becomes due. -/
  | mbRefDue (n : Fin 16)
  /-- MB_REFERENCE_MESSAGE (R366): A valid reference message latches the Sync_Mark and cycle, sets SYNCED and forms
  the bus-cycle boundary. -/
  | mbReferenceMessage (n : Fin 16)
  /-- MB_SYNC_TIMEOUT (R365): No valid reference message within 1.5 x TMPER clears SYNCED. -/
  | mbSyncTimeout (n : Fin 16)
  /-- MB_TMREF_READ (R363): A read of MDB_TMREF_LO latches HI and FRAC. -/
  | mbTmrefRead (m : Master) (n : Fin 16)
  /-- RING_ENABLE (R371): BRG_CTL.EN = 1 starts the ring instance in LISTEN or is refused with CFGERR. -/
  | ringEnable (m : Master) (n : Fin 8) (v : Word)
  /-- RING_ROUND_START (R375): A round starts: clock correction, state changes, loop-back and staged commits apply.
  -/
  | ringRoundStart (n : Fin 8)
  /-- RING_SLOT_SEND (R382): At an owned slot the node sends its buffer or a null frame in both directions. -/
  | ringSlotSend (n : Fin 8) (slot : Fin 64)
  /-- RING_COPY_RECEIVE (R381): A frame copy arriving on a ring port is checked, repeated and posted or used for
  sync. -/
  | ringCopyReceive (n : Fin 8) (east crc delim : Bool) (b : List Byte)
  /-- GUARDIAN_CUT (R384): The guardian cuts an own transmission outside its sender window and makes the node
  PASSIVE. -/
  | guardianCut (n : Fin 8)
  /-- GUARDIAN_TRIM (R383): Once per second the guardian oscillator is trimmed against the sill clock. -/
  | guardianTrim (n : Fin 8)
  /-- RING_COLD_START (R388): After the cold-start silence a node with CSEN sends a cold-start frame and enters
  COLDSTART. -/
  | ringColdStart (n : Fin 8)
  /-- RING_GO_PASSIVE (R394): The GOPASSIVE lane bit puts the node in PASSIVE with PCAUSE 0x4. -/
  | ringGoPassive (n : Fin 8)
  /-- RING_RESUME (R394): The RESUME lane bit clears the software PASSIVE condition. -/
  | ringResume (n : Fin 8)
  /-- SL_ENABLE (R397): SLN_CTL.EN = 1 starts the serial lane or is refused with CFGERR. -/
  | slEnable (m : Master) (n : Fin 16) (v : Word)
  /-- SL_RX_FRAME (R400): A serial frame is received by its framing, posted at its start and judged by its check. -/
  | slRxFrame (n : Fin 16) (cs : List Byte) (how : SlEnd)
  /-- SL_IDLE_GAP (R400): IDLEGAP of idle after the last stop bit ends a gap-framed frame at its verdict point. -/
  | slIdleGap (n : Fin 16)
  /-- SL_LOCK_LOSS (R399): 16 bit times without a transition clear LOCK and abort any frame. -/
  | slLockLoss (n : Fin 16)
  /-- SL_TX_START (R406): After IFGAP and LEAD the lane asserts DE and sends the oldest stored frame. -/
  | slTxStart (n : Fin 16) (echo : Bool)
  /-- SL_TX_END (R406): The last stop bit or closing flag of a frame is sent. -/
  | slTxEnd (n : Fin 16)
  /-- SL_DE_TAIL (R406): TAIL after the frame's end DE is deasserted unless another frame follows. -/
  | slDeTail (n : Fin 16)
  /-- SL_FLUSH (R408): A FLUSH discards every unstarted frame in the store. -/
  | slFlush (m : Master) (n : Fin 16)
  /-- SL_SLEEP_REQUEST (R409): A sleep request asks the lane to sleep when idle. -/
  | slSleepRequest (m : Master) (n : Fin 16)
  /-- SL_SLEEP_ENTRY (R409): With the line idle the lane deasserts DE, stops its clock and arms its wake detector.
  -/
  | slSleepEntry (n : Fin 16)
  /-- SL_WAKE_EDGE (R409): A start-bit level longer than FILT wakes the lane, discarding the waking character. -/
  | slWakeEdge (n : Fin 16) (long : Bool)
  /-- SL_WAKE_REQUEST (R409): A WAKE request wakes the serial lane. -/
  | slWakeRequest (m : Master) (n : Fin 16)
  /-- PINS (R415): PINS writes levels or directions of the masked pins. -/
  | pins (g : Fin 8) (k : Fin 4)
  /-- HOLD (R415): HOLD stalls N + 1 cycles or until TM, optionally declaring a boundary. -/
  | hold (g : Fin 8) (k : Fin 4)
  /-- AWAIT (R415): AWAIT stalls until a pin, edge, flag or queue condition holds. -/
  | await (g : Fin 8) (k : Fin 4)
  /-- SHOUT (R416): SHOUT shifts N bits from SHR onto DPIN with own, external or no clock. -/
  | shout (g : Fin 8) (k : Fin 4)
  /-- SHIN (R416): SHIN shifts N bits from IPIN into SHR and optionally stores them. -/
  | shin (g : Fin 8) (k : Fin 4)
  /-- XFER (R415): XFER moves a value between SHR, queues, counters, HLD, pins and an immediate. -/
  | xfer (g : Fin 8) (k : Fin 4)
  /-- BR (R415): BR branches on a counter, pin, flag, compare or queue condition. -/
  | br (g : Fin 8) (k : Fin 4)
  /-- MARK (R415): MARK sets or clears flags and may declare a boundary or end a frame. -/
  | mark (g : Fin 8) (k : Fin 4)
  /-- LDT (R420): LDT loads TM from two TX queue words and sets ARMED. -/
  | ldt (g : Fin 8) (k : Fin 4)
  /-- SNAP (R421): SNAP pushes the latest edge stamp of a pin into the RX queue. -/
  | snap (g : Fin 8) (k : Fin 4)
  /-- PIO_RESERVED_INSTR (R415): A reserved PIO instruction halts the machine and sets FAULT. -/
  | pioReservedInstr (g : Fin 8) (k : Fin 4)
  /-- PIO_STALL_RELEASE (R413): A stalled machine's condition is met and its instruction continues. -/
  | pioStallRelease (g : Fin 8) (k : Fin 4)
  /-- PIO_ENABLE (R425): A write of PIO_CTL.EN starts, resumes or halts machines at instruction boundaries. -/
  | pioEnable (m : Master) (g : Fin 8) (en : BitVec 4)
  /-- PIO_FORCE (R426): PIO_CTL.FORCE halts every machine, abandons stalled instructions, commits the bank and sets
  PCs to START. -/
  | pioForce (m : Master) (g : Fin 8)
  /-- PIO_TXQ_WRITE (R417): A write to PIO_SMk_TXQ pushes a word or is dropped with TXDROP. -/
  | pioTxqWrite (m : Master) (g : Fin 8) (k : Fin 4) (v : Word)
  /-- PIO_RXQ_READ (R417): A read of PIO_SMk_RXQ pops a word. -/
  | pioRxqRead (m : Master) (g : Fin 8) (k : Fin 4)
  /-- PIO_QCFG_WRITE (R417): A write of PIO_SMk_QCFG while halted that changes TXD empties both queues. -/
  | pioQcfgWrite (m : Master) (g : Fin 8) (k : Fin 4) (v : Word)
  /-- PIO_TM_WRITE (R420): A write of PIO_SMk_TM_LO loads TM and sets ARMED. -/
  | pioTmWrite (m : Master) (g : Fin 8) (k : Fin 4) (v : Word)
  /-- PIO_PROGRAM_WRITE (R423): A program-word write is staged, or takes force at once when all machines are halted.
  -/
  | pioProgramWrite (m : Master) (g : Fin 8) (a : Fin 64) (v : Word)
  /-- PIO_FLAG_SET (R429): A SETj lane bit write sets group flag j. -/
  | pioFlagSet (g j : Fin 8)
  /-- PIO_FLAG_CLEAR (R429): A CLRj lane bit write clears group flag j. -/
  | pioFlagClear (g j : Fin 8)
  /-- PG_FRAME_FEED (R419): Words of an armed PG frame enter the machine's TX queue as room appears. -/
  | pgFrameFeed (g : Fin 8) (k : Fin 4)
  /-- AFE_RESULT (R433): A converter result completes and is written with its stamp and range check. -/
  | afeResult (n : Fin 24) (codes : List (BitVec 16))
  /-- AFE_RESULT_READ (R433): A read of AFE_RESn clears NEW. -/
  | afeResultRead (m : Master) (n : Fin 24)
  /-- DI_TRANSITION (R435): A raw transition on a station input starts its filter and counts toward chatter. -/
  | diTransition (i : Fin 32) (level : Bool)
  /-- DI_CHANGE_ACCEPT (R435): A level held for the filter time is accepted, stamped and reported, and may wake. -/
  | diChangeAccept (i : Fin 32)
  /-- DI_CHATTER_WINDOW (R436): A chatter window ends and transition counts restart. -/
  | diChatterWindow
  /-- DI_QUARANTINE_END (R436): An input without transitions for QUIET leaves quarantine and reports a pending
  change. -/
  | diQuarantineEnd (i : Fin 32)
  /-- DI_STUCK_TIMER (R437): An input active longer than STUCK seconds sets DI_STUCK and raises EV100 once. -/
  | diStuckTimer (i : Fin 32)
  /-- SENT_CROSSING (R439): A sentinel comparator crossing queues a stamped entry, raises EV102 and may trigger
  capture. -/
  | sentCrossing (k : Fin 2) (pos : Fin 3)
  /-- SENT_HALF_CYCLE (R440): A zero crossing ends a half-cycle, updating RMS and declaring sag or loss. -/
  | sentHalfCycle (k : Fin 2) (rms : BitVec 16)
  /-- SENT_ZERO_TIMEOUT (R440): No zero crossing for 1.5 nominal half-cycles declares a loss. -/
  | sentZeroTimeout (k : Fin 2)
  /-- SENT_CAPTURE_ARM (R441): SENT_CAP.ARM starts capture in the pre-trigger phase. -/
  | sentCaptureArm (m : Master)
  /-- SENT_SOFTWARE_TRIGGER (R441): SENT_CAP.SWTRIG gives the software capture trigger. -/
  | sentSoftwareTrigger (m : Master)
  /-- SENT_CAPTURE_DONE (R441): 65,536 - PRE post-trigger samples complete and STATE becomes done. -/
  | sentCaptureDone (samples : List (BitVec 13))
  /-- SENT_EVQ_READ (R442): A read of SENT_EVQ2 removes the oldest event-queue entry. -/
  | sentEvqRead (m : Master)
  /-- LAST_GASP_FIRE (R443): An enabled supply-failure source fires the last gasp, sheds load and hands the slot
  frames to their lanes. -/
  | lastGaspFire (b : Fin 4)
  /-- LAST_GASP_RECORD (R445): When the last frame has left or 100 ms have passed the final record is written and
  JDONE sets. -/
  | lastGaspRecord
  /-- LAST_GASP_RECOVERY (R445): Supply in range for LGREC restores the shed blocks and sets RECOV. -/
  | lastGaspRecovery
  /-- LOOP_SAMPLE (R447): A loop sample instant is a commit boundary and queues the loop's evaluation. -/
  | loopSample (n : Fin 16)
  /-- LOOP_EVALUATION (R450): The evaluator latches a loop's input, setpoint and bank and computes its output. -/
  | loopEvaluation
  /-- LOOP_OUTPUT (R454): An evaluation completes and writes its output to comb memory, an axis or LOOP_OUT. -/
  | loopOutput
  /-- LOOP_MANUAL (R455): LOOP_CTL.MAN = 1 puts the loop in manual state from its next evaluation. -/
  | loopManual (m : Master) (n : Fin 16)
  /-- LOOP_AUTOMATIC (R455): LOOP_CTL.MAN = 0 returns the loop bumplessly to automatic state. -/
  | loopAutomatic (m : Master) (n : Fin 16)
  /-- LOOP_RESUME (R456): LOOP_CTL.RESUME returns a safe-state loop to automatic. -/
  | loopResume (m : Master) (n : Fin 16)
  /-- LOOP_IRESET (R450): LOOP_CTL.IRESET zeroes I and D at the next evaluation. -/
  | loopIreset (m : Master) (n : Fin 16)
  /-- STEP_GO (R459): STP_CTL.GO starts the segment table at START. -/
  | stepGo (m : Master) (k : Fin 8)
  /-- STEP_STOP (R461): STP_CTL.STOP decelerates the axis to 0 at AMAX. -/
  | stepStop (m : Master) (k : Fin 8)
  /-- STEP_HALT (R461): STP_CTL.HALT sets velocity to 0 at once and sets POSLOST. -/
  | stepHalt (m : Master) (k : Fin 8)
  /-- STEP_CLRSTALL (R461): STP_CTL.CLRSTALL leaves the halted state. -/
  | stepClrstall (m : Master) (k : Fin 8)
  /-- STEP_TARGET_WRITE (R460): A write to STP_TARGET replans position or velocity motion within 2 us. -/
  | stepTargetWrite (m : Master) (k : Fin 8) (v : Word)
  /-- STEP_SEGMENT_BOUNDARY (R459): A segment starts, latches its entry and commits, or halts on a segment error. -/
  | stepSegmentBoundary (k : Fin 8)
  /-- STEP_ZCW_SAMPLE (R462): A zero-current window ends, the coil voltage gives the load angle and stall is judged.
  -/
  | stepZcwSample (k : Fin 8) (volt : BitVec 16)
  /-- STEP_STANDSTILL (R461): An axis at rest for STBYDLY enters its standstill mode. -/
  | stepStandstill (k : Fin 8)
  /-- CLOCK_FAILURE (R468): A failed clock source forces safe outputs, switches fast clocks to the RC oscillator and
  raises EV008. -/
  | clockFailure (cause : ClkCause)
  /-- CLOCK_MONITOR_WINDOW (R467): A monitor window ends and its count is judged for warning or failure. -/
  | clockMonitorWindow (src : Fin 4) (dev : Int)
  /-- CLOCK_RESTORE_CHECK (R469): The once-per-second plumb check of a failed main source passes and clocks are
  restored. -/
  | clockRestoreCheck (ppm : Int)
  /-- CLOCK_RESTORE_REQUEST (R469): CLK_CTL.RESTORE requests restoration after the next passing check. -/
  | clockRestoreRequest (m : Master)
  /-- RC_OSC_TRIM (R467): Once per second the 100 MHz RC oscillator is trimmed against the sill clock. -/
  | rcOscTrim
  /-- SILL_CRYSTAL_LOSS (R470): No sill crystal edge for 4 ms switches the sill domain to its RC oscillator. -/
  | sillCrystalLoss
  /-- SILL_CRYSTAL_RETURN (R470): After 1 s of crystal edges the sill domain returns to the crystal. -/
  | sillCrystalReturn
  /-- ENGINE_BIN_WRITE (R473): A write of CLK_ENGPLL.BIN glides the engine PLL to the new bin. -/
  | engineBinWrite (m : Master) (bin : BitVec 4)
  /-- POWER_REQUEST_RUN (R475): PWR_CTL GO with REQ = RUN returns from DOZE. -/
  | powerRequestRun (m : Master)
  /-- POWER_REQUEST_DOZE (R476): PWR_CTL GO with REQ = DOZE halts engines at WQNEXT and stops their clocks. -/
  | powerRequestDoze (m : Master)
  /-- POWER_REQUEST_NAP (R477): PWR_CTL GO with REQ = NAP starts the NAP entry sequence. -/
  | powerRequestNap (m : Master)
  /-- POWER_REQUEST_HIBERNATE (R478): PWR_CTL GO with REQ = HIBERNATE starts the HIBERNATE entry sequence. -/
  | powerRequestHibernate (m : Master)
  /-- NAP_DRAIN_EXPIRY (R477): DRAIN expires at NAP entry and remaining frames are discarded and DMA stopped. -/
  | napDrainExpiry
  /-- POWER_TRANSITION_DONE (R475): A power-state entry step completes, the next starts, or the target state is
  reached. -/
  | powerTransitionDone
  /-- WAKE (R482): An enabled wake source ends DOZE, NAP or HIBERNATE, or abandons an entry. -/
  | wake (sel : BitVec 2)
  /-- NAP_EXIT_LOCKED (R484): PLLs lock after a NAP wake and the chip returns to its origin state. -/
  | napExitLocked
  /-- RTC_ALARM (R482): The real-time clock reaches PWR_RTCALM, setting HIT and waking. -/
  | rtcAlarm
  /-- RTC_ALARM_ARM (R482): PWR_RTCALMCTL.EN arms the alarm, firing at once if already passed. -/
  | rtcAlarmArm (m : Master)
  /-- HOST_SPI_SELECT (R482): A falling edge of the host SPI chip-select is a wake source. -/
  | hostSpiSelect
  /-- SUPPLY_WARNING (R511): A supply past its warning level sets PWR_SUPSTAT.WARN and raises EV011. -/
  | supplyWarning (i : Fin 9) (past : Bool)
  /-- AGE_MEASUREMENT (R487): Every MONPER the eight monitor sites are measured and AGE_MONk written. -/
  | ageMeasurement (sites : List (Option (BitVec 16 × BitVec 12 × BitVec 12)))
  /-- PLANNER_TICK (R489): The 10 ms tick enters the station firmware on SV0 line 31 for at most 25 us. -/
  | plannerTick
  /-- PLANNER_RUN (R490): Every PLANPER the margin planner adjusts voltage or bin, delays, kerfs and margin. -/
  | plannerRun (x : PlanFacts)
  /-- AVS_READBACK (R490): The regulator's Vout read-back completes, or AVSERR sets on no acknowledge. -/
  | avsReadback (ack : Bool)
  /-- JOURNAL_ENTRY_PROCESS (R499): The journal controller takes a queue entry through coalescing, rate limit and
  row allocation. -/
  | journalEntryProcess
  /-- JOURNAL_ROW_WRITE_DONE (R498): A 10 us row write completes and the controller may start the next. -/
  | journalRowWriteDone
  /-- COALESCE_REWRITE (R500): Once per second an open row whose COUNT changed is rewritten in place. -/
  | coalesceRewrite (row : Nat)
  /-- COALESCE_WINDOW_CLOSE (R500): A cache entry's COALWIN expires, closing it, rewriting its row and freeing or
  relisting it. -/
  | coalesceWindowClose (row : Nat)
  /-- SUMMARY_RECORD (R505): Every SUMPER a summary record is written as an event row and listed for push. -/
  | summaryRecord
  /-- JOURNAL_FORMAT (R495): JRN_CTL.FORMAT empties and rebuilds the three partitions. -/
  | journalFormat (m : Master)
  /-- FORMAT_DONE (R495): FORMAT completes after 325 ms and queued entries resume. -/
  | formatDone
  /-- ALARM_ACK (R503): A write of JRN_ALMACK acknowledges pushed alarm rows and frees those whose entries are
  closed. -/
  | alarmAck (m : Master) (v : Word)
  /-- PUSH_ACK (R504): A write of the head row to JRN_PUSHACK marks it pushed and advances the list. -/
  | pushAck (m : Master) (v : Word)
  /-- JOURNAL_WINDOW_SUBMIT (R497): A write of word +0x1C at a partition address submits the banked record through
  the queue. -/
  | journalWindowSubmit (m : Master) (row : BitVec 15) (v : Word)
  /-- PROTECTED_ROW_WRITE (R497): SV0's write of word +0x1C at a protected row commits that row directly. -/
  | protectedRowWrite (row : BitVec 8) (v : Word)
  /-- JOURNAL_WINDOW_READ (R498): A journal window read stalls during a row write and returns the record, or empty
  for a torn row. -/
  | journalWindowRead (m : Master) (row : BitVec 15) (i : Fin 8)
  /-- PMCYC_READ (R120): A read of ENG_PMCYC_LO latches HI of the cycle counter. -/
  | pmcycRead (m : Master) (n : Fin 32)
  /-- SL_PLL_LOCK (R399): Under CODE 0x1 or 0x2 the digital PLL locks after 16 transitions and sets SLN_STAT.LOCK
  and the LOCK lane bit. -/
  | slPllLock (n : Fin 16)
  /-- SL_WAKE_STUCK (R409): A sleeping serial lane's wake input held at the start-bit level for STUCK x 100 ms sets
  SLN_EVSTAT.STUCK once. -/
  | slWakeStuck (n : Fin 16)
  /-- SL_WAKE_QUARANTINE_END (R409): A quarantined serial-lane wake input that stays idle for QUIET x 100 ms leaves
  quarantine and may wake again. -/
  | slWakeQuarantineEnd (n : Fin 16)
  /-- LPI_RX_EXIT (R264): The link partner leaves low-power idle, LPI_RX clears and the receive side leaves the HELD
  calibration condition. -/
  | lpiRxExit (p : Fin 24)
  /-- PERFORMANCE_COUNTER_WRAP (R122): A programmable counter counting cycles (for example idle or token-wait
  cycles) wraps at 2^48 and raises the engine performance event or feeds a chained counter. -/
  | performanceCounterWrap (n : Fin 32) (k : Fin 8)
  /-- PG_PIN_EDGE (R421): A rising or falling edge on a PG pin is stamped against the time base and kept as the
  pin's latest edge for SNAP. -/
  | pgPinEdge (g x : Fin 8) (level : Bool)
  /-- PWR_FAIL_N_TRIGGER (R441): PWR_FAIL_N going low acts as the capture trigger of TRIGMASK bit 21 and latches the
  trigger stamp. -/
  | pwrFailNTrigger
  deriving DecidableEq, Repr

end Sys2Proof
end

