-- ==== Sys2Proof/Decode.lean ====
section
/-!
DEFINITION. The commands that words spell. spec/opcode_table.json gives no row any bits: a command reaches the part as an access, an
instruction a core executes, or an event, and none of them as a word.
-/

namespace Sys2Proof

/-- The command an instruction word spells: none. -/
def decodeTableWord (_nbits _w : Nat) : Option Instr := none

end Sys2Proof
end

