-- ==== Sys2Proof/Machine/Tab.lean ====
section
/-!
DEFINITION. Sparse tables: a list of keys and values, one entry per key, keys strictly rising. Registers, memory and the
block's repeated units are held in them. A key that is not listed has the table's default value.
-/

namespace Sys2Proof.Machine

/-- A sparse table. -/
abbrev Tab (α : Type) := List (Nat × α)

/-- The value at key `k`, `d` where none is listed. -/
def Tab.look {α : Type} : Tab α → α → Nat → α
  | [], d, _ => d
  | (k', v) :: t, d, k => if k' = k then v else Tab.look t d k

/-- The table without key `k`. -/
def Tab.drop {α : Type} (t : Tab α) (k : Nat) : Tab α := t.filter (fun e => e.1 != k)

/-- Insert before the first greater key. -/
def Tab.ins {α : Type} : Tab α → Nat → α → Tab α
  | [], k, v => [(k, v)]
  | (k', v') :: t, k, v => if k < k' then (k, v) :: (k', v') :: t else (k', v') :: Tab.ins t k v

/-- Write `v` at key `k`. -/
def Tab.set {α : Type} (t : Tab α) (k : Nat) (v : α) : Tab α := Tab.ins (Tab.drop t k) k v

/-- Write `v` at key `k`, whose default is `d`: the canonical form lists no default value. -/
def Tab.put {α : Type} [DecidableEq α] (t : Tab α) (d : α) (k : Nat) (v : α) : Tab α :=
  if v = d then Tab.drop t k else Tab.set t k v

/-- The keys rise strictly. -/
def Tab.rising {α : Type} : Tab α → Bool
  | [] => true
  | [_] => true
  | (k, _) :: (k', v') :: t => decide (k < k') && Tab.rising ((k', v') :: t)

/-- The canonical form: keys strictly rising, no entry equal to its key's default. -/
def Tab.canon {α : Type} [DecidableEq α] (dflt : Nat → α) (t : Tab α) : Bool :=
  Tab.rising t && t.all (fun e => !decide (e.2 = dflt e.1))

end Sys2Proof.Machine
end

