-- ==== Sys2Proof/Machine/TypesCore.lean ====
section
/-!
DEFINITION. The parts of the state that every block shares: boundary commits, events and the journal queue, mailboxes,
memory power and integrity, DMA, boot and OTP.
-/

namespace Sys2Proof.Machine

/-- One commit instance (Table 1-5): the arrival times of its pending next-boundary arms, its pending timed commit
(T in ns and its arrival time), the miss record of SYS_CMT_STATn, and the time-base ns of its latest boundary. -/
structure CmtInst where
  next : List Nat := []
  timed : Option (Nat × Nat) := none
  cause : Nat := 0
  applied : Nat := 0
  missed : Nat := 0
  last : Nat := 0
  deriving DecidableEq, Repr

/-- A recent staged write: its register, the staged value it replaced, and its arrival time (R26 to R28). -/
structure StWrite where
  addr : Nat
  prev : Word
  arr : Nat
  deriving DecidableEq, Repr

/-- An entry of the journal queue (R249): its origin (a source, or 256 + master), its time in ns, its class, and the
32-byte record of a JWRITE or of the journal window. -/
structure JEnt where
  origin : Nat
  time : Nat
  cls : Nat
  inst : Nat := 0
  row : Option (List Word) := none
  deriving DecidableEq, Repr

/-- One mailbox message (R228, R233): its words not yet read, its length, the receiver's epoch at its entry. -/
structure Msg where
  words : List Word
  len : Nat
  epoch : Nat
  deriving DecidableEq, Repr

/-- One side of a mailbox: its assembly buffer, its message waiting for room (TXPEND), its incoming queue. -/
structure MbxSide where
  asm : List Word := []
  pend : Option (List Word) := none
  inq : List Msg := []
  deriving DecidableEq, Repr

/-- A ringed message on its way to its queue (R237): the requesting master's number, mailbox, sending side, words. -/
structure Posting where
  num : Nat
  box : Nat
  side : Nat
  words : List Word
  deriving DecidableEq, Repr

/-- Memory power states (R204). -/
inductive PwrSt where
  | on | retention | off
  deriving DecidableEq, Repr

/-- A memory's power: the state it is in or leaves, the target of a transition in progress, a held later write (R205). -/
structure MemPwr where
  cur : PwrSt := .on
  target : Option PwrSt := none
  held : Option PwrSt := none
  deriving DecidableEq, Repr

/-- A reload in progress or waiting (R214): the 4 KiB block and the attempt, 1 or 2. -/
structure Reload where
  block : Nat
  attempt : Nat
  num : Nat
  deriving DecidableEq, Repr

/-- A request that lost the arbitration of its comb bank, with the number of losses (R13, R14). -/
structure Waiting where
  req : Req
  lost : Nat
  deriving DecidableEq, Repr

/-- The answer to a request: the master number, the data read, whether a bus error ended it. -/
structure Resp where
  num : Nat
  data : Long
  err : Bool
  deriving DecidableEq, Repr

/-- What a DMA channel, or the supervisor port, holds of its rings beside its registers (R221, R222): the frame assembled
from transmit descriptors and its class and flags; the rest of the frame in receive, whether its verdict is bad, whether one
is in progress and its first descriptor is yet to come; whether a descriptor with OWN = 0 has stopped a ring. -/
structure DmaCh where
  frame : List Byte := []
  inFrame : Bool := false
  sof : Word := 0
  rx : List Byte := []
  rxBad : Bool := false
  rxBusy : Bool := false
  rxFirst : Bool := true
  txStop : Bool := false
  rxStop : Bool := false
  deriving DecidableEq, Repr

/-- A record the journal controller holds (Table 16-3, R500, R502): its header fields, data, whether it came from a source,
its first time with bit 63 set when not synchronised, its last time, its count, and for an overflow record the folds for a
full partition and for the rate limit. -/
structure JRec where
  cls : Nat
  kind : Nat := 0
  origin : Nat
  code : Nat
  data : Nat
  src : Bool
  time : Nat
  last : Nat
  count : Nat := 1
  nfull : Nat := 0
  nrate : Nat := 0
  deriving DecidableEq, Repr

/-- A row that holds a record of a partition: its record `r`, whether its entry is open, its COUNT changed since it was written,
whether it is pushed, with which COUNT, and acknowledged; when its entry opened, was last written and last used. -/
structure JAlloc where
  r : JRec
  isOpen : Bool := false
  dirty : Bool := false
  pushed : Bool := false
  pcount : Nat := 0
  acked : Bool := false
  opened : Nat := 0
  lastRw : Nat := 0
  used : Nat := 0
  deriving DecidableEq, Repr

/-- One partition: its rows in force, how many of them have been taken a first time, the rows freed since, oldest first, its
rows in the order of writing, what its bucket lacks in units of 1/20,000,000,000 token and since when. -/
structure JPart where
  size : Nat
  taken : Nat := 0
  freed : List Nat := []
  order : List Nat := []
  lack : Nat := 0
  at' : Nat := 0
  deriving DecidableEq, Repr

/-- The journal: the contents of its rows (8 words each, none listed: empty), rows whose CRC fails and that have been counted,
allocated rows, partitions, the push list, writes waiting (rows, and rows with given contents), the write in progress, wear
and the logical-to-physical map with its inverse, banked window words (8 × master + word), summary counts. -/
structure Jrn where
  rows : Tab (List Word) := []
  torn : List Nat := []
  alloc : Tab JAlloc := []
  alarm : JPart := { size := 0x1000 }
  event : JPart := { size := 0x3000 }
  trace : JPart := { size := 0x3F00 }
  push : List Nat := []
  wq : List Nat := []
  direct : List (Nat × List Word) := []
  writing : Option (Nat × List Word) := none
  seq : Nat := 0
  wear : Tab Nat := []
  phys : Tab Nat := []
  log : Tab Nat := []
  banks : Tab Word := []
  sums : List Nat := [0, 0, 0, 0]
  sumAt : Nat := 0
  tick : Nat := 0
  fmtAt : Option Nat := none
  deriving DecidableEq, Repr

/-- Clocks and power transitions beside their registers. Times are wall times. -/
structure PowerSt where
  /-- The step of the entry in progress (R477) and its start, the state it started from, the cause that abandons it. -/
  step : Nat := 0
  at' : Nat := 0
  from' : Nat := 0
  abandon : Nat := 0
  /-- A wake has been recorded since the low-power state was entered; the wake that ends NAP. -/
  woke : Bool := false
  wakeAt : Option Nat := none
  /-- The release after HIBERNATE raises EV010 (R483). -/
  report : Bool := false
  /-- Ethernet lanes whose wake configuration is kept in the sill domain in HIBERNATE (R478). -/
  hibLanes : List Nat := []
  /-- RESTORE is requested; the last plumb check, trim of the RC oscillator, loss of the sill crystal. -/
  restore : Bool := false
  plumbAt : Nat := 0
  rcAt : Nat := 0
  sillAt : Nat := 0
  deriving DecidableEq, Repr

/-- The margin planner beside its registers (R487 to R493): wall times of the last measurement, run, tick and history row; a Vout
write waiting for its read-back; the history rows written; the re-fitted D0 of each lane's delays in ps (transmit 2n, receive
2n + 1) as words. -/
structure AgeSt where
  measAt : Nat := 0
  planAt : Nat := 0
  tickAt : Nat := 0
  histAt : Nat := 0
  vout : Option Nat := none
  hist : Nat := 0
  d0 : Tab Word := []
  deriving DecidableEq, Repr

/-- Where the boot ROM stands (Table 2-2, R45 to R66). -/
inductive BootPhase where
  | plumb | select | waitGo | hostPull | hostPush | hostJudge | holdGo | ready | safeHold | running
  deriving DecidableEq, Repr

/-- Which store an image came from. -/
inductive ImgSrc where
  | flashA | flashB | host
  deriving DecidableEq, Repr

/-- The boot-state rows of the journal for one flash (R64): the SEQ last seen, the invalid mark, the count of
unconfirmed starts. They survive every reset scope. -/
structure BootRow where
  seq : Nat := 0
  mark : Bool := false
  count : Nat := 0
  deriving DecidableEq, Repr

/-- The running image (R67, R72, Table 2-8): its source, SEQ, IMG_SVN, the lowest load SVN, the root slot it matched,
CONFIRM_S. -/
structure ImgInfo where
  src : ImgSrc
  seq : Nat
  svn : Nat
  loadSvn : Nat
  slot : Nat
  confirmS : Nat
  deriving DecidableEq, Repr

/-- The entry points of a protocol load (Load entry and calling convention), offsets in code and data memory. -/
structure LoadEntry where
  init : Nat := 0
  recover : Nat := 0
  vbase : Nat := 0
  stackTop : Nat := 0
  lib : Nat := 0
  deriving DecidableEq, Repr

/-- One-time-programmable memory (Table 2-5): root slots 0 to 3, revoke bits, floors, lifecycle (1 MANUFACTURE, 2 FIELD), device
secret. -/
structure Otp where
  root0 : BitVec 384 := 0
  root1 : BitVec 384 := 0
  root2 : BitVec 384 := 0
  root3 : BitVec 384 := 0
  revoked : BitVec 4 := 0
  imgFloor : Nat := 0
  loadFloor : Nat := 0
  lifecycle : Nat := 1
  secret : BitVec 256 := 0
  deriving DecidableEq, Repr

/-- BOOT_ARB as loaded from OTP. -/
def Otp.arb (o : Otp) : Word :=
  BitVec.ofNat 32 (min 127 o.imgFloor + min 63 o.loadFloor * 256 + o.lifecycle % 4 * 2 ^ 14 + o.revoked.toNat * 2 ^ 16)

/-- A programming of the fuses that a command asks for: a root slot's revoke bit, or the two floors (R62, R72). -/
inductive Fuse where
  | revoke (slot : Nat)
  | floors (img load : Nat)
  deriving DecidableEq, Repr

/-- The boot ROM's and the boot block's state beside their registers. -/
structure Boot where
  phase : BootPhase := .plumb
  sel : Nat := 0
  rowA : BootRow := ⟨0, false, 0⟩
  rowB : BootRow := ⟨0, false, 0⟩
  img : Option ImgInfo := none
  locked : Bool := false
  released : Bool := false
  entries : Tab LoadEntry := []
  bound : List Nat := []
  started : List Nat := []
  hostImg : Tab Byte := []
  /-- The bytes the image put into supervisor and engine memories, by address: what a reload restores (R59, R214). -/
  loaded : Tab Byte := []
  hostAsk : List (Nat × Nat) := []
  fcmd : Option (Nat × Nat) := none
  /-- When the present safe hold or the confirmation window began, wall time. -/
  since : Nat := 0
  /-- The latest attestation or identity report with its signatures; the model's own record of an output. -/
  report : List Byte := []
  deriving DecidableEq, Repr

end Sys2Proof.Machine
end

