-- ==== Sys2Proof/Machine/TypesRing.lean ====
section
/-!
DEFINITION. The braced ring instances' state beside their registers (chapter 12), and held transmit arms (R351, R382).
-/

namespace Sys2Proof.Machine

/-- A drained transmit arm: its engine and slot (`none` for TXMEM, R190), whether it came by TXMEM, its bytes. -/
structure Arm where
  eng : Nat
  slot : Option Nat
  tc : Nat := 0
  bytes : List Byte := []
  deriving DecidableEq, Repr

/-- A sync deviation of one node in this round (R386): its value in 50 ps and the hop count of its copy. -/
structure RingDev where
  node : Nat
  dev : Int
  hops : Nat
  deriving DecidableEq, Repr

/-- The first copy of a slot's frame this round (R381): posted, failed its verdict. -/
structure RingFirst where
  slot : Nat
  posted : Bool
  bad : Bool
  deriving DecidableEq, Repr

/-- A ring instance. Ring-clock times count 50 ps. -/
structure RingSt where
  /-- The round length latched at the last round start (R375). -/
  len : Nat := 0
  /-- Ring-clock instant of the last round start. -/
  start : Int := 0
  /-- Slot buffers, by slot; held arms (R382). -/
  bufs : Tab (List Byte) := []
  held : List Arm := []
  devs : List RingDev := []
  firsts : List RingFirst := []
  /-- A copy from another node passed its verdict this round; rounds without one. -/
  heard : Bool := false
  quiet : Nat := 0
  /-- The last round was a valid sync round. -/
  syncOk : Bool := false
  /-- Sync copies received: slot, and whether on the east port. -/
  got : List (Nat × Bool) := []
  missE : Nat := 0
  missW : Nat := 0
  /-- Good consecutive neighbour frames on a looped side. -/
  goodE : Nat := 0
  goodW : Nat := 0
  /-- Loop-back bits received, by node: this round and the previous one. -/
  lbNow : Tab (Bool × Bool) := []
  lbPrev : Tab (Bool × Bool) := []
  /-- The last frame start or entry to LISTEN, wall time. -/
  since : Nat := 0
  /-- The first cold-start slot: being judged, an own copy passed, the other starter heard in its sender window. -/
  csFirst : Bool := false
  csOwn : Bool := false
  csOther : Option Nat := none
  /-- The extra round to wait after a second collision (R389). -/
  csWait : Bool := false
  /-- The last repeat started in LISTEN on each port (R380). -/
  repE : Option Nat := none
  repW : Option Nat := none
  /-- The latest copy repeated: out of the east port, its bytes, cut at the window's close. The model's own record. -/
  repeated : Option (Bool × List Byte × Bool) := none
  /-- The latest frame sent: slot and bytes. The model's own record. -/
  sent : Option (Nat × List Byte) := none
  /-- Slots sent in this round. -/
  done : List Nat := []
  /-- The last guardian trim, wall time (R383). -/
  trim : Nat := 0
  deriving DecidableEq, Repr

end Sys2Proof.Machine
end

