-- ==== Sys2Proof/Machine/TypesLane.lean ====
section
/-!
DEFINITION. The state of the multi-drop buses, the serial lanes and the programmable I/O groups beside their registers
(chapters 11 and 13).
-/

namespace Sys2Proof.Machine

/-- Where a frame in transmission on a multi-drop bus stands (R353): a reference message, the priority slot, the FIFO. -/
inductive MbSrc where
  | ref | ps | fifo
  deriving DecidableEq, Repr

/-- A frame in transmission on a multi-drop bus: its place, its frame, its start in 50 ps of the time base, whether a flush
has discarded its retries (R356). -/
structure MbCur where
  src : MbSrc
  fr : MbFrame
  start : Nat
  flushed : Bool := false
  deriving DecidableEq, Repr

/-- The wake detector of a sleeping lane (R360, R409): wall times of the recent transitions, the start of the latest active
level, whether STUCK may still report it. -/
structure WakeDet where
  trans : List Nat := []
  actAt : Nat := 0
  live : Bool := false
  deriving DecidableEq, Repr

/-- A multi-drop bus controller. -/
structure MbSt where
  fifo : List Arm := []
  ps : Option Arm := none
  held : List Arm := []
  cur : Option MbCur := none
  /-- The mode in force is listen-only (R358). -/
  listen : Bool := false
  /-- 0 on the bus, 1 bus-off, 2 recovering (R357). -/
  off : Nat := 0
  sleepReq : Bool := false
  /-- A reference message of this node is due (R363); the last due instant considered, ns. -/
  refDue : Bool := false
  refLast : Nat := 0
  /-- A valid reference message whose boundary is yet to come: its cycle count, its Sync_Mark in 50 ps. -/
  refPend : Option (Option Nat × Nat) := none
  /-- The latest Sync_Mark in 50 ps, and the time of the last valid reference message in ns. -/
  mark : Nat := 0
  refAt : Nat := 0
  /-- Frames in the receive buffers (R348). -/
  rx : List Nat := []
  det : WakeDet := {}
  /-- The wake-frame decoder runs; its last trim, wall time (R361). -/
  dec : Bool := false
  trim : Nat := 0
  deriving DecidableEq, Repr

/-- The receive side of a serial lane: no frame, a frame being received, a frame that was not posted, characters outside any frame until
the line has been idle. -/
inductive SlRx where
  | none
  | frame (k : Nat)
  | skip | outside
  deriving DecidableEq, Repr

/-- A serial lane. Times are wall times. -/
structure SlSt where
  /-- The transmit store, oldest first: a frame's bytes and its entry; the first is the one in transmission. -/
  store : List (List Byte × Nat) := []
  held : List Arm := []
  /-- The end of the last bit of the frame in transmission. -/
  cur : Option Nat := none
  /-- The bytes of the latest frame sent, its check included. The model's own record. -/
  sent : List Byte := []
  rx : SlRx := .none
  /-- The last character was EOFCH with EOF2 to come; an escape waits for its character (R401). -/
  eof : Bool := false
  esc : Bool := false
  /-- Receive memory by frame handle (R403). -/
  mem : List (Nat × Nat) := []
  /-- The end of the last bit sent, and of the last bit received. -/
  txLast : Nat := 0
  rxLast : Nat := 0
  sleepReq : Bool := false
  wokeAt : Nat := 0
  det : WakeDet := {}
  deriving DecidableEq, Repr

/-- A machine of a programmable I/O group (R413 to R421) beside its registers. -/
structure PioM where
  pc : Nat := 0
  /-- The latched instruction, whether it is in progress and stalled, whether the machine runs, whether it is halted by a fault. -/
  instr : Word := 0
  mid : Bool := false
  stall : Bool := false
  run : Bool := false
  fault : Bool := false
  shr : Word := 0
  hld : Word := 0
  bcnt : Nat := 0
  cnt0 : BitVec 16 := 0
  cnt1 : BitVec 16 := 0
  txq : List Word := []
  rxq : List Word := []
  /-- Frame ends waiting behind words of the RX queue, by the number of words before them. -/
  ends : List Nat := []
  /-- The target instant in 50 ps while ARMED (R420), and the instant a timed action launches at. -/
  target : Option Nat := none
  timed : Option Nat := none
  /-- PIO_SMk_CLK and PIO_SMk_PINS as latched with the instruction (R424). -/
  clk : Word := 0
  pins : Word := 0
  /-- The wall time of the machine's next step, its cycles mod 16 (R413), the phase of the bit in progress. -/
  due : Nat := 0
  dith : Nat := 0
  ph : Nat := 0
  /-- Rising and falling edges of the awaited pin, when the wait began; edges of each pin at its last SNAP. -/
  edges : Nat := 0
  snaps : List Nat := [0, 0, 0, 0, 0, 0, 0, 0]
  /-- The frame being delivered; words are discarded until the frame's end (R418). -/
  fr : Option Nat := none
  skip : Bool := false
  /-- Arms whose words are being fed, with the words left (R419). -/
  feed : List (Arm × List Word) := []
  deriving DecidableEq, Repr

/-- The edges of a pin: rising and falling ones counted, the latest one's stamp in 50 ps, direction and wall time. -/
structure PinEdges where
  rises : Nat := 0
  falls : Nat := 0
  at' : Nat := 0
  rising : Bool := false
  wall : Nat := 0
  deriving DecidableEq, Repr

/-- A programmable I/O group beside its registers. -/
structure PioG where
  m : Tab PioM := []
  /-- Levels at the pins from outside, levels driven, directions. -/
  ext : BitVec 8 := 0
  out : BitVec 8 := 0
  dir : BitVec 8 := 0
  edges : Tab PinEdges := []
  /-- Levels at the balls before the recent changes, with the wall times of those changes, latest first. -/
  hist : List (Nat × BitVec 8) := []
  /-- The PIO clock cycle and machine of the latest level and direction writes, by pin (R414). -/
  lvlBy : Tab (Nat × Nat) := []
  dirBy : Tab (Nat × Nat) := []
  /-- The PIO clock cycle of the latest MARKs, and the flags they set and cleared in it (R427). -/
  markAt : Nat := 0
  markSet : BitVec 8 := 0
  markClr : BitVec 8 := 0
  /-- Frame memory by frame handle (R418). -/
  mem : List (Nat × Nat) := []
  deriving DecidableEq, Repr

end Sys2Proof.Machine
end

