-- ==== Sys2Proof/Machine/TypesNet.lean ====
section
/-!
DEFINITION. Frames, the Ethernet lanes' and the switch core's state beside their registers (chapters 08 and 09), and the
time base's (chapter 10).
-/

namespace Sys2Proof.Machine

/-- What of an engine a sent frame frees at its end (R98, R190). -/
inductive Src where
  | none
  | slot (eng s : Nat)
  | mem (eng : Nat)
  deriving DecidableEq, Repr

/-- A frame, from its start until its last holder has let it go. `port` is the switch port it entered by, 64 for the
lanes with no switch path; `bytes` are as received, check sequence included; `arrived` counts the bytes the frame port
shows and `fin` FEND; `good` is the verdict at its end, which the engine sees once `known`. Stamps count 50 ps. -/
structure Frame where
  port : Nat := 64
  bytes : List Byte := []
  arrived : Nat := 0
  fin : Bool := false
  good : Bool := true
  known : Bool := false
  ended : Bool := true
  sof : Nat := 0
  sofSync : Bool := false
  eof : Nat := 0
  /-- Cells held and the number of their holders (R272). -/
  cells : Nat := 0
  holders : Nat := 0
  tc : Nat := 0
  /-- Deciding context index, 0x1000 + rule, or 0xFFFF_FFFF (Table 9-6). -/
  ctx : Nat := 0xFFFFFFFF
  vid : Nat := 1
  pcp : Nat := 0
  dei : Nat := 0
  /-- The frame without its outer tag, R-TAG, HSR tag or PRP trailer, and without its check sequence. -/
  core : List Byte := []
  /-- The frame as the internal ports get it: without HSR tag, PRP trailer and a recovered R-TAG (R275, R288, R289). -/
  view : List Byte := []
  rseq : Option Nat := none
  /-- The context whose MAXSDU the frame passed provisionally (R285). -/
  late : Option Nat := none
  /-- The engine the frame is steered to. -/
  eng : Option Nat := none
  relay : Option Nat := none
  relayHeld : Bool := false
  /-- Forager record (R303): reasons, cells of the first queue, egress ports, flags of CLASS, drop code. -/
  why : Nat := 0
  qcells : Nat := 0
  outs : List Nat := []
  /-- A cell of it has failed its CRC (R217). -/
  cellBad : Bool := false
  wasCt : Bool := false
  wasPre : Bool := false
  wasPois : Bool := false
  drop : Nat := 0
  deriving DecidableEq, Repr

/-- A queued copy: its frame, the cells counted, what it frees, whether it is sent as composed (R281), whether it came
from the supervisor port (R332, R334), whether it leaves unchanged (a mirror copy,
R305; a relay, R99), its redundancy pair and sequence number (R289). -/
structure QEnt where
  fr : Nat
  cells : Nat
  src : Src := .none
  raw : Bool := false
  sup : Bool := false
  mirror : Bool := false
  red : Option (Nat × Nat) := none
  deriving DecidableEq, Repr

/-- A frame in transmission: its queue entry, class, whether express, cut-through, to be poisoned, its bytes without the
check sequence, its start in 50 ps units of the time base. -/
structure TxCur where
  ent : QEnt
  cls : Nat
  express : Bool := true
  ct : Bool := false
  /-- Preempted at least once. -/
  pre : Bool := false
  poison : Bool := false
  bytes : List Byte := []
  start : Nat := 0
  deriving DecidableEq, Repr

/-- An Ethernet lane beside its registers: the frame in transmission, the preempted frame, class credits in units of
1/20,000,000 bit and the time they stand at (R292), the verify mPackets sent, the filter window and its count (R260), the
time of the last offer (R263), the end of the wake time after low-power idle (R264). -/
structure EthSt where
  cur : Option TxCur := none
  held : Option TxCur := none
  cred : List Int := [0, 0, 0, 0, 0, 0, 0, 0]
  credAt : Nat := 0
  verifies : Nat := 0
  window : Nat := 0
  wcount : Nat := 0
  offer : Nat := 0
  wakeAt : Nat := 0
  /-- HI as latched by the last read of LO (R269), of the receive and transmit octet counters. -/
  latRx : Option Word := none
  latTx : Option Word := none
  deriving DecidableEq, Repr

/-- A running schedule list: running, its cycle start in ns, the entry in force. -/
structure ListSt where
  on : Bool := false
  start : Nat := 0
  entry : Nat := 0
  deriving DecidableEq, Repr

/-- A flow meter (R287): what the buckets lack, in units of 1/20,000,000 byte, and the time it stands at. -/
structure Meter where
  cdef : Nat := 0
  edef : Nat := 0
  at' : Nat := 0
  deriving DecidableEq, Repr

/-- A sequence recovery function (R288): the highest number, the history bits below it, the time of the last pass;
`any` while it accepts the next number. -/
structure Srec where
  any : Bool := true
  seq : Nat := 0
  hist : List Bool := []
  pass : Nat := 0
  deriving DecidableEq, Repr

/-- A forwarding-database entry (R284): its port mask, whether static, the time of its last refresh. -/
structure FdbEnt where
  ports : Nat
  static : Bool
  seen : Nat
  deriving DecidableEq, Repr

/-- A duplicate-table entry (R289): source address, sequence number, the time it entered. -/
structure DupEnt where
  src : Nat
  seq : Nat
  at' : Nat
  deriving DecidableEq, Repr

/-- A queued MDIO command (R268): the lane and its command and data registers at GO, and
when it came. -/
structure MdioCmd where
  lane : Nat
  cmd : Word
  data : Word
  at' : Nat
  deriving DecidableEq, Repr

/-- The switch core beside its registers. -/
structure Swc where
  queues : Tab (List QEnt) := []
  /-- Cells of the pools of ports 24 and 25. -/
  pools : Tab Nat := []
  gcl : Tab ListSt := []
  sgate : Tab ListSt := []
  meters : Tab Meter := []
  srec : Tab Srec := []
  fdb : Tab FdbEnt := []
  dup : Tab (List DupEnt) := []
  samp : Tab Nat := []
  /-- Source addresses and numbers a pair has sent (R289), by pair. -/
  sent : Tab (List (Nat × Nat)) := []
  /-- Forager records written or lost, for SEQ. -/
  forSeq : Nat := 0
  deriving DecidableEq, Repr

/-- A stamp: whole ns from the epoch, and the fraction in 50 ps. -/
structure Stamp where
  ns : Nat := 0
  frac : Nat := 0
  deriving DecidableEq, Repr

/-- A stamp-queue entry (R332): TIME_TSQ0 without its stamp, the stamp, and TIME_TSQ3's domain fields. -/
structure TsqEnt where
  w0 : Word
  stamp : Stamp
  dom : Word
  deriving DecidableEq, Repr

/-- A domain clock (R311): its value in units of 1/tbUnit ns, the ns still to be slewed (R313), since when it has been
valid without a break. -/
structure Dc where
  val : Nat := 0
  slew : Int := 0
  validAt : Nat := 0
  deriving DecidableEq, Repr

/-- The time block beside its registers. -/
structure TimeSt where
  dc0 : Dc := {}
  dc1 : Dc := {}
  /-- SLEW: the time base is behind the target. -/
  behind : Bool := false
  /-- Entry to HOLDOVER, wall time. -/
  holdAt : Nat := 0
  tsq : List TsqEnt := []
  /-- A read of TIME_TSQ0 has latched the oldest entry, and none has removed it. -/
  tsqLatch : Bool := false
  /-- The latest PPS_IN stamp, and the time of the last stamped edge. -/
  ppsi : Stamp := {}
  ppsiAt : Option Nat := none
  /-- PPS_OUT: its level, the end of a pulse in progress, and the last instant considered, in ns of the chosen clock. -/
  ppsOut : Bool := false
  ppsEnd : Nat := 0
  ppsLast : Nat := 0
  /-- The queues of EVT_IN0 and EVT_IN1: stamp and edge; whether the oldest is latched; the last stamped edge. -/
  ev0 : List (Stamp × Bool) := []
  ev1 : List (Stamp × Bool) := []
  evLatch0 : Bool := false
  evLatch1 : Bool := false
  evAt0 : Option Nat := none
  evAt1 : Option Nat := none
  /-- Wall time of each lane's last refresh (R328). -/
  cal : Tab Nat := []
  /-- The real-time clock's value in ns at wall time `rtcAt` (R322), and the whole second last realigned. -/
  rtc : Nat := 0
  rtcAt : Nat := 0
  rtcSec : Nat := 0
  deriving DecidableEq, Repr

end Sys2Proof.Machine
end

