-- ==== Sys2Proof/Machine/TypesSeptari.lean ====
section
/-!
DEFINITION. The Septari cores' and the engines' state (chapters 03 and 04): core registers, dry-fit state, work items.
-/

namespace Sys2Proof.Machine

/-- A Septari core's registers (Registers and flags; Table 4-11). `g` holds G0 to G15 (0 unlisted), `bits` the general
bits 0x000 to 0x7FF (clear unlisted). `mpu` holds CR_MPUBASE, CR_MPULIM and CR_MPUATTR of region r at 4r, 4r + 1 and
4r + 2 as last written; `mpuCtl0` and `mpu0` are the settings before the writes no FENCE or ERET has applied (R160). -/
structure Cpu where
  g : Tab Word := []
  pc : Word := 0
  fl : Word := 0
  bits : Tab Bool := []
  vbase : Word := 0
  epc : Word := 0
  efl : Word := 0
  ecause : Word := 0
  eaddr : Word := 0
  estat : Word := 0
  scr0 : Word := 0
  scr1 : Word := 0
  libbase : Word := 0
  psr : Word := 1
  usp : Word := 0
  mpuctl : Word := 2
  mpusel : Word := 0
  mpu : Tab Word := []
  mpuCtl0 : Word := 2
  mpu0 : Tab Word := []
  deriving DecidableEq, Repr

/-- A work item (R83, R84): source lane, verdict source, flow context, frame handle, start-of-frame stamp in ns. -/
structure Item where
  lane : Nat
  vsrc : Nat
  ctx : Option Nat
  frame : Nat
  sof : Nat
  deriving DecidableEq, Repr

/-- The item in hand: its software verdict and the stamp DFEND gave it, its conflict rollbacks, whether a soft error
re-executes it, its execution number, whether it relayed, whether it committed early, whether it asked for the token. -/
structure Hand where
  item : Item
  soft : Option Bool := none
  stamp : Nat := 0
  conf : Nat := 0
  reex : Bool := false
  exec : Nat := 1
  relayed : Bool := false
  early : Bool := false
  done : Bool := false
  deriving DecidableEq, Repr

/-- The checkpoint (R88) with the address of the WQNEXT that took the item (R187). -/
structure Ckpt where
  g : Tab Word
  pc : Word
  fl : Word
  bits : Tab Bool
  wq : Word
  deriving DecidableEq, Repr

/-- A commit-buffer entry (R90): a 64-bit word of own data or comb memory with a byte mask, or one effect. -/
inductive Entry where
  | word (addr : Nat) (data : Long) (mask : BitVec 8)
  | reg (addr : Word) (v : Word)
  | far (addr : Word) (w : Width) (v : Long)
  | sig (slot : Nat) (mask vals : Long)
  | arm (slot bslot tc len : Nat)
  | event (src : Nat)
  | record (row : List Word)
  deriving DecidableEq, Repr

/-- A transmit slot's occupancy (R98): free, armed in the commit buffer, or armed and unsent on a lane. -/
inductive SlotSt where
  | free | armed | queued
  deriving DecidableEq, Repr

/-- A transmit slot: 2,048 bytes (0 unlisted), its occupancy. -/
structure Slot where
  bytes : Tab Byte := []
  st : SlotSt := .free
  deriving DecidableEq, Repr

/-- What an engine does: held in reset, executing, waiting in WQNEXT for an item, ended and waiting for verdict, grant
or drop, stalled at an early-commit trigger, waiting for the token, draining, stalled on a frame byte or a slot or a
block reload, halted by HALT, halted for good (R155, R214). -/
inductive EngRun where
  | reset | run | idle | atEnd | early | token
  | drain (early : Bool)
  | frameByte
  | slot (s : Nat)
  | reload (block : Nat)
  | halted | dead
  deriving DecidableEq, Repr

/-- An instruction tagged and not yet recorded (R123): its PC, FL.D at issue, its execution number. -/
structure Tagged where
  pc : Word
  dry : Bool
  exec : Nat
  deriving DecidableEq, Repr

/-- One engine. -/
structure Eng where
  cpu : Cpu := {}
  run : EngRun := .reset
  wq : List Item := []
  hand : Option Hand := none
  ck : Option Ckpt := none
  cbuf : List Entry := []
  rset : List Nat := []
  held : List Nat := []
  /-- The wall time and the time base's stamp at which its drain started. -/
  drainAt : Nat := 0
  drainTs : Nat := 0
  slots : Tab Slot := []
  rstPend : Bool := false
  cyc : Nat := 0
  cycHi : Word := 0
  provRet : Nat := 0
  tagLeft : Nat := 0
  tag : Option Tagged := none
  /-- The clock bin in force (R79). -/
  bin : Nat := 0
  deriving DecidableEq, Repr

/-- What a supervisor does: held in reset, executing, waiting in WFI, halted by a double fault or a failed block. -/
inductive SvRun where
  | reset | run | wfi | dead
  | reload (block : Nat)
  deriving DecidableEq, Repr

/-- One supervisor. -/
structure Sv where
  cpu : Cpu := {}
  run : SvRun := .reset
  deriving DecidableEq, Repr

/-- A commit group's arbiter (R106): the token holder and the engines waiting for it, in order of request. -/
structure Group where
  holder : Option Nat := none
  queue : List Nat := []
  deriving DecidableEq, Repr

end Sys2Proof.Machine
end

