-- ==== Sys2Proof/Machine/TypesStn.lean ====
section
/-!
DEFINITION. The station block's state beside its registers (chapter 14).
-/

namespace Sys2Proof.Machine

/-- A station input (R435 to R438): the raw level, wall time and stamp of its last transition, transitions in the window, the last
level reported, since when the filtered level is active. -/
structure DiSt where
  raw : Bool := false
  at' : Nat := 0
  ns : Nat := 0
  count : Nat := 0
  told : Bool := false
  actAt : Nat := 0
  deriving DecidableEq, Repr

/-- A sense input of the sentinel (R439, R440): the window position (0 above, 1 below, 2 inside), the end of BLANK, consecutive
half-cycles below SAGLVL and LOSSLVL, the last zero crossing, whether its timeout has been declared, whether a sag or a loss
stands. -/
structure SentIn where
  pos : Nat := 2
  blank : Nat := 0
  sagRun : Nat := 0
  lossRun : Nat := 0
  zeroAt : Nat := 0
  zeroOut : Bool := false
  sag : Bool := false
  loss : Bool := false
  deriving DecidableEq, Repr

/-- An entry of the sentinel's event queue: CH, KIND, NOSYNC, stamp in ns. -/
structure SentEv where
  ch : Nat
  kind : Nat
  nosync : Bool
  ns : Nat
  deriving DecidableEq, Repr

/-- What a last-gasp slot handed over (R444): nothing, an Ethernet frame by handle, a serial store entry, a bus frame. -/
inductive GaspOut where
  | none
  | eth (fr : Nat)
  | sl (n : Nat) (b : List Byte) (at' : Nat)
  | mb (n : Nat) (b : List Byte)
  deriving DecidableEq, Repr

/-- The last gasp: shed, the firing source bit, the wall time of the firing, what each slot handed over, ETH_CTL.PWR of the lanes it shed. -/
structure Gasp where
  shed : Bool := false
  src : Nat := 0
  at' : Nat := 0
  outs : List GaspOut := []
  pwr : List (Nat × Nat) := []
  deriving DecidableEq, Repr

/-- A loop beside its registers (R450, R456): P_LAST, D and I in Q16.16, the saturation timer in ns, the safe state, a pending
IRESET. -/
structure LoopSt where
  pvLast : Int := 0
  dTerm : Int := 0
  iTerm : Int := 0
  satNs : Nat := 0
  safe : Bool := false
  ireset : Bool := false
  deriving DecidableEq, Repr

/-- The evaluation in progress: its loop, when it ends, its results. -/
structure LoopRun where
  n : Nat
  due : Nat
  pv : Int
  e : Int
  u : Int
  sat : Bool
  st : LoopSt
  state : Nat
  deriving DecidableEq, Repr

/-- A piece of an axis's motion: an acceleration in units/s² for a time in ns (`none`: until replanned), with the velocity in 10^-9
units/s and, where fixed, the position in 1/(2 × 10^18) unit at its end. -/
structure AxSeg where
  acc : Int
  dur : Option Nat
  v1 : Int
  p1 : Option Int := none
  deriving DecidableEq, Repr

/-- A table entry in force (R459): its cubic's coefficients in 1/(2 × 10^18) unit, its duration in ns, what follows it. -/
structure AxCubic where
  a : Int
  c2 : Int
  c3 : Int
  t : Nat
  p1 : Int
  v1 : Int
  last : Bool
  next : Nat
  deriving DecidableEq, Repr

/-- An axis beside its registers: position and velocity at wall time `t0` in the units of AxSeg, the planned pieces (the first is
in force), the table entry in force, whether a target is being sought, since when it rests, whether its standstill mode
applies, consecutive windows over STALLLA, the times of the last stall and of the last reached report, the last write of
STP_TARGET. -/
structure AxSt where
  p : Int := 0
  v : Int := 0
  t0 : Nat := 0
  segs : List AxSeg := []
  cubic : Option AxCubic := none
  seek : Bool := false
  restAt : Nat := 0
  stby : Bool := false
  stalls : Nat := 0
  stallAt : Option Nat := none
  reachAt : Option Nat := none
  wrote : Option (Nat × Nat) := none
  deriving DecidableEq, Repr

/-- The station block beside its registers. -/
structure Stn where
  /-- The last channel of each converter's scan and when its result completed. -/
  afe0 : Option Nat := none
  afe1 : Option Nat := none
  afeAt0 : Nat := 0
  afeAt1 : Nat := 0
  di : Tab DiSt := []
  diWin : Nat := 0
  in0 : SentIn := {}
  in1 : SentIn := {}
  evq : List SentEv := []
  /-- The wall time of the capture's trigger. -/
  trigAt : Nat := 0
  /-- PWR_FAIL_N is low since this wall time. -/
  failLow : Option Nat := none
  gasp : Gasp := {}
  loops : Tab LoopSt := []
  /-- Evaluations waiting, by sample instant in ns and loop, and the one in progress. -/
  evals : List (Nat × Nat) := []
  run : Option LoopRun := none
  axes : Tab AxSt := []
  deriving DecidableEq, Repr

end Sys2Proof.Machine
end

