-- ==== Sys2Proof/Machine/Dev.lean ====
section
/-!
DEFINITION. The state of the TY6400 apart from its fuses and its queue of commands.
-/

namespace Sys2Proof.Machine

/-- Everything the spec gives the chip but OTP. Times are in units of 50 ps. -/
structure Dev where
  /-- Time since the sill reset, in units of 50 ps; the model's own measure of arrival times and durations. -/
  wall : Nat := 0
  /-- Registers by system address: the value in force; unlisted, the reset value. -/
  regs : Tab Word := []
  /-- Staged copies of ST registers by system address; unlisted, the reset value (R20). -/
  stg : Tab Word := []
  /-- Staged writes of the last freeze window (R26 to R28). -/
  hist : List StWrite := []
  /-- Commit instances 0 to 80. -/
  cmt : Tab CmtInst := []
  /-- SYS_CMT_TLO and SYS_CMT_THI banked by master: keys 2m and 2m + 1. -/
  tbank : Tab Word := []
  /-- Memory of the system map by address: unlisted bytes read 0, in the flash windows 0xFF. -/
  mem : Tab Byte := []
  /-- How many free values have been taken. The model's own. -/
  free : Nat := 0
  /-- The answers to the latest accesses. The model's own. -/
  resp : List Resp := []
  /-- MSI-X messages sent, oldest first: vector, address, data. The model's own record of an output. -/
  msix : List (Nat × Nat × Word) := []
  /-- The journal queue (R249). -/
  jq : List JEnt := []
  jrn : Jrn := {}
  boot : Boot := {}
  /-- Fuses the present command programs; empty between commands. -/
  blow : List Fuse := []
  mbx : Tab (MbxSide × MbxSide) := []
  postings : List Posting := []
  mbxLast : Nat := 0
  /-- Power of comb banks (keys 0 to 15), engine code memories (16 + 2n) and data memories (17 + 2n). -/
  power : Tab MemPwr := []
  /-- Owner codes waiting for drains (R203), by bank. -/
  ownPend : Tab Nat := []
  waiting : List Waiting := []
  /-- 32-bit words whose parity fails, by address. -/
  badPar : List Nat := []
  /-- Poisoned units, by address (Table 6-4). -/
  poison : List Nat := []
  /-- 4 KiB blocks of the block hash table, unhashed since boot, failed (R59, R214, R215). -/
  hashed : List Nat := []
  unhashed : List Nat := []
  failed : List Nat := []
  reloads : List Reload := []
  /-- DMA channels; key 16 is the supervisor port's pair of rings. -/
  dma : Tab DmaCh := []
  /-- The channel whose beat was last served in rotation. -/
  dmaLast : Nat := 0
  /-- The bytes the latest command wrote over PCIe, by address. The model's own record of an output. -/
  pcieOut : List (Nat × Byte) := []
  eng : Tab Eng := []
  sv0 : Sv := {}
  sv1 : Sv := {}
  groups : Tab Group := []
  /-- Time-base value in units of 1/tbUnit ns. -/
  tb : Nat := 0
  tm : TimeSt := {}
  /-- Frames, by the model's frame handle (G2 of R84, log 14), and the next handle. -/
  frames : Tab Frame := []
  nextFr : Nat := 0
  eth : Tab EthSt := []
  mdio : List MdioCmd := []
  swc : Swc := {}
  rings : Tab RingSt := []
  mb : Tab MbSt := []
  sl : Tab SlSt := []
  pio : Tab PioG := []
  stn : Stn := {}
  /-- Wakes fired and not yet recorded (R482, R483): class and instance. -/
  wakes : List (Nat × Nat) := []
  /-- The state a power transition in progress leads to (R475). -/
  powerTo : Nat := 0
  pw : PowerSt := {}
  age : AgeSt := {}
  deriving DecidableEq, Repr

end Sys2Proof.Machine
end

