-- ==== Sys2Proof/Config.lean ====
section
/-!
DEFINITION. What one unit fixes, and the free values: constants with no body, so that no proof can see a value the spec
leaves open.
-/

namespace Sys2Proof.Config

/-- A value the spec leaves undefined (log 10): the n-th such value, n a plain counter of State. -/
opaque freeValue : Nat → BitVec 64

/-- Factory trim of TIME_LMODTX of lane n (Table 10-16: reset "Factory"). -/
opaque factoryLmodTx : Nat → Word

/-- Factory trim of TIME_LMODRX of lane n (Table 10-16: reset "Factory"). -/
opaque factoryLmodRx : Nat → Word

/-- Factory ageing constant AGE_KAG (Table 16-4: reset "Factory"). -/
opaque factoryKag : Word

/-- The part of an Ethernet lane's model delay in ps that follows temperature and ageing (R491: TC × (TEMP - 25) + KA × DEG, TC
and KA factory values): transmit, lane, TEMP, DEG. -/
opaque lmodTerm : Bool → Nat → Nat → Nat → Int

/-- The sine of an electrical angle in 1/1,024 of a turn, Q0.16 (R457): the spec gives no rounding of it. -/
opaque sine : Nat → Int

end Sys2Proof.Config
end

