-- ==== Sys2Proof/Machine/RegTypes.lean ====
section
/-!
DEFINITION. How a register is described (spec 00_scope, Registers and Reset scopes): access types (Table 0-3), reset
scopes (Table 0-4), fields, repeated registers and commit instances; and the reset values that depend on the index.
-/

namespace Sys2Proof.Machine

/-- The access types of Table 0-3; SR and LK are flags beside them (R6). -/
inductive Acc where
  | rw | ro | wo | w1c | st
  deriving DecidableEq, Repr

/-- The reset scopes of Table 0-4, narrowest first. -/
inductive Scope where
  | engine | block | chip | sill
  deriving DecidableEq, Repr

/-- One field of a register: its lowest bit, its width, its access type, and whether SR or LK applies (R6). -/
structure Fld where
  lo : Nat
  w : Nat
  acc : Acc
  sr : Bool
  lk : Bool
  deriving DecidableEq, Repr

/-- A register: the address of instance (0, 0), the counts and strides of its two indices, its reset scope, the commit
instance of instance (i, j) as (base, step per i), its reset value, and its fields. -/
structure Reg where
  base : Nat
  n1 : Nat
  s1 : Nat
  n2 : Nat
  s2 : Nat
  scope : Scope
  inst : Option (Nat × Nat)
  rst : Nat → Nat → Word
  flds : List Fld

/-- A named field of a register. -/
structure RegFld where
  reg : Reg
  lo : Nat
  w : Nat

/-- The sources Table 7-3 marks secure in fixed form. -/
def fixedSecure (n : Nat) : Bool := n = 7 || n = 42 || (128 ≤ n && n ≤ 159)

/-- EVT_MAPn at reset: VECTOR = n, JCLASS = 0x1, SWR as R245, SEC reads 1 for the fixed secure sources. -/
def evtMapReset (n _ : Nat) : Word :=
  BitVec.ofNat 32 (n % 256 + 0x400000 + (if 112 ≤ n && n ≤ 127 then 0x1000000 else 0)
    + (if fixedSecure n then 0x2000000 else 0))

/-- SWC VLAN entry v, word 0, at reset: entry 1 is a member everywhere and valid. -/
def vlan0Reset (v _ : Nat) : Word := if v = 1 then 0x8FFFFFFF else 0

/-- SWC VLAN entry v, word 1, at reset: entry 1 is untagged everywhere. -/
def vlan1Reset (v _ : Nat) : Word := if v = 1 then 0x00FFFFFF else 0

/-- The lane minimum of TW_TX in us (R264): 30 on 100BASE-TX, 12 on 10GBASE-R. It is 0 on P16 to P21 (ETH_EEE).
-/
def twTxMin (lane : Nat) : Nat := if lane < 16 then 30 else if lane < 22 then 0 else 12

/-- ETH_EEE at reset: HOLD = 0x32, TW_TX = the lane minimum. -/
def eeeReset (lane _ : Nat) : Word := BitVec.ofNat 32 (twTxMin lane * 65536 + 0x3200)

/-- JRN_PARTc_SIZE at reset, c = alarm, event, trace. -/
def jrnSizeReset (c _ : Nat) : Word := if c = 0 then 0x1000 else if c = 1 then 0x3000 else 0x3F00

/-- JRN_PARTc_RATE at reset: RATE 10, 200, 5,000 and BURST 64, 1,024, 4,096. -/
def jrnRateReset (c _ : Nat) : Word :=
  if c = 0 then BitVec.ofNat 32 (64 * 65536 + 10) else if c = 1 then BitVec.ofNat 32 (1024 * 65536 + 200)
  else BitVec.ofNat 32 (4096 * 65536 + 5000)

/-- JRN_PARTc_COAL at reset: COALWIN 600, 100, 10 and COALEN = 1. -/
def jrnCoalReset (c _ : Nat) : Word :=
  if c = 0 then 0x10258 else if c = 1 then 0x10064 else 0x1000A

/-- TIME_LMODTX at reset: the factory value. -/
def lmodTxReset (n _ : Nat) : Word := Config.factoryLmodTx n

/-- TIME_LMODRX at reset: the factory value. -/
def lmodRxReset (n _ : Nat) : Word := Config.factoryLmodRx n

/-- AGE_KAG at reset: the factory value, in [15:0]. -/
def kagReset (_ _ : Nat) : Word := Config.factoryKag &&& 0xFFFF

end Sys2Proof.Machine
end

