-- ==== Sys2Proof/Machine/RegsCore.lean ====
section
/-!
DEFINITION. Registers of the SYS, BOOT, SEC, ENG, MEM, DMA, MBX, EVT, CLK, PWR, AGE and JRN blocks.
Each register as its heading and its table give it: address, repetition, reset scope, commit domain, fields, access
    types and
reset value. A field a table marks reserved is left out: it reads as 0 and ignores what is written (R7).
-/

namespace Sys2Proof.Machine

/-- 01_architecture: SYS_SCYC_PER: offset 0x0100, commit domain station cycle (instance 0), chip reset. -/
def SYS_SCYC_PER : Reg :=
  ⟨0x40000100, 1, 0x0, 1, 0x0, .chip, some (0, 0), fun _ _ => 0x00000020,
   [⟨0, 12, .st, false, false⟩]⟩
def SYS_SCYC_PER_PERIOD : RegFld := ⟨SYS_SCYC_PER, 0, 12⟩
/-- 01_architecture: SYS_CMT_ARM: offset 0x0110, chip reset. -/
def SYS_CMT_ARM : Reg :=
  ⟨0x40000110, 1, 0x0, 1, 0x0, .chip, none, fun _ _ => 0x00000000,
   [⟨0, 7, .wo, false, false⟩, ⟨8, 2, .wo, false, false⟩]⟩
def SYS_CMT_ARM_INST : RegFld := ⟨SYS_CMT_ARM, 0, 7⟩
def SYS_CMT_ARM_OP : RegFld := ⟨SYS_CMT_ARM, 8, 2⟩
/-- 01_architecture: SYS_CMT_TLO: offset 0x0114, chip reset. -/
def SYS_CMT_TLO : Reg :=
  ⟨0x40000114, 1, 0x0, 1, 0x0, .chip, none, fun _ _ => 0x00000000,
   [⟨0, 32, .rw, false, false⟩]⟩
def SYS_CMT_TLO_T_LO : RegFld := ⟨SYS_CMT_TLO, 0, 32⟩
/-- 01_architecture: SYS_CMT_THI: offset 0x0118, chip reset. -/
def SYS_CMT_THI : Reg :=
  ⟨0x40000118, 1, 0x0, 1, 0x0, .chip, none, fun _ _ => 0x00000000,
   [⟨0, 32, .rw, false, false⟩]⟩
def SYS_CMT_THI_T_HI : RegFld := ⟨SYS_CMT_THI, 0, 32⟩
/-- 01_architecture: SYS_CMT_ERR: offset 0x011C, chip reset. -/
def SYS_CMT_ERR : Reg :=
  ⟨0x4000011C, 1, 0x0, 1, 0x0, .chip, none, fun _ _ => 0x00000000,
   [⟨0, 7, .ro, false, false⟩, ⟨8, 6, .ro, false, false⟩, ⟨16, 4, .ro, false, false⟩, ⟨31, 1, .w1c, false, false⟩]⟩
def SYS_CMT_ERR_INST : RegFld := ⟨SYS_CMT_ERR, 0, 7⟩
def SYS_CMT_ERR_MASTER : RegFld := ⟨SYS_CMT_ERR, 8, 6⟩
def SYS_CMT_ERR_CODE : RegFld := ⟨SYS_CMT_ERR, 16, 4⟩
def SYS_CMT_ERR_VALID : RegFld := ⟨SYS_CMT_ERR, 31, 1⟩
/-- 01_architecture: SYS_CMT_STATn: offset 0x0200 + 4 × n, n = 0 to 80, chip reset. -/
def SYS_CMT_STAT : Reg :=
  ⟨0x40000200, 81, 0x4, 1, 0x0, .chip, none, fun _ _ => 0x00000004,
   [⟨0, 1, .ro, false, false⟩, ⟨1, 1, .ro, false, false⟩, ⟨2, 1, .ro, false, false⟩, ⟨4, 4, .ro, false, false⟩, ⟨8, 8,
    .ro, false, false⟩, ⟨16, 8, .ro, false, false⟩]⟩
def SYS_CMT_STAT_PEND_NEXT : RegFld := ⟨SYS_CMT_STAT, 0, 1⟩
def SYS_CMT_STAT_PEND_TIMED : RegFld := ⟨SYS_CMT_STAT, 1, 1⟩
def SYS_CMT_STAT_IDLE : RegFld := ⟨SYS_CMT_STAT, 2, 1⟩
def SYS_CMT_STAT_MISS_CAUSE : RegFld := ⟨SYS_CMT_STAT, 4, 4⟩
def SYS_CMT_STAT_APPLIED : RegFld := ⟨SYS_CMT_STAT, 8, 8⟩
def SYS_CMT_STAT_MISSED : RegFld := ⟨SYS_CMT_STAT, 16, 8⟩
/-- The registers of block SYS. -/
def regsSys : List Reg :=
  [SYS_SCYC_PER, SYS_CMT_ARM, SYS_CMT_TLO, SYS_CMT_THI, SYS_CMT_ERR, SYS_CMT_STAT]

/-- 02_boot_and_image: BOOT_STAT: BOOT offset 0x000, chip reset. -/
def BOOT_STAT : Reg :=
  ⟨0x40038000, 1, 0x0, 1, 0x0, .chip, none, fun _ _ => 0x00000000,
   [⟨0, 2, .ro, false, false⟩, ⟨2, 1, .ro, false, false⟩, ⟨3, 1, .ro, false, false⟩, ⟨4, 1, .ro, false, false⟩, ⟨5, 1,
    .ro, false, false⟩, ⟨6, 1, .ro, false, false⟩, ⟨7, 1, .ro, false, false⟩, ⟨8, 8, .ro, false, false⟩, ⟨16, 8, .ro,
    false, false⟩, ⟨24, 2, .ro, false, false⟩]⟩
def BOOT_STAT_BOOTSEL : RegFld := ⟨BOOT_STAT, 0, 2⟩
def BOOT_STAT_IMG : RegFld := ⟨BOOT_STAT, 2, 1⟩
def BOOT_STAT_FALLBACK : RegFld := ⟨BOOT_STAT, 3, 1⟩
def BOOT_STAT_CLK_DEGRADED : RegFld := ⟨BOOT_STAT, 4, 1⟩
def BOOT_STAT_CONFIRMED : RegFld := ⟨BOOT_STAT, 5, 1⟩
def BOOT_STAT_HELD : RegFld := ⟨BOOT_STAT, 6, 1⟩
def BOOT_STAT_SELREJ : RegFld := ⟨BOOT_STAT, 7, 1⟩
def BOOT_STAT_REJ_A : RegFld := ⟨BOOT_STAT, 8, 8⟩
def BOOT_STAT_REJ_B : RegFld := ⟨BOOT_STAT, 16, 8⟩
def BOOT_STAT_TRIES : RegFld := ⟨BOOT_STAT, 24, 2⟩
/-- 02_boot_and_image: BOOT_CTL: BOOT offset 0x004, chip reset. -/
def BOOT_CTL : Reg :=
  ⟨0x40038004, 1, 0x0, 1, 0x0, .chip, none, fun _ _ => 0x00000000,
   [⟨0, 1, .wo, true, false⟩, ⟨1, 1, .wo, true, false⟩, ⟨2, 1, .wo, false, false⟩]⟩
def BOOT_CTL_CONFIRM : RegFld := ⟨BOOT_CTL, 0, 1⟩
def BOOT_CTL_ARB_ADV : RegFld := ⟨BOOT_CTL, 1, 1⟩
def BOOT_CTL_GO : RegFld := ⟨BOOT_CTL, 2, 1⟩
/-- 02_boot_and_image: BOOT_NEXT: BOOT offset 0x008, sill reset. -/
def BOOT_NEXT : Reg :=
  ⟨0x40038008, 1, 0x0, 1, 0x0, .sill, none, fun _ _ => 0x00000000,
   [⟨0, 2, .rw, true, false⟩, ⟨2, 1, .rw, true, false⟩]⟩
def BOOT_NEXT_PREF : RegFld := ⟨BOOT_NEXT, 0, 2⟩
def BOOT_NEXT_ONCE : RegFld := ⟨BOOT_NEXT, 2, 1⟩
/-- 02_boot_and_image: BOOT_SECATTR: BOOT offset 0x00C, chip reset. -/
def BOOT_SECATTR : Reg :=
  ⟨0x4003800C, 1, 0x0, 1, 0x0, .chip, none, fun _ _ => 0x00000000,
   [⟨0, 16, .rw, true, true⟩, ⟨16, 1, .rw, true, true⟩]⟩
def BOOT_SECATTR_DMA_SEC : RegFld := ⟨BOOT_SECATTR, 0, 16⟩
def BOOT_SECATTR_STN_SEC : RegFld := ⟨BOOT_SECATTR, 16, 1⟩
/-- 02_boot_and_image: BOOT_ARB: BOOT offset 0x010, chip reset. -/
def BOOT_ARB : Reg :=
  ⟨0x40038010, 1, 0x0, 1, 0x0, .chip, none, fun _ _ => 0x00000000,
   [⟨0, 7, .ro, false, false⟩, ⟨8, 6, .ro, false, false⟩, ⟨14, 2, .ro, false, false⟩, ⟨16, 4, .ro, false, false⟩]⟩
def BOOT_ARB_IMG_FLOOR : RegFld := ⟨BOOT_ARB, 0, 7⟩
def BOOT_ARB_LOAD_FLOOR : RegFld := ⟨BOOT_ARB, 8, 6⟩
def BOOT_ARB_LIFECYCLE : RegFld := ⟨BOOT_ARB, 14, 2⟩
def BOOT_ARB_REVOKED : RegFld := ⟨BOOT_ARB, 16, 4⟩
/-- 02_boot_and_image: BOOT_FADDR: BOOT offset 0x020, chip reset. -/
def BOOT_FADDR : Reg :=
  ⟨0x40038020, 1, 0x0, 1, 0x0, .chip, none, fun _ _ => 0x00000000,
   [⟨0, 28, .rw, false, false⟩]⟩
/-- 02_boot_and_image: BOOT_FCMD: BOOT offset 0x024, chip reset. -/
def BOOT_FCMD : Reg :=
  ⟨0x40038024, 1, 0x0, 1, 0x0, .chip, none, fun _ _ => 0x00000000,
   [⟨0, 3, .wo, false, false⟩, ⟨8, 1, .ro, false, false⟩, ⟨16, 8, .ro, false, false⟩]⟩
def BOOT_FCMD_OP : RegFld := ⟨BOOT_FCMD, 0, 3⟩
def BOOT_FCMD_BUSY : RegFld := ⟨BOOT_FCMD, 8, 1⟩
def BOOT_FCMD_RESULT : RegFld := ⟨BOOT_FCMD, 16, 8⟩
/-- 02_boot_and_image: BOOT_HCTL: BOOT offset 0x030, chip reset. -/
def BOOT_HCTL : Reg :=
  ⟨0x40038030, 1, 0x0, 1, 0x0, .chip, none, fun _ _ => 0x00000000,
   [⟨0, 2, .rw, false, false⟩, ⟨2, 1, .wo, false, false⟩, ⟨3, 1, .wo, false, false⟩]⟩
def BOOT_HCTL_MODE : RegFld := ⟨BOOT_HCTL, 0, 2⟩
def BOOT_HCTL_DONE : RegFld := ⟨BOOT_HCTL, 2, 1⟩
def BOOT_HCTL_ABORT : RegFld := ⟨BOOT_HCTL, 3, 1⟩
/-- 02_boot_and_image: BOOT_HSTAT: BOOT offset 0x048, chip reset. -/
def BOOT_HSTAT : Reg :=
  ⟨0x40038048, 1, 0x0, 1, 0x0, .chip, none, fun _ _ => 0x00000000,
   [⟨0, 8, .ro, false, false⟩, ⟨8, 1, .ro, false, false⟩]⟩
def BOOT_HSTAT_REJ : RegFld := ⟨BOOT_HSTAT, 0, 8⟩
def BOOT_HSTAT_BUSY : RegFld := ⟨BOOT_HSTAT, 8, 1⟩
/-- 02_boot_and_image: BOOT_FBUF: BOOT offsets 0x100 to 0x1FC, 64 words, RW, reset X. -/
def BOOT_FBUF : Reg :=
  ⟨0x40038100, 64, 0x4, 1, 0x0, .chip, none, fun _ _ => 0x00000000,
   [⟨0, 32, .rw, false, false⟩]⟩
/-- 02_boot_and_image: BOOT_HADDR_LO, BOOT_HADDR_HI and BOOT_HSIZE: BOOT offsets 0x034, 0x038 and 0x03C, chip
reset. -/
def BOOT_HADDR_LO : Reg :=
  ⟨0x40038034, 1, 0x0, 1, 0x0, .chip, none, fun _ _ => 0x00000000,
   [⟨0, 32, .rw, false, false⟩]⟩
/-- 02_boot_and_image: BOOT_HADDR_LO, BOOT_HADDR_HI and BOOT_HSIZE: BOOT offsets 0x034, 0x038 and 0x03C, chip
reset. -/
def BOOT_HADDR_HI : Reg :=
  ⟨0x40038038, 1, 0x0, 1, 0x0, .chip, none, fun _ _ => 0x00000000,
   [⟨0, 32, .rw, false, false⟩]⟩
/-- 02_boot_and_image: BOOT_HADDR_LO, BOOT_HADDR_HI and BOOT_HSIZE: BOOT offsets 0x034, 0x038 and 0x03C, chip
reset. -/
def BOOT_HSIZE : Reg :=
  ⟨0x4003803C, 1, 0x0, 1, 0x0, .chip, none, fun _ _ => 0x00000000,
   [⟨0, 27, .rw, false, false⟩]⟩
def BOOT_HSIZE_SIZE : RegFld := ⟨BOOT_HSIZE, 0, 27⟩
/-- 02_boot_and_image: BOOT_HREQ_OFS and BOOT_HREQ_LEN: BOOT offsets 0x040 and 0x044, chip reset. -/
def BOOT_HREQ_OFS : Reg :=
  ⟨0x40038040, 1, 0x0, 1, 0x0, .chip, none, fun _ _ => 0x00000000,
   [⟨0, 26, .ro, false, false⟩]⟩
def BOOT_HREQ_OFS_OFS : RegFld := ⟨BOOT_HREQ_OFS, 0, 26⟩
/-- 02_boot_and_image: BOOT_HREQ_OFS and BOOT_HREQ_LEN: BOOT offsets 0x040 and 0x044, chip reset. -/
def BOOT_HREQ_LEN : Reg :=
  ⟨0x40038044, 1, 0x0, 1, 0x0, .chip, none, fun _ _ => 0x00000000,
   [⟨0, 13, .ro, false, false⟩, ⟨31, 1, .ro, false, false⟩]⟩
def BOOT_HREQ_LEN_LEN : RegFld := ⟨BOOT_HREQ_LEN, 0, 13⟩
def BOOT_HREQ_LEN_REQ : RegFld := ⟨BOOT_HREQ_LEN, 31, 1⟩
/-- 02_boot_and_image: BOOT_HBUF: BOOT offsets 0x1000 to 0x1FFC, 1,024 words, RW, reset X. -/
def BOOT_HBUF : Reg :=
  ⟨0x40039000, 1024, 0x4, 1, 0x0, .chip, none, fun _ _ => 0x00000000,
   [⟨0, 32, .rw, false, false⟩]⟩
/-- The registers of block BOOT. -/
def regsBoot : List Reg :=
  [BOOT_STAT, BOOT_CTL, BOOT_NEXT, BOOT_SECATTR, BOOT_ARB, BOOT_FADDR, BOOT_FCMD, BOOT_HCTL, BOOT_HSTAT, BOOT_FBUF,
    BOOT_HADDR_LO, BOOT_HADDR_HI, BOOT_HSIZE, BOOT_HREQ_OFS, BOOT_HREQ_LEN, BOOT_HBUF]

/-- 02_boot_and_image: SEC_OTP_REVOKE: SEC offset 0x030, chip reset. -/
def SEC_OTP_REVOKE : Reg :=
  ⟨0x40030030, 1, 0x0, 1, 0x0, .chip, none, fun _ _ => 0x00000000,
   [⟨0, 2, .wo, true, false⟩, ⟨16, 16, .wo, true, false⟩]⟩
def SEC_OTP_REVOKE_SLOT : RegFld := ⟨SEC_OTP_REVOKE, 0, 2⟩
def SEC_OTP_REVOKE_KEY : RegFld := ⟨SEC_OTP_REVOKE, 16, 16⟩
/-- 02_boot_and_image: SEC_LMS_STAT: SEC offset 0x040, chip reset. -/
def SEC_LMS_STAT : Reg :=
  ⟨0x40030040, 1, 0x0, 1, 0x0, .chip, none, fun _ _ => 0x00000000,
   [⟨0, 21, .ro, true, false⟩, ⟨21, 1, .ro, true, false⟩, ⟨22, 1, .ro, true, false⟩]⟩
def SEC_LMS_STAT_NEXT_Q : RegFld := ⟨SEC_LMS_STAT, 0, 21⟩
def SEC_LMS_STAT_WARN : RegFld := ⟨SEC_LMS_STAT, 21, 1⟩
def SEC_LMS_STAT_EXHAUSTED : RegFld := ⟨SEC_LMS_STAT, 22, 1⟩
/-- The registers of block SEC. -/
def regsSec : List Reg :=
  [SEC_OTP_REVOKE, SEC_LMS_STAT]

/-- 03_engines: ENG_CTL: offset 0x000, engine reset. -/
def ENG_CTL : Reg :=
  ⟨0x40100000, 32, 0x1000, 1, 0x0, .engine, none, fun _ _ => 0x00000000,
   [⟨0, 1, .wo, false, false⟩, ⟨1, 1, .rw, false, false⟩]⟩
def ENG_CTL_RST : RegFld := ⟨ENG_CTL, 0, 1⟩
def ENG_CTL_HALT : RegFld := ⟨ENG_CTL, 1, 1⟩
/-- 03_engines: ENG_LOAD: offset 0x004, chip reset. -/
def ENG_LOAD : Reg :=
  ⟨0x40100004, 32, 0x1000, 1, 0x0, .chip, none, fun _ _ => 0x00000000,
   [⟨0, 5, .rw, false, true⟩, ⟨8, 3, .rw, false, true⟩, ⟨16, 16, .rw, false, true⟩]⟩
def ENG_LOAD_LOAD : RegFld := ⟨ENG_LOAD, 0, 5⟩
def ENG_LOAD_CGRP : RegFld := ⟨ENG_LOAD, 8, 3⟩
def ENG_LOAD_LOADID : RegFld := ⟨ENG_LOAD, 16, 16⟩
/-- 03_engines: ENG_DFCTL: offset 0x010, engine reset. -/
def ENG_DFCTL : Reg :=
  ⟨0x40100010, 32, 0x1000, 1, 0x0, .engine, none, fun _ _ => 0x00010000,
   [⟨0, 20, .rw, false, false⟩]⟩
def ENG_DFCTL_HLIM : RegFld := ⟨ENG_DFCTL, 0, 20⟩
/-- 03_engines: ENG_DFSTAT: offset 0x014, engine reset. -/
def ENG_DFSTAT : Reg :=
  ⟨0x40100014, 32, 0x1000, 1, 0x0, .engine, none, fun _ _ => 0x00000000,
   [⟨0, 3, .ro, false, false⟩, ⟨3, 2, .ro, false, false⟩, ⟨5, 1, .ro, false, false⟩, ⟨6, 1, .ro, false, false⟩, ⟨7, 1,
    .ro, false, false⟩, ⟨8, 7, .ro, false, false⟩, ⟨15, 6, .ro, false, false⟩, ⟨21, 4, .ro, false, false⟩]⟩
def ENG_DFSTAT_STATE : RegFld := ⟨ENG_DFSTAT, 0, 3⟩
def ENG_DFSTAT_CONF : RegFld := ⟨ENG_DFSTAT, 3, 2⟩
def ENG_DFSTAT_TOKREQ : RegFld := ⟨ENG_DFSTAT, 5, 1⟩
def ENG_DFSTAT_TOKHELD : RegFld := ⟨ENG_DFSTAT, 6, 1⟩
def ENG_DFSTAT_REEX : RegFld := ⟨ENG_DFSTAT, 7, 1⟩
def ENG_DFSTAT_CBUF : RegFld := ⟨ENG_DFSTAT, 8, 7⟩
def ENG_DFSTAT_RSET : RegFld := ⟨ENG_DFSTAT, 15, 6⟩
def ENG_DFSTAT_SLOTS : RegFld := ⟨ENG_DFSTAT, 21, 4⟩
/-- 03_engines: ENG_ERR: offset 0x038, engine reset. -/
def ENG_ERR : Reg :=
  ⟨0x40100038, 32, 0x1000, 1, 0x0, .engine, none, fun _ _ => 0x00000000,
   [⟨0, 4, .ro, false, false⟩, ⟨31, 1, .w1c, false, false⟩]⟩
def ENG_ERR_CAUSE : RegFld := ⟨ENG_ERR, 0, 4⟩
def ENG_ERR_VALID : RegFld := ⟨ENG_ERR, 31, 1⟩
/-- 03_engines: ENG_ERRADDR: offset 0x03C, engine reset. -/
def ENG_ERRADDR : Reg :=
  ⟨0x4010003C, 32, 0x1000, 1, 0x0, .engine, none, fun _ _ => 0x00000000,
   [⟨0, 32, .ro, false, false⟩]⟩
/-- 03_engines: ENG_WQSTAT: offset 0x080, engine reset. -/
def ENG_WQSTAT : Reg :=
  ⟨0x40100080, 32, 0x1000, 1, 0x0, .engine, none, fun _ _ => 0x00000000,
   [⟨0, 7, .ro, false, false⟩, ⟨16, 16, .rw, false, false⟩]⟩
def ENG_WQSTAT_LEVEL : RegFld := ⟨ENG_WQSTAT, 0, 7⟩
def ENG_WQSTAT_DROPS : RegFld := ⟨ENG_WQSTAT, 16, 16⟩
/-- 03_engines: ENG_TAGCTL: offset 0x200, engine reset. -/
def ENG_TAGCTL : Reg :=
  ⟨0x40100200, 32, 0x1000, 1, 0x0, .engine, none, fun _ _ => 0x00000400,
   [⟨0, 16, .rw, false, false⟩, ⟨16, 1, .rw, false, false⟩]⟩
def ENG_TAGCTL_PERIOD : RegFld := ⟨ENG_TAGCTL, 0, 16⟩
def ENG_TAGCTL_EN : RegFld := ⟨ENG_TAGCTL, 16, 1⟩
/-- 03_engines: Table 3-8 engine counter, saturating, offset 0x020. -/
def ENG_CNT_COMMIT : Reg :=
  ⟨0x40100020, 32, 0x1000, 1, 0x0, .engine, none, fun _ _ => 0x00000000,
   [⟨0, 32, .rw, false, false⟩]⟩
/-- 03_engines: Table 3-8 engine counter, saturating, offset 0x024. -/
def ENG_CNT_CONF : Reg :=
  ⟨0x40100024, 32, 0x1000, 1, 0x0, .engine, none, fun _ _ => 0x00000000,
   [⟨0, 32, .rw, false, false⟩]⟩
/-- 03_engines: Table 3-8 engine counter, saturating, offset 0x028. -/
def ENG_CNT_BAD : Reg :=
  ⟨0x40100028, 32, 0x1000, 1, 0x0, .engine, none, fun _ _ => 0x00000000,
   [⟨0, 32, .rw, false, false⟩]⟩
/-- 03_engines: Table 3-8 engine counter, saturating, offset 0x02C. -/
def ENG_CNT_SERIAL : Reg :=
  ⟨0x4010002C, 32, 0x1000, 1, 0x0, .engine, none, fun _ _ => 0x00000000,
   [⟨0, 32, .rw, false, false⟩]⟩
/-- 03_engines: Table 3-8 engine counter, saturating, offset 0x030. -/
def ENG_CNT_SOFT : Reg :=
  ⟨0x40100030, 32, 0x1000, 1, 0x0, .engine, none, fun _ _ => 0x00000000,
   [⟨0, 32, .rw, false, false⟩]⟩
/-- 03_engines: Table 3-8 engine counter, saturating, offset 0x034. -/
def ENG_CNT_DROP : Reg :=
  ⟨0x40100034, 32, 0x1000, 1, 0x0, .engine, none, fun _ _ => 0x00000000,
   [⟨0, 32, .rw, false, false⟩]⟩
/-- 03_engines: ENG_BINDk: offset 0x040 + 4 × k, k = 0 to 15, chip reset. -/
def ENG_BIND : Reg :=
  ⟨0x40100040, 32, 0x1000, 16, 0x4, .chip, none, fun _ _ => 0x00000000,
   [⟨0, 6, .rw, false, true⟩, ⟨7, 1, .rw, false, true⟩]⟩
def ENG_BIND_LANE : RegFld := ⟨ENG_BIND, 0, 6⟩
def ENG_BIND_VALID : RegFld := ⟨ENG_BIND, 7, 1⟩
/-- 03_engines: ENG_PMCYC_LO offset 0x100, engine reset. -/
def ENG_PMCYC_LO : Reg :=
  ⟨0x40100100, 32, 0x1000, 1, 0x0, .engine, none, fun _ _ => 0x00000000,
   [⟨0, 32, .ro, false, false⟩]⟩
def ENG_PMCYC_LO_CYC : RegFld := ⟨ENG_PMCYC_LO, 0, 32⟩
/-- 03_engines: ENG_PMCYC_HI offset 0x104, engine reset. -/
def ENG_PMCYC_HI : Reg :=
  ⟨0x40100104, 32, 0x1000, 1, 0x0, .engine, none, fun _ _ => 0x00000000,
   [⟨0, 32, .ro, false, false⟩]⟩
def ENG_PMCYC_HI_CYC : RegFld := ⟨ENG_PMCYC_HI, 0, 32⟩
/-- 03_engines: ENG_PMSELk: offset 0x110 + 4 × k, k = 0 to 7, engine reset. -/
def ENG_PMSEL : Reg :=
  ⟨0x40100110, 32, 0x1000, 8, 0x4, .engine, none, fun _ _ => 0x00000000,
   [⟨0, 8, .rw, false, false⟩, ⟨8, 1, .rw, false, false⟩, ⟨9, 1, .rw, false, false⟩, ⟨10, 1, .rw, false, false⟩]⟩
def ENG_PMSEL_EVENT : RegFld := ⟨ENG_PMSEL, 0, 8⟩
def ENG_PMSEL_EDGE : RegFld := ⟨ENG_PMSEL, 8, 1⟩
def ENG_PMSEL_CHAIN : RegFld := ⟨ENG_PMSEL, 9, 1⟩
def ENG_PMSEL_EN : RegFld := ⟨ENG_PMSEL, 10, 1⟩
/-- 03_engines: ENG_PMCNTk_LO and ENG_PMCNTk_HI: offsets 0x140 + 8 × k and 0x144 + 8 × k, k = 0 to 7, engine
reset. -/
def ENG_PMCNT_LO : Reg :=
  ⟨0x40100140, 32, 0x1000, 8, 0x8, .engine, none, fun _ _ => 0x00000000,
   [⟨0, 32, .rw, false, false⟩]⟩
def ENG_PMCNT_LO_CNT : RegFld := ⟨ENG_PMCNT_LO, 0, 32⟩
/-- 03_engines: ENG_PMCNTk_LO and ENG_PMCNTk_HI: offsets 0x140 + 8 × k and 0x144 + 8 × k, k = 0 to 7, engine
reset. -/
def ENG_PMCNT_HI : Reg :=
  ⟨0x40100144, 32, 0x1000, 8, 0x8, .engine, none, fun _ _ => 0x00000000,
   [⟨0, 16, .rw, false, false⟩]⟩
def ENG_PMCNT_HI_CNT : RegFld := ⟨ENG_PMCNT_HI, 0, 16⟩
/-- 03_engines: ENG_TAGREC0 to ENG_TAGREC2: offsets 0x210 to 0x218, engine reset. -/
def ENG_TAGREC0 : Reg :=
  ⟨0x40100210, 32, 0x1000, 1, 0x0, .engine, none, fun _ _ => 0x00000000,
   [⟨0, 32, .ro, false, false⟩]⟩
def ENG_TAGREC0_PC : RegFld := ⟨ENG_TAGREC0, 0, 32⟩
/-- 03_engines: ENG_TAGREC0 to ENG_TAGREC2: offsets 0x210 to 0x218, engine reset. -/
def ENG_TAGREC1 : Reg :=
  ⟨0x40100214, 32, 0x1000, 1, 0x0, .engine, none, fun _ _ => 0x00000000,
   [⟨0, 8, .ro, false, false⟩, ⟨8, 8, .ro, false, false⟩, ⟨16, 8, .ro, false, false⟩, ⟨24, 8, .ro, false, false⟩]⟩
def ENG_TAGREC1_T_FD : RegFld := ⟨ENG_TAGREC1, 0, 8⟩
def ENG_TAGREC1_T_DX : RegFld := ⟨ENG_TAGREC1, 8, 8⟩
def ENG_TAGREC1_T_XM : RegFld := ⟨ENG_TAGREC1, 16, 8⟩
def ENG_TAGREC1_T_MW : RegFld := ⟨ENG_TAGREC1, 24, 8⟩
/-- 03_engines: ENG_TAGREC0 to ENG_TAGREC2: offsets 0x210 to 0x218, engine reset. -/
def ENG_TAGREC2 : Reg :=
  ⟨0x40100218, 32, 0x1000, 1, 0x0, .engine, none, fun _ _ => 0x00000000,
   [⟨0, 3, .ro, false, false⟩, ⟨3, 1, .ro, false, false⟩, ⟨8, 3, .ro, false, false⟩, ⟨31, 1, .w1c, false, false⟩]⟩
def ENG_TAGREC2_FATE : RegFld := ⟨ENG_TAGREC2, 0, 3⟩
def ENG_TAGREC2_DRY : RegFld := ⟨ENG_TAGREC2, 3, 1⟩
def ENG_TAGREC2_EXEC : RegFld := ⟨ENG_TAGREC2, 8, 3⟩
def ENG_TAGREC2_VALID : RegFld := ⟨ENG_TAGREC2, 31, 1⟩
/-- The registers of block ENG. -/
def regsEng : List Reg :=
  [ENG_CTL, ENG_LOAD, ENG_DFCTL, ENG_DFSTAT, ENG_ERR, ENG_ERRADDR, ENG_WQSTAT, ENG_TAGCTL, ENG_CNT_COMMIT,
    ENG_CNT_CONF, ENG_CNT_BAD, ENG_CNT_SERIAL, ENG_CNT_SOFT, ENG_CNT_DROP, ENG_BIND, ENG_PMCYC_LO, ENG_PMCYC_HI,
    ENG_PMSEL, ENG_PMCNT_LO, ENG_PMCNT_HI, ENG_TAGREC0, ENG_TAGREC1, ENG_TAGREC2]

/-- 06_memory_dma: MEM_BANKOWNb: MEM offset 0x000 + 4 × b, b = 0 to 15, chip reset. -/
def MEM_BANKOWN : Reg :=
  ⟨0x40070000, 16, 0x4, 1, 0x0, .chip, none, fun _ _ => 0x00000001,
   [⟨0, 6, .rw, false, false⟩]⟩
def MEM_BANKOWN_OWNER : RegFld := ⟨MEM_BANKOWN, 0, 6⟩
/-- 06_memory_dma: MEM_ACCERR: MEM offset 0x040, block reset. -/
def MEM_ACCERR : Reg :=
  ⟨0x40070040, 1, 0x0, 1, 0x0, .block, none, fun _ _ => 0x00000000,
   [⟨0, 6, .ro, false, false⟩, ⟨8, 2, .ro, false, false⟩, ⟨10, 1, .ro, false, false⟩, ⟨31, 1, .w1c, false, false⟩]⟩
def MEM_ACCERR_MASTER : RegFld := ⟨MEM_ACCERR, 0, 6⟩
def MEM_ACCERR_CAUSE : RegFld := ⟨MEM_ACCERR, 8, 2⟩
def MEM_ACCERR_WRITE : RegFld := ⟨MEM_ACCERR, 10, 1⟩
def MEM_ACCERR_VALID : RegFld := ⟨MEM_ACCERR, 31, 1⟩
/-- 06_memory_dma: MEM_ACCERR_ADDR: MEM offset 0x044. -/
def MEM_ACCERR_ADDR : Reg :=
  ⟨0x40070044, 1, 0x0, 1, 0x0, .block, none, fun _ _ => 0x00000000,
   [⟨0, 32, .ro, false, false⟩]⟩
/-- 06_memory_dma: MEM_COLL: MEM offset 0x050, block reset. -/
def MEM_COLL : Reg :=
  ⟨0x40070050, 1, 0x0, 1, 0x0, .block, none, fun _ _ => 0x00000000,
   [⟨0, 6, .ro, false, false⟩, ⟨8, 6, .ro, false, false⟩, ⟨16, 8, .ro, false, false⟩, ⟨31, 1, .w1c, false, false⟩]⟩
def MEM_COLL_CORE : RegFld := ⟨MEM_COLL, 0, 6⟩
def MEM_COLL_PORTB : RegFld := ⟨MEM_COLL, 8, 6⟩
def MEM_COLL_COUNT : RegFld := ⟨MEM_COLL, 16, 8⟩
def MEM_COLL_VALID : RegFld := ⟨MEM_COLL, 31, 1⟩
/-- 06_memory_dma: MEM_COLL_ADDR: MEM offset 0x054. -/
def MEM_COLL_ADDR : Reg :=
  ⟨0x40070054, 1, 0x0, 1, 0x0, .block, none, fun _ _ => 0x00000000,
   [⟨0, 32, .ro, false, false⟩]⟩
/-- 06_memory_dma: MEM_INTEG: MEM offset 0x060, block reset. -/
def MEM_INTEG : Reg :=
  ⟨0x40070060, 1, 0x0, 1, 0x0, .block, none, fun _ _ => 0x00000000,
   [⟨0, 4, .ro, false, false⟩, ⟨8, 6, .ro, false, false⟩, ⟨31, 1, .w1c, false, false⟩]⟩
def MEM_INTEG_CAUSE : RegFld := ⟨MEM_INTEG, 0, 4⟩
def MEM_INTEG_MASTER : RegFld := ⟨MEM_INTEG, 8, 6⟩
def MEM_INTEG_VALID : RegFld := ⟨MEM_INTEG, 31, 1⟩
/-- 06_memory_dma: MEM_INTEG_ADDR: MEM offset 0x064. -/
def MEM_INTEG_ADDR : Reg :=
  ⟨0x40070064, 1, 0x0, 1, 0x0, .block, none, fun _ _ => 0x00000000,
   [⟨0, 32, .ro, false, false⟩]⟩
/-- 06_memory_dma: Table 6-6 memory counter, saturating. -/
def MEM_CNT_PAR : Reg :=
  ⟨0x40070070, 1, 0x0, 1, 0x0, .block, none, fun _ _ => 0x00000000,
   [⟨0, 32, .rw, false, false⟩]⟩
/-- 06_memory_dma: Table 6-6 memory counter, saturating. -/
def MEM_CNT_RELOAD : Reg :=
  ⟨0x40070074, 1, 0x0, 1, 0x0, .block, none, fun _ _ => 0x00000000,
   [⟨0, 32, .rw, false, false⟩]⟩
/-- 06_memory_dma: Table 6-6 memory counter, saturating. -/
def MEM_CNT_POISON : Reg :=
  ⟨0x40070078, 1, 0x0, 1, 0x0, .block, none, fun _ _ => 0x00000000,
   [⟨0, 32, .rw, false, false⟩]⟩
/-- 06_memory_dma: Table 6-6 memory counter, saturating. -/
def MEM_CNT_CELL : Reg :=
  ⟨0x4007007C, 1, 0x0, 1, 0x0, .block, none, fun _ _ => 0x00000000,
   [⟨0, 32, .rw, false, false⟩]⟩
/-- The registers of block MEM. -/
def regsMem : List Reg :=
  [MEM_BANKOWN, MEM_ACCERR, MEM_ACCERR_ADDR, MEM_COLL, MEM_COLL_ADDR, MEM_INTEG, MEM_INTEG_ADDR, MEM_CNT_PAR,
    MEM_CNT_RELOAD, MEM_CNT_POISON, MEM_CNT_CELL]

/-- 06_memory_dma: DMA_CTL: offset 0x00, block reset. -/
def DMA_CTL : Reg :=
  ⟨0x40060000, 16, 0x100, 1, 0x0, .block, none, fun _ _ => 0x00000000,
   [⟨0, 1, .rw, false, false⟩, ⟨1, 2, .rw, false, false⟩, ⟨3, 2, .rw, false, false⟩, ⟨5, 2, .rw, false, false⟩, ⟨7, 2,
    .rw, false, false⟩, ⟨9, 1, .rw, false, false⟩]⟩
def DMA_CTL_EN : RegFld := ⟨DMA_CTL, 0, 1⟩
def DMA_CTL_MODE : RegFld := ⟨DMA_CTL, 1, 2⟩
def DMA_CTL_SRC_SP : RegFld := ⟨DMA_CTL, 3, 2⟩
def DMA_CTL_DST_SP : RegFld := ⟨DMA_CTL, 5, 2⟩
def DMA_CTL_RSP : RegFld := ⟨DMA_CTL, 7, 2⟩
def DMA_CTL_IE_DONE : RegFld := ⟨DMA_CTL, 9, 1⟩
/-- 06_memory_dma: DMA_STAT: offset 0x04, block reset. -/
def DMA_STAT : Reg :=
  ⟨0x40060004, 16, 0x100, 1, 0x0, .block, none, fun _ _ => 0x00000000,
   [⟨0, 1, .ro, false, false⟩, ⟨1, 1, .ro, false, false⟩, ⟨2, 1, .ro, false, false⟩, ⟨3, 1, .w1c, false, false⟩, ⟨4,
    1, .w1c, false, false⟩, ⟨5, 1, .ro, false, false⟩, ⟨6, 2, .ro, false, false⟩]⟩
def DMA_STAT_BUSY : RegFld := ⟨DMA_STAT, 0, 1⟩
def DMA_STAT_HALTED : RegFld := ⟨DMA_STAT, 1, 1⟩
def DMA_STAT_SHADOW_VALID : RegFld := ⟨DMA_STAT, 2, 1⟩
def DMA_STAT_DONE : RegFld := ⟨DMA_STAT, 3, 1⟩
def DMA_STAT_ERR : RegFld := ⟨DMA_STAT, 4, 1⟩
def DMA_STAT_ERR_DIR : RegFld := ⟨DMA_STAT, 5, 1⟩
def DMA_STAT_ERR_SP : RegFld := ⟨DMA_STAT, 6, 2⟩
/-- 06_memory_dma: Table 6-7, shadow set. -/
def DMA_SRC_LO : Reg :=
  ⟨0x40060008, 16, 0x100, 1, 0x0, .block, none, fun _ _ => 0x00000000,
   [⟨0, 32, .rw, false, false⟩]⟩
/-- 06_memory_dma: Table 6-7, shadow set. -/
def DMA_SRC_HI : Reg :=
  ⟨0x4006000C, 16, 0x100, 1, 0x0, .block, none, fun _ _ => 0x00000000,
   [⟨0, 32, .rw, false, false⟩]⟩
/-- 06_memory_dma: Table 6-7, shadow set. -/
def DMA_DST_LO : Reg :=
  ⟨0x40060010, 16, 0x100, 1, 0x0, .block, none, fun _ _ => 0x00000000,
   [⟨0, 32, .rw, false, false⟩]⟩
/-- 06_memory_dma: Table 6-7, shadow set. -/
def DMA_DST_HI : Reg :=
  ⟨0x40060014, 16, 0x100, 1, 0x0, .block, none, fun _ _ => 0x00000000,
   [⟨0, 32, .rw, false, false⟩]⟩
/-- 06_memory_dma: Table 6-7, shadow set. -/
def DMA_LEN : Reg :=
  ⟨0x40060018, 16, 0x100, 1, 0x0, .block, none, fun _ _ => 0x00000000,
   [⟨0, 24, .rw, false, false⟩]⟩
def DMA_LEN_LEN : RegFld := ⟨DMA_LEN, 0, 24⟩
/-- 06_memory_dma: Table 6-7: 1 makes the shadow valid (R218). -/
def DMA_GO : Reg :=
  ⟨0x4006001C, 16, 0x100, 1, 0x0, .block, none, fun _ _ => 0x00000000,
   [⟨0, 1, .wo, false, false⟩]⟩
def DMA_GO_GO : RegFld := ⟨DMA_GO, 0, 1⟩
/-- 06_memory_dma: Table 6-7, active set. -/
def DMA_ASRC_LO : Reg :=
  ⟨0x40060028, 16, 0x100, 1, 0x0, .block, none, fun _ _ => 0x00000000,
   [⟨0, 32, .ro, false, false⟩]⟩
/-- 06_memory_dma: Table 6-7, active set. -/
def DMA_ASRC_HI : Reg :=
  ⟨0x4006002C, 16, 0x100, 1, 0x0, .block, none, fun _ _ => 0x00000000,
   [⟨0, 32, .ro, false, false⟩]⟩
/-- 06_memory_dma: Table 6-7, active set. -/
def DMA_ADST_LO : Reg :=
  ⟨0x40060030, 16, 0x100, 1, 0x0, .block, none, fun _ _ => 0x00000000,
   [⟨0, 32, .ro, false, false⟩]⟩
/-- 06_memory_dma: Table 6-7, active set. -/
def DMA_ADST_HI : Reg :=
  ⟨0x40060034, 16, 0x100, 1, 0x0, .block, none, fun _ _ => 0x00000000,
   [⟨0, 32, .ro, false, false⟩]⟩
/-- 06_memory_dma: Table 6-7, active set. -/
def DMA_ALEN : Reg :=
  ⟨0x40060038, 16, 0x100, 1, 0x0, .block, none, fun _ _ => 0x00000000,
   [⟨0, 24, .ro, false, false⟩]⟩
def DMA_ALEN_LEN : RegFld := ⟨DMA_ALEN, 0, 24⟩
/-- 06_memory_dma: Table 6-7. -/
def DMA_BYTES : Reg :=
  ⟨0x40060040, 16, 0x100, 1, 0x0, .block, none, fun _ _ => 0x00000000,
   [⟨0, 24, .ro, false, false⟩]⟩
def DMA_BYTES_BYTES : RegFld := ⟨DMA_BYTES, 0, 24⟩
/-- 06_memory_dma: Table 6-7, failing address (R223). -/
def DMA_ERRA_LO : Reg :=
  ⟨0x40060044, 16, 0x100, 1, 0x0, .block, none, fun _ _ => 0x00000000,
   [⟨0, 32, .ro, false, false⟩]⟩
/-- 06_memory_dma: Table 6-7, failing address (R223). -/
def DMA_ERRA_HI : Reg :=
  ⟨0x40060048, 16, 0x100, 1, 0x0, .block, none, fun _ _ => 0x00000000,
   [⟨0, 32, .ro, false, false⟩]⟩
/-- 06_memory_dma: Table 6-7 ring base, bits [3:0] reserved. -/
def DMA_TRBASE_LO : Reg :=
  ⟨0x40060050, 16, 0x100, 1, 0x0, .block, none, fun _ _ => 0x00000000,
   [⟨4, 28, .rw, false, false⟩]⟩
def DMA_TRBASE_LO_BASE : RegFld := ⟨DMA_TRBASE_LO, 4, 28⟩
/-- 06_memory_dma: Table 6-7 ring base. -/
def DMA_TRBASE_HI : Reg :=
  ⟨0x40060054, 16, 0x100, 1, 0x0, .block, none, fun _ _ => 0x00000000,
   [⟨0, 32, .rw, false, false⟩]⟩
def DMA_TRBASE_HI_BASE : RegFld := ⟨DMA_TRBASE_HI, 0, 32⟩
/-- 06_memory_dma: Table 6-7: 2^K descriptors. -/
def DMA_TRSIZE : Reg :=
  ⟨0x40060058, 16, 0x100, 1, 0x0, .block, none, fun _ _ => 0x00000003,
   [⟨0, 4, .rw, false, false⟩]⟩
def DMA_TRSIZE_K : RegFld := ⟨DMA_TRSIZE, 0, 4⟩
/-- 06_memory_dma: Table 6-7 ring indices. -/
def DMA_TRIDX : Reg :=
  ⟨0x4006005C, 16, 0x100, 1, 0x0, .block, none, fun _ _ => 0x00000000,
   [⟨0, 12, .rw, false, false⟩, ⟨16, 12, .ro, false, false⟩]⟩
def DMA_TRIDX_TAIL : RegFld := ⟨DMA_TRIDX, 0, 12⟩
def DMA_TRIDX_HEAD : RegFld := ⟨DMA_TRIDX, 16, 12⟩
/-- 06_memory_dma: Table 6-7 ring base, bits [3:0] reserved. -/
def DMA_RRBASE_LO : Reg :=
  ⟨0x40060060, 16, 0x100, 1, 0x0, .block, none, fun _ _ => 0x00000000,
   [⟨4, 28, .rw, false, false⟩]⟩
def DMA_RRBASE_LO_BASE : RegFld := ⟨DMA_RRBASE_LO, 4, 28⟩
/-- 06_memory_dma: Table 6-7 ring base. -/
def DMA_RRBASE_HI : Reg :=
  ⟨0x40060064, 16, 0x100, 1, 0x0, .block, none, fun _ _ => 0x00000000,
   [⟨0, 32, .rw, false, false⟩]⟩
def DMA_RRBASE_HI_BASE : RegFld := ⟨DMA_RRBASE_HI, 0, 32⟩
/-- 06_memory_dma: Table 6-7: 2^K descriptors. -/
def DMA_RRSIZE : Reg :=
  ⟨0x40060068, 16, 0x100, 1, 0x0, .block, none, fun _ _ => 0x00000003,
   [⟨0, 4, .rw, false, false⟩]⟩
def DMA_RRSIZE_K : RegFld := ⟨DMA_RRSIZE, 0, 4⟩
/-- 06_memory_dma: Table 6-7 ring indices. -/
def DMA_RRIDX : Reg :=
  ⟨0x4006006C, 16, 0x100, 1, 0x0, .block, none, fun _ _ => 0x00000000,
   [⟨0, 12, .rw, false, false⟩, ⟨16, 12, .ro, false, false⟩]⟩
def DMA_RRIDX_TAIL : RegFld := ⟨DMA_RRIDX, 0, 12⟩
def DMA_RRIDX_HEAD : RegFld := ⟨DMA_RRIDX, 16, 12⟩
/-- The registers of block DMA. -/
def regsDma : List Reg :=
  [DMA_CTL, DMA_STAT, DMA_SRC_LO, DMA_SRC_HI, DMA_DST_LO, DMA_DST_HI, DMA_LEN, DMA_GO, DMA_ASRC_LO, DMA_ASRC_HI,
    DMA_ADST_LO, DMA_ADST_HI, DMA_ALEN, DMA_BYTES, DMA_ERRA_LO, DMA_ERRA_HI, DMA_TRBASE_LO, DMA_TRBASE_HI, DMA_TRSIZE,
    DMA_TRIDX, DMA_RRBASE_LO, DMA_RRBASE_HI, DMA_RRSIZE, DMA_RRIDX]

/-- 07_mailboxes_events: MBX_CFGm: offset 0x00, chip reset. -/
def MBX_CFG : Reg :=
  ⟨0x40040000, 64, 0x100, 1, 0x0, .chip, none, fun _ _ => 0x00000000,
   [⟨0, 6, .rw, false, true⟩, ⟨8, 6, .rw, false, true⟩, ⟨31, 1, .rw, false, true⟩]⟩
def MBX_CFG_SIDE0 : RegFld := ⟨MBX_CFG, 0, 6⟩
def MBX_CFG_SIDE1 : RegFld := ⟨MBX_CFG, 8, 6⟩
def MBX_CFG_EN : RegFld := ⟨MBX_CFG, 31, 1⟩
/-- 07_mailboxes_events: MBX_EPOCHm: offset 0x04, chip reset. -/
def MBX_EPOCH : Reg :=
  ⟨0x40040004, 64, 0x100, 1, 0x0, .chip, none, fun _ _ => 0x00000000,
   [⟨0, 8, .ro, false, false⟩, ⟨8, 8, .ro, false, false⟩]⟩
def MBX_EPOCH_EPOCH0 : RegFld := ⟨MBX_EPOCH, 0, 8⟩
def MBX_EPOCH_EPOCH1 : RegFld := ⟨MBX_EPOCH, 8, 8⟩
/-- 07_mailboxes_events: Table 7-2. -/
def MBX_TX : Reg :=
  ⟨0x40040020, 64, 0x100, 2, 0x20, .chip, none, fun _ _ => 0x00000000,
   [⟨0, 32, .wo, false, false⟩]⟩
/-- 07_mailboxes_events: Table 7-2. -/
def MBX_RING : Reg :=
  ⟨0x40040024, 64, 0x100, 2, 0x20, .chip, none, fun _ _ => 0x00000000,
   [⟨0, 1, .wo, false, false⟩, ⟨1, 1, .wo, false, false⟩]⟩
def MBX_RING_RING : RegFld := ⟨MBX_RING, 0, 1⟩
def MBX_RING_ABORT : RegFld := ⟨MBX_RING, 1, 1⟩
/-- 07_mailboxes_events: Table 7-2. -/
def MBX_RX : Reg :=
  ⟨0x40040028, 64, 0x100, 2, 0x20, .chip, none, fun _ _ => 0x00000000,
   [⟨0, 32, .ro, false, false⟩]⟩
/-- 07_mailboxes_events: Table 7-2. -/
def MBX_RXHDR : Reg :=
  ⟨0x4004002C, 64, 0x100, 2, 0x20, .chip, none, fun _ _ => 0x00000000,
   [⟨0, 4, .ro, false, false⟩, ⟨4, 4, .ro, false, false⟩, ⟨8, 1, .ro, false, false⟩]⟩
def MBX_RXHDR_LEN : RegFld := ⟨MBX_RXHDR, 0, 4⟩
def MBX_RXHDR_LEFT : RegFld := ⟨MBX_RXHDR, 4, 4⟩
def MBX_RXHDR_PRE_RESET : RegFld := ⟨MBX_RXHDR, 8, 1⟩
/-- 07_mailboxes_events: Table 7-2. -/
def MBX_STAT : Reg :=
  ⟨0x40040030, 64, 0x100, 2, 0x20, .chip, none, fun _ _ => 0x00000800,
   [⟨0, 4, .ro, false, false⟩, ⟨4, 1, .ro, false, false⟩, ⟨8, 4, .ro, false, false⟩, ⟨16, 4, .ro, false, false⟩, ⟨20,
    4, .ro, false, false⟩, ⟨24, 1, .w1c, false, false⟩, ⟨25, 1, .w1c, false, false⟩]⟩
def MBX_STAT_TXFILL : RegFld := ⟨MBX_STAT, 0, 4⟩
def MBX_STAT_TXPEND : RegFld := ⟨MBX_STAT, 4, 1⟩
def MBX_STAT_OUTFREE : RegFld := ⟨MBX_STAT, 8, 4⟩
def MBX_STAT_INWORDS : RegFld := ⟨MBX_STAT, 16, 4⟩
def MBX_STAT_INMSGS : RegFld := ⟨MBX_STAT, 20, 4⟩
def MBX_STAT_ERR_OVF : RegFld := ⟨MBX_STAT, 24, 1⟩
def MBX_STAT_ERR_EMPTY : RegFld := ⟨MBX_STAT, 25, 1⟩
/-- 07_mailboxes_events: MBX_PEGp: offset 0x8000 + 4 × p, p = 0 to 63, chip reset. -/
def MBX_PEG : Reg :=
  ⟨0x40048000, 64, 0x4, 1, 0x0, .chip, none, fun _ _ => 0x00000000,
   [⟨0, 6, .rw, false, false⟩]⟩
def MBX_PEG_OWNER : RegFld := ⟨MBX_PEG, 0, 6⟩
/-- 07_mailboxes_events: MBX_PEGFREE: offset 0x8100, chip reset. -/
def MBX_PEGFREE : Reg :=
  ⟨0x40048100, 1, 0x0, 1, 0x0, .chip, none, fun _ _ => 0x00000000,
   [⟨0, 6, .wo, true, false⟩, ⟨16, 16, .wo, true, false⟩]⟩
def MBX_PEGFREE_PEG : RegFld := ⟨MBX_PEGFREE, 0, 6⟩
def MBX_PEGFREE_KEY : RegFld := ⟨MBX_PEGFREE, 16, 16⟩
/-- 07_mailboxes_events: MBX_PEGERR: offset 0x8104, block reset. -/
def MBX_PEGERR : Reg :=
  ⟨0x40048104, 1, 0x0, 1, 0x0, .block, none, fun _ _ => 0x00000000,
   [⟨0, 6, .ro, false, false⟩, ⟨8, 6, .ro, false, false⟩, ⟨16, 6, .ro, false, false⟩, ⟨24, 2, .ro, false, false⟩, ⟨31,
    1, .w1c, false, false⟩]⟩
def MBX_PEGERR_PEG : RegFld := ⟨MBX_PEGERR, 0, 6⟩
def MBX_PEGERR_WRITER : RegFld := ⟨MBX_PEGERR, 8, 6⟩
def MBX_PEGERR_OWNER : RegFld := ⟨MBX_PEGERR, 16, 6⟩
def MBX_PEGERR_CAUSE : RegFld := ⟨MBX_PEGERR, 24, 2⟩
def MBX_PEGERR_VALID : RegFld := ⟨MBX_PEGERR, 31, 1⟩
/-- The registers of block MBX. -/
def regsMbx : List Reg :=
  [MBX_CFG, MBX_EPOCH, MBX_TX, MBX_RING, MBX_RX, MBX_RXHDR, MBX_STAT, MBX_PEG, MBX_PEGFREE, MBX_PEGERR]

/-- 07_mailboxes_events: EVT_PENDk and EVT_MASKk: offsets 0x000 + 4 × k and 0x020 + 4 × k, k = 0 to 7, block
reset. -/
def EVT_PEND : Reg :=
  ⟨0x40050000, 8, 0x4, 1, 0x0, .block, none, fun _ _ => 0x00000000,
   [⟨0, 32, .w1c, false, false⟩]⟩
def EVT_PEND_PEND : RegFld := ⟨EVT_PEND, 0, 32⟩
/-- 07_mailboxes_events: EVT_PENDk and EVT_MASKk: offsets 0x000 + 4 × k and 0x020 + 4 × k, k = 0 to 7, block
reset. -/
def EVT_MASK : Reg :=
  ⟨0x40050020, 8, 0x4, 1, 0x0, .block, none, fun _ _ => 0xFFFFFFFF,
   [⟨0, 32, .rw, false, false⟩]⟩
def EVT_MASK_MASK : RegFld := ⟨EVT_MASK, 0, 32⟩
/-- 07_mailboxes_events: EVT_RAISE: offset 0x040, block reset. -/
def EVT_RAISE : Reg :=
  ⟨0x40050040, 1, 0x0, 1, 0x0, .block, none, fun _ _ => 0x00000000,
   [⟨0, 8, .wo, false, false⟩]⟩
def EVT_RAISE_SRC : RegFld := ⟨EVT_RAISE, 0, 8⟩
/-- 07_mailboxes_events: EVT_QSTAT: offset 0x044, block reset. -/
def EVT_QSTAT : Reg :=
  ⟨0x40050044, 1, 0x0, 1, 0x0, .block, none, fun _ _ => 0x00000000,
   [⟨0, 9, .ro, false, false⟩, ⟨16, 9, .rw, false, false⟩]⟩
def EVT_QSTAT_LEVEL : RegFld := ⟨EVT_QSTAT, 0, 9⟩
def EVT_QSTAT_HIGH : RegFld := ⟨EVT_QSTAT, 16, 9⟩
/-- 07_mailboxes_events: EVT_SUBs: offset 0x100 + 4 × (s − 40), for each grouped source s of Table 7-3, block
reset. -/
def EVT_SUB : Reg :=
  ⟨0x40050100, 72, 0x4, 1, 0x0, .block, none, fun _ _ => 0x00000000,
   [⟨0, 32, .w1c, false, false⟩]⟩
def EVT_SUB_INST : RegFld := ⟨EVT_SUB, 0, 32⟩
/-- 07_mailboxes_events: EVT_MAPn: offset 0x400 + 4 × n, n = 0 to 255, block reset. -/
def EVT_MAP : Reg :=
  ⟨0x40050400, 256, 0x4, 1, 0x0, .block, none, evtMapReset,
   [⟨0, 8, .rw, false, false⟩, ⟨8, 1, .rw, false, false⟩, ⟨9, 3, .rw, false, false⟩, ⟨12, 1, .rw, false, false⟩, ⟨13,
    5, .rw, false, false⟩, ⟨18, 2, .rw, false, false⟩, ⟨20, 1, .rw, false, false⟩, ⟨21, 1, .rw, false, false⟩, ⟨22, 2,
    .rw, false, false⟩, ⟨24, 1, .rw, false, true⟩, ⟨25, 1, .rw, false, true⟩]⟩
def EVT_MAP_VECTOR : RegFld := ⟨EVT_MAP, 0, 8⟩
def EVT_MAP_MSIX : RegFld := ⟨EVT_MAP, 8, 1⟩
def EVT_MAP_PIN : RegFld := ⟨EVT_MAP, 9, 3⟩
def EVT_MAP_PINEN : RegFld := ⟨EVT_MAP, 12, 1⟩
def EVT_MAP_LINE : RegFld := ⟨EVT_MAP, 13, 5⟩
def EVT_MAP_CORE : RegFld := ⟨EVT_MAP, 18, 2⟩
def EVT_MAP_NMI : RegFld := ⟨EVT_MAP, 20, 1⟩
def EVT_MAP_JRN : RegFld := ⟨EVT_MAP, 21, 1⟩
def EVT_MAP_JCLASS : RegFld := ⟨EVT_MAP, 22, 2⟩
def EVT_MAP_SWR : RegFld := ⟨EVT_MAP, 24, 1⟩
def EVT_MAP_SEC : RegFld := ⟨EVT_MAP, 25, 1⟩
/-- 07_mailboxes_events: EVT_OVRk: offset 0x800 + 4 × k, k = 0 to 73, block reset. -/
def EVT_OVR : Reg :=
  ⟨0x40050800, 74, 0x4, 1, 0x0, .block, none, fun _ _ => 0x00000000,
   [⟨0, 32, .rw, false, false⟩]⟩
def EVT_OVR_CNT : RegFld := ⟨EVT_OVR, 0, 32⟩
/-- The registers of block EVT. -/
def regsEvt : List Reg :=
  [EVT_PEND, EVT_MASK, EVT_RAISE, EVT_QSTAT, EVT_SUB, EVT_MAP, EVT_OVR]

/-- 15_clocks_power: Table 15-8. -/
def CLK_CTL : Reg :=
  ⟨0x40010000, 1, 0x0, 1, 0x0, .chip, none, fun _ _ => 0x00000201,
   [⟨0, 1, .rw, false, false⟩, ⟨1, 1, .wo, false, false⟩, ⟨8, 4, .rw, false, false⟩]⟩
def CLK_CTL_AUTOREST : RegFld := ⟨CLK_CTL, 0, 1⟩
def CLK_CTL_RESTORE : RegFld := ⟨CLK_CTL, 1, 1⟩
def CLK_CTL_WARN : RegFld := ⟨CLK_CTL, 8, 4⟩
/-- 15_clocks_power: Table 15-8. -/
def CLK_STAT : Reg :=
  ⟨0x40010004, 1, 0x0, 1, 0x0, .chip, none, fun _ _ => 0x00000004,
   [⟨0, 1, .ro, false, false⟩, ⟨1, 1, .ro, false, false⟩, ⟨2, 1, .ro, false, false⟩, ⟨3, 1, .ro, false, false⟩, ⟨4, 3,
    .ro, false, false⟩, ⟨8, 4, .ro, false, false⟩, ⟨16, 16, .ro, false, false⟩]⟩
def CLK_STAT_MAINOK : RegFld := ⟨CLK_STAT, 0, 1⟩
def CLK_STAT_CLKFAIL : RegFld := ⟨CLK_STAT, 1, 1⟩
def CLK_STAT_RCACT : RegFld := ⟨CLK_STAT, 2, 1⟩
def CLK_STAT_SILLRC : RegFld := ⟨CLK_STAT, 3, 1⟩
def CLK_STAT_LOCK : RegFld := ⟨CLK_STAT, 4, 3⟩
def CLK_STAT_CAUSE : RegFld := ⟨CLK_STAT, 8, 4⟩
def CLK_STAT_FAILCNT : RegFld := ⟨CLK_STAT, 16, 16⟩
/-- 15_clocks_power: Table 15-8. -/
def CLK_PLUMB : Reg :=
  ⟨0x40010008, 1, 0x0, 1, 0x0, .chip, none, fun _ _ => 0x00000000,
   [⟨0, 16, .ro, false, false⟩, ⟨16, 4, .ro, false, false⟩, ⟨20, 1, .ro, false, false⟩]⟩
def CLK_PLUMB_PPM : RegFld := ⟨CLK_PLUMB, 0, 16⟩
def CLK_PLUMB_TRIES : RegFld := ⟨CLK_PLUMB, 16, 4⟩
def CLK_PLUMB_PASS : RegFld := ⟨CLK_PLUMB, 20, 1⟩
/-- 15_clocks_power: Table 15-8. -/
def CLK_MON : Reg :=
  ⟨0x4001000C, 1, 0x0, 1, 0x0, .chip, none, fun _ _ => 0x00000000,
   [⟨0, 16, .ro, false, false⟩, ⟨16, 16, .rw, false, false⟩]⟩
def CLK_MON_DEV : RegFld := ⟨CLK_MON, 0, 16⟩
def CLK_MON_MAXDEV : RegFld := ⟨CLK_MON, 16, 16⟩
/-- 15_clocks_power: Table 15-8. -/
def CLK_ENGPLL : Reg :=
  ⟨0x40010010, 1, 0x0, 1, 0x0, .chip, none, fun _ _ => 0x00000000,
   [⟨0, 4, .rw, true, false⟩]⟩
def CLK_ENGPLL_BIN : RegFld := ⟨CLK_ENGPLL, 0, 4⟩
/-- 15_clocks_power: Table 15-8. -/
def CLK_SSC : Reg :=
  ⟨0x40010020, 1, 0x0, 1, 0x0, .chip, none, fun _ _ => 0x00001E00,
   [⟨0, 5, .rw, false, false⟩, ⟨8, 6, .rw, false, false⟩, ⟨16, 1, .rw, false, false⟩, ⟨17, 1, .rw, false, false⟩, ⟨18,
    1, .rw, false, false⟩, ⟨19, 1, .rw, false, false⟩]⟩
def CLK_SSC_DEPTH : RegFld := ⟨CLK_SSC, 0, 5⟩
def CLK_SSC_RATE : RegFld := ⟨CLK_SSC, 8, 6⟩
def CLK_SSC_CORE : RegFld := ⟨CLK_SSC, 16, 1⟩
def CLK_SSC_FABRIC : RegFld := ⟨CLK_SSC, 17, 1⟩
def CLK_SSC_OUT0 : RegFld := ⟨CLK_SSC, 18, 1⟩
def CLK_SSC_OUT1 : RegFld := ⟨CLK_SSC, 19, 1⟩
/-- 15_clocks_power: Table 15-8. -/
def CLK_OUT : Reg :=
  ⟨0x40010030, 2, 0x4, 1, 0x0, .chip, none, fun _ _ => 0x00000000,
   [⟨0, 1, .rw, false, false⟩, ⟨1, 2, .rw, false, false⟩, ⟨8, 8, .rw, false, false⟩]⟩
def CLK_OUT_EN : RegFld := ⟨CLK_OUT, 0, 1⟩
def CLK_OUT_SRC : RegFld := ⟨CLK_OUT, 1, 2⟩
def CLK_OUT_DIV : RegFld := ⟨CLK_OUT, 8, 8⟩
/-- The registers of block CLK. -/
def regsClk : List Reg :=
  [CLK_CTL, CLK_STAT, CLK_PLUMB, CLK_MON, CLK_ENGPLL, CLK_SSC, CLK_OUT]

/-- 06_memory_dma: PWR_COMBPWR: PWR offset 0x200, sill reset. -/
def PWR_COMBPWR : Reg :=
  ⟨0x40020200, 1, 0x0, 1, 0x0, .sill, none, fun _ _ => 0x00000000,
   [⟨0, 2, .rw, false, false⟩, ⟨2, 2, .rw, false, false⟩, ⟨4, 2, .rw, false, false⟩, ⟨6, 2, .rw, false, false⟩, ⟨8, 2,
    .rw, false, false⟩, ⟨10, 2, .rw, false, false⟩, ⟨12, 2, .rw, false, false⟩, ⟨14, 2, .rw, false, false⟩, ⟨16, 2,
    .rw, false, false⟩, ⟨18, 2, .rw, false, false⟩, ⟨20, 2, .rw, false, false⟩, ⟨22, 2, .rw, false, false⟩, ⟨24, 2,
    .rw, false, false⟩, ⟨26, 2, .rw, false, false⟩, ⟨28, 2, .rw, false, false⟩, ⟨30, 2, .rw, false, false⟩]⟩
def PWR_COMBPWR_BANK0 : RegFld := ⟨PWR_COMBPWR, 0, 2⟩
def PWR_COMBPWR_BANK1 : RegFld := ⟨PWR_COMBPWR, 2, 2⟩
def PWR_COMBPWR_BANK2 : RegFld := ⟨PWR_COMBPWR, 4, 2⟩
def PWR_COMBPWR_BANK3 : RegFld := ⟨PWR_COMBPWR, 6, 2⟩
def PWR_COMBPWR_BANK4 : RegFld := ⟨PWR_COMBPWR, 8, 2⟩
def PWR_COMBPWR_BANK5 : RegFld := ⟨PWR_COMBPWR, 10, 2⟩
def PWR_COMBPWR_BANK6 : RegFld := ⟨PWR_COMBPWR, 12, 2⟩
def PWR_COMBPWR_BANK7 : RegFld := ⟨PWR_COMBPWR, 14, 2⟩
def PWR_COMBPWR_BANK8 : RegFld := ⟨PWR_COMBPWR, 16, 2⟩
def PWR_COMBPWR_BANK9 : RegFld := ⟨PWR_COMBPWR, 18, 2⟩
def PWR_COMBPWR_BANK10 : RegFld := ⟨PWR_COMBPWR, 20, 2⟩
def PWR_COMBPWR_BANK11 : RegFld := ⟨PWR_COMBPWR, 22, 2⟩
def PWR_COMBPWR_BANK12 : RegFld := ⟨PWR_COMBPWR, 24, 2⟩
def PWR_COMBPWR_BANK13 : RegFld := ⟨PWR_COMBPWR, 26, 2⟩
def PWR_COMBPWR_BANK14 : RegFld := ⟨PWR_COMBPWR, 28, 2⟩
def PWR_COMBPWR_BANK15 : RegFld := ⟨PWR_COMBPWR, 30, 2⟩
/-- 06_memory_dma: PWR_COMBSTAT: PWR offset 0x204, chip reset. -/
def PWR_COMBSTAT : Reg :=
  ⟨0x40020204, 1, 0x0, 1, 0x0, .chip, none, fun _ _ => 0x00000000,
   [⟨0, 16, .ro, false, false⟩, ⟨16, 16, .w1c, false, false⟩]⟩
def PWR_COMBSTAT_BUSY : RegFld := ⟨PWR_COMBSTAT, 0, 16⟩
def PWR_COMBSTAT_RETAINED : RegFld := ⟨PWR_COMBSTAT, 16, 16⟩
/-- 06_memory_dma: PWR_LMPWRk: PWR offset 0x210 + 4 x k. -/
def PWR_LMPWR : Reg :=
  ⟨0x40020210, 4, 0x4, 1, 0x0, .chip, none, fun _ _ => 0x00000000,
   [⟨0, 2, .rw, false, false⟩, ⟨2, 2, .rw, false, false⟩, ⟨4, 2, .rw, false, false⟩, ⟨6, 2, .rw, false, false⟩, ⟨8, 2,
    .rw, false, false⟩, ⟨10, 2, .rw, false, false⟩, ⟨12, 2, .rw, false, false⟩, ⟨14, 2, .rw, false, false⟩, ⟨16, 2,
    .rw, false, false⟩, ⟨18, 2, .rw, false, false⟩, ⟨20, 2, .rw, false, false⟩, ⟨22, 2, .rw, false, false⟩, ⟨24, 2,
    .rw, false, false⟩, ⟨26, 2, .rw, false, false⟩, ⟨28, 2, .rw, false, false⟩, ⟨30, 2, .rw, false, false⟩]⟩
def PWR_LMPWR_CODE0 : RegFld := ⟨PWR_LMPWR, 0, 2⟩
def PWR_LMPWR_DATA0 : RegFld := ⟨PWR_LMPWR, 2, 2⟩
def PWR_LMPWR_CODE1 : RegFld := ⟨PWR_LMPWR, 4, 2⟩
def PWR_LMPWR_DATA1 : RegFld := ⟨PWR_LMPWR, 6, 2⟩
def PWR_LMPWR_CODE2 : RegFld := ⟨PWR_LMPWR, 8, 2⟩
def PWR_LMPWR_DATA2 : RegFld := ⟨PWR_LMPWR, 10, 2⟩
def PWR_LMPWR_CODE3 : RegFld := ⟨PWR_LMPWR, 12, 2⟩
def PWR_LMPWR_DATA3 : RegFld := ⟨PWR_LMPWR, 14, 2⟩
def PWR_LMPWR_CODE4 : RegFld := ⟨PWR_LMPWR, 16, 2⟩
def PWR_LMPWR_DATA4 : RegFld := ⟨PWR_LMPWR, 18, 2⟩
def PWR_LMPWR_CODE5 : RegFld := ⟨PWR_LMPWR, 20, 2⟩
def PWR_LMPWR_DATA5 : RegFld := ⟨PWR_LMPWR, 22, 2⟩
def PWR_LMPWR_CODE6 : RegFld := ⟨PWR_LMPWR, 24, 2⟩
def PWR_LMPWR_DATA6 : RegFld := ⟨PWR_LMPWR, 26, 2⟩
def PWR_LMPWR_CODE7 : RegFld := ⟨PWR_LMPWR, 28, 2⟩
def PWR_LMPWR_DATA7 : RegFld := ⟨PWR_LMPWR, 30, 2⟩
/-- 06_memory_dma: PWR_LMSTAT: PWR offset 0x220, chip reset. -/
def PWR_LMSTAT : Reg :=
  ⟨0x40020220, 1, 0x0, 1, 0x0, .chip, none, fun _ _ => 0x00000000,
   [⟨0, 32, .ro, false, false⟩]⟩
def PWR_LMSTAT_BUSY : RegFld := ⟨PWR_LMSTAT, 0, 32⟩
/-- 15_clocks_power: Table 15-9. -/
def PWR_CTL : Reg :=
  ⟨0x40020000, 1, 0x0, 1, 0x0, .chip, none, fun _ _ => 0x03E80000,
   [⟨0, 2, .wo, false, false⟩, ⟨4, 1, .wo, false, false⟩, ⟨5, 1, .rw, false, false⟩, ⟨16, 16, .rw, false, false⟩]⟩
def PWR_CTL_REQ : RegFld := ⟨PWR_CTL, 0, 2⟩
def PWR_CTL_GO : RegFld := ⟨PWR_CTL, 4, 1⟩
def PWR_CTL_DISCARD : RegFld := ⟨PWR_CTL, 5, 1⟩
def PWR_CTL_DRAIN : RegFld := ⟨PWR_CTL, 16, 16⟩
/-- 15_clocks_power: Table 15-9. -/
def PWR_STAT : Reg :=
  ⟨0x40020004, 1, 0x0, 1, 0x0, .chip, none, fun _ _ => 0x00000000,
   [⟨0, 2, .ro, false, false⟩, ⟨2, 1, .ro, false, false⟩, ⟨3, 1, .ro, false, false⟩, ⟨4, 4, .ro, false, false⟩]⟩
def PWR_STAT_STATE : RegFld := ⟨PWR_STAT, 0, 2⟩
def PWR_STAT_BUSY : RegFld := ⟨PWR_STAT, 2, 1⟩
def PWR_STAT_ORIGIN : RegFld := ⟨PWR_STAT, 3, 1⟩
def PWR_STAT_REFUSE : RegFld := ⟨PWR_STAT, 4, 4⟩
/-- 15_clocks_power: Table 15-9. -/
def PWR_NAPDISC : Reg :=
  ⟨0x40020008, 1, 0x0, 1, 0x0, .chip, none, fun _ _ => 0x00000000,
   [⟨0, 32, .rw, false, false⟩]⟩
/-- 15_clocks_power: Table 15-9. -/
def PWR_WAKEEN : Reg :=
  ⟨0x40020010, 1, 0x0, 1, 0x0, .sill, none, fun _ _ => 0x00000000,
   [⟨0, 9, .rw, false, false⟩]⟩
def PWR_WAKEEN_EN : RegFld := ⟨PWR_WAKEEN, 0, 9⟩
/-- 15_clocks_power: Table 15-9. -/
def PWR_WAKESTAT : Reg :=
  ⟨0x40020014, 1, 0x0, 1, 0x0, .sill, none, fun _ _ => 0x00000000,
   [⟨0, 9, .w1c, false, false⟩, ⟨12, 4, .ro, false, false⟩, ⟨16, 6, .ro, false, false⟩]⟩
def PWR_WAKESTAT_SRC : RegFld := ⟨PWR_WAKESTAT, 0, 9⟩
def PWR_WAKESTAT_FIRST : RegFld := ⟨PWR_WAKESTAT, 12, 4⟩
def PWR_WAKESTAT_INST : RegFld := ⟨PWR_WAKESTAT, 16, 6⟩
/-- 15_clocks_power: Table 15-9. -/
def PWR_RTCALM_LO : Reg :=
  ⟨0x40020018, 1, 0x0, 1, 0x0, .sill, none, fun _ _ => 0x00000000,
   [⟨0, 32, .rw, false, false⟩]⟩
def PWR_RTCALM_LO_NS : RegFld := ⟨PWR_RTCALM_LO, 0, 32⟩
/-- 15_clocks_power: Table 15-9. -/
def PWR_RTCALM_HI : Reg :=
  ⟨0x4002001C, 1, 0x0, 1, 0x0, .sill, none, fun _ _ => 0x00000000,
   [⟨0, 32, .rw, false, false⟩]⟩
def PWR_RTCALM_HI_NS : RegFld := ⟨PWR_RTCALM_HI, 0, 32⟩
/-- 15_clocks_power: Table 15-9. -/
def PWR_RTCALMCTL : Reg :=
  ⟨0x40020020, 1, 0x0, 1, 0x0, .sill, none, fun _ _ => 0x00000000,
   [⟨0, 1, .rw, false, false⟩, ⟨1, 1, .w1c, false, false⟩]⟩
def PWR_RTCALMCTL_EN : RegFld := ⟨PWR_RTCALMCTL, 0, 1⟩
def PWR_RTCALMCTL_HIT : RegFld := ⟨PWR_RTCALMCTL, 1, 1⟩
/-- 15_clocks_power: Table 15-9. -/
def PWR_RSTCAUSE : Reg :=
  ⟨0x40020030, 1, 0x0, 1, 0x0, .sill, none, fun _ _ => 0x00000001,
   [⟨0, 1, .w1c, false, false⟩, ⟨1, 1, .w1c, false, false⟩, ⟨2, 1, .w1c, false, false⟩, ⟨3, 1, .w1c, false, false⟩,
    ⟨4, 1, .w1c, false, false⟩]⟩
def PWR_RSTCAUSE_POR : RegFld := ⟨PWR_RSTCAUSE, 0, 1⟩
def PWR_RSTCAUSE_RSTN : RegFld := ⟨PWR_RSTCAUSE, 1, 1⟩
def PWR_RSTCAUSE_WDOG : RegFld := ⟨PWR_RSTCAUSE, 2, 1⟩
def PWR_RSTCAUSE_SUPPLY : RegFld := ⟨PWR_RSTCAUSE, 3, 1⟩
def PWR_RSTCAUSE_HIBWAKE : RegFld := ⟨PWR_RSTCAUSE, 4, 1⟩
/-- 17_electrical: PWR_SUPSTAT: PWR offset 0x040, sill reset. -/
def PWR_SUPSTAT : Reg :=
  ⟨0x40020040, 1, 0x0, 1, 0x0, .sill, none, fun _ _ => 0x00000000,
   [⟨0, 8, .ro, false, false⟩, ⟨8, 1, .ro, false, false⟩, ⟨16, 8, .w1c, false, false⟩, ⟨24, 1, .w1c, false, false⟩]⟩
def PWR_SUPSTAT_LOW : RegFld := ⟨PWR_SUPSTAT, 0, 8⟩
def PWR_SUPSTAT_HOT : RegFld := ⟨PWR_SUPSTAT, 8, 1⟩
def PWR_SUPSTAT_WARN : RegFld := ⟨PWR_SUPSTAT, 16, 8⟩
def PWR_SUPSTAT_HOTW : RegFld := ⟨PWR_SUPSTAT, 24, 1⟩
/-- The registers of block PWR. -/
def regsPwr : List Reg :=
  [PWR_COMBPWR, PWR_COMBSTAT, PWR_LMPWR, PWR_LMSTAT, PWR_CTL, PWR_STAT, PWR_NAPDISC, PWR_WAKEEN, PWR_WAKESTAT,
    PWR_RTCALM_LO, PWR_RTCALM_HI, PWR_RTCALMCTL, PWR_RSTCAUSE, PWR_SUPSTAT]

/-- 16_ageing_journal: Table 16-4. -/
def AGE_CTL : Reg :=
  ⟨0x40900000, 1, 0x0, 1, 0x0, .block, none, fun _ _ => 0x00323C1F,
   [⟨0, 1, .rw, true, false⟩, ⟨1, 4, .rw, true, false⟩, ⟨8, 8, .rw, true, false⟩, ⟨16, 16, .rw, true, false⟩]⟩
def AGE_CTL_EN : RegFld := ⟨AGE_CTL, 0, 1⟩
def AGE_CTL_AVSENBINENDLYENKERFEN : RegFld := ⟨AGE_CTL, 1, 4⟩
def AGE_CTL_PLANPER : RegFld := ⟨AGE_CTL, 8, 8⟩
def AGE_CTL_WARNY : RegFld := ⟨AGE_CTL, 16, 16⟩
/-- 16_ageing_journal: Table 16-4. -/
def AGE_STAT : Reg :=
  ⟨0x40900004, 1, 0x0, 1, 0x0, .block, none, fun _ _ => 0x00000008,
   [⟨0, 1, .w1c, true, false⟩, ⟨1, 1, .w1c, true, false⟩, ⟨2, 1, .w1c, true, false⟩, ⟨3, 1, .ro, false, false⟩, ⟨4, 1,
    .w1c, true, false⟩]⟩
def AGE_STAT_AVSMAXED : RegFld := ⟨AGE_STAT, 0, 1⟩
def AGE_STAT_KERFBLK : RegFld := ⟨AGE_STAT, 1, 1⟩
def AGE_STAT_AVSERR : RegFld := ⟨AGE_STAT, 2, 1⟩
def AGE_STAT_NOHIST : RegFld := ⟨AGE_STAT, 3, 1⟩
def AGE_STAT_LATE : RegFld := ⟨AGE_STAT, 4, 1⟩
/-- 16_ageing_journal: Table 16-4. -/
def AGE_MARGIN : Reg :=
  ⟨0x40900008, 1, 0x0, 1, 0x0, .block, none, fun _ _ => 0x0000FFFF,
   [⟨0, 16, .ro, false, false⟩, ⟨16, 3, .ro, false, false⟩]⟩
def AGE_MARGIN_YEARS : RegFld := ⟨AGE_MARGIN, 0, 16⟩
def AGE_MARGIN_LIMSITE : RegFld := ⟨AGE_MARGIN, 16, 3⟩
/-- 16_ageing_journal: Table 16-4. -/
def AGE_AVS : Reg :=
  ⟨0x4090000C, 1, 0x0, 1, 0x0, .block, none, fun _ _ => 0x00000320,
   [⟨0, 10, .ro, true, false⟩]⟩
def AGE_AVS_VOUT : RegFld := ⟨AGE_AVS, 0, 10⟩
/-- 16_ageing_journal: Table 16-4. -/
def AGE_AVSLIM : Reg :=
  ⟨0x40900010, 1, 0x0, 1, 0x0, .block, none, fun _ _ => 0x037002D0,
   [⟨0, 10, .rw, true, true⟩, ⟨16, 10, .rw, true, true⟩]⟩
def AGE_AVSLIM_AVSMIN : RegFld := ⟨AGE_AVSLIM, 0, 10⟩
def AGE_AVSLIM_AVSMAX : RegFld := ⟨AGE_AVSLIM, 16, 10⟩
/-- 16_ageing_journal: Table 16-4. -/
def AGE_GUARD : Reg :=
  ⟨0x40900014, 1, 0x0, 1, 0x0, .block, none, fun _ _ => 0x00085028,
   [⟨0, 8, .rw, true, false⟩, ⟨8, 8, .rw, true, false⟩, ⟨16, 4, .rw, true, true⟩]⟩
def AGE_GUARD_LO : RegFld := ⟨AGE_GUARD, 0, 8⟩
def AGE_GUARD_HI : RegFld := ⟨AGE_GUARD, 8, 8⟩
def AGE_GUARD_BINMAX : RegFld := ⟨AGE_GUARD, 16, 4⟩
/-- 16_ageing_journal: Table 16-4. -/
def AGE_KAG : Reg :=
  ⟨0x40900018, 1, 0x0, 1, 0x0, .block, none, kagReset,
   [⟨0, 16, .ro, false, false⟩]⟩
def AGE_KAG_KAG : RegFld := ⟨AGE_KAG, 0, 16⟩
/-- 16_ageing_journal: Table 16-4. -/
def AGE_KERF : Reg :=
  ⟨0x40900020, 8, 0x4, 1, 0x0, .block, none, fun _ _ => 0x00000000,
   [⟨0, 16, .ro, false, false⟩]⟩
def AGE_KERF_REQ : RegFld := ⟨AGE_KERF, 0, 16⟩
/-- 16_ageing_journal: Table 16-4. -/
def AGE_KERFSRC : Reg :=
  ⟨0x40900040, 8, 0x4, 1, 0x0, .block, none, fun _ _ => 0x00000000,
   [⟨0, 32, .rw, true, false⟩]⟩
/-- 16_ageing_journal: Table 16-4. -/
def AGE_MON_DEG : Reg :=
  ⟨0x40900100, 8, 0x10, 1, 0x0, .block, none, fun _ _ => 0x00000000,
   [⟨0, 16, .ro, false, false⟩]⟩
def AGE_MON_DEG_DEG : RegFld := ⟨AGE_MON_DEG, 0, 16⟩
/-- 16_ageing_journal: Table 16-4. -/
def AGE_MON_SLACK : Reg :=
  ⟨0x40900104, 8, 0x10, 1, 0x0, .block, none, fun _ _ => 0x00000000,
   [⟨0, 12, .ro, false, false⟩]⟩
def AGE_MON_SLACK_SLACK : RegFld := ⟨AGE_MON_SLACK, 0, 12⟩
/-- 16_ageing_journal: Table 16-4. -/
def AGE_MON_TEMP : Reg :=
  ⟨0x40900108, 8, 0x10, 1, 0x0, .block, none, fun _ _ => 0x00000000,
   [⟨0, 12, .ro, false, false⟩, ⟨31, 1, .w1c, false, false⟩]⟩
def AGE_MON_TEMP_TEMP : RegFld := ⟨AGE_MON_TEMP, 0, 12⟩
def AGE_MON_TEMP_FAULT : RegFld := ⟨AGE_MON_TEMP, 31, 1⟩
/-- 16_ageing_journal: Table 16-4. -/
def AGE_MONCFG : Reg :=
  ⟨0x40900200, 1, 0x0, 1, 0x0, .block, none, fun _ _ => 0x000003E8,
   [⟨0, 16, .rw, true, false⟩, ⟨16, 1, .rw, true, false⟩]⟩
def AGE_MONCFG_MONPER : RegFld := ⟨AGE_MONCFG, 0, 16⟩
def AGE_MONCFG_MONEV : RegFld := ⟨AGE_MONCFG, 16, 1⟩
/-- The registers of block AGE. -/
def regsAge : List Reg :=
  [AGE_CTL, AGE_STAT, AGE_MARGIN, AGE_AVS, AGE_AVSLIM, AGE_GUARD, AGE_KAG, AGE_KERF, AGE_KERFSRC, AGE_MON_DEG,
    AGE_MON_SLACK, AGE_MON_TEMP, AGE_MONCFG]

/-- 16_ageing_journal: Table 16-5. -/
def JRN_CTL : Reg :=
  ⟨0x40910000, 1, 0x0, 1, 0x0, .block, none, fun _ _ => 0x03840002,
   [⟨0, 1, .wo, true, false⟩, ⟨1, 1, .rw, false, false⟩, ⟨16, 16, .rw, false, false⟩]⟩
def JRN_CTL_FORMAT : RegFld := ⟨JRN_CTL, 0, 1⟩
def JRN_CTL_SUMEN : RegFld := ⟨JRN_CTL, 1, 1⟩
def JRN_CTL_SUMPER : RegFld := ⟨JRN_CTL, 16, 16⟩
/-- 16_ageing_journal: Table 16-5. -/
def JRN_STAT : Reg :=
  ⟨0x40910004, 1, 0x0, 1, 0x0, .block, none, fun _ _ => 0x00000000,
   [⟨0, 1, .ro, false, false⟩, ⟨1, 1, .ro, false, false⟩, ⟨2, 1, .ro, false, false⟩, ⟨3, 1, .ro, false, false⟩, ⟨4, 1,
    .w1c, false, false⟩]⟩
def JRN_STAT_BUSY : RegFld := ⟨JRN_STAT, 0, 1⟩
def JRN_STAT_FMT : RegFld := ⟨JRN_STAT, 1, 1⟩
def JRN_STAT_ALMFULL : RegFld := ⟨JRN_STAT, 2, 1⟩
def JRN_STAT_OVFOPEN : RegFld := ⟨JRN_STAT, 3, 1⟩
def JRN_STAT_CFGERR : RegFld := ⟨JRN_STAT, 4, 1⟩
/-- 16_ageing_journal: Table 16-5. -/
def JRN_PART_FILL : Reg :=
  ⟨0x4091001C, 3, 0x10, 1, 0x0, .block, none, fun _ _ => 0x00000000,
   [⟨0, 15, .ro, false, false⟩, ⟨16, 15, .ro, false, false⟩]⟩
def JRN_PART_FILL_USED : RegFld := ⟨JRN_PART_FILL, 0, 15⟩
def JRN_PART_FILL_NEWEST : RegFld := ⟨JRN_PART_FILL, 16, 15⟩
/-- 16_ageing_journal: Table 16-5. -/
def JRN_WR : Reg :=
  ⟨0x40910100, 3, 0x4, 1, 0x0, .sill, none, fun _ _ => 0x00000000,
   [⟨0, 32, .rw, false, false⟩]⟩
/-- 16_ageing_journal: Table 16-5. -/
def JRN_COAL : Reg :=
  ⟨0x40910110, 3, 0x4, 1, 0x0, .sill, none, fun _ _ => 0x00000000,
   [⟨0, 32, .rw, false, false⟩]⟩
/-- 16_ageing_journal: Table 16-5. -/
def JRN_DROP : Reg :=
  ⟨0x40910120, 3, 0x4, 1, 0x0, .sill, none, fun _ _ => 0x00000000,
   [⟨0, 32, .rw, false, false⟩]⟩
/-- 16_ageing_journal: Table 16-5. -/
def JRN_OVW : Reg :=
  ⟨0x40910130, 3, 0x4, 1, 0x0, .sill, none, fun _ _ => 0x00000000,
   [⟨0, 32, .rw, false, false⟩]⟩
/-- 16_ageing_journal: Table 16-5. -/
def JRN_TORN : Reg :=
  ⟨0x40910140, 1, 0x0, 1, 0x0, .sill, none, fun _ _ => 0x00000000,
   [⟨0, 32, .rw, false, false⟩]⟩
/-- 16_ageing_journal: Table 16-5. -/
def JRN_PUSHLOST : Reg :=
  ⟨0x40910144, 1, 0x0, 1, 0x0, .sill, none, fun _ _ => 0x00000000,
   [⟨0, 32, .rw, false, false⟩]⟩
/-- 16_ageing_journal: Table 16-5. -/
def JRN_PUSHHEAD : Reg :=
  ⟨0x40910200, 1, 0x0, 1, 0x0, .block, none, fun _ _ => 0x00000000,
   [⟨0, 15, .ro, false, false⟩, ⟨31, 1, .ro, false, false⟩]⟩
def JRN_PUSHHEAD_ROW : RegFld := ⟨JRN_PUSHHEAD, 0, 15⟩
def JRN_PUSHHEAD_VALID : RegFld := ⟨JRN_PUSHHEAD, 31, 1⟩
/-- 16_ageing_journal: Table 16-5. -/
def JRN_PUSHACK : Reg :=
  ⟨0x40910204, 1, 0x0, 1, 0x0, .block, none, fun _ _ => 0x00000000,
   [⟨0, 15, .wo, false, false⟩]⟩
def JRN_PUSHACK_ROW : RegFld := ⟨JRN_PUSHACK, 0, 15⟩
/-- 16_ageing_journal: Table 16-5. -/
def JRN_ALMACK : Reg :=
  ⟨0x40910208, 1, 0x0, 1, 0x0, .block, none, fun _ _ => 0x00000000,
   [⟨0, 15, .wo, false, false⟩]⟩
def JRN_ALMACK_ROW : RegFld := ⟨JRN_ALMACK, 0, 15⟩
/-- 16_ageing_journal: Table 16-5. -/
def JRN_WEAR : Reg :=
  ⟨0x40910210, 1, 0x0, 1, 0x0, .sill, none, fun _ _ => 0x00000000,
   [⟨0, 16, .ro, false, false⟩, ⟨16, 16, .ro, false, false⟩]⟩
def JRN_WEAR_MAXW : RegFld := ⟨JRN_WEAR, 0, 16⟩
def JRN_WEAR_MINW : RegFld := ⟨JRN_WEAR, 16, 16⟩
/-- 16_ageing_journal: Table 16-5: 0x1000, 0x3000, 0x3F00. -/
def JRN_PART_SIZE : Reg :=
  ⟨0x40910010, 3, 0x10, 1, 0x0, .sill, none, jrnSizeReset,
   [⟨0, 15, .rw, true, false⟩]⟩
def JRN_PART_SIZE_SIZE : RegFld := ⟨JRN_PART_SIZE, 0, 15⟩
/-- 16_ageing_journal: Table 16-5: RATE 10, 200, 5,000; BURST 64, 1,024, 4,096. -/
def JRN_PART_RATE : Reg :=
  ⟨0x40910014, 3, 0x10, 1, 0x0, .sill, none, jrnRateReset,
   [⟨0, 16, .rw, false, false⟩, ⟨16, 16, .rw, false, false⟩]⟩
def JRN_PART_RATE_RATE : RegFld := ⟨JRN_PART_RATE, 0, 16⟩
def JRN_PART_RATE_BURST : RegFld := ⟨JRN_PART_RATE, 16, 16⟩
/-- 16_ageing_journal: Table 16-5: COALWIN 600, 100, 10. -/
def JRN_PART_COAL : Reg :=
  ⟨0x40910018, 3, 0x10, 1, 0x0, .sill, none, jrnCoalReset,
   [⟨0, 16, .rw, false, false⟩, ⟨16, 1, .rw, false, false⟩]⟩
def JRN_PART_COAL_COALWIN : RegFld := ⟨JRN_PART_COAL, 0, 16⟩
def JRN_PART_COAL_COALEN : RegFld := ⟨JRN_PART_COAL, 16, 1⟩
/-- The registers of block JRN. -/
def regsJrn : List Reg :=
  [JRN_CTL, JRN_STAT, JRN_PART_FILL, JRN_WR, JRN_COAL, JRN_DROP, JRN_OVW, JRN_TORN, JRN_PUSHLOST, JRN_PUSHHEAD,
    JRN_PUSHACK, JRN_ALMACK, JRN_WEAR, JRN_PART_SIZE, JRN_PART_RATE, JRN_PART_COAL]

end Sys2Proof.Machine
end

