-- ==== Sys2Proof/Machine/RegsLanes.lean ====
section
/-!
DEFINITION. Registers of the MDB, SLN, BRG, PIO and STN blocks.
Each register as its heading and its table give it: address, repetition, reset scope, commit domain, fields, access
    types and
reset value. A field a table marks reserved is left out: it reads as 0 and ignores what is written (R7).
-/

namespace Sys2Proof.Machine

/-- 11_multidrop_bus: MDB_CTL: offset 0x000, block reset. -/
def MDB_CTL : Reg :=
  ⟨0x40500000, 16, 0x1000, 1, 0x0, .block, none, fun _ _ => 0x00000040,
   [⟨0, 1, .rw, false, false⟩, ⟨1, 2, .rw, false, false⟩, ⟨3, 1, .rw, false, false⟩, ⟨4, 1, .rw, false, false⟩, ⟨5, 1,
    .rw, false, false⟩, ⟨6, 1, .rw, false, false⟩, ⟨7, 1, .rw, false, false⟩, ⟨8, 1, .wo, false, false⟩, ⟨9, 1, .wo,
    false, false⟩, ⟨10, 1, .wo, false, false⟩, ⟨11, 1, .wo, false, false⟩]⟩
def MDB_CTL_EN : RegFld := ⟨MDB_CTL, 0, 1⟩
def MDB_CTL_MODE : RegFld := ⟨MDB_CTL, 1, 2⟩
def MDB_CTL_FDEN : RegFld := ⟨MDB_CTL, 3, 1⟩
def MDB_CTL_PXE : RegFld := ⟨MDB_CTL, 4, 1⟩
def MDB_CTL_BOREC : RegFld := ⟨MDB_CTL, 5, 1⟩
def MDB_CTL_TXWAKE : RegFld := ⟨MDB_CTL, 6, 1⟩
def MDB_CTL_DEPOL : RegFld := ⟨MDB_CTL, 7, 1⟩
def MDB_CTL_FLUSH : RegFld := ⟨MDB_CTL, 8, 1⟩
def MDB_CTL_RECOVER : RegFld := ⟨MDB_CTL, 9, 1⟩
def MDB_CTL_SLEEP : RegFld := ⟨MDB_CTL, 10, 1⟩
def MDB_CTL_WAKE : RegFld := ⟨MDB_CTL, 11, 1⟩
/-- 11_multidrop_bus: Table 11-7. -/
def MDB_NBT : Reg :=
  ⟨0x40500004, 16, 0x1000, 1, 0x0, .block, none, fun _ _ => 0x1E3CF803,
   [⟨0, 9, .rw, false, false⟩, ⟨10, 8, .rw, false, false⟩, ⟨18, 7, .rw, false, false⟩, ⟨25, 7, .rw, false, false⟩]⟩
def MDB_NBT_NBRP : RegFld := ⟨MDB_NBT, 0, 9⟩
def MDB_NBT_NTSEG1 : RegFld := ⟨MDB_NBT, 10, 8⟩
def MDB_NBT_NTSEG2 : RegFld := ⟨MDB_NBT, 18, 7⟩
def MDB_NBT_NSJW : RegFld := ⟨MDB_NBT, 25, 7⟩
/-- 11_multidrop_bus: Table 11-7. -/
def MDB_DBT : Reg :=
  ⟨0x40500008, 16, 0x1000, 1, 0x0, .block, none, fun _ _ => 0x01010600,
   [⟨0, 5, .rw, false, false⟩, ⟨8, 5, .rw, false, false⟩, ⟨16, 4, .rw, false, false⟩, ⟨24, 4, .rw, false, false⟩]⟩
def MDB_DBT_DBRP : RegFld := ⟨MDB_DBT, 0, 5⟩
def MDB_DBT_DTSEG1 : RegFld := ⟨MDB_DBT, 8, 5⟩
def MDB_DBT_DTSEG2 : RegFld := ⟨MDB_DBT, 16, 4⟩
def MDB_DBT_DSJW : RegFld := ⟨MDB_DBT, 24, 4⟩
/-- 11_multidrop_bus: Table 11-7. -/
def MDB_TDC : Reg :=
  ⟨0x4050000C, 16, 0x1000, 1, 0x0, .block, none, fun _ _ => 0x00000800,
   [⟨0, 1, .rw, false, false⟩, ⟨8, 7, .rw, false, false⟩, ⟨16, 7, .ro, false, false⟩]⟩
def MDB_TDC_TDCEN : RegFld := ⟨MDB_TDC, 0, 1⟩
def MDB_TDC_TDCO : RegFld := ⟨MDB_TDC, 8, 7⟩
def MDB_TDC_TDCV : RegFld := ⟨MDB_TDC, 16, 7⟩
/-- 11_multidrop_bus: Table 11-8. -/
def MDB_STAT : Reg :=
  ⟨0x40500010, 16, 0x1000, 1, 0x0, .block, none, fun _ _ => 0x00000000,
   [⟨0, 3, .ro, false, false⟩, ⟨3, 1, .ro, false, false⟩, ⟨8, 8, .ro, false, false⟩, ⟨16, 8, .ro, false, false⟩, ⟨24,
    1, .ro, false, false⟩]⟩
def MDB_STAT_STATE : RegFld := ⟨MDB_STAT, 0, 3⟩
def MDB_STAT_CFGERR : RegFld := ⟨MDB_STAT, 3, 1⟩
def MDB_STAT_TEC : RegFld := ⟨MDB_STAT, 8, 8⟩
def MDB_STAT_REC : RegFld := ⟨MDB_STAT, 16, 8⟩
def MDB_STAT_TXACT : RegFld := ⟨MDB_STAT, 24, 1⟩
/-- 11_multidrop_bus: Table 11-8. -/
def MDB_TXSTAT : Reg :=
  ⟨0x40500014, 16, 0x1000, 1, 0x0, .block, none, fun _ _ => 0x00000000,
   [⟨0, 7, .ro, false, false⟩, ⟨8, 1, .ro, false, false⟩, ⟨9, 1, .ro, false, false⟩]⟩
def MDB_TXSTAT_LEVEL : RegFld := ⟨MDB_TXSTAT, 0, 7⟩
def MDB_TXSTAT_PSFULL : RegFld := ⟨MDB_TXSTAT, 8, 1⟩
def MDB_TXSTAT_HELD : RegFld := ⟨MDB_TXSTAT, 9, 1⟩
/-- 11_multidrop_bus: Table 11-8. -/
def MDB_TXWM : Reg :=
  ⟨0x40500018, 16, 0x1000, 1, 0x0, .block, some (57, 1), fun _ _ => 0x00000008,
   [⟨0, 7, .st, false, false⟩]⟩
def MDB_TXWM_LOW : RegFld := ⟨MDB_TXWM, 0, 7⟩
/-- 11_multidrop_bus: Table 11-8. -/
def MDB_RXDLY : Reg :=
  ⟨0x4050001C, 16, 0x1000, 1, 0x0, .block, none, fun _ _ => 0x00000000,
   [⟨0, 16, .rw, false, false⟩]⟩
def MDB_RXDLY_PS : RegFld := ⟨MDB_RXDLY, 0, 16⟩
/-- 11_multidrop_bus: MDB_FLTk: offsets 0x100 + 8 × k (FID) and 0x104 + 8 × k (MASK), k = 0 to 31, commit domain
bus cycle (instance 57 + n), block reset. -/
def MDB_FLT_FID : Reg :=
  ⟨0x40500100, 16, 0x1000, 32, 0x8, .block, some (57, 1), fun _ _ => 0x00000000,
   [⟨0, 29, .st, false, false⟩, ⟨29, 1, .st, false, false⟩, ⟨31, 1, .st, false, false⟩]⟩
def MDB_FLT_FID_FID : RegFld := ⟨MDB_FLT_FID, 0, 29⟩
def MDB_FLT_FID_IDE : RegFld := ⟨MDB_FLT_FID, 29, 1⟩
def MDB_FLT_FID_EN : RegFld := ⟨MDB_FLT_FID, 31, 1⟩
/-- 11_multidrop_bus: MDB_FLTk: offsets 0x100 + 8 × k (FID) and 0x104 + 8 × k (MASK), k = 0 to 31, commit domain
bus cycle (instance 57 + n), block reset. -/
def MDB_FLT_MASK : Reg :=
  ⟨0x40500104, 16, 0x1000, 32, 0x8, .block, some (57, 1), fun _ _ => 0x00000000,
   [⟨0, 29, .st, false, false⟩, ⟨31, 1, .st, false, false⟩]⟩
def MDB_FLT_MASK_MASK : RegFld := ⟨MDB_FLT_MASK, 0, 29⟩
def MDB_FLT_MASK_REJECT : RegFld := ⟨MDB_FLT_MASK, 31, 1⟩
/-- 11_multidrop_bus: Table 11-9. -/
def MDB_TMCFG : Reg :=
  ⟨0x40500200, 16, 0x1000, 1, 0x0, .block, some (57, 1), fun _ _ => 0x00640000,
   [⟨0, 2, .st, false, false⟩, ⟨2, 3, .st, false, false⟩, ⟨8, 6, .st, false, false⟩, ⟨16, 16, .st, false, false⟩]⟩
def MDB_TMCFG_ROLE : RegFld := ⟨MDB_TMCFG, 0, 2⟩
def MDB_TMCFG_PRIO : RegFld := ⟨MDB_TMCFG, 2, 3⟩
def MDB_TMCFG_CYCMAX : RegFld := ⟨MDB_TMCFG, 8, 6⟩
def MDB_TMCFG_BACKOFF : RegFld := ⟨MDB_TMCFG, 16, 16⟩
/-- 11_multidrop_bus: Table 11-9. -/
def MDB_TMREFID : Reg :=
  ⟨0x40500204, 16, 0x1000, 1, 0x0, .block, some (57, 1), fun _ _ => 0x00000000,
   [⟨0, 29, .st, false, false⟩, ⟨29, 1, .st, false, false⟩]⟩
def MDB_TMREFID_REFID : RegFld := ⟨MDB_TMREFID, 0, 29⟩
def MDB_TMREFID_IDE : RegFld := ⟨MDB_TMREFID, 29, 1⟩
/-- 11_multidrop_bus: Table 11-9. -/
def MDB_TMPER : Reg :=
  ⟨0x40500208, 16, 0x1000, 1, 0x0, .block, some (57, 1), fun _ _ => 0x000F4240,
   [⟨0, 27, .st, false, false⟩]⟩
def MDB_TMPER_PERIOD : RegFld := ⟨MDB_TMPER, 0, 27⟩
/-- 11_multidrop_bus: Table 11-9. -/
def MDB_TMBASE_LO : Reg :=
  ⟨0x4050020C, 16, 0x1000, 1, 0x0, .block, some (57, 1), fun _ _ => 0x00000000,
   [⟨0, 32, .st, false, false⟩]⟩
def MDB_TMBASE_LO_BASE : RegFld := ⟨MDB_TMBASE_LO, 0, 32⟩
/-- 11_multidrop_bus: Table 11-9. -/
def MDB_TMBASE_HI : Reg :=
  ⟨0x40500210, 16, 0x1000, 1, 0x0, .block, some (57, 1), fun _ _ => 0x00000000,
   [⟨0, 32, .st, false, false⟩]⟩
def MDB_TMBASE_HI_BASE : RegFld := ⟨MDB_TMBASE_HI, 0, 32⟩
/-- 11_multidrop_bus: Table 11-9. -/
def MDB_TMSTAT : Reg :=
  ⟨0x40500300, 16, 0x1000, 1, 0x0, .block, none, fun _ _ => 0x00000000,
   [⟨0, 1, .ro, false, false⟩, ⟨1, 1, .ro, false, false⟩, ⟨8, 6, .ro, false, false⟩]⟩
def MDB_TMSTAT_SYNCED : RegFld := ⟨MDB_TMSTAT, 0, 1⟩
def MDB_TMSTAT_MASTER : RegFld := ⟨MDB_TMSTAT, 1, 1⟩
def MDB_TMSTAT_CYCLE : RegFld := ⟨MDB_TMSTAT, 8, 6⟩
/-- 11_multidrop_bus: Table 11-9. -/
def MDB_TMREF_LO : Reg :=
  ⟨0x40500304, 16, 0x1000, 1, 0x0, .block, none, fun _ _ => 0x00000000,
   [⟨0, 32, .ro, false, false⟩]⟩
def MDB_TMREF_LO_NS : RegFld := ⟨MDB_TMREF_LO, 0, 32⟩
/-- 11_multidrop_bus: Table 11-9. -/
def MDB_TMREF_HI : Reg :=
  ⟨0x40500308, 16, 0x1000, 1, 0x0, .block, none, fun _ _ => 0x00000000,
   [⟨0, 32, .ro, false, false⟩]⟩
def MDB_TMREF_HI_NS : RegFld := ⟨MDB_TMREF_HI, 0, 32⟩
/-- 11_multidrop_bus: Table 11-9. -/
def MDB_TMREF_FRAC : Reg :=
  ⟨0x4050030C, 16, 0x1000, 1, 0x0, .block, none, fun _ _ => 0x00000000,
   [⟨0, 5, .ro, false, false⟩]⟩
def MDB_TMREF_FRAC_FRAC : RegFld := ⟨MDB_TMREF_FRAC, 0, 5⟩
/-- 11_multidrop_bus: Table 11-10. -/
def MDB_WAKE : Reg :=
  ⟨0x40500400, 16, 0x1000, 1, 0x0, .sill, none, fun _ _ => 0x00000004,
   [⟨0, 1, .rw, false, false⟩, ⟨1, 2, .rw, false, false⟩, ⟨3, 1, .ro, false, false⟩]⟩
def MDB_WAKE_WAKEMODE : RegFld := ⟨MDB_WAKE, 0, 1⟩
def MDB_WAKE_FILT : RegFld := ⟨MDB_WAKE, 1, 2⟩
def MDB_WAKE_QUAR : RegFld := ⟨MDB_WAKE, 3, 1⟩
/-- 11_multidrop_bus: Table 11-10. -/
def MDB_WAKECHAT : Reg :=
  ⟨0x40500404, 16, 0x1000, 1, 0x0, .sill, none, fun _ _ => 0x32326410,
   [⟨0, 8, .rw, false, false⟩, ⟨8, 8, .rw, false, false⟩, ⟨16, 8, .rw, false, false⟩, ⟨24, 8, .rw, false, false⟩]⟩
def MDB_WAKECHAT_CHATMAX : RegFld := ⟨MDB_WAKECHAT, 0, 8⟩
def MDB_WAKECHAT_CHATWIN : RegFld := ⟨MDB_WAKECHAT, 8, 8⟩
def MDB_WAKECHAT_QUIET : RegFld := ⟨MDB_WAKECHAT, 16, 8⟩
def MDB_WAKECHAT_STUCK : RegFld := ⟨MDB_WAKECHAT, 24, 8⟩
/-- 11_multidrop_bus: Table 11-10. -/
def MDB_WKID : Reg :=
  ⟨0x40500408, 16, 0x1000, 1, 0x0, .sill, none, fun _ _ => 0x00000000,
   [⟨0, 29, .rw, false, false⟩, ⟨29, 1, .rw, false, false⟩, ⟨30, 1, .rw, false, false⟩]⟩
def MDB_WKID_ID : RegFld := ⟨MDB_WKID, 0, 29⟩
def MDB_WKID_IDE : RegFld := ⟨MDB_WKID, 29, 1⟩
def MDB_WKID_DATAEN : RegFld := ⟨MDB_WKID, 30, 1⟩
/-- 11_multidrop_bus: Table 11-10. -/
def MDB_WKMASK : Reg :=
  ⟨0x4050040C, 16, 0x1000, 1, 0x0, .sill, none, fun _ _ => 0x1FFFFFFF,
   [⟨0, 29, .rw, false, false⟩]⟩
def MDB_WKMASK_MASK : RegFld := ⟨MDB_WKMASK, 0, 29⟩
/-- 11_multidrop_bus: Table 11-10. -/
def MDB_WKDATA_LO : Reg :=
  ⟨0x40500410, 16, 0x1000, 1, 0x0, .sill, none, fun _ _ => 0x00000000,
   [⟨0, 32, .rw, false, false⟩]⟩
def MDB_WKDATA_LO_DATA : RegFld := ⟨MDB_WKDATA_LO, 0, 32⟩
/-- 11_multidrop_bus: Table 11-10. -/
def MDB_WKDATA_HI : Reg :=
  ⟨0x40500414, 16, 0x1000, 1, 0x0, .sill, none, fun _ _ => 0x00000000,
   [⟨0, 32, .rw, false, false⟩]⟩
def MDB_WKDATA_HI_DATA : RegFld := ⟨MDB_WKDATA_HI, 0, 32⟩
/-- 11_multidrop_bus: Table 11-10. -/
def MDB_WKDMASK_LO : Reg :=
  ⟨0x40500418, 16, 0x1000, 1, 0x0, .sill, none, fun _ _ => 0x00000000,
   [⟨0, 32, .rw, false, false⟩]⟩
def MDB_WKDMASK_LO_MASK : RegFld := ⟨MDB_WKDMASK_LO, 0, 32⟩
/-- 11_multidrop_bus: Table 11-10. -/
def MDB_WKDMASK_HI : Reg :=
  ⟨0x4050041C, 16, 0x1000, 1, 0x0, .sill, none, fun _ _ => 0x00000000,
   [⟨0, 32, .rw, false, false⟩]⟩
def MDB_WKDMASK_HI_MASK : RegFld := ⟨MDB_WKDMASK_HI, 0, 32⟩
/-- 11_multidrop_bus: MDB_EVSTAT and MDB_EVEN: offsets 0x500 and 0x504, block reset. -/
def MDB_EVSTAT : Reg :=
  ⟨0x40500500, 16, 0x1000, 1, 0x0, .block, none, fun _ _ => 0x00000000,
   [⟨0, 1, .w1c, false, false⟩, ⟨1, 1, .w1c, false, false⟩, ⟨2, 1, .w1c, false, false⟩, ⟨3, 1, .w1c, false, false⟩,
    ⟨4, 1, .w1c, false, false⟩, ⟨5, 1, .w1c, false, false⟩, ⟨6, 1, .w1c, false, false⟩, ⟨7, 1, .w1c, false, false⟩,
    ⟨8, 1, .w1c, false, false⟩, ⟨9, 1, .w1c, false, false⟩, ⟨10, 1, .w1c, false, false⟩, ⟨11, 1, .w1c, false, false⟩]⟩
def MDB_EVSTAT_CFGERR : RegFld := ⟨MDB_EVSTAT, 0, 1⟩
def MDB_EVSTAT_ERRPASS : RegFld := ⟨MDB_EVSTAT, 1, 1⟩
def MDB_EVSTAT_RXOVR : RegFld := ⟨MDB_EVSTAT, 2, 1⟩
def MDB_EVSTAT_TXREJ : RegFld := ⟨MDB_EVSTAT, 3, 1⟩
def MDB_EVSTAT_TXLATE : RegFld := ⟨MDB_EVSTAT, 4, 1⟩
def MDB_EVSTAT_BUSOFF : RegFld := ⟨MDB_EVSTAT, 5, 1⟩
def MDB_EVSTAT_BORDONE : RegFld := ⟨MDB_EVSTAT, 6, 1⟩
def MDB_EVSTAT_WAKE : RegFld := ⟨MDB_EVSTAT, 7, 1⟩
def MDB_EVSTAT_CHAT : RegFld := ⟨MDB_EVSTAT, 8, 1⟩
def MDB_EVSTAT_STUCK : RegFld := ⟨MDB_EVSTAT, 9, 1⟩
def MDB_EVSTAT_TMROLE : RegFld := ⟨MDB_EVSTAT, 10, 1⟩
def MDB_EVSTAT_TMSYNC : RegFld := ⟨MDB_EVSTAT, 11, 1⟩
/-- 11_multidrop_bus: MDB_EVSTAT and MDB_EVEN: offsets 0x500 and 0x504, block reset. -/
def MDB_EVEN : Reg :=
  ⟨0x40500504, 16, 0x1000, 1, 0x0, .block, none, fun _ _ => 0x00000000,
   [⟨0, 1, .rw, false, false⟩, ⟨1, 1, .rw, false, false⟩, ⟨2, 1, .rw, false, false⟩, ⟨3, 1, .rw, false, false⟩, ⟨4, 1,
    .rw, false, false⟩, ⟨5, 1, .rw, false, false⟩, ⟨6, 1, .rw, false, false⟩, ⟨7, 1, .rw, false, false⟩, ⟨8, 1, .rw,
    false, false⟩, ⟨9, 1, .rw, false, false⟩, ⟨10, 1, .rw, false, false⟩, ⟨11, 1, .rw, false, false⟩]⟩
def MDB_EVEN_CFGERR : RegFld := ⟨MDB_EVEN, 0, 1⟩
def MDB_EVEN_ERRPASS : RegFld := ⟨MDB_EVEN, 1, 1⟩
def MDB_EVEN_RXOVR : RegFld := ⟨MDB_EVEN, 2, 1⟩
def MDB_EVEN_TXREJ : RegFld := ⟨MDB_EVEN, 3, 1⟩
def MDB_EVEN_TXLATE : RegFld := ⟨MDB_EVEN, 4, 1⟩
def MDB_EVEN_BUSOFF : RegFld := ⟨MDB_EVEN, 5, 1⟩
def MDB_EVEN_BORDONE : RegFld := ⟨MDB_EVEN, 6, 1⟩
def MDB_EVEN_WAKE : RegFld := ⟨MDB_EVEN, 7, 1⟩
def MDB_EVEN_CHAT : RegFld := ⟨MDB_EVEN, 8, 1⟩
def MDB_EVEN_STUCK : RegFld := ⟨MDB_EVEN, 9, 1⟩
def MDB_EVEN_TMROLE : RegFld := ⟨MDB_EVEN, 10, 1⟩
def MDB_EVEN_TMSYNC : RegFld := ⟨MDB_EVEN, 11, 1⟩
/-- 11_multidrop_bus: counter, saturating at 0xFFFF_FFFF. -/
def MDB_CNT_RXOK : Reg :=
  ⟨0x40500600, 16, 0x1000, 1, 0x0, .block, none, fun _ _ => 0x00000000,
   [⟨0, 32, .rw, false, false⟩]⟩
/-- 11_multidrop_bus: counter, saturating at 0xFFFF_FFFF. -/
def MDB_CNT_RXERR : Reg :=
  ⟨0x40500604, 16, 0x1000, 1, 0x0, .block, none, fun _ _ => 0x00000000,
   [⟨0, 32, .rw, false, false⟩]⟩
/-- 11_multidrop_bus: counter, saturating at 0xFFFF_FFFF. -/
def MDB_CNT_RXOVR : Reg :=
  ⟨0x40500608, 16, 0x1000, 1, 0x0, .block, none, fun _ _ => 0x00000000,
   [⟨0, 32, .rw, false, false⟩]⟩
/-- 11_multidrop_bus: counter, saturating at 0xFFFF_FFFF. -/
def MDB_CNT_RXFILT : Reg :=
  ⟨0x4050060C, 16, 0x1000, 1, 0x0, .block, none, fun _ _ => 0x00000000,
   [⟨0, 32, .rw, false, false⟩]⟩
/-- 11_multidrop_bus: counter, saturating at 0xFFFF_FFFF. -/
def MDB_CNT_TXOK : Reg :=
  ⟨0x40500610, 16, 0x1000, 1, 0x0, .block, none, fun _ _ => 0x00000000,
   [⟨0, 32, .rw, false, false⟩]⟩
/-- 11_multidrop_bus: counter, saturating at 0xFFFF_FFFF. -/
def MDB_CNT_TXARB : Reg :=
  ⟨0x40500614, 16, 0x1000, 1, 0x0, .block, none, fun _ _ => 0x00000000,
   [⟨0, 32, .rw, false, false⟩]⟩
/-- 11_multidrop_bus: counter, saturating at 0xFFFF_FFFF. -/
def MDB_CNT_TXERR : Reg :=
  ⟨0x40500618, 16, 0x1000, 1, 0x0, .block, none, fun _ _ => 0x00000000,
   [⟨0, 32, .rw, false, false⟩]⟩
/-- 11_multidrop_bus: counter, saturating at 0xFFFF_FFFF. -/
def MDB_CNT_TXREJ : Reg :=
  ⟨0x4050061C, 16, 0x1000, 1, 0x0, .block, none, fun _ _ => 0x00000000,
   [⟨0, 32, .rw, false, false⟩]⟩
/-- 11_multidrop_bus: counter, saturating at 0xFFFF_FFFF. -/
def MDB_CNT_TXLATE : Reg :=
  ⟨0x40500620, 16, 0x1000, 1, 0x0, .block, none, fun _ _ => 0x00000000,
   [⟨0, 32, .rw, false, false⟩]⟩
/-- 11_multidrop_bus: counter, saturating at 0xFFFF_FFFF. -/
def MDB_CNT_TXFLUSH : Reg :=
  ⟨0x40500624, 16, 0x1000, 1, 0x0, .block, none, fun _ _ => 0x00000000,
   [⟨0, 32, .rw, false, false⟩]⟩
/-- 11_multidrop_bus: counter, saturating at 0xFFFF_FFFF. -/
def MDB_CNT_BUSOFF : Reg :=
  ⟨0x40500628, 16, 0x1000, 1, 0x0, .block, none, fun _ _ => 0x00000000,
   [⟨0, 32, .rw, false, false⟩]⟩
/-- 11_multidrop_bus: counter, saturating at 0xFFFF_FFFF. -/
def MDB_CNT_WAKEMISS : Reg :=
  ⟨0x4050062C, 16, 0x1000, 1, 0x0, .block, none, fun _ _ => 0x00000000,
   [⟨0, 32, .rw, false, false⟩]⟩
/-- Registers of block MDB, part 0. -/
def regsMdb0 : List Reg :=
  [MDB_CTL, MDB_NBT, MDB_DBT, MDB_TDC, MDB_STAT, MDB_TXSTAT, MDB_TXWM, MDB_RXDLY, MDB_FLT_FID, MDB_FLT_MASK,
    MDB_TMCFG, MDB_TMREFID, MDB_TMPER, MDB_TMBASE_LO, MDB_TMBASE_HI, MDB_TMSTAT, MDB_TMREF_LO, MDB_TMREF_HI,
    MDB_TMREF_FRAC, MDB_WAKE, MDB_WAKECHAT, MDB_WKID, MDB_WKMASK, MDB_WKDATA_LO, MDB_WKDATA_HI, MDB_WKDMASK_LO,
    MDB_WKDMASK_HI, MDB_EVSTAT, MDB_EVEN, MDB_CNT_RXOK, MDB_CNT_RXERR, MDB_CNT_RXOVR, MDB_CNT_RXFILT, MDB_CNT_TXOK,
    MDB_CNT_TXARB, MDB_CNT_TXERR, MDB_CNT_TXREJ, MDB_CNT_TXLATE, MDB_CNT_TXFLUSH, MDB_CNT_BUSOFF]
/-- Registers of block MDB, part 1. -/
def regsMdb1 : List Reg :=
  [MDB_CNT_WAKEMISS]
/-- The registers of block MDB. -/
def regsMdb : List Reg :=
  regsMdb0 ++ regsMdb1

/-- 13_serial_pio: Table 13-9. -/
def SLN_CTL : Reg :=
  ⟨0x40600000, 16, 0x1000, 1, 0x0, .block, none, fun _ _ => 0x00003000,
   [⟨0, 1, .rw, false, false⟩, ⟨1, 2, .rw, false, false⟩, ⟨3, 3, .rw, false, false⟩, ⟨6, 1, .rw, false, false⟩, ⟨7, 1,
    .rw, false, false⟩, ⟨8, 1, .rw, false, false⟩, ⟨9, 1, .rw, false, false⟩, ⟨10, 1, .rw, false, false⟩, ⟨11, 1, .rw,
    false, false⟩, ⟨12, 1, .rw, false, false⟩, ⟨13, 1, .rw, false, false⟩, ⟨16, 1, .wo, false, false⟩, ⟨17, 1, .wo,
    false, false⟩, ⟨18, 1, .wo, false, false⟩]⟩
def SLN_CTL_EN : RegFld := ⟨SLN_CTL, 0, 1⟩
def SLN_CTL_CODE : RegFld := ⟨SLN_CTL, 1, 2⟩
def SLN_CTL_FRAMING : RegFld := ⟨SLN_CTL, 3, 3⟩
def SLN_CTL_DUPLEX : RegFld := ⟨SLN_CTL, 6, 1⟩
def SLN_CTL_ECHO : RegFld := ⟨SLN_CTL, 7, 1⟩
def SLN_CTL_INVRX : RegFld := ⟨SLN_CTL, 8, 1⟩
def SLN_CTL_INVTX : RegFld := ⟨SLN_CTL, 9, 1⟩
def SLN_CTL_DEPOL : RegFld := ⟨SLN_CTL, 10, 1⟩
def SLN_CTL_DEHOLD : RegFld := ⟨SLN_CTL, 11, 1⟩
def SLN_CTL_TXCRC : RegFld := ⟨SLN_CTL, 12, 1⟩
def SLN_CTL_TXWAKE : RegFld := ⟨SLN_CTL, 13, 1⟩
def SLN_CTL_FLUSH : RegFld := ⟨SLN_CTL, 16, 1⟩
def SLN_CTL_SLEEP : RegFld := ⟨SLN_CTL, 17, 1⟩
def SLN_CTL_WAKE : RegFld := ⟨SLN_CTL, 18, 1⟩
/-- 13_serial_pio: Table 13-9. -/
def SLN_CHAR : Reg :=
  ⟨0x40600004, 16, 0x1000, 1, 0x0, .block, none, fun _ _ => 0x00000008,
   [⟨0, 4, .rw, false, false⟩, ⟨4, 3, .rw, false, false⟩, ⟨8, 2, .rw, false, false⟩, ⟨10, 1, .rw, false, false⟩, ⟨11,
    1, .rw, false, false⟩]⟩
def SLN_CHAR_DBITS : RegFld := ⟨SLN_CHAR, 0, 4⟩
def SLN_CHAR_PAR : RegFld := ⟨SLN_CHAR, 4, 3⟩
def SLN_CHAR_STOP : RegFld := ⟨SLN_CHAR, 8, 2⟩
def SLN_CHAR_MSBF : RegFld := ⟨SLN_CHAR, 10, 1⟩
def SLN_CHAR_OS8 : RegFld := ⟨SLN_CHAR, 11, 1⟩
/-- 13_serial_pio: Table 13-9. -/
def SLN_RATE : Reg :=
  ⟨0x40600008, 16, 0x1000, 1, 0x0, .block, none, fun _ _ => 0x00005161,
   [⟨0, 4, .rw, false, false⟩, ⟨4, 16, .rw, false, false⟩]⟩
def SLN_RATE_FRAC : RegFld := ⟨SLN_RATE, 0, 4⟩
def SLN_RATE_DIV : RegFld := ⟨SLN_RATE, 4, 16⟩
/-- 13_serial_pio: Table 13-9. -/
def SLN_GAP : Reg :=
  ⟨0x4060000C, 16, 0x1000, 1, 0x0, .block, none, fun _ _ => 0x0050004D,
   [⟨0, 12, .rw, false, false⟩, ⟨16, 12, .rw, false, false⟩]⟩
def SLN_GAP_IDLEGAP : RegFld := ⟨SLN_GAP, 0, 12⟩
def SLN_GAP_IFGAP : RegFld := ⟨SLN_GAP, 16, 12⟩
/-- 13_serial_pio: Table 13-9. -/
def SLN_DE : Reg :=
  ⟨0x40600010, 16, 0x1000, 1, 0x0, .block, none, fun _ _ => 0x00000808,
   [⟨0, 8, .rw, false, false⟩, ⟨8, 8, .rw, false, false⟩]⟩
def SLN_DE_LEAD : RegFld := ⟨SLN_DE, 0, 8⟩
def SLN_DE_TAIL : RegFld := ⟨SLN_DE, 8, 8⟩
/-- 13_serial_pio: Table 13-9. -/
def SLN_DELIM : Reg :=
  ⟨0x40600014, 16, 0x1000, 1, 0x0, .block, none, fun _ _ => 0x010A0D3A,
   [⟨0, 8, .rw, false, false⟩, ⟨8, 8, .rw, false, false⟩, ⟨16, 8, .rw, false, false⟩, ⟨24, 1, .rw, false, false⟩, ⟨25,
    1, .rw, false, false⟩]⟩
def SLN_DELIM_SOFCH : RegFld := ⟨SLN_DELIM, 0, 8⟩
def SLN_DELIM_EOFCH : RegFld := ⟨SLN_DELIM, 8, 8⟩
def SLN_DELIM_EOF2 : RegFld := ⟨SLN_DELIM, 16, 8⟩
def SLN_DELIM_EOF2EN : RegFld := ⟨SLN_DELIM, 24, 1⟩
def SLN_DELIM_ESCEN : RegFld := ⟨SLN_DELIM, 25, 1⟩
/-- 13_serial_pio: Table 13-9. -/
def SLN_RXMAX : Reg :=
  ⟨0x40600018, 16, 0x1000, 1, 0x0, .block, none, fun _ _ => 0x00000100,
   [⟨0, 13, .rw, false, false⟩]⟩
def SLN_RXMAX_MAX : RegFld := ⟨SLN_RXMAX, 0, 13⟩
/-- 13_serial_pio: Table 13-9. -/
def SLN_RXDLY : Reg :=
  ⟨0x4060001C, 16, 0x1000, 1, 0x0, .block, none, fun _ _ => 0x00000000,
   [⟨0, 16, .rw, false, false⟩]⟩
def SLN_RXDLY_PS : RegFld := ⟨SLN_RXDLY, 0, 16⟩
/-- 13_serial_pio: Table 13-9. -/
def SLN_STAT : Reg :=
  ⟨0x40600020, 16, 0x1000, 1, 0x0, .block, none, fun _ _ => 0x10000000,
   [⟨0, 2, .ro, false, false⟩, ⟨3, 1, .ro, false, false⟩, ⟨4, 1, .ro, false, false⟩, ⟨5, 1, .ro, false, false⟩, ⟨6, 1,
    .ro, false, false⟩, ⟨7, 1, .ro, false, false⟩, ⟨16, 13, .ro, false, false⟩]⟩
def SLN_STAT_STATE : RegFld := ⟨SLN_STAT, 0, 2⟩
def SLN_STAT_CFGERR : RegFld := ⟨SLN_STAT, 3, 1⟩
def SLN_STAT_LOCK : RegFld := ⟨SLN_STAT, 4, 1⟩
def SLN_STAT_TXACT : RegFld := ⟨SLN_STAT, 5, 1⟩
def SLN_STAT_RXACT : RegFld := ⟨SLN_STAT, 6, 1⟩
def SLN_STAT_DEON : RegFld := ⟨SLN_STAT, 7, 1⟩
def SLN_STAT_TXFREE : RegFld := ⟨SLN_STAT, 16, 13⟩
/-- 13_serial_pio: Table 13-9. -/
def SLN_WAKE : Reg :=
  ⟨0x40600400, 16, 0x1000, 1, 0x0, .sill, none, fun _ _ => 0x00000004,
   [⟨1, 2, .rw, false, false⟩, ⟨3, 1, .ro, false, false⟩]⟩
def SLN_WAKE_FILT : RegFld := ⟨SLN_WAKE, 1, 2⟩
def SLN_WAKE_QUAR : RegFld := ⟨SLN_WAKE, 3, 1⟩
/-- 13_serial_pio: Table 13-9. -/
def SLN_WAKECHAT : Reg :=
  ⟨0x40600404, 16, 0x1000, 1, 0x0, .sill, none, fun _ _ => 0x32326410,
   [⟨0, 8, .rw, false, false⟩, ⟨8, 8, .rw, false, false⟩, ⟨16, 8, .rw, false, false⟩, ⟨24, 8, .rw, false, false⟩]⟩
def SLN_WAKECHAT_CHATMAX : RegFld := ⟨SLN_WAKECHAT, 0, 8⟩
def SLN_WAKECHAT_CHATWIN : RegFld := ⟨SLN_WAKECHAT, 8, 8⟩
def SLN_WAKECHAT_QUIET : RegFld := ⟨SLN_WAKECHAT, 16, 8⟩
def SLN_WAKECHAT_STUCK : RegFld := ⟨SLN_WAKECHAT, 24, 8⟩
/-- 13_serial_pio: SLN_EVSTAT and SLN_EVEN are at offsets 0x500 and 0x504, block reset. -/
def SLN_EVSTAT : Reg :=
  ⟨0x40600500, 16, 0x1000, 1, 0x0, .block, none, fun _ _ => 0x00000000,
   [⟨0, 1, .w1c, false, false⟩, ⟨1, 1, .w1c, false, false⟩, ⟨2, 1, .w1c, false, false⟩, ⟨3, 1, .w1c, false, false⟩,
    ⟨4, 1, .w1c, false, false⟩, ⟨5, 1, .w1c, false, false⟩, ⟨6, 1, .w1c, false, false⟩, ⟨7, 1, .w1c, false, false⟩,
    ⟨8, 1, .w1c, false, false⟩, ⟨9, 1, .w1c, false, false⟩]⟩
def SLN_EVSTAT_CFGERR : RegFld := ⟨SLN_EVSTAT, 0, 1⟩
def SLN_EVSTAT_PARERR : RegFld := ⟨SLN_EVSTAT, 1, 1⟩
def SLN_EVSTAT_FRMERR : RegFld := ⟨SLN_EVSTAT, 2, 1⟩
def SLN_EVSTAT_RXCRC : RegFld := ⟨SLN_EVSTAT, 3, 1⟩
def SLN_EVSTAT_RXOVER : RegFld := ⟨SLN_EVSTAT, 4, 1⟩
def SLN_EVSTAT_RXDROP : RegFld := ⟨SLN_EVSTAT, 5, 1⟩
def SLN_EVSTAT_ECHOERR : RegFld := ⟨SLN_EVSTAT, 6, 1⟩
def SLN_EVSTAT_WAKE : RegFld := ⟨SLN_EVSTAT, 7, 1⟩
def SLN_EVSTAT_CHAT : RegFld := ⟨SLN_EVSTAT, 8, 1⟩
def SLN_EVSTAT_STUCK : RegFld := ⟨SLN_EVSTAT, 9, 1⟩
/-- 13_serial_pio: SLN_EVSTAT and SLN_EVEN are at offsets 0x500 and 0x504, block reset. -/
def SLN_EVEN : Reg :=
  ⟨0x40600504, 16, 0x1000, 1, 0x0, .block, none, fun _ _ => 0x00000000,
   [⟨0, 1, .rw, false, false⟩, ⟨1, 1, .rw, false, false⟩, ⟨2, 1, .rw, false, false⟩, ⟨3, 1, .rw, false, false⟩, ⟨4, 1,
    .rw, false, false⟩, ⟨5, 1, .rw, false, false⟩, ⟨6, 1, .rw, false, false⟩, ⟨7, 1, .rw, false, false⟩, ⟨8, 1, .rw,
    false, false⟩, ⟨9, 1, .rw, false, false⟩]⟩
def SLN_EVEN_CFGERR : RegFld := ⟨SLN_EVEN, 0, 1⟩
def SLN_EVEN_PARERR : RegFld := ⟨SLN_EVEN, 1, 1⟩
def SLN_EVEN_FRMERR : RegFld := ⟨SLN_EVEN, 2, 1⟩
def SLN_EVEN_RXCRC : RegFld := ⟨SLN_EVEN, 3, 1⟩
def SLN_EVEN_RXOVER : RegFld := ⟨SLN_EVEN, 4, 1⟩
def SLN_EVEN_RXDROP : RegFld := ⟨SLN_EVEN, 5, 1⟩
def SLN_EVEN_ECHOERR : RegFld := ⟨SLN_EVEN, 6, 1⟩
def SLN_EVEN_WAKE : RegFld := ⟨SLN_EVEN, 7, 1⟩
def SLN_EVEN_CHAT : RegFld := ⟨SLN_EVEN, 8, 1⟩
def SLN_EVEN_STUCK : RegFld := ⟨SLN_EVEN, 9, 1⟩
/-- 13_serial_pio: counter, saturating at 0xFFFF_FFFF. -/
def SLN_CNT_RXOK : Reg :=
  ⟨0x40600600, 16, 0x1000, 1, 0x0, .block, none, fun _ _ => 0x00000000,
   [⟨0, 32, .rw, false, false⟩]⟩
/-- 13_serial_pio: counter, saturating at 0xFFFF_FFFF. -/
def SLN_CNT_RXCRC : Reg :=
  ⟨0x40600604, 16, 0x1000, 1, 0x0, .block, none, fun _ _ => 0x00000000,
   [⟨0, 32, .rw, false, false⟩]⟩
/-- 13_serial_pio: counter, saturating at 0xFFFF_FFFF. -/
def SLN_CNT_RXPAR : Reg :=
  ⟨0x40600608, 16, 0x1000, 1, 0x0, .block, none, fun _ _ => 0x00000000,
   [⟨0, 32, .rw, false, false⟩]⟩
/-- 13_serial_pio: counter, saturating at 0xFFFF_FFFF. -/
def SLN_CNT_RXFRM : Reg :=
  ⟨0x4060060C, 16, 0x1000, 1, 0x0, .block, none, fun _ _ => 0x00000000,
   [⟨0, 32, .rw, false, false⟩]⟩
/-- 13_serial_pio: counter, saturating at 0xFFFF_FFFF. -/
def SLN_CNT_RXOVER : Reg :=
  ⟨0x40600610, 16, 0x1000, 1, 0x0, .block, none, fun _ _ => 0x00000000,
   [⟨0, 32, .rw, false, false⟩]⟩
/-- 13_serial_pio: counter, saturating at 0xFFFF_FFFF. -/
def SLN_CNT_RXDROP : Reg :=
  ⟨0x40600614, 16, 0x1000, 1, 0x0, .block, none, fun _ _ => 0x00000000,
   [⟨0, 32, .rw, false, false⟩]⟩
/-- 13_serial_pio: counter, saturating at 0xFFFF_FFFF. -/
def SLN_CNT_TXOK : Reg :=
  ⟨0x40600618, 16, 0x1000, 1, 0x0, .block, none, fun _ _ => 0x00000000,
   [⟨0, 32, .rw, false, false⟩]⟩
/-- 13_serial_pio: counter, saturating at 0xFFFF_FFFF. -/
def SLN_CNT_ECHOERR : Reg :=
  ⟨0x4060061C, 16, 0x1000, 1, 0x0, .block, none, fun _ _ => 0x00000000,
   [⟨0, 32, .rw, false, false⟩]⟩
/-- 13_serial_pio: counter, saturating at 0xFFFF_FFFF. -/
def SLN_CNT_WAKEDISC : Reg :=
  ⟨0x40600620, 16, 0x1000, 1, 0x0, .block, none, fun _ _ => 0x00000000,
   [⟨0, 32, .rw, false, false⟩]⟩
/-- 13_serial_pio: counter, saturating at 0xFFFF_FFFF. -/
def SLN_CNT_TXFLUSH : Reg :=
  ⟨0x40600624, 16, 0x1000, 1, 0x0, .block, none, fun _ _ => 0x00000000,
   [⟨0, 32, .rw, false, false⟩]⟩
/-- The registers of block SLN. -/
def regsSln : List Reg :=
  [SLN_CTL, SLN_CHAR, SLN_RATE, SLN_GAP, SLN_DE, SLN_DELIM, SLN_RXMAX, SLN_RXDLY, SLN_STAT, SLN_WAKE, SLN_WAKECHAT,
    SLN_EVSTAT, SLN_EVEN, SLN_CNT_RXOK, SLN_CNT_RXCRC, SLN_CNT_RXPAR, SLN_CNT_RXFRM, SLN_CNT_RXOVER, SLN_CNT_RXDROP,
    SLN_CNT_TXOK, SLN_CNT_ECHOERR, SLN_CNT_WAKEDISC, SLN_CNT_TXFLUSH]

/-- 12_braced_ring: Table 12-8. -/
def BRG_SCHED : Reg :=
  ⟨0x40680000, 8, 0x1000, 1, 0x0, .block, some (49, 1), fun _ _ => 0x00000001,
   [⟨0, 7, .st, false, false⟩, ⟨8, 2, .st, false, false⟩]⟩
def BRG_SCHED_NSLOT : RegFld := ⟨BRG_SCHED, 0, 7⟩
def BRG_SCHED_RDIV : RegFld := ⟨BRG_SCHED, 8, 2⟩
/-- 12_braced_ring: Table 12-8. -/
def BRG_SLOTNS : Reg :=
  ⟨0x40680004, 8, 0x1000, 1, 0x0, .block, some (49, 1), fun _ _ => 0x00004E20,
   [⟨0, 20, .st, false, false⟩]⟩
def BRG_SLOTNS_SLOTNS : RegFld := ⟨BRG_SLOTNS, 0, 20⟩
/-- 12_braced_ring: Table 12-8. -/
def BRG_KERF : Reg :=
  ⟨0x40680008, 8, 0x1000, 1, 0x0, .block, some (49, 1), fun _ _ => 0x00000258,
   [⟨0, 16, .st, false, false⟩]⟩
def BRG_KERF_KERF : RegFld := ⟨BRG_KERF, 0, 16⟩
/-- 12_braced_ring: Table 12-8. -/
def BRG_NODE : Reg :=
  ⟨0x40680040, 8, 0x1000, 32, 0x4, .block, some (49, 1), fun _ _ => 0x00000000,
   [⟨0, 5, .st, false, false⟩, ⟨7, 1, .st, false, false⟩]⟩
def BRG_NODE_POS : RegFld := ⟨BRG_NODE, 0, 5⟩
def BRG_NODE_VALID : RegFld := ⟨BRG_NODE, 7, 1⟩
/-- 12_braced_ring: Table 12-8. -/
def BRG_SLOT : Reg :=
  ⟨0x40680100, 8, 0x1000, 64, 0x4, .block, some (49, 1), fun _ _ => 0x00000000,
   [⟨0, 5, .st, false, false⟩, ⟨5, 1, .st, false, false⟩, ⟨7, 1, .st, false, false⟩]⟩
def BRG_SLOT_OWNER : RegFld := ⟨BRG_SLOT, 0, 5⟩
def BRG_SLOT_SYNC : RegFld := ⟨BRG_SLOT, 5, 1⟩
def BRG_SLOT_EN : RegFld := ⟨BRG_SLOT, 7, 1⟩
/-- 12_braced_ring: Table 12-9. -/
def BRG_CTL : Reg :=
  ⟨0x40680400, 8, 0x1000, 1, 0x0, .block, none, fun _ _ => 0x00000008,
   [⟨0, 1, .rw, false, false⟩, ⟨1, 1, .rw, false, false⟩, ⟨2, 1, .rw, false, false⟩, ⟨3, 1, .rw, false, false⟩]⟩
def BRG_CTL_EN : RegFld := ⟨BRG_CTL, 0, 1⟩
def BRG_CTL_CSEN : RegFld := ⟨BRG_CTL, 1, 1⟩
def BRG_CTL_POSTNULL : RegFld := ⟨BRG_CTL, 2, 1⟩
def BRG_CTL_LBEN : RegFld := ⟨BRG_CTL, 3, 1⟩
/-- 12_braced_ring: Table 12-9. -/
def BRG_CFG : Reg :=
  ⟨0x40680404, 8, 0x1000, 1, 0x0, .block, none, fun _ _ => 0x40802928,
   [⟨0, 6, .rw, false, false⟩, ⟨8, 6, .rw, false, false⟩, ⟨16, 5, .rw, false, false⟩, ⟨22, 2, .rw, false, false⟩, ⟨24,
    8, .rw, false, false⟩]⟩
def BRG_CFG_EAST : RegFld := ⟨BRG_CFG, 0, 6⟩
def BRG_CFG_WEST : RegFld := ⟨BRG_CFG, 8, 6⟩
def BRG_CFG_NODEID : RegFld := ⟨BRG_CFG, 16, 5⟩
def BRG_CFG_RATE : RegFld := ⟨BRG_CFG, 22, 2⟩
def BRG_CFG_PAYMAX : RegFld := ⟨BRG_CFG, 24, 8⟩
/-- 12_braced_ring: Table 12-9. -/
def BRG_HOP : Reg :=
  ⟨0x40680408, 8, 0x1000, 1, 0x0, .block, none, fun _ _ => 0x00000226,
   [⟨0, 16, .rw, false, false⟩]⟩
def BRG_HOP_HOPNS : RegFld := ⟨BRG_HOP, 0, 16⟩
/-- 12_braced_ring: Table 12-9. -/
def BRG_STAT : Reg :=
  ⟨0x40680410, 8, 0x1000, 1, 0x0, .block, none, fun _ _ => 0x00000000,
   [⟨0, 3, .ro, false, false⟩, ⟨4, 3, .ro, false, false⟩, ⟨8, 1, .ro, false, false⟩, ⟨9, 1, .ro, false, false⟩, ⟨10,
    1, .ro, false, false⟩, ⟨11, 1, .ro, false, false⟩, ⟨12, 2, .ro, false, false⟩, ⟨16, 16, .ro, false, false⟩]⟩
def BRG_STAT_STATE : RegFld := ⟨BRG_STAT, 0, 3⟩
def BRG_STAT_PCAUSE : RegFld := ⟨BRG_STAT, 4, 3⟩
def BRG_STAT_LBE : RegFld := ⟨BRG_STAT, 8, 1⟩
def BRG_STAT_LBW : RegFld := ⟨BRG_STAT, 9, 1⟩
def BRG_STAT_SCHEDERR : RegFld := ⟨BRG_STAT, 10, 1⟩
def BRG_STAT_CFGERR : RegFld := ⟨BRG_STAT, 11, 1⟩
def BRG_STAT_COLL : RegFld := ⟨BRG_STAT, 12, 2⟩
def BRG_STAT_ROUND : RegFld := ⟨BRG_STAT, 16, 16⟩
/-- 12_braced_ring: Table 12-9. -/
def BRG_CORR : Reg :=
  ⟨0x40680414, 8, 0x1000, 1, 0x0, .block, none, fun _ _ => 0x00000000,
   [⟨0, 32, .ro, false, false⟩]⟩
def BRG_CORR_CORR : RegFld := ⟨BRG_CORR, 0, 32⟩
/-- 12_braced_ring: Table 12-9. -/
def BRG_FTM : Reg :=
  ⟨0x40680418, 8, 0x1000, 1, 0x0, .block, none, fun _ _ => 0x00000000,
   [⟨0, 32, .ro, false, false⟩]⟩
def BRG_FTM_FTM : RegFld := ⟨BRG_FTM, 0, 32⟩
/-- 12_braced_ring: Table 12-9. -/
def BRG_SYNCSEEN : Reg :=
  ⟨0x4068041C, 8, 0x1000, 1, 0x0, .block, none, fun _ _ => 0x00000000,
   [⟨0, 32, .ro, false, false⟩]⟩
def BRG_SYNCSEEN_NODES : RegFld := ⟨BRG_SYNCSEEN, 0, 32⟩
/-- 12_braced_ring: BRG_EVSTAT and BRG_EVEN: offsets 0x500 and 0x504, block reset. -/
def BRG_EVSTAT : Reg :=
  ⟨0x40680500, 8, 0x1000, 1, 0x0, .block, none, fun _ _ => 0x00000000,
   [⟨0, 1, .w1c, false, false⟩, ⟨1, 1, .w1c, false, false⟩, ⟨2, 1, .w1c, false, false⟩, ⟨3, 1, .w1c, false, false⟩,
    ⟨4, 1, .w1c, false, false⟩, ⟨5, 1, .w1c, false, false⟩, ⟨6, 1, .w1c, false, false⟩, ⟨7, 1, .w1c, false, false⟩]⟩
def BRG_EVSTAT_STATECHG : RegFld := ⟨BRG_EVSTAT, 0, 1⟩
def BRG_EVSTAT_SCHEDERR : RegFld := ⟨BRG_EVSTAT, 1, 1⟩
def BRG_EVSTAT_CFGERR : RegFld := ⟨BRG_EVSTAT, 2, 1⟩
def BRG_EVSTAT_COLL : RegFld := ⟨BRG_EVSTAT, 3, 1⟩
def BRG_EVSTAT_SBV : RegFld := ⟨BRG_EVSTAT, 4, 1⟩
def BRG_EVSTAT_GUARDCUT : RegFld := ⟨BRG_EVSTAT, 5, 1⟩
def BRG_EVSTAT_REPREF : RegFld := ⟨BRG_EVSTAT, 6, 1⟩
def BRG_EVSTAT_LBCHG : RegFld := ⟨BRG_EVSTAT, 7, 1⟩
/-- 12_braced_ring: BRG_EVSTAT and BRG_EVEN: offsets 0x500 and 0x504, block reset. -/
def BRG_EVEN : Reg :=
  ⟨0x40680504, 8, 0x1000, 1, 0x0, .block, none, fun _ _ => 0x00000000,
   [⟨0, 1, .rw, false, false⟩, ⟨1, 1, .rw, false, false⟩, ⟨2, 1, .rw, false, false⟩, ⟨3, 1, .rw, false, false⟩, ⟨4, 1,
    .rw, false, false⟩, ⟨5, 1, .rw, false, false⟩, ⟨6, 1, .rw, false, false⟩, ⟨7, 1, .rw, false, false⟩]⟩
def BRG_EVEN_STATECHG : RegFld := ⟨BRG_EVEN, 0, 1⟩
def BRG_EVEN_SCHEDERR : RegFld := ⟨BRG_EVEN, 1, 1⟩
def BRG_EVEN_CFGERR : RegFld := ⟨BRG_EVEN, 2, 1⟩
def BRG_EVEN_COLL : RegFld := ⟨BRG_EVEN, 3, 1⟩
def BRG_EVEN_SBV : RegFld := ⟨BRG_EVEN, 4, 1⟩
def BRG_EVEN_GUARDCUT : RegFld := ⟨BRG_EVEN, 5, 1⟩
def BRG_EVEN_REPREF : RegFld := ⟨BRG_EVEN, 6, 1⟩
def BRG_EVEN_LBCHG : RegFld := ⟨BRG_EVEN, 7, 1⟩
/-- 12_braced_ring: counter, saturating at 0xFFFF_FFFF. -/
def BRG_CNT_RXOK : Reg :=
  ⟨0x40680600, 8, 0x1000, 1, 0x0, .block, none, fun _ _ => 0x00000000,
   [⟨0, 32, .rw, false, false⟩]⟩
/-- 12_braced_ring: counter, saturating at 0xFFFF_FFFF. -/
def BRG_CNT_RXFAIL : Reg :=
  ⟨0x40680604, 8, 0x1000, 1, 0x0, .block, none, fun _ _ => 0x00000000,
   [⟨0, 32, .rw, false, false⟩]⟩
/-- 12_braced_ring: counter, saturating at 0xFFFF_FFFF. -/
def BRG_CNT_SBV : Reg :=
  ⟨0x40680608, 8, 0x1000, 1, 0x0, .block, none, fun _ _ => 0x00000000,
   [⟨0, 32, .rw, false, false⟩]⟩
/-- 12_braced_ring: counter, saturating at 0xFFFF_FFFF. -/
def BRG_CNT_GUARDCUT : Reg :=
  ⟨0x4068060C, 8, 0x1000, 1, 0x0, .block, none, fun _ _ => 0x00000000,
   [⟨0, 32, .rw, false, false⟩]⟩
/-- 12_braced_ring: counter, saturating at 0xFFFF_FFFF. -/
def BRG_CNT_REPREF : Reg :=
  ⟨0x40680610, 8, 0x1000, 1, 0x0, .block, none, fun _ _ => 0x00000000,
   [⟨0, 32, .rw, false, false⟩]⟩
/-- 12_braced_ring: counter, saturating at 0xFFFF_FFFF. -/
def BRG_CNT_TXREJ : Reg :=
  ⟨0x40680614, 8, 0x1000, 1, 0x0, .block, none, fun _ _ => 0x00000000,
   [⟨0, 32, .rw, false, false⟩]⟩
/-- 12_braced_ring: counter, saturating at 0xFFFF_FFFF. -/
def BRG_CNT_COLDSTART : Reg :=
  ⟨0x40680618, 8, 0x1000, 1, 0x0, .block, none, fun _ _ => 0x00000000,
   [⟨0, 32, .rw, false, false⟩]⟩
/-- 12_braced_ring: counter, saturating at 0xFFFF_FFFF. -/
def BRG_CNT_COLL : Reg :=
  ⟨0x4068061C, 8, 0x1000, 1, 0x0, .block, none, fun _ _ => 0x00000000,
   [⟨0, 32, .rw, false, false⟩]⟩
/-- 12_braced_ring: counter, saturating at 0xFFFF_FFFF. -/
def BRG_CNT_LBENTRY : Reg :=
  ⟨0x40680620, 8, 0x1000, 1, 0x0, .block, none, fun _ _ => 0x00000000,
   [⟨0, 32, .rw, false, false⟩]⟩
/-- 12_braced_ring: counter, saturating at 0xFFFF_FFFF. -/
def BRG_CNT_SYNCLOST : Reg :=
  ⟨0x40680624, 8, 0x1000, 1, 0x0, .block, none, fun _ _ => 0x00000000,
   [⟨0, 32, .rw, false, false⟩]⟩
/-- The registers of block BRG. -/
def regsBrg : List Reg :=
  [BRG_SCHED, BRG_SLOTNS, BRG_KERF, BRG_NODE, BRG_SLOT, BRG_CTL, BRG_CFG, BRG_HOP, BRG_STAT, BRG_CORR, BRG_FTM,
    BRG_SYNCSEEN, BRG_EVSTAT, BRG_EVEN, BRG_CNT_RXOK, BRG_CNT_RXFAIL, BRG_CNT_SBV, BRG_CNT_GUARDCUT, BRG_CNT_REPREF,
    BRG_CNT_TXREJ, BRG_CNT_COLDSTART, BRG_CNT_COLL, BRG_CNT_LBENTRY, BRG_CNT_SYNCLOST]

/-- 13_serial_pio: Table 13-11. -/
def PIO_CTL : Reg :=
  ⟨0x40700000, 8, 0x1000, 1, 0x0, .block, none, fun _ _ => 0x00000000,
   [⟨0, 4, .rw, false, false⟩, ⟨4, 1, .wo, false, false⟩, ⟨8, 2, .rw, false, false⟩]⟩
def PIO_CTL_EN : RegFld := ⟨PIO_CTL, 0, 4⟩
def PIO_CTL_FORCE : RegFld := ⟨PIO_CTL, 4, 1⟩
def PIO_CTL_BMACH : RegFld := ⟨PIO_CTL, 8, 2⟩
/-- 13_serial_pio: Table 13-11. -/
def PIO_STAT : Reg :=
  ⟨0x40700004, 8, 0x1000, 1, 0x0, .block, none, fun _ _ => 0x00000000,
   [⟨0, 4, .ro, false, false⟩, ⟨4, 4, .ro, false, false⟩, ⟨8, 1, .ro, false, false⟩]⟩
def PIO_STAT_RUN : RegFld := ⟨PIO_STAT, 0, 4⟩
def PIO_STAT_STALL : RegFld := ⟨PIO_STAT, 4, 4⟩
def PIO_STAT_PEND : RegFld := ⟨PIO_STAT, 8, 1⟩
/-- 13_serial_pio: Table 13-11. -/
def PIO_FLAGS : Reg :=
  ⟨0x40700008, 8, 0x1000, 1, 0x0, .block, none, fun _ _ => 0x00000000,
   [⟨0, 8, .rw, false, false⟩]⟩
def PIO_FLAGS_FLAG : RegFld := ⟨PIO_FLAGS, 0, 8⟩
/-- 13_serial_pio: Table 13-11. -/
def PIO_PROG : Reg :=
  ⟨0x40700400, 8, 0x1000, 64, 0x4, .block, some (41, 1), fun _ _ => 0x00000000,
   [⟨0, 24, .st, false, false⟩]⟩
def PIO_PROG_INSTR : RegFld := ⟨PIO_PROG, 0, 24⟩
/-- 13_serial_pio: Table 13-11: enables the bits of PIO_SMk_FLAG. -/
def PIO_EVEN : Reg :=
  ⟨0x4070000C, 8, 0x1000, 1, 0x0, .block, none, fun _ _ => 0x00000000,
   [⟨0, 6, .rw, false, false⟩, ⟨8, 6, .rw, false, false⟩, ⟨16, 6, .rw, false, false⟩, ⟨24, 6, .rw, false, false⟩]⟩
def PIO_EVEN_EN0 : RegFld := ⟨PIO_EVEN, 0, 6⟩
def PIO_EVEN_EN1 : RegFld := ⟨PIO_EVEN, 8, 6⟩
def PIO_EVEN_EN2 : RegFld := ⟨PIO_EVEN, 16, 6⟩
def PIO_EVEN_EN3 : RegFld := ⟨PIO_EVEN, 24, 6⟩
/-- 13_serial_pio: Table 13-12. -/
def PIO_SM_CLK : Reg :=
  ⟨0x40700100, 8, 0x1000, 4, 0x40, .block, some (41, 1), fun _ _ => 0x00000001,
   [⟨0, 20, .st, false, false⟩, ⟨20, 4, .st, false, false⟩]⟩
def PIO_SM_CLK_PER : RegFld := ⟨PIO_SM_CLK, 0, 20⟩
def PIO_SM_CLK_DITH : RegFld := ⟨PIO_SM_CLK, 20, 4⟩
/-- 13_serial_pio: Table 13-12. -/
def PIO_SM_PINS : Reg :=
  ⟨0x40700104, 8, 0x1000, 4, 0x40, .block, some (41, 1), fun _ _ => 0x00002000,
   [⟨0, 3, .st, false, false⟩, ⟨4, 3, .st, false, false⟩, ⟨8, 3, .st, false, false⟩, ⟨11, 1, .st, false, false⟩, ⟨12,
    1, .st, false, false⟩, ⟨13, 1, .st, false, false⟩, ⟨16, 6, .st, false, false⟩]⟩
def PIO_SM_PINS_DPIN : RegFld := ⟨PIO_SM_PINS, 0, 3⟩
def PIO_SM_PINS_IPIN : RegFld := ⟨PIO_SM_PINS, 4, 3⟩
def PIO_SM_PINS_CPIN : RegFld := ⟨PIO_SM_PINS, 8, 3⟩
def PIO_SM_PINS_CIDLE : RegFld := ⟨PIO_SM_PINS, 11, 1⟩
def PIO_SM_PINS_CEDGE : RegFld := ⟨PIO_SM_PINS, 12, 1⟩
def PIO_SM_PINS_MSBF : RegFld := ⟨PIO_SM_PINS, 13, 1⟩
def PIO_SM_PINS_START : RegFld := ⟨PIO_SM_PINS, 16, 6⟩
/-- 13_serial_pio: Table 13-12. -/
def PIO_SM_QCFG : Reg :=
  ⟨0x40700108, 8, 0x1000, 4, 0x40, .block, none, fun _ _ => 0x00000008,
   [⟨0, 5, .rw, false, false⟩, ⟨8, 1, .rw, false, false⟩]⟩
def PIO_SM_QCFG_TXD : RegFld := ⟨PIO_SM_QCFG, 0, 5⟩
def PIO_SM_QCFG_FRAME : RegFld := ⟨PIO_SM_QCFG, 8, 1⟩
/-- 13_serial_pio: Table 13-12. -/
def PIO_SM_TXQ : Reg :=
  ⟨0x4070010C, 8, 0x1000, 4, 0x40, .block, none, fun _ _ => 0x00000000,
   [⟨0, 32, .wo, false, false⟩]⟩
/-- 13_serial_pio: Table 13-12. -/
def PIO_SM_RXQ : Reg :=
  ⟨0x40700110, 8, 0x1000, 4, 0x40, .block, none, fun _ _ => 0x00000000,
   [⟨0, 32, .ro, false, false⟩]⟩
/-- 13_serial_pio: Table 13-12. -/
def PIO_SM_QSTAT : Reg :=
  ⟨0x40700114, 8, 0x1000, 4, 0x40, .block, none, fun _ _ => 0x00000000,
   [⟨0, 5, .ro, false, false⟩, ⟨8, 5, .ro, false, false⟩]⟩
def PIO_SM_QSTAT_TXLEVEL : RegFld := ⟨PIO_SM_QSTAT, 0, 5⟩
def PIO_SM_QSTAT_RXLEVEL : RegFld := ⟨PIO_SM_QSTAT, 8, 5⟩
/-- 13_serial_pio: Table 13-12. -/
def PIO_SM_TM_LO : Reg :=
  ⟨0x40700118, 8, 0x1000, 4, 0x40, .block, none, fun _ _ => 0x00000000,
   [⟨0, 32, .rw, false, false⟩]⟩
def PIO_SM_TM_LO_NS : RegFld := ⟨PIO_SM_TM_LO, 0, 32⟩
/-- 13_serial_pio: Table 13-12. -/
def PIO_SM_TM_FRAC : Reg :=
  ⟨0x4070011C, 8, 0x1000, 4, 0x40, .block, none, fun _ _ => 0x00000000,
   [⟨0, 5, .rw, false, false⟩, ⟨31, 1, .ro, false, false⟩]⟩
def PIO_SM_TM_FRAC_FRAC : RegFld := ⟨PIO_SM_TM_FRAC, 0, 5⟩
def PIO_SM_TM_FRAC_ARMED : RegFld := ⟨PIO_SM_TM_FRAC, 31, 1⟩
/-- 13_serial_pio: Table 13-12. -/
def PIO_SM_FLAG : Reg :=
  ⟨0x40700120, 8, 0x1000, 4, 0x40, .block, none, fun _ _ => 0x00000000,
   [⟨0, 1, .w1c, false, false⟩, ⟨1, 1, .w1c, false, false⟩, ⟨2, 1, .w1c, false, false⟩, ⟨3, 1, .w1c, false, false⟩,
    ⟨4, 1, .w1c, false, false⟩, ⟨5, 1, .w1c, false, false⟩]⟩
def PIO_SM_FLAG_TXSTALL : RegFld := ⟨PIO_SM_FLAG, 0, 1⟩
def PIO_SM_FLAG_RXOVR : RegFld := ⟨PIO_SM_FLAG, 1, 1⟩
def PIO_SM_FLAG_ABANDON : RegFld := ⟨PIO_SM_FLAG, 2, 1⟩
def PIO_SM_FLAG_FAULT : RegFld := ⟨PIO_SM_FLAG, 3, 1⟩
def PIO_SM_FLAG_TLATE : RegFld := ⟨PIO_SM_FLAG, 4, 1⟩
def PIO_SM_FLAG_TXDROP : RegFld := ⟨PIO_SM_FLAG, 5, 1⟩
/-- 13_serial_pio: Table 13-12. -/
def PIO_SM_PC : Reg :=
  ⟨0x40700124, 8, 0x1000, 4, 0x40, .block, none, fun _ _ => 0x00000000,
   [⟨0, 6, .ro, false, false⟩, ⟨8, 6, .ro, false, false⟩]⟩
def PIO_SM_PC_PC : RegFld := ⟨PIO_SM_PC, 0, 6⟩
def PIO_SM_PC_BCNT : RegFld := ⟨PIO_SM_PC, 8, 6⟩
/-- 13_serial_pio: Table 13-12. -/
def PIO_SM_INSTR : Reg :=
  ⟨0x40700128, 8, 0x1000, 4, 0x40, .block, none, fun _ _ => 0x00000000,
   [⟨0, 24, .ro, false, false⟩]⟩
def PIO_SM_INSTR_INSTR : RegFld := ⟨PIO_SM_INSTR, 0, 24⟩
/-- 13_serial_pio: Table 13-12. -/
def PIO_SM_SHR : Reg :=
  ⟨0x4070012C, 8, 0x1000, 4, 0x40, .block, none, fun _ _ => 0x00000000,
   [⟨0, 32, .ro, false, false⟩]⟩
def PIO_SM_SHR_SHR : RegFld := ⟨PIO_SM_SHR, 0, 32⟩
/-- 13_serial_pio: Table 13-12. -/
def PIO_SM_CNT : Reg :=
  ⟨0x40700130, 8, 0x1000, 4, 0x40, .block, none, fun _ _ => 0x00000000,
   [⟨0, 16, .ro, false, false⟩, ⟨16, 16, .ro, false, false⟩]⟩
def PIO_SM_CNT_CNT0 : RegFld := ⟨PIO_SM_CNT, 0, 16⟩
def PIO_SM_CNT_CNT1 : RegFld := ⟨PIO_SM_CNT, 16, 16⟩
/-- 13_serial_pio: Table 13-12. -/
def PIO_SM_HLD : Reg :=
  ⟨0x40700134, 8, 0x1000, 4, 0x40, .block, none, fun _ _ => 0x00000000,
   [⟨0, 32, .ro, false, false⟩]⟩
def PIO_SM_HLD_HLD : RegFld := ⟨PIO_SM_HLD, 0, 32⟩
/-- The registers of block PIO. -/
def regsPio : List Reg :=
  [PIO_CTL, PIO_STAT, PIO_FLAGS, PIO_PROG, PIO_EVEN, PIO_SM_CLK, PIO_SM_PINS, PIO_SM_QCFG, PIO_SM_TXQ, PIO_SM_RXQ,
    PIO_SM_QSTAT, PIO_SM_TM_LO, PIO_SM_TM_FRAC, PIO_SM_FLAG, PIO_SM_PC, PIO_SM_INSTR, PIO_SM_SHR, PIO_SM_CNT,
    PIO_SM_HLD]

/-- 14_station_control: Table 14-5. -/
def AFE_CTL : Reg :=
  ⟨0x40800000, 1, 0x0, 1, 0x0, .block, none, fun _ _ => 0x00000000,
   [⟨0, 1, .rw, false, false⟩, ⟨1, 1, .rw, false, false⟩, ⟨2, 1, .rw, false, false⟩]⟩
def AFE_CTL_EN0 : RegFld := ⟨AFE_CTL, 0, 1⟩
def AFE_CTL_EN1 : RegFld := ⟨AFE_CTL, 1, 1⟩
def AFE_CTL_SYNC : RegFld := ⟨AFE_CTL, 2, 1⟩
/-- 14_station_control: Table 14-5. -/
def AFE_RANGEEN : Reg :=
  ⟨0x40800004, 1, 0x0, 1, 0x0, .block, none, fun _ _ => 0x00000000,
   [⟨0, 24, .rw, false, false⟩]⟩
def AFE_RANGEEN_EN : RegFld := ⟨AFE_RANGEEN, 0, 24⟩
/-- 14_station_control: Table 14-5. -/
def AFE_RANGE : Reg :=
  ⟨0x40800008, 1, 0x0, 1, 0x0, .block, none, fun _ _ => 0x00000000,
   [⟨0, 24, .w1c, false, false⟩]⟩
def AFE_RANGE_OUT : RegFld := ⟨AFE_RANGE, 0, 24⟩
/-- 14_station_control: Table 14-5. -/
def AFE_CH : Reg :=
  ⟨0x40800100, 24, 0x4, 1, 0x0, .block, none, fun _ _ => 0x00000000,
   [⟨0, 1, .rw, false, false⟩, ⟨1, 3, .rw, false, false⟩]⟩
def AFE_CH_EN : RegFld := ⟨AFE_CH, 0, 1⟩
def AFE_CH_AVG : RegFld := ⟨AFE_CH, 1, 3⟩
/-- 14_station_control: Table 14-5. -/
def AFE_LIM : Reg :=
  ⟨0x40800200, 24, 0x4, 1, 0x0, .block, none, fun _ _ => 0xFFFF0000,
   [⟨0, 16, .rw, false, false⟩, ⟨16, 16, .rw, false, false⟩]⟩
def AFE_LIM_LO : RegFld := ⟨AFE_LIM, 0, 16⟩
def AFE_LIM_HI : RegFld := ⟨AFE_LIM, 16, 16⟩
/-- 14_station_control: Table 14-5. -/
def AFE_RES : Reg :=
  ⟨0x40800300, 24, 0x4, 1, 0x0, .block, none, fun _ _ => 0x00000000,
   [⟨0, 16, .ro, false, false⟩, ⟨29, 1, .ro, false, false⟩, ⟨30, 1, .ro, false, false⟩, ⟨31, 1, .ro, false, false⟩]⟩
def AFE_RES_CODE : RegFld := ⟨AFE_RES, 0, 16⟩
def AFE_RES_LOF : RegFld := ⟨AFE_RES, 29, 1⟩
def AFE_RES_HIF : RegFld := ⟨AFE_RES, 30, 1⟩
def AFE_RES_NEW : RegFld := ⟨AFE_RES, 31, 1⟩
/-- 14_station_control: Table 14-5. -/
def AFE_TS : Reg :=
  ⟨0x40800380, 24, 0x4, 1, 0x0, .block, none, fun _ _ => 0x00000000,
   [⟨0, 32, .ro, false, false⟩]⟩
def AFE_TS_NS : RegFld := ⟨AFE_TS, 0, 32⟩
/-- 14_station_control: Table 14-6. -/
def DI_CFG : Reg :=
  ⟨0x40800400, 32, 0x4, 1, 0x0, .sill, none, fun _ _ => 0x0010000A,
   [⟨0, 8, .rw, false, false⟩, ⟨8, 1, .rw, false, false⟩, ⟨9, 1, .rw, false, false⟩, ⟨10, 1, .rw, false, false⟩, ⟨16,
    8, .rw, false, false⟩, ⟨24, 8, .rw, false, false⟩]⟩
def DI_CFG_FILT : RegFld := ⟨DI_CFG, 0, 8⟩
def DI_CFG_POL : RegFld := ⟨DI_CFG, 8, 1⟩
def DI_CFG_WAKE : RegFld := ⟨DI_CFG, 9, 1⟩
def DI_CFG_EVEN : RegFld := ⟨DI_CFG, 10, 1⟩
def DI_CFG_CHATMAX : RegFld := ⟨DI_CFG, 16, 8⟩
def DI_CFG_STUCK : RegFld := ⟨DI_CFG, 24, 8⟩
/-- 14_station_control: Table 14-6. -/
def DI_TIMING : Reg :=
  ⟨0x40800480, 1, 0x0, 1, 0x0, .sill, none, fun _ _ => 0x0000320A,
   [⟨0, 8, .rw, false, false⟩, ⟨8, 8, .rw, false, false⟩]⟩
def DI_TIMING_CHATWIN : RegFld := ⟨DI_TIMING, 0, 8⟩
def DI_TIMING_QUIET : RegFld := ⟨DI_TIMING, 8, 8⟩
/-- 14_station_control: Table 14-6. -/
def DI_STATE : Reg :=
  ⟨0x40800500, 1, 0x0, 1, 0x0, .sill, none, fun _ _ => 0x00000000,
   [⟨0, 32, .ro, false, false⟩]⟩
def DI_STATE_LEVEL : RegFld := ⟨DI_STATE, 0, 32⟩
/-- 14_station_control: Table 14-6. -/
def DI_QUAR : Reg :=
  ⟨0x40800504, 1, 0x0, 1, 0x0, .sill, none, fun _ _ => 0x00000000,
   [⟨0, 32, .ro, false, false⟩]⟩
def DI_QUAR_QUAR : RegFld := ⟨DI_QUAR, 0, 32⟩
/-- 14_station_control: Table 14-6. -/
def DI_STUCK : Reg :=
  ⟨0x40800508, 1, 0x0, 1, 0x0, .sill, none, fun _ _ => 0x00000000,
   [⟨0, 32, .ro, false, false⟩]⟩
def DI_STUCK_STUCK : RegFld := ⟨DI_STUCK, 0, 32⟩
/-- 14_station_control: Table 14-6. -/
def DI_CHG : Reg :=
  ⟨0x4080050C, 1, 0x0, 1, 0x0, .block, none, fun _ _ => 0x00000000,
   [⟨0, 32, .w1c, false, false⟩]⟩
def DI_CHG_CHG : RegFld := ⟨DI_CHG, 0, 32⟩
/-- 14_station_control: Table 14-6. -/
def DI_TS : Reg :=
  ⟨0x40800600, 32, 0x4, 1, 0x0, .block, none, fun _ _ => 0x00000000,
   [⟨0, 32, .ro, false, false⟩]⟩
def DI_TS_NS : RegFld := ⟨DI_TS, 0, 32⟩
/-- 14_station_control: Table 14-6 DI_ALM at 0x510. -/
def DI_ALM_CHAT : Reg :=
  ⟨0x40800510, 1, 0x0, 1, 0x0, .block, none, fun _ _ => 0x00000000,
   [⟨0, 32, .w1c, false, false⟩]⟩
def DI_ALM_CHAT_CHAT : RegFld := ⟨DI_ALM_CHAT, 0, 32⟩
/-- 14_station_control: Table 14-6 DI_ALM at 0x514. -/
def DI_ALM_STUCK : Reg :=
  ⟨0x40800514, 1, 0x0, 1, 0x0, .block, none, fun _ _ => 0x00000000,
   [⟨0, 32, .w1c, false, false⟩]⟩
def DI_ALM_STUCK_STUCK : RegFld := ⟨DI_ALM_STUCK, 0, 32⟩
/-- 14_station_control: Table 14-7. -/
def SENT_CTL : Reg :=
  ⟨0x40810000, 1, 0x0, 1, 0x0, .block, none, fun _ _ => 0x00000004,
   [⟨0, 1, .rw, false, false⟩, ⟨1, 2, .rw, false, false⟩, ⟨3, 1, .rw, false, false⟩]⟩
def SENT_CTL_EN : RegFld := ⟨SENT_CTL, 0, 1⟩
def SENT_CTL_CH : RegFld := ⟨SENT_CTL, 1, 2⟩
def SENT_CTL_FNOM : RegFld := ⟨SENT_CTL, 3, 1⟩
/-- 14_station_control: Table 14-7. -/
def SENT_CMP : Reg :=
  ⟨0x40810010, 2, 0x8, 1, 0x0, .sill, none, fun _ _ => 0x0FFF0000,
   [⟨0, 12, .rw, false, false⟩, ⟨16, 12, .rw, false, false⟩]⟩
def SENT_CMP_LO : RegFld := ⟨SENT_CMP, 0, 12⟩
def SENT_CMP_HI : RegFld := ⟨SENT_CMP, 16, 12⟩
/-- 14_station_control: Table 14-7. -/
def SENT_CMP_T : Reg :=
  ⟨0x40810014, 2, 0x8, 1, 0x0, .sill, none, fun _ _ => 0x00000064,
   [⟨0, 16, .rw, false, false⟩, ⟨16, 1, .rw, false, false⟩]⟩
def SENT_CMP_T_BLANK : RegFld := ⟨SENT_CMP_T, 0, 16⟩
def SENT_CMP_T_EN : RegFld := ⟨SENT_CMP_T, 16, 1⟩
/-- 14_station_control: Table 14-7. -/
def SENT_SAG : Reg :=
  ⟨0x40810030, 1, 0x0, 1, 0x0, .block, none, fun _ _ => 0x00000000,
   [⟨0, 12, .rw, false, false⟩, ⟨16, 12, .rw, false, false⟩]⟩
def SENT_SAG_SAGLVL : RegFld := ⟨SENT_SAG, 0, 12⟩
def SENT_SAG_LOSSLVL : RegFld := ⟨SENT_SAG, 16, 12⟩
/-- 14_station_control: Table 14-7. -/
def SENT_SAGT : Reg :=
  ⟨0x40810034, 1, 0x0, 1, 0x0, .block, none, fun _ _ => 0x00000402,
   [⟨0, 8, .rw, false, false⟩, ⟨8, 8, .rw, false, false⟩]⟩
def SENT_SAGT_SAGHC : RegFld := ⟨SENT_SAGT, 0, 8⟩
def SENT_SAGT_LOSSHC : RegFld := ⟨SENT_SAGT, 8, 8⟩
/-- 14_station_control: Table 14-7. -/
def SENT_CAP : Reg :=
  ⟨0x40810040, 1, 0x0, 1, 0x0, .block, none, fun _ _ => 0x00004000,
   [⟨0, 16, .rw, false, false⟩, ⟨16, 6, .rw, false, false⟩, ⟨24, 1, .wo, false, false⟩, ⟨25, 1, .wo, false, false⟩]⟩
def SENT_CAP_PRE : RegFld := ⟨SENT_CAP, 0, 16⟩
def SENT_CAP_TRIGMASK : RegFld := ⟨SENT_CAP, 16, 6⟩
def SENT_CAP_ARM : RegFld := ⟨SENT_CAP, 24, 1⟩
def SENT_CAP_SWTRIG : RegFld := ⟨SENT_CAP, 25, 1⟩
/-- 14_station_control: Table 14-7. -/
def SENT_CAPSTAT : Reg :=
  ⟨0x40810044, 1, 0x0, 1, 0x0, .block, none, fun _ _ => 0x00000000,
   [⟨0, 2, .ro, false, false⟩, ⟨2, 1, .w1c, false, false⟩, ⟨8, 8, .ro, false, false⟩, ⟨16, 16, .ro, false, false⟩]⟩
def SENT_CAPSTAT_STATE : RegFld := ⟨SENT_CAPSTAT, 0, 2⟩
def SENT_CAPSTAT_WERR : RegFld := ⟨SENT_CAPSTAT, 2, 1⟩
def SENT_CAPSTAT_TRIGIGN : RegFld := ⟨SENT_CAPSTAT, 8, 8⟩
def SENT_CAPSTAT_OLDEST : RegFld := ⟨SENT_CAPSTAT, 16, 16⟩
/-- 14_station_control: Table 14-7. -/
def SENT_BASE : Reg :=
  ⟨0x40810048, 1, 0x0, 1, 0x0, .block, none, fun _ _ => 0x00000000,
   [⟨0, 32, .rw, false, false⟩]⟩
def SENT_BASE_BASE : RegFld := ⟨SENT_BASE, 0, 32⟩
/-- 14_station_control: Table 14-7. -/
def SENT_TRIG_LO : Reg :=
  ⟨0x40810050, 1, 0x0, 1, 0x0, .block, none, fun _ _ => 0x00000000,
   [⟨0, 32, .ro, false, false⟩]⟩
def SENT_TRIG_LO_NS : RegFld := ⟨SENT_TRIG_LO, 0, 32⟩
/-- 14_station_control: Table 14-7. -/
def SENT_TRIG_HI : Reg :=
  ⟨0x40810054, 1, 0x0, 1, 0x0, .block, none, fun _ _ => 0x00000000,
   [⟨0, 32, .ro, false, false⟩]⟩
def SENT_TRIG_HI_NS : RegFld := ⟨SENT_TRIG_HI, 0, 32⟩
/-- 14_station_control: Table 14-7. -/
def SENT_TRIGSRC : Reg :=
  ⟨0x40810058, 1, 0x0, 1, 0x0, .block, none, fun _ _ => 0x00000000,
   [⟨0, 6, .ro, false, false⟩]⟩
def SENT_TRIGSRC_SRC : RegFld := ⟨SENT_TRIGSRC, 0, 6⟩
/-- 14_station_control: Table 14-7. -/
def SENT_EVQ0 : Reg :=
  ⟨0x40810060, 1, 0x0, 1, 0x0, .block, none, fun _ _ => 0x00000000,
   [⟨0, 2, .ro, false, false⟩, ⟨2, 2, .ro, false, false⟩, ⟨8, 8, .ro, false, false⟩, ⟨30, 1, .ro, false, false⟩, ⟨31,
    1, .ro, false, false⟩]⟩
def SENT_EVQ0_CH : RegFld := ⟨SENT_EVQ0, 0, 2⟩
def SENT_EVQ0_KIND : RegFld := ⟨SENT_EVQ0, 2, 2⟩
def SENT_EVQ0_EVQLOST : RegFld := ⟨SENT_EVQ0, 8, 8⟩
def SENT_EVQ0_NOSYNC : RegFld := ⟨SENT_EVQ0, 30, 1⟩
def SENT_EVQ0_VALID : RegFld := ⟨SENT_EVQ0, 31, 1⟩
/-- 14_station_control: Table 14-7. -/
def SENT_EVQ1 : Reg :=
  ⟨0x40810064, 1, 0x0, 1, 0x0, .block, none, fun _ _ => 0x00000000,
   [⟨0, 32, .ro, false, false⟩]⟩
def SENT_EVQ1_NS : RegFld := ⟨SENT_EVQ1, 0, 32⟩
/-- 14_station_control: Table 14-7. -/
def SENT_EVQ2 : Reg :=
  ⟨0x40810068, 1, 0x0, 1, 0x0, .block, none, fun _ _ => 0x00000000,
   [⟨0, 32, .ro, false, false⟩]⟩
def SENT_EVQ2_NS : RegFld := ⟨SENT_EVQ2, 0, 32⟩
/-- 14_station_control: Table 14-7. -/
def SENT_RMS : Reg :=
  ⟨0x40810070, 2, 0x4, 1, 0x0, .block, none, fun _ _ => 0x00000000,
   [⟨0, 12, .ro, false, false⟩]⟩
def SENT_RMS_RMS : RegFld := ⟨SENT_RMS, 0, 12⟩
/-- 14_station_control: Table 14-7. -/
def SENT_LGCTL : Reg :=
  ⟨0x40810100, 1, 0x0, 1, 0x0, .block, none, fun _ _ => 0x00640002,
   [⟨0, 1, .rw, false, false⟩, ⟨1, 4, .rw, false, false⟩, ⟨16, 16, .rw, false, false⟩]⟩
def SENT_LGCTL_EN : RegFld := ⟨SENT_LGCTL, 0, 1⟩
def SENT_LGCTL_SRC : RegFld := ⟨SENT_LGCTL, 1, 4⟩
def SENT_LGCTL_LGREC : RegFld := ⟨SENT_LGCTL, 16, 16⟩
/-- 14_station_control: Table 14-7. -/
def SENT_LG : Reg :=
  ⟨0x40810110, 4, 0x10, 1, 0x0, .block, none, fun _ _ => 0x00000780,
   [⟨0, 6, .rw, false, false⟩, ⟨6, 1, .rw, false, false⟩, ⟨7, 1, .rw, false, false⟩, ⟨8, 3, .rw, false, false⟩]⟩
def SENT_LG_LANE : RegFld := ⟨SENT_LG, 0, 6⟩
def SENT_LG_VALID : RegFld := ⟨SENT_LG, 6, 1⟩
def SENT_LG_FLUSH : RegFld := ⟨SENT_LG, 7, 1⟩
def SENT_LG_TC : RegFld := ⟨SENT_LG, 8, 3⟩
/-- 14_station_control: Table 14-7. -/
def SENT_LG_ADDR : Reg :=
  ⟨0x40810114, 4, 0x10, 1, 0x0, .block, none, fun _ _ => 0x00000000,
   [⟨0, 32, .rw, false, false⟩]⟩
/-- 14_station_control: Table 14-7. -/
def SENT_LG_LEN : Reg :=
  ⟨0x40810118, 4, 0x10, 1, 0x0, .block, none, fun _ _ => 0x00000000,
   [⟨0, 12, .rw, false, false⟩]⟩
def SENT_LG_LEN_LEN : RegFld := ⟨SENT_LG_LEN, 0, 12⟩
/-- 14_station_control: Table 14-7. -/
def SENT_LGSTAT : Reg :=
  ⟨0x40810150, 1, 0x0, 1, 0x0, .block, none, fun _ _ => 0x00000000,
   [⟨0, 1, .w1c, false, false⟩, ⟨1, 4, .ro, false, false⟩, ⟨5, 4, .ro, false, false⟩, ⟨9, 1, .ro, false, false⟩, ⟨10,
    1, .w1c, false, false⟩]⟩
def SENT_LGSTAT_FIRED : RegFld := ⟨SENT_LGSTAT, 0, 1⟩
def SENT_LGSTAT_SENT : RegFld := ⟨SENT_LGSTAT, 1, 4⟩
def SENT_LGSTAT_ERR : RegFld := ⟨SENT_LGSTAT, 5, 4⟩
def SENT_LGSTAT_JDONE : RegFld := ⟨SENT_LGSTAT, 9, 1⟩
def SENT_LGSTAT_RECOV : RegFld := ⟨SENT_LGSTAT, 10, 1⟩
/-- 14_station_control: Table 14-8. -/
def LOOP_CFG : Reg :=
  ⟨0x40820000, 16, 0x1000, 1, 0x0, .block, some (25, 1), fun _ _ => 0x00000000,
   [⟨0, 1, .st, false, false⟩, ⟨1, 2, .st, false, false⟩, ⟨3, 5, .st, false, false⟩, ⟨8, 1, .st, false, false⟩, ⟨9, 2,
    .st, false, false⟩, ⟨11, 3, .st, false, false⟩, ⟨14, 1, .st, false, false⟩, ⟨15, 1, .st, false, false⟩, ⟨16, 1,
    .st, false, false⟩, ⟨17, 1, .st, false, false⟩]⟩
def LOOP_CFG_EN : RegFld := ⟨LOOP_CFG, 0, 1⟩
def LOOP_CFG_SRC : RegFld := ⟨LOOP_CFG, 1, 2⟩
def LOOP_CFG_SRCIDX : RegFld := ⟨LOOP_CFG, 3, 5⟩
def LOOP_CFG_SPSRC : RegFld := ⟨LOOP_CFG, 8, 1⟩
def LOOP_CFG_DST : RegFld := ⟨LOOP_CFG, 9, 2⟩
def LOOP_CFG_DSTIDX : RegFld := ⟨LOOP_CFG, 11, 3⟩
def LOOP_CFG_REV : RegFld := ⟨LOOP_CFG, 14, 1⟩
def LOOP_CFG_LEGACY : RegFld := ⟨LOOP_CFG, 15, 1⟩
def LOOP_CFG_SEL : RegFld := ⟨LOOP_CFG, 16, 1⟩
def LOOP_CFG_SAFEEN : RegFld := ⟨LOOP_CFG, 17, 1⟩
/-- 14_station_control: Table 14-8. -/
def LOOP_PER : Reg :=
  ⟨0x40820004, 16, 0x1000, 1, 0x0, .block, some (25, 1), fun _ _ => 0x00004E20,
   [⟨0, 27, .st, false, false⟩]⟩
def LOOP_PER_PER : RegFld := ⟨LOOP_PER, 0, 27⟩
/-- 14_station_control: Table 14-8. -/
def LOOP_BASE_LO : Reg :=
  ⟨0x40820008, 16, 0x1000, 1, 0x0, .block, some (25, 1), fun _ _ => 0x00000000,
   [⟨0, 32, .st, false, false⟩]⟩
def LOOP_BASE_LO_BASE : RegFld := ⟨LOOP_BASE_LO, 0, 32⟩
/-- 14_station_control: Table 14-8. -/
def LOOP_BASE_HI : Reg :=
  ⟨0x4082000C, 16, 0x1000, 1, 0x0, .block, some (25, 1), fun _ _ => 0x00000000,
   [⟨0, 32, .st, false, false⟩]⟩
def LOOP_BASE_HI_BASE : RegFld := ⟨LOOP_BASE_HI, 0, 32⟩
/-- 14_station_control: Table 14-8. -/
def LOOP_SRCADDR : Reg :=
  ⟨0x40820010, 16, 0x1000, 1, 0x0, .block, some (25, 1), fun _ _ => 0x00000000,
   [⟨0, 32, .st, false, false⟩]⟩
/-- 14_station_control: Table 14-8. -/
def LOOP_SPADDR : Reg :=
  ⟨0x40820014, 16, 0x1000, 1, 0x0, .block, some (25, 1), fun _ _ => 0x00000000,
   [⟨0, 32, .st, false, false⟩]⟩
/-- 14_station_control: Table 14-8. -/
def LOOP_DSTADDR : Reg :=
  ⟨0x40820018, 16, 0x1000, 1, 0x0, .block, some (25, 1), fun _ _ => 0x00000000,
   [⟨0, 32, .st, false, false⟩]⟩
/-- 14_station_control: Table 14-8. -/
def LOOP_SAT : Reg :=
  ⟨0x4082001C, 16, 0x1000, 1, 0x0, .block, some (25, 1), fun _ _ => 0x00000000,
   [⟨0, 16, .st, false, false⟩]⟩
def LOOP_SAT_SATLIM : RegFld := ⟨LOOP_SAT, 0, 16⟩
/-- 14_station_control: Table 14-8. -/
def LOOP_SAFE : Reg :=
  ⟨0x40820020, 16, 0x1000, 1, 0x0, .block, some (25, 1), fun _ _ => 0x00000000,
   [⟨0, 32, .st, false, false⟩]⟩
def LOOP_SAFE_SAFE : RegFld := ⟨LOOP_SAFE, 0, 32⟩
/-- 14_station_control: Table 14-8. -/
def LOOP_CTL : Reg :=
  ⟨0x40820100, 16, 0x1000, 1, 0x0, .block, none, fun _ _ => 0x00000000,
   [⟨0, 1, .rw, false, false⟩, ⟨1, 1, .wo, false, false⟩, ⟨2, 1, .wo, false, false⟩]⟩
def LOOP_CTL_MAN : RegFld := ⟨LOOP_CTL, 0, 1⟩
def LOOP_CTL_RESUME : RegFld := ⟨LOOP_CTL, 1, 1⟩
def LOOP_CTL_IRESET : RegFld := ⟨LOOP_CTL, 2, 1⟩
/-- 14_station_control: Table 14-8. -/
def LOOP_SP : Reg :=
  ⟨0x40820104, 16, 0x1000, 1, 0x0, .block, none, fun _ _ => 0x00000000,
   [⟨0, 32, .rw, false, false⟩]⟩
/-- 14_station_control: Table 14-8. -/
def LOOP_MANOUT : Reg :=
  ⟨0x40820108, 16, 0x1000, 1, 0x0, .block, none, fun _ _ => 0x00000000,
   [⟨0, 32, .rw, false, false⟩]⟩
/-- 14_station_control: Table 14-8. -/
def LOOP_STAT : Reg :=
  ⟨0x40820110, 16, 0x1000, 1, 0x0, .block, none, fun _ _ => 0x00000000,
   [⟨0, 2, .ro, false, false⟩, ⟨2, 1, .ro, false, false⟩, ⟨3, 1, .ro, false, false⟩, ⟨4, 1, .w1c, false, false⟩, ⟨5,
    1, .w1c, false, false⟩]⟩
def LOOP_STAT_STATE : RegFld := ⟨LOOP_STAT, 0, 2⟩
def LOOP_STAT_SAT : RegFld := ⟨LOOP_STAT, 2, 1⟩
def LOOP_STAT_SATALM : RegFld := ⟨LOOP_STAT, 3, 1⟩
def LOOP_STAT_SRCERR : RegFld := ⟨LOOP_STAT, 4, 1⟩
def LOOP_STAT_DSTERR : RegFld := ⟨LOOP_STAT, 5, 1⟩
/-- 14_station_control: Table 14-8. -/
def LOOP_PV : Reg :=
  ⟨0x40820114, 16, 0x1000, 1, 0x0, .block, none, fun _ _ => 0x00000000,
   [⟨0, 32, .ro, false, false⟩]⟩
/-- 14_station_control: Table 14-8. -/
def LOOP_OUT : Reg :=
  ⟨0x40820118, 16, 0x1000, 1, 0x0, .block, none, fun _ _ => 0x00000000,
   [⟨0, 32, .ro, false, false⟩]⟩
/-- 14_station_control: Table 14-8. -/
def LOOP_I : Reg :=
  ⟨0x4082011C, 16, 0x1000, 1, 0x0, .block, none, fun _ _ => 0x00000000,
   [⟨0, 32, .ro, false, false⟩]⟩
/-- 14_station_control: Table 14-8. -/
def LOOP_ERR : Reg :=
  ⟨0x40820120, 16, 0x1000, 1, 0x0, .block, none, fun _ _ => 0x00000000,
   [⟨0, 32, .ro, false, false⟩]⟩
/-- 14_station_control: Table 14-8. -/
def LOOP_OVR : Reg :=
  ⟨0x40820124, 16, 0x1000, 1, 0x0, .block, none, fun _ _ => 0x00000000,
   [⟨0, 32, .rw, false, false⟩]⟩
/-- 14_station_control: Table 14-8. -/
def LOOP_TS : Reg :=
  ⟨0x40820128, 16, 0x1000, 1, 0x0, .block, none, fun _ _ => 0x00000000,
   [⟨0, 32, .ro, false, false⟩]⟩
def LOOP_TS_NS : RegFld := ⟨LOOP_TS, 0, 32⟩
/-- 14_station_control: Table 14-8. -/
def LOOP_KP : Reg :=
  ⟨0x40820200, 16, 0x1000, 2, 0x200, .block, none, fun _ _ => 0x00000000,
   [⟨0, 32, .rw, false, false⟩]⟩
/-- 14_station_control: Table 14-8. -/
def LOOP_KI : Reg :=
  ⟨0x40820204, 16, 0x1000, 2, 0x200, .block, none, fun _ _ => 0x00000000,
   [⟨0, 32, .rw, false, false⟩]⟩
/-- 14_station_control: Table 14-8. -/
def LOOP_KD : Reg :=
  ⟨0x40820208, 16, 0x1000, 2, 0x200, .block, none, fun _ _ => 0x00000000,
   [⟨0, 32, .rw, false, false⟩]⟩
/-- 14_station_control: Table 14-8. -/
def LOOP_BIAS : Reg :=
  ⟨0x40820210, 16, 0x1000, 2, 0x200, .block, none, fun _ _ => 0x00000000,
   [⟨0, 32, .rw, false, false⟩]⟩
/-- 14_station_control: Table 14-8. -/
def LOOP_OMIN : Reg :=
  ⟨0x40820214, 16, 0x1000, 2, 0x200, .block, none, fun _ _ => 0x00000000,
   [⟨0, 32, .rw, false, false⟩]⟩
/-- 14_station_control: Table 14-8. -/
def LOOP_OMAX : Reg :=
  ⟨0x40820218, 16, 0x1000, 2, 0x200, .block, none, fun _ _ => 0x00000000,
   [⟨0, 32, .rw, false, false⟩]⟩
/-- 14_station_control: Table 14-8. -/
def LOOP_NBP : Reg :=
  ⟨0x4082021C, 16, 0x1000, 2, 0x200, .block, none, fun _ _ => 0x00000000,
   [⟨0, 7, .rw, false, false⟩]⟩
def LOOP_NBP_NBP : RegFld := ⟨LOOP_NBP, 0, 7⟩
/-- 14_station_control: Table 14-8: ALPHA [15:0]. -/
def LOOP_ALPHA : Reg :=
  ⟨0x4082020C, 16, 0x1000, 2, 0x200, .block, none, fun _ _ => 0x00000000,
   [⟨0, 16, .rw, false, false⟩]⟩
/-- 14_station_control: Table 14-8: breakpoint k of bank 0. -/
def LOOP_BP0 : Reg :=
  ⟨0x40820240, 16, 0x1000, 64, 0x4, .block, none, fun _ _ => 0x00000000,
   [⟨0, 16, .rw, false, false⟩, ⟨16, 16, .rw, false, false⟩]⟩
def LOOP_BP0_E : RegFld := ⟨LOOP_BP0, 0, 16⟩
def LOOP_BP0_G : RegFld := ⟨LOOP_BP0, 16, 16⟩
/-- 14_station_control: Table 14-8: breakpoint k of bank 1. -/
def LOOP_BP1 : Reg :=
  ⟨0x40820440, 16, 0x1000, 64, 0x4, .block, none, fun _ _ => 0x00000000,
   [⟨0, 16, .rw, false, false⟩, ⟨16, 16, .rw, false, false⟩]⟩
def LOOP_BP1_E : RegFld := ⟨LOOP_BP1, 0, 16⟩
def LOOP_BP1_G : RegFld := ⟨LOOP_BP1, 16, 16⟩
/-- 14_station_control: Table 14-9. -/
def STP_CFG : Reg :=
  ⟨0x40830000, 8, 0x1000, 1, 0x0, .block, some (73, 1), fun _ _ => 0x000004C0,
   [⟨0, 1, .st, false, false⟩, ⟨1, 2, .st, false, false⟩, ⟨3, 4, .st, false, false⟩, ⟨7, 2, .st, false, false⟩, ⟨9, 1,
    .st, false, false⟩, ⟨10, 1, .st, false, false⟩]⟩
def STP_CFG_EN : RegFld := ⟨STP_CFG, 0, 1⟩
def STP_CFG_MODE : RegFld := ⟨STP_CFG, 1, 2⟩
def STP_CFG_MRES : RegFld := ⟨STP_CFG, 3, 4⟩
def STP_CFG_STDBY : RegFld := ⟨STP_CFG, 7, 2⟩
def STP_CFG_SENSE : RegFld := ⟨STP_CFG, 9, 1⟩
def STP_CFG_STALLACT : RegFld := ⟨STP_CFG, 10, 1⟩
/-- 14_station_control: Table 14-9. -/
def STP_PWM : Reg :=
  ⟨0x40830004, 8, 0x1000, 1, 0x0, .block, some (73, 1), fun _ _ => 0x00284E20,
   [⟨0, 16, .st, false, false⟩, ⟨16, 8, .st, false, false⟩]⟩
def STP_PWM_PER : RegFld := ⟨STP_PWM, 0, 16⟩
def STP_PWM_DEAD : RegFld := ⟨STP_PWM, 16, 8⟩
/-- 14_station_control: Table 14-9. -/
def STP_AMPL : Reg :=
  ⟨0x40830008, 8, 0x1000, 1, 0x0, .block, some (73, 1), fun _ _ => 0x00000000,
   [⟨0, 16, .st, false, false⟩, ⟨16, 16, .st, false, false⟩]⟩
def STP_AMPL_RUN : RegFld := ⟨STP_AMPL, 0, 16⟩
def STP_AMPL_HOLD : RegFld := ⟨STP_AMPL, 16, 16⟩
/-- 14_station_control: Table 14-9. -/
def STP_VMAX : Reg :=
  ⟨0x4083000C, 8, 0x1000, 1, 0x0, .block, some (73, 1), fun _ _ => 0x00000000,
   [⟨0, 32, .st, false, false⟩]⟩
/-- 14_station_control: Table 14-9. -/
def STP_AMAX : Reg :=
  ⟨0x40830010, 8, 0x1000, 1, 0x0, .block, some (73, 1), fun _ _ => 0x00000000,
   [⟨0, 32, .st, false, false⟩]⟩
/-- 14_station_control: Table 14-9. -/
def STP_STALL : Reg :=
  ⟨0x40830014, 8, 0x1000, 1, 0x0, .block, some (73, 1), fun _ _ => 0x006480C8,
   [⟨0, 10, .st, false, false⟩, ⟨12, 4, .st, false, false⟩, ⟨16, 16, .st, false, false⟩]⟩
def STP_STALL_LA : RegFld := ⟨STP_STALL, 0, 10⟩
def STP_STALL_N : RegFld := ⟨STP_STALL, 12, 4⟩
def STP_STALL_VMIN : RegFld := ⟨STP_STALL, 16, 16⟩
/-- 14_station_control: Table 14-9. -/
def STP_KE : Reg :=
  ⟨0x40830018, 8, 0x1000, 1, 0x0, .block, some (73, 1), fun _ _ => 0x00320000,
   [⟨0, 16, .st, false, false⟩, ⟨16, 8, .st, false, false⟩]⟩
def STP_KE_KE : RegFld := ⟨STP_KE, 0, 16⟩
def STP_KE_ZCW : RegFld := ⟨STP_KE, 16, 8⟩
/-- 14_station_control: Table 14-9. -/
def STP_START : Reg :=
  ⟨0x4083001C, 8, 0x1000, 1, 0x0, .block, some (73, 1), fun _ _ => 0x00000000,
   [⟨0, 8, .st, false, false⟩]⟩
def STP_START_START : RegFld := ⟨STP_START, 0, 8⟩
/-- 14_station_control: Table 14-9. -/
def STP_STBYDLY : Reg :=
  ⟨0x40830020, 8, 0x1000, 1, 0x0, .block, some (73, 1), fun _ _ => 0x000001F4,
   [⟨0, 16, .st, false, false⟩]⟩
def STP_STBYDLY_MS : RegFld := ⟨STP_STBYDLY, 0, 16⟩
/-- 14_station_control: Table 14-9. -/
def STP_CTL : Reg :=
  ⟨0x40830100, 8, 0x1000, 1, 0x0, .block, none, fun _ _ => 0x00000000,
   [⟨0, 1, .wo, false, false⟩, ⟨1, 1, .wo, false, false⟩, ⟨2, 1, .wo, false, false⟩, ⟨3, 1, .wo, false, false⟩]⟩
def STP_CTL_GO : RegFld := ⟨STP_CTL, 0, 1⟩
def STP_CTL_STOP : RegFld := ⟨STP_CTL, 1, 1⟩
def STP_CTL_HALT : RegFld := ⟨STP_CTL, 2, 1⟩
def STP_CTL_CLRSTALL : RegFld := ⟨STP_CTL, 3, 1⟩
/-- 14_station_control: Table 14-9. -/
def STP_TARGET : Reg :=
  ⟨0x40830104, 8, 0x1000, 1, 0x0, .block, none, fun _ _ => 0x00000000,
   [⟨0, 32, .rw, false, false⟩]⟩
/-- 14_station_control: Table 14-9. -/
def STP_POS : Reg :=
  ⟨0x40830108, 8, 0x1000, 1, 0x0, .block, none, fun _ _ => 0x00000000,
   [⟨0, 32, .rw, false, false⟩]⟩
def STP_POS_POS : RegFld := ⟨STP_POS, 0, 32⟩
/-- 14_station_control: Table 14-9. -/
def STP_VEL : Reg :=
  ⟨0x4083010C, 8, 0x1000, 1, 0x0, .block, none, fun _ _ => 0x00000000,
   [⟨0, 32, .ro, false, false⟩]⟩
def STP_VEL_VEL : RegFld := ⟨STP_VEL, 0, 32⟩
/-- 14_station_control: Table 14-9. -/
def STP_STAT : Reg :=
  ⟨0x40830110, 8, 0x1000, 1, 0x0, .block, none, fun _ _ => 0x00000000,
   [⟨0, 3, .ro, false, false⟩, ⟨8, 8, .ro, false, false⟩, ⟨16, 1, .w1c, false, false⟩, ⟨17, 1, .w1c, false, false⟩,
    ⟨18, 1, .w1c, false, false⟩, ⟨19, 1, .w1c, false, false⟩]⟩
def STP_STAT_STATE : RegFld := ⟨STP_STAT, 0, 3⟩
def STP_STAT_SEG : RegFld := ⟨STP_STAT, 8, 8⟩
def STP_STAT_STALL : RegFld := ⟨STP_STAT, 16, 1⟩
def STP_STAT_SEGERR : RegFld := ⟨STP_STAT, 17, 1⟩
def STP_STAT_POSLOST : RegFld := ⟨STP_STAT, 18, 1⟩
def STP_STAT_REACHED : RegFld := ⟨STP_STAT, 19, 1⟩
/-- 14_station_control: Table 14-9. -/
def STP_LA : Reg :=
  ⟨0x40830114, 8, 0x1000, 1, 0x0, .block, none, fun _ _ => 0x00000000,
   [⟨0, 10, .ro, false, false⟩]⟩
def STP_LA_LA : RegFld := ⟨STP_LA, 0, 10⟩
/-- 14_station_control: Table 14-9. -/
def STP_EVEN : Reg :=
  ⟨0x40830118, 8, 0x1000, 1, 0x0, .block, none, fun _ _ => 0x00000000,
   [⟨0, 1, .rw, false, false⟩, ⟨1, 1, .rw, false, false⟩]⟩
def STP_EVEN_STALL : RegFld := ⟨STP_EVEN, 0, 1⟩
def STP_EVEN_REACHED : RegFld := ⟨STP_EVEN, 1, 1⟩
/-- 14_station_control: Table 14-9. -/
def STP_SEG_T : Reg :=
  ⟨0x40838000, 8, 0x1000, 256, 0x10, .block, none, fun _ _ => 0x00000000,
   [⟨0, 32, .rw, false, false⟩]⟩
def STP_SEG_T_TPV : RegFld := ⟨STP_SEG_T, 0, 32⟩
/-- 14_station_control: Table 14-9. -/
def STP_SEG_P : Reg :=
  ⟨0x40838004, 8, 0x1000, 256, 0x10, .block, none, fun _ _ => 0x00000000,
   [⟨0, 32, .rw, false, false⟩]⟩
def STP_SEG_P_TPV : RegFld := ⟨STP_SEG_P, 0, 32⟩
/-- 14_station_control: Table 14-9. -/
def STP_SEG_V : Reg :=
  ⟨0x40838008, 8, 0x1000, 256, 0x10, .block, none, fun _ _ => 0x00000000,
   [⟨0, 32, .rw, false, false⟩]⟩
def STP_SEG_V_TPV : RegFld := ⟨STP_SEG_V, 0, 32⟩
/-- 14_station_control: Table 14-9. -/
def STP_SEG_FLG : Reg :=
  ⟨0x4083800C, 8, 0x1000, 256, 0x10, .block, none, fun _ _ => 0x00000000,
   [⟨0, 1, .rw, false, false⟩, ⟨1, 1, .rw, false, false⟩, ⟨8, 8, .rw, false, false⟩]⟩
def STP_SEG_FLG_LAST : RegFld := ⟨STP_SEG_FLG, 0, 1⟩
def STP_SEG_FLG_LINK : RegFld := ⟨STP_SEG_FLG, 1, 1⟩
def STP_SEG_FLG_NEXT : RegFld := ⟨STP_SEG_FLG, 8, 8⟩
/-- Registers of block STN, part 0. -/
def regsStn0 : List Reg :=
  [AFE_CTL, AFE_RANGEEN, AFE_RANGE, AFE_CH, AFE_LIM, AFE_RES, AFE_TS, DI_CFG, DI_TIMING, DI_STATE, DI_QUAR, DI_STUCK,
    DI_CHG, DI_TS, DI_ALM_CHAT, DI_ALM_STUCK, SENT_CTL, SENT_CMP, SENT_CMP_T, SENT_SAG, SENT_SAGT, SENT_CAP,
    SENT_CAPSTAT, SENT_BASE, SENT_TRIG_LO, SENT_TRIG_HI, SENT_TRIGSRC, SENT_EVQ0, SENT_EVQ1, SENT_EVQ2, SENT_RMS,
    SENT_LGCTL, SENT_LG, SENT_LG_ADDR, SENT_LG_LEN, SENT_LGSTAT, LOOP_CFG, LOOP_PER, LOOP_BASE_LO, LOOP_BASE_HI]
/-- Registers of block STN, part 1. -/
def regsStn1 : List Reg :=
  [LOOP_SRCADDR, LOOP_SPADDR, LOOP_DSTADDR, LOOP_SAT, LOOP_SAFE, LOOP_CTL, LOOP_SP, LOOP_MANOUT, LOOP_STAT, LOOP_PV,
    LOOP_OUT, LOOP_I, LOOP_ERR, LOOP_OVR, LOOP_TS, LOOP_KP, LOOP_KI, LOOP_KD, LOOP_BIAS, LOOP_OMIN, LOOP_OMAX,
    LOOP_NBP, LOOP_ALPHA, LOOP_BP0, LOOP_BP1, STP_CFG, STP_PWM, STP_AMPL, STP_VMAX, STP_AMAX, STP_STALL, STP_KE,
    STP_START, STP_STBYDLY, STP_CTL, STP_TARGET, STP_POS, STP_VEL, STP_STAT, STP_LA]
/-- Registers of block STN, part 2. -/
def regsStn2 : List Reg :=
  [STP_EVEN, STP_SEG_T, STP_SEG_P, STP_SEG_V, STP_SEG_FLG]
/-- The registers of block STN. -/
def regsStn : List Reg :=
  regsStn0 ++ regsStn1 ++ regsStn2

end Sys2Proof.Machine
end

