-- ==== Sys2Proof/Machine/RegsNet.lean ====
section
/-!
DEFINITION. Registers of the ETH, SWC and TIME blocks.
Each register as its heading and its table give it: address, repetition, reset scope, commit domain, fields, access
    types and
reset value. A field a table marks reserved is left out: it reads as 0 and ignores what is written (R7).
-/

namespace Sys2Proof.Machine

/-- 08_ethernet_lanes: ETH_CTL: offset 0x000, block reset. -/
def ETH_CTL : Reg :=
  ⟨0x40200000, 24, 0x1000, 1, 0x0, .block, none, fun _ _ => 0x00000008,
   [⟨0, 1, .rw, false, false⟩, ⟨1, 2, .rw, false, false⟩, ⟨3, 1, .rw, false, false⟩, ⟨4, 1, .wo, false, false⟩, ⟨5, 2,
    .rw, false, false⟩, ⟨7, 2, .rw, false, false⟩, ⟨9, 1, .rw, false, false⟩]⟩
def ETH_CTL_EN : RegFld := ⟨ETH_CTL, 0, 1⟩
def ETH_CTL_PWR : RegFld := ⟨ETH_CTL, 1, 2⟩
def ETH_CTL_ANEN : RegFld := ⟨ETH_CTL, 3, 1⟩
def ETH_CTL_ANRESTART : RegFld := ⟨ETH_CTL, 4, 1⟩
def ETH_CTL_SPD : RegFld := ⟨ETH_CTL, 5, 2⟩
def ETH_CTL_MDIX : RegFld := ⟨ETH_CTL, 7, 2⟩
def ETH_CTL_LOOP : RegFld := ⟨ETH_CTL, 9, 1⟩
/-- 08_ethernet_lanes: ETH_STAT: offset 0x004, block reset. -/
def ETH_STAT : Reg :=
  ⟨0x40200004, 24, 0x1000, 1, 0x0, .block, none, fun _ _ => 0x00000000,
   [⟨0, 1, .ro, false, false⟩, ⟨1, 3, .ro, false, false⟩, ⟨4, 1, .ro, false, false⟩, ⟨5, 1, .ro, false, false⟩, ⟨6, 1,
    .ro, false, false⟩, ⟨7, 1, .ro, false, false⟩, ⟨8, 1, .ro, false, false⟩, ⟨9, 1, .ro, false, false⟩, ⟨10, 1, .ro,
    false, false⟩, ⟨11, 1, .ro, false, false⟩]⟩
def ETH_STAT_LINK : RegFld := ⟨ETH_STAT, 0, 1⟩
def ETH_STAT_SPEED : RegFld := ⟨ETH_STAT, 1, 3⟩
def ETH_STAT_ANDONE : RegFld := ⟨ETH_STAT, 4, 1⟩
def ETH_STAT_PDET : RegFld := ⟨ETH_STAT, 5, 1⟩
def ETH_STAT_EEE_ON : RegFld := ⟨ETH_STAT, 6, 1⟩
def ETH_STAT_LPI_TX : RegFld := ⟨ETH_STAT, 7, 1⟩
def ETH_STAT_LPI_RX : RegFld := ⟨ETH_STAT, 8, 1⟩
def ETH_STAT_ED : RegFld := ⟨ETH_STAT, 9, 1⟩
def ETH_STAT_RFAULT : RegFld := ⟨ETH_STAT, 10, 1⟩
def ETH_STAT_XOVER : RegFld := ⟨ETH_STAT, 11, 1⟩
/-- 08_ethernet_lanes: ETH_MAXFRM: offset 0x010, block reset. -/
def ETH_MAXFRM : Reg :=
  ⟨0x40200010, 24, 0x1000, 1, 0x0, .block, none, fun _ _ => 0x000005F2,
   [⟨0, 14, .rw, false, false⟩]⟩
def ETH_MAXFRM_LEN : RegFld := ⟨ETH_MAXFRM, 0, 14⟩
/-- 08_ethernet_lanes: ETH_RXFILT: offset 0x014, block reset. -/
def ETH_RXFILT : Reg :=
  ⟨0x40200014, 24, 0x1000, 1, 0x0, .block, none, fun _ _ => 0x00000000,
   [⟨0, 1, .rw, false, false⟩, ⟨1, 1, .rw, false, false⟩, ⟨2, 1, .rw, false, false⟩, ⟨3, 1, .rw, false, false⟩, ⟨16,
    16, .rw, false, false⟩]⟩
def ETH_RXFILT_DROPBC : RegFld := ⟨ETH_RXFILT, 0, 1⟩
def ETH_RXFILT_DROPMC : RegFld := ⟨ETH_RXFILT, 1, 1⟩
def ETH_RXFILT_DROPUNTAG : RegFld := ⟨ETH_RXFILT, 2, 1⟩
def ETH_RXFILT_DROPTAG : RegFld := ⟨ETH_RXFILT, 3, 1⟩
def ETH_RXFILT_RATE : RegFld := ⟨ETH_RXFILT, 16, 16⟩
/-- 08_ethernet_lanes: ETH_EEE: offset 0x020, block reset. -/
def ETH_EEE : Reg :=
  ⟨0x40200020, 24, 0x1000, 1, 0x0, .block, none, eeeReset,
   [⟨0, 1, .rw, false, false⟩, ⟨1, 1, .rw, false, false⟩, ⟨2, 1, .rw, false, false⟩, ⟨8, 8, .rw, false, false⟩, ⟨16,
    16, .rw, false, false⟩]⟩
def ETH_EEE_EN : RegFld := ⟨ETH_EEE, 0, 1⟩
def ETH_EEE_GATED_OK : RegFld := ⟨ETH_EEE, 1, 1⟩
def ETH_EEE_LLDP : RegFld := ⟨ETH_EEE, 2, 1⟩
def ETH_EEE_HOLD : RegFld := ⟨ETH_EEE, 8, 8⟩
def ETH_EEE_TW_TX : RegFld := ⟨ETH_EEE, 16, 16⟩
/-- 08_ethernet_lanes: ETH_MMCTL: offset 0x030, block reset. -/
def ETH_MMCTL : Reg :=
  ⟨0x40200030, 24, 0x1000, 1, 0x0, .block, none, fun _ _ => 0x000000A0,
   [⟨0, 1, .rw, false, false⟩, ⟨1, 1, .rw, false, false⟩, ⟨2, 2, .rw, false, false⟩, ⟨4, 7, .rw, false, false⟩, ⟨12,
    3, .ro, false, false⟩, ⟨15, 1, .ro, false, false⟩]⟩
def ETH_MMCTL_PEN : RegFld := ⟨ETH_MMCTL, 0, 1⟩
def ETH_MMCTL_VDIS : RegFld := ⟨ETH_MMCTL, 1, 1⟩
def ETH_MMCTL_ADDFRAG : RegFld := ⟨ETH_MMCTL, 2, 2⟩
def ETH_MMCTL_VTIME : RegFld := ⟨ETH_MMCTL, 4, 7⟩
def ETH_MMCTL_VSTAT : RegFld := ⟨ETH_MMCTL, 12, 3⟩
def ETH_MMCTL_ACTIVE : RegFld := ⟨ETH_MMCTL, 15, 1⟩
/-- 08_ethernet_lanes: ETH_WAKECTL: offset 0x040, block reset. -/
def ETH_WAKECTL : Reg :=
  ⟨0x40200040, 24, 0x1000, 1, 0x0, .block, none, fun _ _ => 0x00000000,
   [⟨0, 4, .rw, false, false⟩, ⟨4, 1, .rw, false, false⟩, ⟨5, 1, .rw, false, false⟩, ⟨6, 2, .ro, false, false⟩]⟩
def ETH_WAKECTL_PEN : RegFld := ⟨ETH_WAKECTL, 0, 4⟩
def ETH_WAKECTL_NAPRX : RegFld := ⟨ETH_WAKECTL, 4, 1⟩
def ETH_WAKECTL_EDWAKE : RegFld := ⟨ETH_WAKECTL, 5, 1⟩
def ETH_WAKECTL_LAST : RegFld := ⟨ETH_WAKECTL, 6, 2⟩
/-- 08_ethernet_lanes: ETH_ANADV and ETH_ANLP: offsets 0x008 and 0x00C, block reset. -/
def ETH_ANADV : Reg :=
  ⟨0x40200008, 24, 0x1000, 1, 0x0, .block, none, fun _ _ => 0x00000007,
   [⟨0, 1, .rw, false, false⟩, ⟨1, 1, .rw, false, false⟩, ⟨2, 1, .rw, false, false⟩, ⟨3, 2, .rw, false, false⟩]⟩
def ETH_ANADV_A10 : RegFld := ⟨ETH_ANADV, 0, 1⟩
def ETH_ANADV_A100 : RegFld := ⟨ETH_ANADV, 1, 1⟩
def ETH_ANADV_AEEE : RegFld := ⟨ETH_ANADV, 2, 1⟩
def ETH_ANADV_RF : RegFld := ⟨ETH_ANADV, 3, 2⟩
/-- 08_ethernet_lanes: ETH_ANADV and ETH_ANLP: offsets 0x008 and 0x00C, block reset. -/
def ETH_ANLP : Reg :=
  ⟨0x4020000C, 24, 0x1000, 1, 0x0, .block, none, fun _ _ => 0x00000000,
   [⟨0, 16, .ro, false, false⟩, ⟨16, 1, .ro, false, false⟩]⟩
def ETH_ANLP_PAGE : RegFld := ⟨ETH_ANLP, 0, 16⟩
def ETH_ANLP_PEEE : RegFld := ⟨ETH_ANLP, 16, 1⟩
/-- 08_ethernet_lanes: ETH_WPk_MASKw and ETH_WPk_CHK: offsets 0x050 + 0x20 × k + 4 × w and 0x060 + 0x20 × k, k = 0
to 3, w = 0 to 3, block reset. -/
def ETH_WP_MASK0 : Reg :=
  ⟨0x40200050, 24, 0x1000, 4, 0x20, .block, none, fun _ _ => 0x00000000,
   [⟨0, 32, .rw, false, false⟩]⟩
def ETH_WP_MASK0_MASK : RegFld := ⟨ETH_WP_MASK0, 0, 32⟩
/-- 08_ethernet_lanes: ETH_WPk_MASKw and ETH_WPk_CHK: offsets 0x050 + 0x20 × k + 4 × w and 0x060 + 0x20 × k, k = 0
to 3, w = 0 to 3, block reset. -/
def ETH_WP_MASK1 : Reg :=
  ⟨0x40200054, 24, 0x1000, 4, 0x20, .block, none, fun _ _ => 0x00000000,
   [⟨0, 32, .rw, false, false⟩]⟩
def ETH_WP_MASK1_MASK : RegFld := ⟨ETH_WP_MASK1, 0, 32⟩
/-- 08_ethernet_lanes: ETH_WPk_MASKw and ETH_WPk_CHK: offsets 0x050 + 0x20 × k + 4 × w and 0x060 + 0x20 × k, k = 0
to 3, w = 0 to 3, block reset. -/
def ETH_WP_MASK2 : Reg :=
  ⟨0x40200058, 24, 0x1000, 4, 0x20, .block, none, fun _ _ => 0x00000000,
   [⟨0, 32, .rw, false, false⟩]⟩
def ETH_WP_MASK2_MASK : RegFld := ⟨ETH_WP_MASK2, 0, 32⟩
/-- 08_ethernet_lanes: ETH_WPk_MASKw and ETH_WPk_CHK: offsets 0x050 + 0x20 × k + 4 × w and 0x060 + 0x20 × k, k = 0
to 3, w = 0 to 3, block reset. -/
def ETH_WP_MASK3 : Reg :=
  ⟨0x4020005C, 24, 0x1000, 4, 0x20, .block, none, fun _ _ => 0x00000000,
   [⟨0, 32, .rw, false, false⟩]⟩
def ETH_WP_MASK3_MASK : RegFld := ⟨ETH_WP_MASK3, 0, 32⟩
/-- 08_ethernet_lanes: ETH_WPk_MASKw and ETH_WPk_CHK: offsets 0x050 + 0x20 × k + 4 × w and 0x060 + 0x20 × k, k = 0
to 3, w = 0 to 3, block reset. -/
def ETH_WP_CHK : Reg :=
  ⟨0x40200060, 24, 0x1000, 4, 0x20, .block, none, fun _ _ => 0x00000000,
   [⟨0, 16, .rw, false, false⟩]⟩
def ETH_WP_CHK_CHECK : RegFld := ⟨ETH_WP_CHK, 0, 16⟩
/-- 08_ethernet_lanes: ETH_MDIOCMD, ETH_MDIODATA and ETH_MDIOCFG: offsets 0x0E0, 0x0E4 and 0x0E8, block reset. -/
def ETH_MDIOCMD : Reg :=
  ⟨0x402000E0, 24, 0x1000, 1, 0x0, .block, none, fun _ _ => 0x00000000,
   [⟨0, 5, .rw, false, false⟩, ⟨5, 5, .rw, false, false⟩, ⟨10, 1, .rw, false, false⟩, ⟨11, 1, .rw, false, false⟩, ⟨12,
    1, .wo, false, false⟩, ⟨13, 1, .ro, false, false⟩, ⟨14, 1, .ro, false, false⟩]⟩
def ETH_MDIOCMD_PRTAD : RegFld := ⟨ETH_MDIOCMD, 0, 5⟩
def ETH_MDIOCMD_REGAD : RegFld := ⟨ETH_MDIOCMD, 5, 5⟩
def ETH_MDIOCMD_C45 : RegFld := ⟨ETH_MDIOCMD, 10, 1⟩
def ETH_MDIOCMD_WRITE : RegFld := ⟨ETH_MDIOCMD, 11, 1⟩
def ETH_MDIOCMD_GO : RegFld := ⟨ETH_MDIOCMD, 12, 1⟩
def ETH_MDIOCMD_BUSY : RegFld := ⟨ETH_MDIOCMD, 13, 1⟩
def ETH_MDIOCMD_ERR : RegFld := ⟨ETH_MDIOCMD, 14, 1⟩
/-- 08_ethernet_lanes: ETH_MDIOCMD, ETH_MDIODATA and ETH_MDIOCFG: offsets 0x0E0, 0x0E4 and 0x0E8, block reset. -/
def ETH_MDIODATA : Reg :=
  ⟨0x402000E4, 24, 0x1000, 1, 0x0, .block, none, fun _ _ => 0x00000000,
   [⟨0, 16, .rw, false, false⟩, ⟨16, 16, .rw, false, false⟩]⟩
def ETH_MDIODATA_DATA : RegFld := ⟨ETH_MDIODATA, 0, 16⟩
def ETH_MDIODATA_ADDR : RegFld := ⟨ETH_MDIODATA, 16, 16⟩
/-- 08_ethernet_lanes: ETH_MDIOCMD, ETH_MDIODATA and ETH_MDIOCFG: offsets 0x0E0, 0x0E4 and 0x0E8, block reset. -/
def ETH_MDIOCFG : Reg :=
  ⟨0x402000E8, 24, 0x1000, 1, 0x0, .block, none, fun _ _ => 0x00000004,
   [⟨0, 4, .rw, false, false⟩]⟩
def ETH_MDIOCFG_DIV : RegFld := ⟨ETH_MDIOCFG, 0, 4⟩
/-- 08_ethernet_lanes: ETH_EVSTAT and ETH_EVEN: offsets 0x100 and 0x104, block reset. -/
def ETH_EVSTAT : Reg :=
  ⟨0x40200100, 24, 0x1000, 1, 0x0, .block, none, fun _ _ => 0x00000000,
   [⟨0, 1, .w1c, false, false⟩, ⟨1, 1, .w1c, false, false⟩, ⟨2, 1, .w1c, false, false⟩, ⟨3, 1, .w1c, false, false⟩,
    ⟨4, 1, .w1c, false, false⟩, ⟨5, 1, .w1c, false, false⟩, ⟨6, 1, .w1c, false, false⟩, ⟨7, 1, .w1c, false, false⟩]⟩
def ETH_EVSTAT_LINKCHG : RegFld := ⟨ETH_EVSTAT, 0, 1⟩
def ETH_EVSTAT_ANDONE : RegFld := ⟨ETH_EVSTAT, 1, 1⟩
def ETH_EVSTAT_ED : RegFld := ⟨ETH_EVSTAT, 2, 1⟩
def ETH_EVSTAT_WAKE : RegFld := ⟨ETH_EVSTAT, 3, 1⟩
def ETH_EVSTAT_MDIODONE : RegFld := ⟨ETH_EVSTAT, 4, 1⟩
def ETH_EVSTAT_VERIFY : RegFld := ⟨ETH_EVSTAT, 5, 1⟩
def ETH_EVSTAT_CNTSAT : RegFld := ⟨ETH_EVSTAT, 6, 1⟩
def ETH_EVSTAT_RFAULT : RegFld := ⟨ETH_EVSTAT, 7, 1⟩
/-- 08_ethernet_lanes: ETH_EVSTAT and ETH_EVEN: offsets 0x100 and 0x104, block reset. -/
def ETH_EVEN : Reg :=
  ⟨0x40200104, 24, 0x1000, 1, 0x0, .block, none, fun _ _ => 0x00000000,
   [⟨0, 1, .rw, false, false⟩, ⟨1, 1, .rw, false, false⟩, ⟨2, 1, .rw, false, false⟩, ⟨3, 1, .rw, false, false⟩, ⟨4, 1,
    .rw, false, false⟩, ⟨5, 1, .rw, false, false⟩, ⟨6, 1, .rw, false, false⟩, ⟨7, 1, .rw, false, false⟩]⟩
def ETH_EVEN_LINKCHG : RegFld := ⟨ETH_EVEN, 0, 1⟩
def ETH_EVEN_ANDONE : RegFld := ⟨ETH_EVEN, 1, 1⟩
def ETH_EVEN_ED : RegFld := ⟨ETH_EVEN, 2, 1⟩
def ETH_EVEN_WAKE : RegFld := ⟨ETH_EVEN, 3, 1⟩
def ETH_EVEN_MDIODONE : RegFld := ⟨ETH_EVEN, 4, 1⟩
def ETH_EVEN_VERIFY : RegFld := ⟨ETH_EVEN, 5, 1⟩
def ETH_EVEN_CNTSAT : RegFld := ⟨ETH_EVEN, 6, 1⟩
def ETH_EVEN_RFAULT : RegFld := ⟨ETH_EVEN, 7, 1⟩
/-- 08_ethernet_lanes: Table 8-5 lane counter (R269). -/
def ETH_CNT_RXOK : Reg :=
  ⟨0x40200200, 24, 0x1000, 1, 0x0, .block, none, fun _ _ => 0x00000000,
   [⟨0, 32, .rw, false, false⟩]⟩
/-- 08_ethernet_lanes: Table 8-5 lane counter (R269). -/
def ETH_CNT_RXOCT_LO : Reg :=
  ⟨0x40200204, 24, 0x1000, 1, 0x0, .block, none, fun _ _ => 0x00000000,
   [⟨0, 32, .rw, false, false⟩]⟩
/-- 08_ethernet_lanes: Table 8-5 lane counter (R269). -/
def ETH_CNT_RXOCT_HI : Reg :=
  ⟨0x40200208, 24, 0x1000, 1, 0x0, .block, none, fun _ _ => 0x00000000,
   [⟨0, 32, .rw, false, false⟩]⟩
/-- 08_ethernet_lanes: Table 8-5 lane counter (R269). -/
def ETH_CNT_RXBC : Reg :=
  ⟨0x4020020C, 24, 0x1000, 1, 0x0, .block, none, fun _ _ => 0x00000000,
   [⟨0, 32, .rw, false, false⟩]⟩
/-- 08_ethernet_lanes: Table 8-5 lane counter (R269). -/
def ETH_CNT_RXMC : Reg :=
  ⟨0x40200210, 24, 0x1000, 1, 0x0, .block, none, fun _ _ => 0x00000000,
   [⟨0, 32, .rw, false, false⟩]⟩
/-- 08_ethernet_lanes: Table 8-5 lane counter (R269). -/
def ETH_CNT_RXFCS : Reg :=
  ⟨0x40200214, 24, 0x1000, 1, 0x0, .block, none, fun _ _ => 0x00000000,
   [⟨0, 32, .rw, false, false⟩]⟩
/-- 08_ethernet_lanes: Table 8-5 lane counter (R269). -/
def ETH_CNT_RXRUNT : Reg :=
  ⟨0x40200218, 24, 0x1000, 1, 0x0, .block, none, fun _ _ => 0x00000000,
   [⟨0, 32, .rw, false, false⟩]⟩
/-- 08_ethernet_lanes: Table 8-5 lane counter (R269). -/
def ETH_CNT_RXFRAG : Reg :=
  ⟨0x4020021C, 24, 0x1000, 1, 0x0, .block, none, fun _ _ => 0x00000000,
   [⟨0, 32, .rw, false, false⟩]⟩
/-- 08_ethernet_lanes: Table 8-5 lane counter (R269). -/
def ETH_CNT_RXOVER : Reg :=
  ⟨0x40200220, 24, 0x1000, 1, 0x0, .block, none, fun _ _ => 0x00000000,
   [⟨0, 32, .rw, false, false⟩]⟩
/-- 08_ethernet_lanes: Table 8-5 lane counter (R269). -/
def ETH_CNT_RXSYM : Reg :=
  ⟨0x40200224, 24, 0x1000, 1, 0x0, .block, none, fun _ _ => 0x00000000,
   [⟨0, 32, .rw, false, false⟩]⟩
/-- 08_ethernet_lanes: Table 8-5 lane counter (R269). -/
def ETH_CNT_RXFILT : Reg :=
  ⟨0x40200228, 24, 0x1000, 1, 0x0, .block, none, fun _ _ => 0x00000000,
   [⟨0, 32, .rw, false, false⟩]⟩
/-- 08_ethernet_lanes: Table 8-5 lane counter (R269). -/
def ETH_CNT_RXRATE : Reg :=
  ⟨0x4020022C, 24, 0x1000, 1, 0x0, .block, none, fun _ _ => 0x00000000,
   [⟨0, 32, .rw, false, false⟩]⟩
/-- 08_ethernet_lanes: Table 8-5 lane counter (R269). -/
def ETH_CNT_RXCTL : Reg :=
  ⟨0x40200230, 24, 0x1000, 1, 0x0, .block, none, fun _ _ => 0x00000000,
   [⟨0, 32, .rw, false, false⟩]⟩
/-- 08_ethernet_lanes: Table 8-5 lane counter (R269). -/
def ETH_CNT_TXOK : Reg :=
  ⟨0x40200234, 24, 0x1000, 1, 0x0, .block, none, fun _ _ => 0x00000000,
   [⟨0, 32, .rw, false, false⟩]⟩
/-- 08_ethernet_lanes: Table 8-5 lane counter (R269). -/
def ETH_CNT_TXOCT_LO : Reg :=
  ⟨0x40200238, 24, 0x1000, 1, 0x0, .block, none, fun _ _ => 0x00000000,
   [⟨0, 32, .rw, false, false⟩]⟩
/-- 08_ethernet_lanes: Table 8-5 lane counter (R269). -/
def ETH_CNT_TXOCT_HI : Reg :=
  ⟨0x4020023C, 24, 0x1000, 1, 0x0, .block, none, fun _ _ => 0x00000000,
   [⟨0, 32, .rw, false, false⟩]⟩
/-- 08_ethernet_lanes: Table 8-5 lane counter (R269). -/
def ETH_CNT_TXPOIS : Reg :=
  ⟨0x40200240, 24, 0x1000, 1, 0x0, .block, none, fun _ _ => 0x00000000,
   [⟨0, 32, .rw, false, false⟩]⟩
/-- 08_ethernet_lanes: Table 8-5 lane counter (R269). -/
def ETH_CNT_TXDISC : Reg :=
  ⟨0x40200244, 24, 0x1000, 1, 0x0, .block, none, fun _ _ => 0x00000000,
   [⟨0, 32, .rw, false, false⟩]⟩
/-- 08_ethernet_lanes: Table 8-5 lane counter (R269). -/
def ETH_CNT_LPITX : Reg :=
  ⟨0x40200248, 24, 0x1000, 1, 0x0, .block, none, fun _ _ => 0x00000000,
   [⟨0, 32, .rw, false, false⟩]⟩
/-- 08_ethernet_lanes: Table 8-5 lane counter (R269). -/
def ETH_CNT_LPIRX : Reg :=
  ⟨0x4020024C, 24, 0x1000, 1, 0x0, .block, none, fun _ _ => 0x00000000,
   [⟨0, 32, .rw, false, false⟩]⟩
/-- 08_ethernet_lanes: Table 8-5 lane counter (R269). -/
def ETH_CNT_MMASMERR : Reg :=
  ⟨0x40200250, 24, 0x1000, 1, 0x0, .block, none, fun _ _ => 0x00000000,
   [⟨0, 32, .rw, false, false⟩]⟩
/-- 08_ethernet_lanes: Table 8-5 lane counter (R269). -/
def ETH_CNT_MMSMDERR : Reg :=
  ⟨0x40200254, 24, 0x1000, 1, 0x0, .block, none, fun _ _ => 0x00000000,
   [⟨0, 32, .rw, false, false⟩]⟩
/-- 08_ethernet_lanes: Table 8-5 lane counter (R269). -/
def ETH_CNT_MMASMOK : Reg :=
  ⟨0x40200258, 24, 0x1000, 1, 0x0, .block, none, fun _ _ => 0x00000000,
   [⟨0, 32, .rw, false, false⟩]⟩
/-- 08_ethernet_lanes: Table 8-5 lane counter (R269). -/
def ETH_CNT_MMFRAGTX : Reg :=
  ⟨0x4020025C, 24, 0x1000, 1, 0x0, .block, none, fun _ _ => 0x00000000,
   [⟨0, 32, .rw, false, false⟩]⟩
/-- Registers of block ETH, part 0. -/
def regsEth0 : List Reg :=
  [ETH_CTL, ETH_STAT, ETH_MAXFRM, ETH_RXFILT, ETH_EEE, ETH_MMCTL, ETH_WAKECTL, ETH_ANADV, ETH_ANLP, ETH_WP_MASK0,
    ETH_WP_MASK1, ETH_WP_MASK2, ETH_WP_MASK3, ETH_WP_CHK, ETH_MDIOCMD, ETH_MDIODATA, ETH_MDIOCFG, ETH_EVSTAT,
    ETH_EVEN, ETH_CNT_RXOK, ETH_CNT_RXOCT_LO, ETH_CNT_RXOCT_HI, ETH_CNT_RXBC, ETH_CNT_RXMC, ETH_CNT_RXFCS,
    ETH_CNT_RXRUNT, ETH_CNT_RXFRAG, ETH_CNT_RXOVER, ETH_CNT_RXSYM, ETH_CNT_RXFILT, ETH_CNT_RXRATE, ETH_CNT_RXCTL,
    ETH_CNT_TXOK, ETH_CNT_TXOCT_LO, ETH_CNT_TXOCT_HI, ETH_CNT_TXPOIS, ETH_CNT_TXDISC, ETH_CNT_LPITX, ETH_CNT_LPIRX,
    ETH_CNT_MMASMERR]
/-- Registers of block ETH, part 1. -/
def regsEth1 : List Reg :=
  [ETH_CNT_MMSMDERR, ETH_CNT_MMASMOK, ETH_CNT_MMFRAGTX]
/-- The registers of block ETH. -/
def regsEth : List Reg :=
  regsEth0 ++ regsEth1

/-- 09_switch: SWC_CTL: offset 0x0_0000, block reset. -/
def SWC_CTL : Reg :=
  ⟨0x40300000, 1, 0x0, 1, 0x0, .block, none, fun _ _ => 0x012C0000,
   [⟨0, 1, .rw, false, false⟩, ⟨1, 1, .rw, false, false⟩, ⟨2, 4, .rw, false, false⟩, ⟨16, 16, .rw, false, false⟩]⟩
def SWC_CTL_EN : RegFld := ⟨SWC_CTL, 0, 1⟩
def SWC_CTL_CT : RegFld := ⟨SWC_CTL, 1, 1⟩
def SWC_CTL_HCH : RegFld := ⟨SWC_CTL, 2, 4⟩
def SWC_CTL_AGE : RegFld := ⟨SWC_CTL, 16, 16⟩
/-- 09_switch: SWC_BUFCFG and SWC_BUFSTAT: offsets 0x0_0004 and 0x0_0008, block reset. -/
def SWC_BUFCFG : Reg :=
  ⟨0x40300004, 1, 0x0, 1, 0x0, .block, none, fun _ _ => 0x10000001,
   [⟨0, 3, .rw, false, false⟩, ⟨16, 16, .rw, false, false⟩]⟩
def SWC_BUFCFG_PUSHTC : RegFld := ⟨SWC_BUFCFG, 0, 3⟩
def SWC_BUFCFG_EPOOL : RegFld := ⟨SWC_BUFCFG, 16, 16⟩
/-- 09_switch: SWC_BUFCFG and SWC_BUFSTAT: offsets 0x0_0004 and 0x0_0008, block reset. -/
def SWC_BUFSTAT : Reg :=
  ⟨0x40300008, 1, 0x0, 1, 0x0, .block, none, fun _ _ => 0x80008000,
   [⟨0, 16, .ro, false, false⟩, ⟨16, 16, .rw, false, false⟩]⟩
def SWC_BUFSTAT_FREE : RegFld := ⟨SWC_BUFSTAT, 0, 16⟩
def SWC_BUFSTAT_LOW : RegFld := ⟨SWC_BUFSTAT, 16, 16⟩
/-- 09_switch: SWC_FDBCMD, SWC_FDBDATA0 to SWC_FDBDATA2: offsets 0x0_0010 to 0x0_001C, block reset. -/
def SWC_FDBCMD : Reg :=
  ⟨0x40300010, 1, 0x0, 1, 0x0, .block, none, fun _ _ => 0x00000000,
   [⟨0, 3, .wo, false, false⟩, ⟨8, 1, .ro, false, false⟩, ⟨9, 1, .ro, false, false⟩, ⟨10, 1, .ro, false, false⟩]⟩
def SWC_FDBCMD_OP : RegFld := ⟨SWC_FDBCMD, 0, 3⟩
def SWC_FDBCMD_BUSY : RegFld := ⟨SWC_FDBCMD, 8, 1⟩
def SWC_FDBCMD_FOUND : RegFld := ⟨SWC_FDBCMD, 9, 1⟩
def SWC_FDBCMD_FULL : RegFld := ⟨SWC_FDBCMD, 10, 1⟩
/-- 09_switch: SWC_FDBCMD, SWC_FDBDATA0 to SWC_FDBDATA2: offsets 0x0_0010 to 0x0_001C, block reset. -/
def SWC_FDBDATA0 : Reg :=
  ⟨0x40300014, 1, 0x0, 1, 0x0, .block, none, fun _ _ => 0x00000000,
   [⟨0, 32, .rw, false, false⟩]⟩
def SWC_FDBDATA0_MACLO : RegFld := ⟨SWC_FDBDATA0, 0, 32⟩
/-- 09_switch: SWC_FDBCMD, SWC_FDBDATA0 to SWC_FDBDATA2: offsets 0x0_0010 to 0x0_001C, block reset. -/
def SWC_FDBDATA1 : Reg :=
  ⟨0x40300018, 1, 0x0, 1, 0x0, .block, none, fun _ _ => 0x00000000,
   [⟨0, 16, .rw, false, false⟩, ⟨16, 12, .rw, false, false⟩]⟩
def SWC_FDBDATA1_MACHI : RegFld := ⟨SWC_FDBDATA1, 0, 16⟩
def SWC_FDBDATA1_VID : RegFld := ⟨SWC_FDBDATA1, 16, 12⟩
/-- 09_switch: SWC_FDBCMD, SWC_FDBDATA0 to SWC_FDBDATA2: offsets 0x0_0010 to 0x0_001C, block reset. -/
def SWC_FDBDATA2 : Reg :=
  ⟨0x4030001C, 1, 0x0, 1, 0x0, .block, none, fun _ _ => 0x00000000,
   [⟨0, 28, .rw, false, false⟩, ⟨31, 1, .ro, false, false⟩]⟩
def SWC_FDBDATA2_PORTS : RegFld := ⟨SWC_FDBDATA2, 0, 28⟩
def SWC_FDBDATA2_STATIC : RegFld := ⟨SWC_FDBDATA2, 31, 1⟩
/-- 09_switch: SWC_MIRROR, SWC_MIRSRC and SWC_DROPEV: offsets 0x0_0020, 0x0_0024 and 0x0_0030, block reset. -/
def SWC_MIRROR : Reg :=
  ⟨0x40300020, 1, 0x0, 1, 0x0, .block, none, fun _ _ => 0x00000000,
   [⟨0, 1, .rw, false, false⟩, ⟨1, 5, .rw, false, false⟩, ⟨6, 3, .rw, false, false⟩]⟩
def SWC_MIRROR_EN : RegFld := ⟨SWC_MIRROR, 0, 1⟩
def SWC_MIRROR_MPORT : RegFld := ⟨SWC_MIRROR, 1, 5⟩
def SWC_MIRROR_MTC : RegFld := ⟨SWC_MIRROR, 6, 3⟩
/-- 09_switch: SWC_MIRROR, SWC_MIRSRC and SWC_DROPEV: offsets 0x0_0020, 0x0_0024 and 0x0_0030, block reset. -/
def SWC_MIRSRC : Reg :=
  ⟨0x40300024, 1, 0x0, 1, 0x0, .block, none, fun _ _ => 0x00000000,
   [⟨0, 28, .rw, false, false⟩]⟩
def SWC_MIRSRC_PORTS : RegFld := ⟨SWC_MIRSRC, 0, 28⟩
/-- 09_switch: SWC_MIRROR, SWC_MIRSRC and SWC_DROPEV: offsets 0x0_0020, 0x0_0024 and 0x0_0030, block reset. -/
def SWC_DROPEV : Reg :=
  ⟨0x40300030, 1, 0x0, 1, 0x0, .block, none, fun _ _ => 0x00000000,
   [⟨1, 15, .rw, false, false⟩]⟩
def SWC_DROPEV_CODE : RegFld := ⟨SWC_DROPEV, 1, 15⟩
/-- 09_switch: Forager registers: offsets 0x0_0040 to 0x0_004C, and 0x0_0200 + 4 × p for p = 0 to 27, block reset. -/
def SWC_FORCTL : Reg :=
  ⟨0x40300040, 1, 0x0, 1, 0x0, .block, none, fun _ _ => 0x00000008,
   [⟨0, 1, .rw, false, false⟩, ⟨1, 4, .rw, false, false⟩, ⟨16, 16, .rw, false, false⟩]⟩
def SWC_FORCTL_EN : RegFld := ⟨SWC_FORCTL, 0, 1⟩
def SWC_FORCTL_K : RegFld := ⟨SWC_FORCTL, 1, 4⟩
def SWC_FORCTL_DROPCAP : RegFld := ⟨SWC_FORCTL, 16, 16⟩
/-- 09_switch: Forager registers: offsets 0x0_0040 to 0x0_004C, and 0x0_0200 + 4 × p for p = 0 to 27, block reset. -/
def SWC_FORBASE : Reg :=
  ⟨0x40300044, 1, 0x0, 1, 0x0, .block, none, fun _ _ => 0x00000000,
   [⟨0, 32, .rw, false, false⟩]⟩
def SWC_FORBASE_BASE : RegFld := ⟨SWC_FORBASE, 0, 32⟩
/-- 09_switch: Forager registers: offsets 0x0_0040 to 0x0_004C, and 0x0_0200 + 4 × p for p = 0 to 27, block reset. -/
def SWC_FORIDX : Reg :=
  ⟨0x40300048, 1, 0x0, 1, 0x0, .block, none, fun _ _ => 0x00000000,
   [⟨0, 16, .rw, false, false⟩, ⟨16, 16, .ro, false, false⟩]⟩
def SWC_FORIDX_TAIL : RegFld := ⟨SWC_FORIDX, 0, 16⟩
def SWC_FORIDX_HEAD : RegFld := ⟨SWC_FORIDX, 16, 16⟩
/-- 09_switch: Forager registers: offsets 0x0_0040 to 0x0_004C, and 0x0_0200 + 4 × p for p = 0 to 27, block reset. -/
def SWC_FORLOST : Reg :=
  ⟨0x4030004C, 1, 0x0, 1, 0x0, .block, none, fun _ _ => 0x00000000,
   [⟨0, 32, .rw, false, false⟩]⟩
/-- 09_switch: Forager registers: offsets 0x0_0040 to 0x0_004C, and 0x0_0200 + 4 × p for p = 0 to 27, block reset. -/
def SWC_FORSAMP : Reg :=
  ⟨0x40300200, 28, 0x4, 1, 0x0, .block, none, fun _ _ => 0x00000000,
   [⟨0, 16, .rw, false, false⟩]⟩
def SWC_FORSAMP_N : RegFld := ⟨SWC_FORSAMP, 0, 16⟩
/-- 06_memory_dma: Table 6-7 ring base, bits [3:0] reserved. -/
def SWC_SVTRBASE_LO : Reg :=
  ⟨0x40300080, 1, 0x0, 1, 0x0, .block, none, fun _ _ => 0x00000000,
   [⟨4, 28, .rw, false, false⟩]⟩
def SWC_SVTRBASE_LO_BASE : RegFld := ⟨SWC_SVTRBASE_LO, 4, 28⟩
/-- 06_memory_dma: Table 6-7 ring base. -/
def SWC_SVTRBASE_HI : Reg :=
  ⟨0x40300084, 1, 0x0, 1, 0x0, .block, none, fun _ _ => 0x00000000,
   [⟨0, 32, .rw, false, false⟩]⟩
def SWC_SVTRBASE_HI_BASE : RegFld := ⟨SWC_SVTRBASE_HI, 0, 32⟩
/-- 06_memory_dma: Table 6-7: 2^K descriptors. -/
def SWC_SVTRSIZE : Reg :=
  ⟨0x40300088, 1, 0x0, 1, 0x0, .block, none, fun _ _ => 0x00000003,
   [⟨0, 4, .rw, false, false⟩]⟩
def SWC_SVTRSIZE_K : RegFld := ⟨SWC_SVTRSIZE, 0, 4⟩
/-- 06_memory_dma: Table 6-7 ring indices. -/
def SWC_SVTRIDX : Reg :=
  ⟨0x4030008C, 1, 0x0, 1, 0x0, .block, none, fun _ _ => 0x00000000,
   [⟨0, 12, .rw, false, false⟩, ⟨16, 12, .ro, false, false⟩]⟩
def SWC_SVTRIDX_TAIL : RegFld := ⟨SWC_SVTRIDX, 0, 12⟩
def SWC_SVTRIDX_HEAD : RegFld := ⟨SWC_SVTRIDX, 16, 12⟩
/-- 06_memory_dma: Table 6-7 ring base, bits [3:0] reserved. -/
def SWC_SVRRBASE_LO : Reg :=
  ⟨0x40300090, 1, 0x0, 1, 0x0, .block, none, fun _ _ => 0x00000000,
   [⟨4, 28, .rw, false, false⟩]⟩
def SWC_SVRRBASE_LO_BASE : RegFld := ⟨SWC_SVRRBASE_LO, 4, 28⟩
/-- 06_memory_dma: Table 6-7 ring base. -/
def SWC_SVRRBASE_HI : Reg :=
  ⟨0x40300094, 1, 0x0, 1, 0x0, .block, none, fun _ _ => 0x00000000,
   [⟨0, 32, .rw, false, false⟩]⟩
def SWC_SVRRBASE_HI_BASE : RegFld := ⟨SWC_SVRRBASE_HI, 0, 32⟩
/-- 06_memory_dma: Table 6-7: 2^K descriptors. -/
def SWC_SVRRSIZE : Reg :=
  ⟨0x40300098, 1, 0x0, 1, 0x0, .block, none, fun _ _ => 0x00000003,
   [⟨0, 4, .rw, false, false⟩]⟩
def SWC_SVRRSIZE_K : RegFld := ⟨SWC_SVRRSIZE, 0, 4⟩
/-- 06_memory_dma: Table 6-7 ring indices. -/
def SWC_SVRRIDX : Reg :=
  ⟨0x4030009C, 1, 0x0, 1, 0x0, .block, none, fun _ _ => 0x00000000,
   [⟨0, 12, .rw, false, false⟩, ⟨16, 12, .ro, false, false⟩]⟩
def SWC_SVRRIDX_TAIL : RegFld := ⟨SWC_SVRRIDX, 0, 12⟩
def SWC_SVRRIDX_HEAD : RegFld := ⟨SWC_SVRRIDX, 16, 12⟩
/-- 09_switch: SWC_HQLIMITn: layout of SWC_QLIMITc, RW. -/
def SWC_HQLIMIT : Reg :=
  ⟨0x40300100, 16, 0x4, 1, 0x0, .block, none, fun _ _ => 0x00080300,
   [⟨0, 16, .rw, false, false⟩, ⟨16, 12, .rw, false, false⟩]⟩
def SWC_HQLIMIT_LIMIT : RegFld := ⟨SWC_HQLIMIT, 0, 16⟩
def SWC_HQLIMIT_MIN : RegFld := ⟨SWC_HQLIMIT, 16, 12⟩
/-- 09_switch: SWC_SVQLIMIT: layout of SWC_QLIMITc, RW. -/
def SWC_SVQLIMIT : Reg :=
  ⟨0x40300140, 1, 0x0, 1, 0x0, .block, none, fun _ _ => 0x00080300,
   [⟨0, 16, .rw, false, false⟩, ⟨16, 12, .rw, false, false⟩]⟩
def SWC_SVQLIMIT_LIMIT : RegFld := ⟨SWC_SVQLIMIT, 0, 16⟩
def SWC_SVQLIMIT_MIN : RegFld := ⟨SWC_SVQLIMIT, 16, 12⟩
/-- 09_switch: Rules: SWC offset 0x0_1000 + 16 × r, r = 0 to 63, commit domain station cycle (instance 0), block
reset. -/
def SWC_RULE0 : Reg :=
  ⟨0x40301000, 64, 0x10, 1, 0x0, .block, some (0, 0), fun _ _ => 0x00000000,
   [⟨0, 28, .st, false, false⟩, ⟨31, 1, .st, false, false⟩]⟩
def SWC_RULE0_PORTS : RegFld := ⟨SWC_RULE0, 0, 28⟩
def SWC_RULE0_VALID : RegFld := ⟨SWC_RULE0, 31, 1⟩
/-- 09_switch: Rules: SWC offset 0x0_1000 + 16 × r, r = 0 to 63, commit domain station cycle (instance 0), block
reset. -/
def SWC_RULE1 : Reg :=
  ⟨0x40301004, 64, 0x10, 1, 0x0, .block, some (0, 0), fun _ _ => 0x00000000,
   [⟨0, 16, .st, false, false⟩, ⟨28, 1, .st, false, false⟩, ⟨16, 12, .st, false, false⟩, ⟨29, 1, .st, false, false⟩,
    ⟨30, 1, .st, false, false⟩, ⟨31, 1, .st, false, false⟩]⟩
def SWC_RULE1_ETYPE : RegFld := ⟨SWC_RULE1, 0, 16⟩
def SWC_RULE1_ETEN : RegFld := ⟨SWC_RULE1, 28, 1⟩
def SWC_RULE1_VID : RegFld := ⟨SWC_RULE1, 16, 12⟩
def SWC_RULE1_VIDEN : RegFld := ⟨SWC_RULE1, 29, 1⟩
def SWC_RULE1_PROTEN : RegFld := ⟨SWC_RULE1, 30, 1⟩
def SWC_RULE1_L4EN : RegFld := ⟨SWC_RULE1, 31, 1⟩
/-- 09_switch: Rules: SWC offset 0x0_1000 + 16 × r, r = 0 to 63, commit domain station cycle (instance 0), block
reset. -/
def SWC_RULE2 : Reg :=
  ⟨0x40301008, 64, 0x10, 1, 0x0, .block, some (0, 0), fun _ _ => 0x00000000,
   [⟨0, 16, .st, false, false⟩, ⟨16, 8, .st, false, false⟩, ⟨24, 1, .st, false, false⟩]⟩
def SWC_RULE2_L4PORT : RegFld := ⟨SWC_RULE2, 0, 16⟩
def SWC_RULE2_PROTO : RegFld := ⟨SWC_RULE2, 16, 8⟩
def SWC_RULE2_DAMC : RegFld := ⟨SWC_RULE2, 24, 1⟩
/-- 09_switch: Rules: SWC offset 0x0_1000 + 16 × r, r = 0 to 63, commit domain station cycle (instance 0), block
reset. -/
def SWC_RULE3 : Reg :=
  ⟨0x4030100C, 64, 0x10, 1, 0x0, .block, some (0, 0), fun _ _ => 0x00000000,
   [⟨0, 32, .st, false, false⟩]⟩
def SWC_RULE3_ACT : RegFld := ⟨SWC_RULE3, 0, 32⟩
/-- 09_switch: Stream gates: SWC offset 0x0_2000 + 64 × g + 4 × e, g = 0 to 31, e = 0 to 15, commit domain station
cycle (instance 0), block reset. -/
def SWC_SGATE : Reg :=
  ⟨0x40302000, 32, 0x40, 16, 0x4, .block, some (0, 0), fun _ _ => 0x00000001,
   [⟨0, 1, .st, false, false⟩, ⟨8, 24, .st, false, false⟩]⟩
def SWC_SGATE_OPEN : RegFld := ⟨SWC_SGATE, 0, 1⟩
def SWC_SGATE_INTERVAL : RegFld := ⟨SWC_SGATE, 8, 24⟩
/-- 09_switch: Flow meters: SWC offset 0x0_4000 + 16 × m, m = 0 to 511, block reset. -/
def SWC_METER0 : Reg :=
  ⟨0x40304000, 512, 0x10, 1, 0x0, .block, none, fun _ _ => 0x00000000,
   [⟨0, 24, .rw, false, false⟩]⟩
def SWC_METER0_CIR : RegFld := ⟨SWC_METER0, 0, 24⟩
/-- 09_switch: Flow meters: SWC offset 0x0_4000 + 16 × m, m = 0 to 511, block reset. -/
def SWC_METER1 : Reg :=
  ⟨0x40304004, 512, 0x10, 1, 0x0, .block, none, fun _ _ => 0x00000000,
   [⟨0, 24, .rw, false, false⟩]⟩
def SWC_METER1_CBS : RegFld := ⟨SWC_METER1, 0, 24⟩
/-- 09_switch: Flow meters: SWC offset 0x0_4000 + 16 × m, m = 0 to 511, block reset. -/
def SWC_METER2 : Reg :=
  ⟨0x40304008, 512, 0x10, 1, 0x0, .block, none, fun _ _ => 0x00000000,
   [⟨0, 24, .rw, false, false⟩]⟩
def SWC_METER2_EIR : RegFld := ⟨SWC_METER2, 0, 24⟩
/-- 09_switch: Flow meters: SWC offset 0x0_4000 + 16 × m, m = 0 to 511, block reset. -/
def SWC_METER3 : Reg :=
  ⟨0x4030400C, 512, 0x10, 1, 0x0, .block, none, fun _ _ => 0x00000000,
   [⟨0, 24, .rw, false, false⟩, ⟨24, 1, .rw, false, false⟩, ⟨25, 1, .rw, false, false⟩]⟩
def SWC_METER3_EBS : RegFld := ⟨SWC_METER3, 0, 24⟩
def SWC_METER3_CF : RegFld := ⟨SWC_METER3, 24, 1⟩
def SWC_METER3_DROPYEL : RegFld := ⟨SWC_METER3, 25, 1⟩
/-- 09_switch: Redundancy functions and pairs: block reset. -/
def SWC_SGEN : Reg :=
  ⟨0x40306000, 256, 0x4, 1, 0x0, .block, none, fun _ _ => 0x00000000,
   [⟨0, 16, .rw, false, false⟩]⟩
def SWC_SGEN_NEXT : RegFld := ⟨SWC_SGEN, 0, 16⟩
/-- 09_switch: Redundancy functions and pairs: block reset. -/
def SWC_SREC_CFG : Reg :=
  ⟨0x40307000, 256, 0x10, 1, 0x0, .block, none, fun _ _ => 0x00640008,
   [⟨0, 1, .rw, false, false⟩, ⟨1, 1, .rw, false, false⟩, ⟨2, 6, .rw, false, false⟩, ⟨8, 1, .rw, false, false⟩, ⟨16,
    16, .rw, false, false⟩]⟩
def SWC_SREC_CFG_EN : RegFld := ⟨SWC_SREC_CFG, 0, 1⟩
def SWC_SREC_CFG_ALG : RegFld := ⟨SWC_SREC_CFG, 1, 1⟩
def SWC_SREC_CFG_HIST : RegFld := ⟨SWC_SREC_CFG, 2, 6⟩
def SWC_SREC_CFG_TAKENOSEQ : RegFld := ⟨SWC_SREC_CFG, 8, 1⟩
def SWC_SREC_CFG_RESETMS : RegFld := ⟨SWC_SREC_CFG, 16, 16⟩
/-- 09_switch: Redundancy functions and pairs: block reset. -/
def SWC_SREC_PASS : Reg :=
  ⟨0x40307004, 256, 0x10, 1, 0x0, .block, none, fun _ _ => 0x00000000,
   [⟨0, 32, .rw, false, false⟩]⟩
/-- 09_switch: Redundancy functions and pairs: block reset. -/
def SWC_SREC_DISC : Reg :=
  ⟨0x40307008, 256, 0x10, 1, 0x0, .block, none, fun _ _ => 0x00000000,
   [⟨0, 32, .rw, false, false⟩]⟩
/-- 09_switch: Redundancy functions and pairs: block reset. -/
def SWC_SREC_ERR : Reg :=
  ⟨0x4030700C, 256, 0x10, 1, 0x0, .block, none, fun _ _ => 0x00000000,
   [⟨0, 16, .rw, false, false⟩, ⟨16, 16, .rw, false, false⟩]⟩
def SWC_SREC_ERR_LOST : RegFld := ⟨SWC_SREC_ERR, 0, 16⟩
def SWC_SREC_ERR_ROGUE : RegFld := ⟨SWC_SREC_ERR, 16, 16⟩
/-- 09_switch: Redundancy functions and pairs: block reset. -/
def SWC_RED_CFG : Reg :=
  ⟨0x40308000, 4, 0x10, 1, 0x0, .block, none, fun _ _ => 0x00000000,
   [⟨0, 5, .rw, false, false⟩, ⟨8, 5, .rw, false, false⟩, ⟨16, 2, .rw, false, false⟩, ⟨18, 3, .rw, false, false⟩]⟩
def SWC_RED_CFG_LANEA : RegFld := ⟨SWC_RED_CFG, 0, 5⟩
def SWC_RED_CFG_LANEB : RegFld := ⟨SWC_RED_CFG, 8, 5⟩
def SWC_RED_CFG_MODE : RegFld := ⟨SWC_RED_CFG, 16, 2⟩
def SWC_RED_CFG_NETID : RegFld := ⟨SWC_RED_CFG, 18, 3⟩
/-- 09_switch: Redundancy functions and pairs: block reset. -/
def SWC_RED_TIME : Reg :=
  ⟨0x40308004, 4, 0x10, 1, 0x0, .block, none, fun _ _ => 0x00000190,
   [⟨0, 16, .rw, false, false⟩]⟩
def SWC_RED_TIME_ENTRYMS : RegFld := ⟨SWC_RED_TIME, 0, 16⟩
/-- 09_switch: Redundancy functions and pairs: block reset. -/
def SWC_RED_DUP : Reg :=
  ⟨0x40308008, 4, 0x10, 1, 0x0, .block, none, fun _ _ => 0x00000000,
   [⟨0, 32, .rw, false, false⟩]⟩
/-- 09_switch: Redundancy functions and pairs: block reset. -/
def SWC_RED_TX : Reg :=
  ⟨0x4030800C, 4, 0x10, 1, 0x0, .block, none, fun _ _ => 0x00000000,
   [⟨0, 16, .rw, false, false⟩]⟩
def SWC_RED_TX_SEQ : RegFld := ⟨SWC_RED_TX, 0, 16⟩
/-- 09_switch: VLAN table: SWC offset 0x1_0000 + 8 × v, v = 0 to 4,095, block reset. -/
def SWC_VLAN0 : Reg :=
  ⟨0x40310000, 4096, 0x8, 1, 0x0, .block, none, vlan0Reset,
   [⟨0, 28, .rw, false, false⟩, ⟨31, 1, .rw, false, false⟩]⟩
def SWC_VLAN0_MEMBER : RegFld := ⟨SWC_VLAN0, 0, 28⟩
def SWC_VLAN0_VALID : RegFld := ⟨SWC_VLAN0, 31, 1⟩
/-- 09_switch: VLAN table: SWC offset 0x1_0000 + 8 × v, v = 0 to 4,095, block reset. -/
def SWC_VLAN1 : Reg :=
  ⟨0x40310004, 4096, 0x8, 1, 0x0, .block, none, vlan1Reset,
   [⟨0, 24, .rw, false, false⟩, ⟨24, 1, .rw, false, false⟩]⟩
def SWC_VLAN1_UNTAG : RegFld := ⟨SWC_VLAN1, 0, 24⟩
def SWC_VLAN1_NOLEARN : RegFld := ⟨SWC_VLAN1, 24, 1⟩
/-- 09_switch: Table 9-8. -/
def SWC_PCFG : Reg :=
  ⟨0x40320000, 24, 0x1000, 1, 0x0, .block, some (1, 1), fun _ _ => 0x00118001,
   [⟨0, 12, .st, false, false⟩, ⟨12, 3, .st, false, false⟩, ⟨15, 1, .st, false, false⟩, ⟨16, 1, .st, false, false⟩,
    ⟨17, 1, .st, false, false⟩, ⟨18, 1, .st, false, false⟩, ⟨19, 1, .st, false, false⟩, ⟨20, 1, .st, false, false⟩,
    ⟨21, 8, .st, false, false⟩]⟩
def SWC_PCFG_PVID : RegFld := ⟨SWC_PCFG, 0, 12⟩
def SWC_PCFG_DEFPCP : RegFld := ⟨SWC_PCFG, 12, 3⟩
def SWC_PCFG_INGFILT : RegFld := ⟨SWC_PCFG, 15, 1⟩
def SWC_PCFG_LEARN : RegFld := ⟨SWC_PCFG, 16, 1⟩
def SWC_PCFG_STAG : RegFld := ⟨SWC_PCFG, 17, 1⟩
def SWC_PCFG_CT : RegFld := ⟨SWC_PCFG, 18, 1⟩
def SWC_PCFG_RTAG : RegFld := ⟨SWC_PCFG, 19, 1⟩
def SWC_PCFG_FLOOD : RegFld := ⟨SWC_PCFG, 20, 1⟩
def SWC_PCFG_CBSEN : RegFld := ⟨SWC_PCFG, 21, 8⟩
/-- 09_switch: Table 9-8. -/
def SWC_PREEMPT : Reg :=
  ⟨0x40320008, 24, 0x1000, 1, 0x0, .block, some (1, 1), fun _ _ => 0x00000000,
   [⟨0, 8, .st, false, false⟩]⟩
def SWC_PREEMPT_PMASK : RegFld := ⟨SWC_PREEMPT, 0, 8⟩
/-- 09_switch: Table 9-8. -/
def SWC_CBS : Reg :=
  ⟨0x40320010, 24, 0x1000, 8, 0x4, .block, some (1, 1), fun _ _ => 0x00000000,
   [⟨0, 28, .st, false, false⟩]⟩
def SWC_CBS_IDLE : RegFld := ⟨SWC_CBS, 0, 28⟩
/-- 09_switch: Table 9-8. -/
def SWC_GCLCTL : Reg :=
  ⟨0x40320040, 24, 0x1000, 1, 0x0, .block, some (1, 1), fun _ _ => 0x00000000,
   [⟨0, 1, .st, false, false⟩]⟩
def SWC_GCLCTL_EN : RegFld := ⟨SWC_GCLCTL, 0, 1⟩
/-- 09_switch: Table 9-8. -/
def SWC_GCLCYC : Reg :=
  ⟨0x40320044, 24, 0x1000, 1, 0x0, .block, some (1, 1), fun _ _ => 0x000F4240,
   [⟨0, 30, .st, false, false⟩]⟩
def SWC_GCLCYC_CYCLE : RegFld := ⟨SWC_GCLCYC, 0, 30⟩
/-- 09_switch: Table 9-8. -/
def SWC_QLIMIT : Reg :=
  ⟨0x40320060, 24, 0x1000, 8, 0x4, .block, some (1, 1), fun _ _ => 0x00080300,
   [⟨0, 16, .st, false, false⟩, ⟨16, 12, .st, false, false⟩]⟩
def SWC_QLIMIT_LIMIT : RegFld := ⟨SWC_QLIMIT, 0, 16⟩
def SWC_QLIMIT_MIN : RegFld := ⟨SWC_QLIMIT, 16, 12⟩
/-- 09_switch: Table 9-8. -/
def SWC_GCLE : Reg :=
  ⟨0x40320400, 24, 0x1000, 256, 0x4, .block, some (1, 1), fun _ _ => 0x000000FF,
   [⟨0, 8, .st, false, false⟩, ⟨8, 24, .st, false, false⟩]⟩
def SWC_GCLE_GATES : RegFld := ⟨SWC_GCLE, 0, 8⟩
def SWC_GCLE_INTERVAL : RegFld := ⟨SWC_GCLE, 8, 24⟩
/-- 09_switch: Table 9-8: class for PCP c, reset 0x00FA_C688. -/
def SWC_TCMAP : Reg :=
  ⟨0x40320004, 24, 0x1000, 1, 0x0, .block, some (1, 1), fun _ _ => 0x00FAC688,
   [⟨0, 3, .st, false, false⟩, ⟨3, 3, .st, false, false⟩, ⟨6, 3, .st, false, false⟩, ⟨9, 3, .st, false, false⟩, ⟨12,
    3, .st, false, false⟩, ⟨15, 3, .st, false, false⟩, ⟨18, 3, .st, false, false⟩, ⟨21, 3, .st, false, false⟩]⟩
def SWC_TCMAP_TC0 : RegFld := ⟨SWC_TCMAP, 0, 3⟩
def SWC_TCMAP_TC1 : RegFld := ⟨SWC_TCMAP, 3, 3⟩
def SWC_TCMAP_TC2 : RegFld := ⟨SWC_TCMAP, 6, 3⟩
def SWC_TCMAP_TC3 : RegFld := ⟨SWC_TCMAP, 9, 3⟩
def SWC_TCMAP_TC4 : RegFld := ⟨SWC_TCMAP, 12, 3⟩
def SWC_TCMAP_TC5 : RegFld := ⟨SWC_TCMAP, 15, 3⟩
def SWC_TCMAP_TC6 : RegFld := ⟨SWC_TCMAP, 18, 3⟩
def SWC_TCMAP_TC7 : RegFld := ⟨SWC_TCMAP, 21, 3⟩
/-- 09_switch: Table 9-8: base time. -/
def SWC_GCLBASE_LO : Reg :=
  ⟨0x40320048, 24, 0x1000, 1, 0x0, .block, some (1, 1), fun _ _ => 0x00000000,
   [⟨0, 32, .st, false, false⟩]⟩
def SWC_GCLBASE_LO_BASE : RegFld := ⟨SWC_GCLBASE_LO, 0, 32⟩
/-- 09_switch: Table 9-8: base time. -/
def SWC_GCLBASE_HI : Reg :=
  ⟨0x4032004C, 24, 0x1000, 1, 0x0, .block, some (1, 1), fun _ _ => 0x00000000,
   [⟨0, 32, .st, false, false⟩]⟩
def SWC_GCLBASE_HI_BASE : RegFld := ⟨SWC_GCLBASE_HI, 0, 32⟩
/-- 09_switch: Table 9-9. -/
def SWC_PSTAT : Reg :=
  ⟨0x40340000, 28, 0x1000, 1, 0x0, .block, none, fun _ _ => 0x000000FF,
   [⟨0, 8, .ro, false, false⟩, ⟨8, 1, .ro, false, false⟩, ⟨9, 1, .ro, false, false⟩]⟩
def SWC_PSTAT_GATES : RegFld := ⟨SWC_PSTAT, 0, 8⟩
def SWC_PSTAT_HELD : RegFld := ⟨SWC_PSTAT, 8, 1⟩
def SWC_PSTAT_CTACT : RegFld := ⟨SWC_PSTAT, 9, 1⟩
/-- 09_switch: Table 9-9. -/
def SWC_QLEVEL : Reg :=
  ⟨0x40340010, 28, 0x1000, 16, 0x4, .block, none, fun _ _ => 0x00000000,
   [⟨0, 16, .ro, false, false⟩, ⟨16, 16, .rw, false, false⟩]⟩
def SWC_QLEVEL_CELLS : RegFld := ⟨SWC_QLEVEL, 0, 16⟩
def SWC_QLEVEL_HIGH : RegFld := ⟨SWC_QLEVEL, 16, 16⟩
/-- 09_switch: Table 9-9. -/
def SWC_CBSCRED : Reg :=
  ⟨0x40340080, 28, 0x1000, 8, 0x4, .block, none, fun _ _ => 0x00000000,
   [⟨0, 32, .ro, false, false⟩]⟩
def SWC_CBSCRED_CREDIT : RegFld := ⟨SWC_CBSCRED, 0, 32⟩
/-- 09_switch: Table 9-9. -/
def SWC_DROP : Reg :=
  ⟨0x40340100, 28, 0x1000, 16, 0x4, .block, none, fun _ _ => 0x00000000,
   [⟨0, 32, .rw, false, false⟩]⟩
/-- 09_switch: Table 9-9. -/
def SWC_GCLCUT : Reg :=
  ⟨0x40340180, 28, 0x1000, 1, 0x0, .block, none, fun _ _ => 0x00000000,
   [⟨0, 32, .rw, false, false⟩]⟩
/-- 09_switch: Table 9-9. -/
def SWC_CTCNT : Reg :=
  ⟨0x40340184, 28, 0x1000, 1, 0x0, .block, none, fun _ _ => 0x00000000,
   [⟨0, 32, .rw, false, false⟩]⟩
/-- Registers of block SWC, part 0. -/
def regsSwc0 : List Reg :=
  [SWC_CTL, SWC_BUFCFG, SWC_BUFSTAT, SWC_FDBCMD, SWC_FDBDATA0, SWC_FDBDATA1, SWC_FDBDATA2, SWC_MIRROR, SWC_MIRSRC,
    SWC_DROPEV, SWC_FORCTL, SWC_FORBASE, SWC_FORIDX, SWC_FORLOST, SWC_FORSAMP, SWC_SVTRBASE_LO, SWC_SVTRBASE_HI,
    SWC_SVTRSIZE, SWC_SVTRIDX, SWC_SVRRBASE_LO, SWC_SVRRBASE_HI, SWC_SVRRSIZE, SWC_SVRRIDX, SWC_HQLIMIT, SWC_SVQLIMIT,
    SWC_RULE0, SWC_RULE1, SWC_RULE2, SWC_RULE3, SWC_SGATE, SWC_METER0, SWC_METER1, SWC_METER2, SWC_METER3, SWC_SGEN,
    SWC_SREC_CFG, SWC_SREC_PASS, SWC_SREC_DISC, SWC_SREC_ERR, SWC_RED_CFG]
/-- Registers of block SWC, part 1. -/
def regsSwc1 : List Reg :=
  [SWC_RED_TIME, SWC_RED_DUP, SWC_RED_TX, SWC_VLAN0, SWC_VLAN1, SWC_PCFG, SWC_PREEMPT, SWC_CBS, SWC_GCLCTL,
    SWC_GCLCYC, SWC_QLIMIT, SWC_GCLE, SWC_TCMAP, SWC_GCLBASE_LO, SWC_GCLBASE_HI, SWC_PSTAT, SWC_QLEVEL, SWC_CBSCRED,
    SWC_DROP, SWC_GCLCUT, SWC_CTCNT]
/-- The registers of block SWC. -/
def regsSwc : List Reg :=
  regsSwc0 ++ regsSwc1

/-- 10_time: Table 10-10. -/
def TIME_CTL : Reg :=
  ⟨0x40400000, 1, 0x0, 1, 0x0, .block, none, fun _ _ => 0x27100A08,
   [⟨0, 2, .rw, false, false⟩, ⟨2, 1, .rw, false, false⟩, ⟨3, 1, .rw, false, false⟩, ⟨8, 8, .rw, false, false⟩, ⟨16,
    16, .rw, false, false⟩]⟩
def TIME_CTL_SEL : RegFld := ⟨TIME_CTL, 0, 2⟩
def TIME_CTL_PRI : RegFld := ⟨TIME_CTL, 2, 1⟩
def TIME_CTL_STEPOK : RegFld := ⟨TIME_CTL, 3, 1⟩
def TIME_CTL_REVERTS : RegFld := ⟨TIME_CTL, 8, 8⟩
def TIME_CTL_SLEW : RegFld := ⟨TIME_CTL, 16, 16⟩
/-- 10_time: Table 10-10. -/
def TIME_STAT : Reg :=
  ⟨0x40400004, 1, 0x0, 1, 0x0, .block, none, fun _ _ => 0x00000000,
   [⟨0, 2, .ro, false, false⟩, ⟨2, 1, .ro, false, false⟩, ⟨3, 1, .ro, false, false⟩, ⟨4, 1, .ro, false, false⟩, ⟨5, 1,
    .w1c, false, false⟩, ⟨6, 1, .w1c, false, false⟩]⟩
def TIME_STAT_STATE : RegFld := ⟨TIME_STAT, 0, 2⟩
def TIME_STAT_SYNC : RegFld := ⟨TIME_STAT, 2, 1⟩
def TIME_STAT_ACTIVE : RegFld := ⟨TIME_STAT, 3, 1⟩
def TIME_STAT_CLKFAIL : RegFld := ⟨TIME_STAT, 4, 1⟩
def TIME_STAT_RTCLOAD : RegFld := ⟨TIME_STAT, 5, 1⟩
def TIME_STAT_STEPPED : RegFld := ⟨TIME_STAT, 6, 1⟩
/-- 10_time: Table 10-10. -/
def TIME_STEPTHR : Reg :=
  ⟨0x40400008, 1, 0x0, 1, 0x0, .block, none, fun _ _ => 0x00002710,
   [⟨0, 32, .rw, false, false⟩]⟩
def TIME_STEPTHR_THR : RegFld := ⟨TIME_STEPTHR, 0, 32⟩
/-- 10_time: Table 10-10. -/
def TIME_NOW_LO : Reg :=
  ⟨0x40400010, 1, 0x0, 1, 0x0, .block, none, fun _ _ => 0x00000000,
   [⟨0, 32, .ro, false, false⟩]⟩
def TIME_NOW_LO_NS : RegFld := ⟨TIME_NOW_LO, 0, 32⟩
/-- 10_time: Table 10-10. -/
def TIME_NOW_HI : Reg :=
  ⟨0x40400014, 1, 0x0, 1, 0x0, .block, none, fun _ _ => 0x00000000,
   [⟨0, 32, .ro, false, false⟩]⟩
def TIME_NOW_HI_NS : RegFld := ⟨TIME_NOW_HI, 0, 32⟩
/-- 10_time: Table 10-10. -/
def TIME_NOW_FRAC : Reg :=
  ⟨0x40400018, 1, 0x0, 1, 0x0, .block, none, fun _ _ => 0x00000000,
   [⟨0, 5, .ro, false, false⟩]⟩
def TIME_NOW_FRAC_FRAC : RegFld := ⟨TIME_NOW_FRAC, 0, 5⟩
/-- 10_time: Table 10-10. -/
def TIME_SET_LO : Reg :=
  ⟨0x40400020, 1, 0x0, 1, 0x0, .block, none, fun _ _ => 0x00000000,
   [⟨0, 32, .rw, false, false⟩]⟩
def TIME_SET_LO_NS : RegFld := ⟨TIME_SET_LO, 0, 32⟩
/-- 10_time: Table 10-10. -/
def TIME_SET_HI : Reg :=
  ⟨0x40400024, 1, 0x0, 1, 0x0, .block, none, fun _ _ => 0x00000000,
   [⟨0, 32, .rw, false, false⟩]⟩
def TIME_SET_HI_NS : RegFld := ⟨TIME_SET_HI, 0, 32⟩
/-- 10_time: Table 10-10. -/
def TIME_SETCMD : Reg :=
  ⟨0x40400028, 1, 0x0, 1, 0x0, .block, none, fun _ _ => 0x00000000,
   [⟨0, 1, .wo, false, false⟩]⟩
def TIME_SETCMD_GO : RegFld := ⟨TIME_SETCMD, 0, 1⟩
/-- 10_time: Table 10-10. -/
def TIME_RATE : Reg :=
  ⟨0x40400030, 1, 0x0, 1, 0x0, .block, none, fun _ _ => 0x00000000,
   [⟨0, 32, .rw, false, false⟩]⟩
def TIME_RATE_RATE : RegFld := ⟨TIME_RATE, 0, 32⟩
/-- 10_time: Table 10-10. -/
def TIME_HOLD : Reg :=
  ⟨0x40400034, 1, 0x0, 1, 0x0, .block, none, fun _ _ => 0x000000C8,
   [⟨0, 16, .rw, false, false⟩]⟩
def TIME_HOLD_HRATE : RegFld := ⟨TIME_HOLD, 0, 16⟩
/-- 10_time: Table 10-10. -/
def TIME_HOLDLIM : Reg :=
  ⟨0x40400038, 1, 0x0, 1, 0x0, .block, none, fun _ _ => 0x000003E8,
   [⟨0, 32, .rw, false, false⟩]⟩
def TIME_HOLDLIM_LIM : RegFld := ⟨TIME_HOLDLIM, 0, 32⟩
/-- 10_time: Table 10-10. -/
def TIME_HOLDEST : Reg :=
  ⟨0x4040003C, 1, 0x0, 1, 0x0, .block, none, fun _ _ => 0x00000000,
   [⟨0, 32, .ro, false, false⟩]⟩
def TIME_HOLDEST_EST : RegFld := ⟨TIME_HOLDEST, 0, 32⟩
/-- 10_time: Table 10-11. -/
def TIME_CALCTL : Reg :=
  ⟨0x40400040, 1, 0x0, 1, 0x0, .block, none, fun _ _ => 0x00002710,
   [⟨0, 20, .rw, false, false⟩]⟩
def TIME_CALCTL_AGEMS : RegFld := ⟨TIME_CALCTL, 0, 20⟩
/-- 10_time: Table 10-11. -/
def TIME_CALAGED : Reg :=
  ⟨0x40400044, 1, 0x0, 1, 0x0, .block, none, fun _ _ => 0x00000000,
   [⟨0, 24, .w1c, false, false⟩]⟩
def TIME_CALAGED_LANE : RegFld := ⟨TIME_CALAGED, 0, 24⟩
/-- 10_time: Table 10-12. -/
def DC_CFG : Reg :=
  ⟨0x40400100, 2, 0x40, 1, 0x0, .block, none, fun _ _ => 0x00008000,
   [⟨0, 8, .rw, false, false⟩, ⟨8, 4, .rw, false, false⟩, ⟨12, 1, .rw, false, false⟩, ⟨13, 1, .rw, false, false⟩, ⟨14,
    1, .rw, false, false⟩, ⟨15, 1, .rw, false, false⟩]⟩
def DC_CFG_DOMAIN : RegFld := ⟨DC_CFG, 0, 8⟩
def DC_CFG_SDOID : RegFld := ⟨DC_CFG, 8, 4⟩
def DC_CFG_EN : RegFld := ⟨DC_CFG, 12, 1⟩
def DC_CFG_VALID : RegFld := ⟨DC_CFG, 13, 1⟩
def DC_CFG_SRC : RegFld := ⟨DC_CFG, 14, 1⟩
def DC_CFG_RRCOR : RegFld := ⟨DC_CFG, 15, 1⟩
/-- 10_time: Table 10-12. -/
def DC_RATE : Reg :=
  ⟨0x40400104, 2, 0x40, 1, 0x0, .block, none, fun _ _ => 0x00000000,
   [⟨0, 32, .rw, false, false⟩]⟩
def DC_RATE_RATE : RegFld := ⟨DC_RATE, 0, 32⟩
/-- 10_time: Table 10-12. -/
def DC_ADJ : Reg :=
  ⟨0x40400108, 2, 0x40, 1, 0x0, .block, none, fun _ _ => 0x00000000,
   [⟨0, 32, .rw, false, false⟩]⟩
def DC_ADJ_NS : RegFld := ⟨DC_ADJ, 0, 32⟩
/-- 10_time: Table 10-12. -/
def DC_ADJCTL : Reg :=
  ⟨0x4040010C, 2, 0x40, 1, 0x0, .block, none, fun _ _ => 0x00000000,
   [⟨0, 1, .wo, false, false⟩, ⟨1, 1, .rw, false, false⟩, ⟨2, 1, .ro, false, false⟩]⟩
def DC_ADJCTL_GO : RegFld := ⟨DC_ADJCTL, 0, 1⟩
def DC_ADJCTL_STEP : RegFld := ⟨DC_ADJCTL, 1, 1⟩
def DC_ADJCTL_BUSY : RegFld := ⟨DC_ADJCTL, 2, 1⟩
/-- 10_time: Table 10-12. -/
def DC_DIFF : Reg :=
  ⟨0x4040011C, 2, 0x40, 1, 0x0, .block, none, fun _ _ => 0x00000000,
   [⟨0, 32, .ro, false, false⟩]⟩
def DC_DIFF_DIFF : RegFld := ⟨DC_DIFF, 0, 32⟩
/-- 10_time: Table 10-12: as TIME_NOW_LO to TIME_NOW_FRAC, for DCk. -/
def DC_NOW_LO : Reg :=
  ⟨0x40400110, 2, 0x40, 1, 0x0, .block, none, fun _ _ => 0x00000000,
   [⟨0, 32, .ro, false, false⟩]⟩
def DC_NOW_LO_NS : RegFld := ⟨DC_NOW_LO, 0, 32⟩
/-- 10_time: Table 10-12: as TIME_NOW_LO to TIME_NOW_FRAC, for DCk. -/
def DC_NOW_HI : Reg :=
  ⟨0x40400114, 2, 0x40, 1, 0x0, .block, none, fun _ _ => 0x00000000,
   [⟨0, 32, .ro, false, false⟩]⟩
def DC_NOW_HI_NS : RegFld := ⟨DC_NOW_HI, 0, 32⟩
/-- 10_time: Table 10-12: as TIME_NOW_LO to TIME_NOW_FRAC, for DCk. -/
def DC_NOW_FRAC : Reg :=
  ⟨0x40400118, 2, 0x40, 1, 0x0, .block, none, fun _ _ => 0x00000000,
   [⟨0, 5, .ro, false, false⟩]⟩
def DC_NOW_FRAC_FRAC : RegFld := ⟨DC_NOW_FRAC, 0, 5⟩
/-- 10_time: Table 10-13. -/
def TIME_PPSO_CFG : Reg :=
  ⟨0x40400200, 1, 0x0, 1, 0x0, .block, none, fun _ _ => 0x00000008,
   [⟨0, 1, .rw, false, false⟩, ⟨1, 2, .rw, false, false⟩, ⟨3, 1, .rw, false, false⟩]⟩
def TIME_PPSO_CFG_EN : RegFld := ⟨TIME_PPSO_CFG, 0, 1⟩
def TIME_PPSO_CFG_SRC : RegFld := ⟨TIME_PPSO_CFG, 1, 2⟩
def TIME_PPSO_CFG_SYNCGATE : RegFld := ⟨TIME_PPSO_CFG, 3, 1⟩
/-- 10_time: Table 10-13. -/
def TIME_PPSO_PER : Reg :=
  ⟨0x40400204, 1, 0x0, 1, 0x0, .block, none, fun _ _ => 0x3B9ACA00,
   [⟨0, 30, .rw, false, false⟩]⟩
def TIME_PPSO_PER_PER : RegFld := ⟨TIME_PPSO_PER, 0, 30⟩
/-- 10_time: Table 10-13. -/
def TIME_PPSO_OFS : Reg :=
  ⟨0x40400208, 1, 0x0, 1, 0x0, .block, none, fun _ _ => 0x00000000,
   [⟨0, 32, .rw, false, false⟩]⟩
def TIME_PPSO_OFS_OFS : RegFld := ⟨TIME_PPSO_OFS, 0, 32⟩
/-- 10_time: Table 10-13. -/
def TIME_PPSO_WID : Reg :=
  ⟨0x4040020C, 1, 0x0, 1, 0x0, .block, none, fun _ _ => 0x05F5E100,
   [⟨0, 30, .rw, false, false⟩]⟩
def TIME_PPSO_WID_WID : RegFld := ⟨TIME_PPSO_WID, 0, 30⟩
/-- 10_time: Table 10-13. -/
def TIME_PPSI_LO : Reg :=
  ⟨0x40400210, 1, 0x0, 1, 0x0, .block, none, fun _ _ => 0x00000000,
   [⟨0, 32, .ro, false, false⟩]⟩
def TIME_PPSI_LO_NS : RegFld := ⟨TIME_PPSI_LO, 0, 32⟩
/-- 10_time: Table 10-13. -/
def TIME_PPSI_HI : Reg :=
  ⟨0x40400214, 1, 0x0, 1, 0x0, .block, none, fun _ _ => 0x00000000,
   [⟨0, 32, .ro, false, false⟩]⟩
def TIME_PPSI_HI_NS : RegFld := ⟨TIME_PPSI_HI, 0, 32⟩
/-- 10_time: Table 10-13. -/
def TIME_PPSI_FRAC : Reg :=
  ⟨0x40400218, 1, 0x0, 1, 0x0, .block, none, fun _ _ => 0x00000000,
   [⟨0, 5, .ro, false, false⟩, ⟨30, 1, .ro, false, false⟩, ⟨31, 1, .ro, false, false⟩]⟩
def TIME_PPSI_FRAC_FRAC : RegFld := ⟨TIME_PPSI_FRAC, 0, 5⟩
def TIME_PPSI_FRAC_OVR : RegFld := ⟨TIME_PPSI_FRAC, 30, 1⟩
def TIME_PPSI_FRAC_NEW : RegFld := ⟨TIME_PPSI_FRAC, 31, 1⟩
/-- 10_time: Table 10-13. -/
def TIME_PPSI_CFG : Reg :=
  ⟨0x4040021C, 1, 0x0, 1, 0x0, .block, none, fun _ _ => 0x00000000,
   [⟨0, 1, .rw, false, false⟩, ⟨1, 1, .rw, false, false⟩, ⟨2, 2, .rw, false, false⟩]⟩
def TIME_PPSI_CFG_EN : RegFld := ⟨TIME_PPSI_CFG, 0, 1⟩
def TIME_PPSI_CFG_EDGE : RegFld := ⟨TIME_PPSI_CFG, 1, 1⟩
def TIME_PPSI_CFG_SRC : RegFld := ⟨TIME_PPSI_CFG, 2, 2⟩
/-- 10_time: Table 10-13. -/
def TIME_EV_CFG : Reg :=
  ⟨0x40400240, 2, 0x20, 1, 0x0, .block, none, fun _ _ => 0x00000000,
   [⟨0, 2, .rw, false, false⟩, ⟨2, 2, .rw, false, false⟩]⟩
def TIME_EV_CFG_EDGE : RegFld := ⟨TIME_EV_CFG, 0, 2⟩
def TIME_EV_CFG_SRC : RegFld := ⟨TIME_EV_CFG, 2, 2⟩
/-- 10_time: Table 10-13. -/
def TIME_EV_LO : Reg :=
  ⟨0x40400244, 2, 0x20, 1, 0x0, .block, none, fun _ _ => 0x00000000,
   [⟨0, 32, .ro, false, false⟩]⟩
def TIME_EV_LO_NS : RegFld := ⟨TIME_EV_LO, 0, 32⟩
/-- 10_time: Table 10-13. -/
def TIME_EV_HI : Reg :=
  ⟨0x40400248, 2, 0x20, 1, 0x0, .block, none, fun _ _ => 0x00000000,
   [⟨0, 32, .ro, false, false⟩]⟩
def TIME_EV_HI_NS : RegFld := ⟨TIME_EV_HI, 0, 32⟩
/-- 10_time: Table 10-13. -/
def TIME_EV_FRAC : Reg :=
  ⟨0x4040024C, 2, 0x20, 1, 0x0, .block, none, fun _ _ => 0x00000000,
   [⟨0, 5, .ro, false, false⟩, ⟨8, 1, .ro, false, false⟩, ⟨31, 1, .ro, false, false⟩]⟩
def TIME_EV_FRAC_FRAC : RegFld := ⟨TIME_EV_FRAC, 0, 5⟩
def TIME_EV_FRAC_RISE : RegFld := ⟨TIME_EV_FRAC, 8, 1⟩
def TIME_EV_FRAC_VALID : RegFld := ⟨TIME_EV_FRAC, 31, 1⟩
/-- 10_time: Table 10-13. -/
def TIME_EV_MISS : Reg :=
  ⟨0x40400250, 2, 0x20, 1, 0x0, .block, none, fun _ _ => 0x00000000,
   [⟨0, 32, .rw, false, false⟩]⟩
/-- 10_time: Table 10-14. -/
def TIME_TGT_LO : Reg :=
  ⟨0x40400300, 4, 0x8, 1, 0x0, .block, none, fun _ _ => 0x00000000,
   [⟨0, 32, .rw, false, false⟩]⟩
def TIME_TGT_LO_NS : RegFld := ⟨TIME_TGT_LO, 0, 32⟩
/-- 10_time: Table 10-14. -/
def TIME_TGT_HI : Reg :=
  ⟨0x40400304, 4, 0x8, 1, 0x0, .block, none, fun _ _ => 0x00000000,
   [⟨0, 32, .rw, false, false⟩]⟩
def TIME_TGT_HI_NS : RegFld := ⟨TIME_TGT_HI, 0, 32⟩
/-- 10_time: Table 10-14. -/
def TIME_TGTCTL : Reg :=
  ⟨0x40400320, 1, 0x0, 1, 0x0, .block, none, fun _ _ => 0x00000000,
   [⟨0, 4, .rw, false, false⟩, ⟨4, 4, .w1c, false, false⟩]⟩
def TIME_TGTCTL_EN : RegFld := ⟨TIME_TGTCTL, 0, 4⟩
def TIME_TGTCTL_HIT : RegFld := ⟨TIME_TGTCTL, 4, 4⟩
/-- 10_time: Table 10-15. -/
def TIME_RTC_LO : Reg :=
  ⟨0x40400400, 1, 0x0, 1, 0x0, .sill, none, fun _ _ => 0x00000000,
   [⟨0, 32, .ro, false, false⟩]⟩
def TIME_RTC_LO_NS : RegFld := ⟨TIME_RTC_LO, 0, 32⟩
/-- 10_time: Table 10-15. -/
def TIME_RTC_HI : Reg :=
  ⟨0x40400404, 1, 0x0, 1, 0x0, .sill, none, fun _ _ => 0x00000000,
   [⟨0, 32, .ro, false, false⟩]⟩
def TIME_RTC_HI_NS : RegFld := ⟨TIME_RTC_HI, 0, 32⟩
/-- 10_time: Table 10-15. -/
def TIME_RTCTRIM : Reg :=
  ⟨0x40400408, 1, 0x0, 1, 0x0, .sill, none, fun _ _ => 0x80000000,
   [⟨0, 24, .rw, false, false⟩, ⟨31, 1, .rw, false, false⟩]⟩
def TIME_RTCTRIM_TRIM : RegFld := ⟨TIME_RTCTRIM, 0, 24⟩
def TIME_RTCTRIM_AUTO : RegFld := ⟨TIME_RTCTRIM, 31, 1⟩
/-- 10_time: Table 10-16. -/
def TIME_LCFG : Reg :=
  ⟨0x40410000, 24, 0x100, 1, 0x0, .block, none, fun _ _ => 0x00000000,
   [⟨0, 1, .rw, false, false⟩, ⟨1, 1, .rw, false, false⟩, ⟨2, 1, .rw, false, false⟩, ⟨3, 1, .rw, false, false⟩]⟩
def TIME_LCFG_TSEN : RegFld := ⟨TIME_LCFG, 0, 1⟩
def TIME_LCFG_TC : RegFld := ⟨TIME_LCFG, 1, 1⟩
def TIME_LCFG_P2P : RegFld := ⟨TIME_LCFG, 2, 1⟩
def TIME_LCFG_ONESTEP : RegFld := ⟨TIME_LCFG, 3, 1⟩
/-- 10_time: Table 10-16. -/
def TIME_LINKDLY : Reg :=
  ⟨0x40410004, 24, 0x100, 1, 0x0, .block, none, fun _ _ => 0x00000000,
   [⟨0, 32, .rw, false, false⟩]⟩
def TIME_LINKDLY_DLY : RegFld := ⟨TIME_LINKDLY, 0, 32⟩
/-- 10_time: Table 10-16. -/
def TIME_ASYM : Reg :=
  ⟨0x40410008, 24, 0x100, 1, 0x0, .block, none, fun _ _ => 0x00000000,
   [⟨0, 32, .rw, false, false⟩]⟩
def TIME_ASYM_ASYM : RegFld := ⟨TIME_ASYM, 0, 32⟩
/-- 10_time: Table 10-16. -/
def TIME_EXTTX : Reg :=
  ⟨0x4041000C, 24, 0x100, 1, 0x0, .block, none, fun _ _ => 0x00000000,
   [⟨0, 32, .rw, false, false⟩]⟩
def TIME_EXTTX_PS : RegFld := ⟨TIME_EXTTX, 0, 32⟩
/-- 10_time: Table 10-16. -/
def TIME_EXTRX : Reg :=
  ⟨0x40410010, 24, 0x100, 1, 0x0, .block, none, fun _ _ => 0x00000000,
   [⟨0, 32, .rw, false, false⟩]⟩
def TIME_EXTRX_PS : RegFld := ⟨TIME_EXTRX, 0, 32⟩
/-- 10_time: Table 10-16. -/
def TIME_CALTX : Reg :=
  ⟨0x40410014, 24, 0x100, 1, 0x0, .block, none, fun _ _ => 0x00000000,
   [⟨0, 32, .ro, false, false⟩]⟩
def TIME_CALTX_PS : RegFld := ⟨TIME_CALTX, 0, 32⟩
/-- 10_time: Table 10-16. -/
def TIME_CALRX : Reg :=
  ⟨0x40410018, 24, 0x100, 1, 0x0, .block, none, fun _ _ => 0x00000000,
   [⟨0, 32, .ro, false, false⟩]⟩
def TIME_CALRX_PS : RegFld := ⟨TIME_CALRX, 0, 32⟩
/-- 10_time: Table 10-16. -/
def TIME_CALSTAT : Reg :=
  ⟨0x4041001C, 24, 0x100, 1, 0x0, .block, none, fun _ _ => 0xFFFFFF00,
   [⟨0, 2, .ro, false, false⟩, ⟨8, 24, .ro, false, false⟩]⟩
def TIME_CALSTAT_STATE : RegFld := ⟨TIME_CALSTAT, 0, 2⟩
def TIME_CALSTAT_AGE : RegFld := ⟨TIME_CALSTAT, 8, 24⟩
/-- 10_time: Table 10-16. -/
def TIME_LMODTX : Reg :=
  ⟨0x40410020, 24, 0x100, 1, 0x0, .block, none, lmodTxReset,
   [⟨0, 32, .rw, true, false⟩]⟩
def TIME_LMODTX_PS : RegFld := ⟨TIME_LMODTX, 0, 32⟩
/-- 10_time: Table 10-16. -/
def TIME_LMODRX : Reg :=
  ⟨0x40410024, 24, 0x100, 1, 0x0, .block, none, lmodRxReset,
   [⟨0, 32, .rw, true, false⟩]⟩
def TIME_LMODRX_PS : RegFld := ⟨TIME_LMODRX, 0, 32⟩
/-- 10_time: Table 10-17. -/
def TIME_TSQ0 : Reg :=
  ⟨0x40420000, 1, 0x0, 1, 0x0, .block, none, fun _ _ => 0x00000000,
   [⟨0, 5, .ro, false, false⟩, ⟨5, 1, .ro, false, false⟩, ⟨6, 2, .ro, false, false⟩, ⟨8, 4, .ro, false, false⟩, ⟨12,
    2, .ro, false, false⟩, ⟨16, 16, .ro, false, false⟩]⟩
def TIME_TSQ0_LANE : RegFld := ⟨TIME_TSQ0, 0, 5⟩
def TIME_TSQ0_DIR : RegFld := ⟨TIME_TSQ0, 5, 1⟩
def TIME_TSQ0_CLK : RegFld := ⟨TIME_TSQ0, 6, 2⟩
def TIME_TSQ0_MSGTYPE : RegFld := ⟨TIME_TSQ0, 8, 4⟩
def TIME_TSQ0_CALQ : RegFld := ⟨TIME_TSQ0, 12, 2⟩
def TIME_TSQ0_SEQID : RegFld := ⟨TIME_TSQ0, 16, 16⟩
/-- 10_time: Table 10-17. -/
def TIME_TSQ1 : Reg :=
  ⟨0x40420004, 1, 0x0, 1, 0x0, .block, none, fun _ _ => 0x00000000,
   [⟨0, 32, .ro, false, false⟩]⟩
def TIME_TSQ1_NS : RegFld := ⟨TIME_TSQ1, 0, 32⟩
/-- 10_time: Table 10-17. -/
def TIME_TSQ2 : Reg :=
  ⟨0x40420008, 1, 0x0, 1, 0x0, .block, none, fun _ _ => 0x00000000,
   [⟨0, 32, .ro, false, false⟩]⟩
def TIME_TSQ2_NS : RegFld := ⟨TIME_TSQ2, 0, 32⟩
/-- 10_time: Table 10-17. -/
def TIME_TSQ3 : Reg :=
  ⟨0x4042000C, 1, 0x0, 1, 0x0, .block, none, fun _ _ => 0x00000000,
   [⟨0, 5, .ro, false, false⟩, ⟨8, 8, .ro, false, false⟩, ⟨16, 4, .ro, false, false⟩, ⟨31, 1, .ro, false, false⟩]⟩
def TIME_TSQ3_FRAC : RegFld := ⟨TIME_TSQ3, 0, 5⟩
def TIME_TSQ3_DOMAIN : RegFld := ⟨TIME_TSQ3, 8, 8⟩
def TIME_TSQ3_SDOID : RegFld := ⟨TIME_TSQ3, 16, 4⟩
def TIME_TSQ3_VALID : RegFld := ⟨TIME_TSQ3, 31, 1⟩
/-- 10_time: Table 10-17. -/
def TIME_TSQSTAT : Reg :=
  ⟨0x40420010, 1, 0x0, 1, 0x0, .block, none, fun _ _ => 0x00000000,
   [⟨0, 9, .ro, false, false⟩, ⟨16, 16, .rw, false, false⟩]⟩
def TIME_TSQSTAT_LEVEL : RegFld := ⟨TIME_TSQSTAT, 0, 9⟩
def TIME_TSQSTAT_LOST : RegFld := ⟨TIME_TSQSTAT, 16, 16⟩
/-- Registers of block TIME, part 0. -/
def regsTime0 : List Reg :=
  [TIME_CTL, TIME_STAT, TIME_STEPTHR, TIME_NOW_LO, TIME_NOW_HI, TIME_NOW_FRAC, TIME_SET_LO, TIME_SET_HI, TIME_SETCMD,
    TIME_RATE, TIME_HOLD, TIME_HOLDLIM, TIME_HOLDEST, TIME_CALCTL, TIME_CALAGED, DC_CFG, DC_RATE, DC_ADJ, DC_ADJCTL,
    DC_DIFF, DC_NOW_LO, DC_NOW_HI, DC_NOW_FRAC, TIME_PPSO_CFG, TIME_PPSO_PER, TIME_PPSO_OFS, TIME_PPSO_WID,
    TIME_PPSI_LO, TIME_PPSI_HI, TIME_PPSI_FRAC, TIME_PPSI_CFG, TIME_EV_CFG, TIME_EV_LO, TIME_EV_HI, TIME_EV_FRAC,
    TIME_EV_MISS, TIME_TGT_LO, TIME_TGT_HI, TIME_TGTCTL, TIME_RTC_LO]
/-- Registers of block TIME, part 1. -/
def regsTime1 : List Reg :=
  [TIME_RTC_HI, TIME_RTCTRIM, TIME_LCFG, TIME_LINKDLY, TIME_ASYM, TIME_EXTTX, TIME_EXTRX, TIME_CALTX, TIME_CALRX,
    TIME_CALSTAT, TIME_LMODTX, TIME_LMODRX, TIME_TSQ0, TIME_TSQ1, TIME_TSQ2, TIME_TSQ3, TIME_TSQSTAT]
/-- The registers of block TIME. -/
def regsTime : List Reg :=
  regsTime0 ++ regsTime1

end Sys2Proof.Machine
end

