-- ==== Sys2Proof/Machine/Ops.lean ====
section
/-!
DEFINITION. The named operations over registers, memory and time, and raising an event: every block goes through them.
-/

namespace Sys2Proof.Machine

/-! ### Bit fields -/

/-- Field [lo + w - 1 : lo] of a word. -/
def getBits (x : Word) (lo w : Nat) : Nat := x.toNat / 2 ^ lo % 2 ^ w

/-- A word with field [lo + w - 1 : lo] replaced by `v`. -/
def putBits (x : Word) (lo w v : Nat) : Word :=
  BitVec.ofNat 32 (x.toNat % 2 ^ lo + v % 2 ^ w * 2 ^ lo + x.toNat / 2 ^ (lo + w) * 2 ^ (lo + w))

/-- A number added to one that saturates at `top`. -/
def satAdd (top a b : Nat) : Nat := if top ≤ a + b then top else a + b

/-! ### Registers -/

/-- The system address of register instance (i, j). -/
def Reg.addr (r : Reg) (i j : Nat) : Nat := r.base + i * r.s1 + j * r.s2

/-- The value in force of a register. -/
def Dev.rd (d : Dev) (r : Reg) (i : Nat := 0) (j : Nat := 0) : Word := Tab.look d.regs (r.rst i j) (r.addr i j)

/-- Set the value in force of a register. -/
def Dev.wr (d : Dev) (r : Reg) (v : Word) (i : Nat := 0) (j : Nat := 0) : Dev :=
  { d with regs := Tab.put d.regs (r.rst i j) (r.addr i j) v }

/-- The staged copy of an ST register (R20). -/
def Dev.rdStaged (d : Dev) (r : Reg) (i : Nat := 0) (j : Nat := 0) : Word :=
  Tab.look d.stg (r.rst i j) (r.addr i j)

/-- A field of a register in force, as a number. -/
def Dev.f (d : Dev) (x : RegFld) (i : Nat := 0) (j : Nat := 0) : Nat := getBits (d.rd x.reg i j) x.lo x.w

/-- A field of a register in force, as a flag. -/
def Dev.b (d : Dev) (x : RegFld) (i : Nat := 0) (j : Nat := 0) : Bool := d.f x i j != 0

/-- Set one field of a register in force. -/
def Dev.setF (d : Dev) (x : RegFld) (v : Nat) (i : Nat := 0) (j : Nat := 0) : Dev :=
  d.wr x.reg (putBits (d.rd x.reg i j) x.lo x.w v) i j

/-- Set one flag of a register in force. -/
def Dev.setB (d : Dev) (x : RegFld) (v : Bool) (i : Nat := 0) (j : Nat := 0) : Dev := d.setF x v.toNat i j

/-- A whole-register counter that saturates at 0xFFFF_FFFF. -/
def Dev.count (d : Dev) (r : Reg) (i : Nat := 0) (j : Nat := 0) (n : Nat := 1) : Dev :=
  d.wr r (BitVec.ofNat 32 (satAdd 0xFFFFFFFF (d.rd r i j).toNat n)) i j

/-- A counter field that saturates at its largest value. -/
def Dev.countF (d : Dev) (x : RegFld) (i : Nat := 0) (j : Nat := 0) (n : Nat := 1) : Dev :=
  d.setF x (satAdd (2 ^ x.w - 1) (d.f x i j) n) i j

/-- The instance of register `r` at system address `a`. -/
def Reg.hit (r : Reg) (a : Nat) : Option (Nat × Nat) :=
  if a < r.base then none
  else
    let o := a - r.base
    let i := if r.n1 ≤ 1 then 0 else o / r.s1
    let o' := o - i * r.s1
    let j := if r.n2 ≤ 1 then 0 else o' / r.s2
    if o' = j * r.s2 && decide (i < r.n1) && decide (j < r.n2) then some (i, j) else none

/-- The register and instance at system address `a` in a list. -/
def findIn (a : Nat) : List Reg → Option (Reg × Nat × Nat)
  | [] => none
  | r :: rs =>
    match r.hit a with
    | some (i, j) => some (r, i, j)
    | none => findIn a rs

/-- The block whose range holds a system address (Table 1-4). -/
def blkOf (a : Nat) : Option Blk :=
  if a < 0x40000000 then none
  else if a < 0x40010000 then some .sys
  else if a < 0x40020000 then some .clk
  else if a < 0x40030000 then some .pwr
  else if a < 0x40038000 then some .sec
  else if a < 0x40040000 then some .boot
  else if a < 0x40050000 then some .mbx
  else if a < 0x40060000 then some .evt
  else if a < 0x40070000 then some .dma
  else if a < 0x40080000 then some .mem
  else if a < 0x40100000 then none
  else if a < 0x40120000 then some .eng
  else if a < 0x40200000 then none
  else if a < 0x40218000 then some .eth
  else if a < 0x40300000 then none
  else if a < 0x40400000 then some .swc
  else if a < 0x40500000 then some .time
  else if a < 0x40510000 then some .mdb
  else if a < 0x40600000 then none
  else if a < 0x40610000 then some .sln
  else if a < 0x40680000 then none
  else if a < 0x40688000 then some .brg
  else if a < 0x40700000 then none
  else if a < 0x40708000 then some .pio
  else if a < 0x40800000 then none
  else if a < 0x40840000 then some .stn
  else if a < 0x40900000 then none
  else if a < 0x40910000 then some .age
  else if a < 0x40920000 then some .jrn
  else none

/-- The registers of a block. -/
def regsIn : Blk → List Reg
  | .sys => regsSys
  | .clk => regsClk
  | .pwr => regsPwr
  | .sec => regsSec
  | .boot => regsBoot
  | .mbx => regsMbx
  | .evt => regsEvt
  | .dma => regsDma
  | .mem => regsMem
  | .eng => regsEng
  | .eth => regsEth
  | .swc => regsSwc
  | .time => regsTime
  | .mdb => regsMdb
  | .sln => regsSln
  | .brg => regsBrg
  | .pio => regsPio
  | .stn => regsStn
  | .age => regsAge
  | .jrn => regsJrn

/-- Offsets of the switch's port pages where a repeated register has no instance: SWC_DROPr starts at r = 1, and SWC_QLEVELc has
c to 7 on a lane, c = 0 on ports 24 to 26. -/
def portGap (a : Nat) : Bool :=
  let p := (a - 0x40340000) / 0x1000
  let o := a % 0x1000
  decide (0x40340000 ≤ a) && decide (p < 28) && (o == 0x100 || (decide (0x10 ≤ o) && decide (o < 0x50)
    && ((decide (p < 24) && decide (0x30 ≤ o)) || (decide (24 ≤ p) && decide (p < 27) && decide (0x14 ≤ o)))))

/-- The register and instance at a system address; `none` is a gap (R526). -/
def findReg (a : Nat) : Option (Reg × Nat × Nat) :=
  if portGap a then none
  else
  match blkOf a with
  | some k => findIn a (regsIn k)
  | none => none

/-- A register has staged fields (R20). -/
def Reg.staged (r : Reg) : Bool := r.flds.any (fun f => f.acc == .st)

/-- The commit instance of a staged register (Table 1-5). -/
def Reg.instOf (r : Reg) (i : Nat) : Option Nat := r.inst.map (fun p => p.1 + p.2 * i)

/-! ### Free values and time -/

/-- A free value below 2^w, and the state that has taken it (log 10). -/
def Dev.take (d : Dev) (w : Nat) : Nat × Dev :=
  ((Config.freeValue d.free).toNat % 2 ^ w, { d with free := d.free + 1 })

/-- Time-base units per nanosecond: a cycle of 0.8 ns at any rate of R309 is a whole number of them. -/
def tbUnit : Nat := 5 * 2 ^ 40 * 10 ^ 9

/-- The time base in whole nanoseconds from the epoch (R308). -/
def Dev.ns (d : Dev) : Nat := d.tb / tbUnit % 2 ^ 64

/-- The time base's fraction in units of 50 ps (R308). -/
def Dev.frac (d : Dev) : Nat := d.tb % tbUnit * 20 / tbUnit

/-- The time base in units of 50 ps. -/
def Dev.stamp (d : Dev) : Nat := d.ns * 20 + d.frac

/-- Units of 50 ps in a second. -/
def wallSecond : Nat := 20000000000

/-! ### Memory bytes -/

/-- What an unlisted byte reads as (log 3): 0, and 0xFF in the flash windows. -/
def memDefault (a : Nat) : Byte := if 0x70000000 ≤ a && a < 0x90000000 then 0xFF else 0

/-- One byte of memory. -/
def Dev.byte (d : Dev) (a : Nat) : Byte := Tab.look d.mem (memDefault a) a

/-- Store one byte of memory. -/
def Dev.setByte (d : Dev) (a : Nat) (v : Byte) : Dev := { d with mem := Tab.put d.mem (memDefault a) a v }

/-- The canonical form of memory. -/
def Dev.memWf (d : Dev) : Bool := Tab.canon memDefault d.mem

/-- `n` bytes from address `a`, lowest address first. -/
def Dev.bytesAt (d : Dev) (a : Nat) : Nat → List Byte
  | 0 => []
  | n + 1 => d.byte a :: Dev.bytesAt d (a + 1) n

/-- Store bytes from address `a` upwards. -/
def Dev.setBytes (d : Dev) (a : Nat) : List Byte → Dev
  | [] => d
  | b :: bs => (d.setByte a b).setBytes (a + 1) bs

/-- Forget every byte from `lo` to `hi` - 1: they read as never written. -/
def Dev.forget (d : Dev) (lo hi : Nat) : Dev :=
  { d with mem := d.mem.filter (fun e => decide (e.1 < lo) || decide (hi ≤ e.1)) }

/-- A little-endian list of bytes as a number (R132). -/
def leNat : List Byte → Nat
  | [] => 0
  | b :: bs => b.toNat + 256 * leNat bs

/-- A big-endian list of bytes as a number: network order (R135). -/
def beNat (l : List Byte) : Nat := leNat l.reverse

/-- The low `n` bytes of a number, lowest first. -/
def natLe : Nat → Nat → List Byte
  | 0, _ => []
  | n + 1, v => BitVec.ofNat 8 v :: natLe n (v / 256)

/-- The low `n` bytes of a number, highest first. -/
def natBe (n v : Nat) : List Byte := (natLe n v).reverse

/-- A little-endian 32-bit word of memory. -/
def Dev.word (d : Dev) (a : Nat) : Word := BitVec.ofNat 32 (leNat (d.bytesAt a 4))

/-- Store a little-endian 32-bit word. -/
def Dev.setWord (d : Dev) (a : Nat) (v : Word) : Dev := d.setBytes a (natLe 4 v.toNat)

/-! ### Events (chapter 07) -/

/-- A source is secure (R242). -/
def Dev.evSecure (d : Dev) (s : Nat) : Bool := d.b EVT_MAP_SEC s

/-- A source is pending. -/
def Dev.evPending (d : Dev) (s : Nat) : Bool := d.rd EVT_PEND (s / 32) |>.getLsbD (s % 32)

/-- A source's mask bit is set. -/
def Dev.evMasked (d : Dev) (s : Nat) : Bool := d.rd EVT_MASK (s / 32) |>.getLsbD (s % 32)

/-- The word of the MSI-X table or pending-bit array at a system address (R247; the layout of PCIe Base 3.0, log 13): a
vector's control word resets masked. -/
def Dev.msixWord (d : Dev) (a : Nat) : Word :=
  Tab.look d.regs (if a < 0x40059000 && a % 16 = 12 then 1 else 0) a

/-- Set a word of the MSI-X table or pending-bit array. -/
def Dev.setMsixWord (d : Dev) (a : Nat) (v : Word) : Dev :=
  { d with regs := Tab.put d.regs (if a < 0x40059000 && a % 16 = 12 then 1 else 0) a v }

/-- Send the message of vector `v`, or set its pending bit while the vector is masked (R247). -/
def Dev.sendVector (d : Dev) (v : Nat) : Dev :=
  let t := 0x40058000 + 16 * v
  let p := 0x40059000 + 4 * (v / 32)
  if (d.msixWord (t + 12)).getLsbD 0 then d.setMsixWord p (d.msixWord p ||| (1 <<< (v % 32)))
  else { d with msix := d.msix ++ [(v, (d.msixWord t).toNat + 2 ^ 32 * (d.msixWord (t + 4)).toNat, d.msixWord (t + 8))] }

/-- The host message of a source, when its map enables one and it is not secure (R247, R248). -/
def Dev.sendMsix (d : Dev) (s : Nat) : Dev :=
  if d.b EVT_MAP_MSIX s && !d.evSecure s then d.sendVector (d.f EVT_MAP_VECTOR s) else d

/-- Set a source's pending bit; a bit that sets while unmasked sends its host message (R243, R247). -/
def Dev.setPending (d : Dev) (s : Nat) : Dev :=
  if d.evPending s then d
  else
    let d := d.wr EVT_PEND (d.rd EVT_PEND (s / 32) ||| (1 <<< (s % 32))) (s / 32)
    if d.evMasked s then d else d.sendMsix s

/-- Count an entry of origin `o` lost to a full journal queue (R250). -/
def Dev.countOvr (d : Dev) (o : Nat) : Dev :=
  let r := d.rd EVT_OVR (o / 4)
  d.wr EVT_OVR (putBits r (8 * (o % 4)) 8 (satAdd 255 (getBits r (8 * (o % 4)) 8) 1)) (o / 4)

/-- Place an entry in the journal queue; `true` when the queue was full and the entry is discarded (R249, R250). -/
def Dev.jqPut (d : Dev) (e : JEnt) : Dev × Bool :=
  if d.jq.length < 256 then
    let d := { d with jq := d.jq ++ [e] }
    (d.setF EVT_QSTAT_HIGH (max (d.f EVT_QSTAT_HIGH) d.jq.length), false)
  else (d.countOvr e.origin, true)

/-- The sources with an EVT_SUB register (Table 7-3). -/
def evGrouped (s : Nat) : Bool :=
  (40 ≤ s && s ≤ 44) || (88 ≤ s && s ≤ 94) || (96 ≤ s && s ≤ 98) || s = 100 || s = 101 || (104 ≤ s && s ≤ 106)

/-- The present time as a record carries it: bit 63 is set while the time base is not synchronised (R320, R496). -/
def Dev.jtime (d : Dev) : Nat := d.ns % 2 ^ 63 + (if d.b TIME_STAT_SYNC then 0 else 2 ^ 63)

/-- A raise without the overrun's own raise: sub-pending bit, pending bit, delivery, journal entry (R243, R247, R249). -/
def Dev.raiseBase (d : Dev) (s inst : Nat) : Dev × Bool :=
  let d := if evGrouped s then d.wr EVT_SUB (d.rd EVT_SUB (s - 40) ||| (1 <<< inst)) (s - 40) else d
  let d := d.setPending s
  if d.b EVT_MAP_JRN s then
    d.jqPut { origin := s, time := d.jtime, cls := min 2 (d.f EVT_MAP_JCLASS s), inst := inst }
  else (d, false)

/-- Raise source `s` (instance `inst` of a grouped one); an entry lost to a full queue raises EV021 (R250). -/
def Dev.raise (d : Dev) (s : Nat) (inst : Nat := 0) : Dev :=
  match d.raiseBase s inst with
  | (d, false) => d
  | (d, true) => if s = 21 then d else (d.raiseBase 21 0).1

/-- Hand a record to the journal queue for origin `o` (R249, R250). -/
def Dev.journal (d : Dev) (e : JEnt) : Dev :=
  match d.jqPut e with
  | (d, false) => d
  | (d, true) => if e.origin = 21 then d else (d.raiseBase 21 0).1

/-- A destination of a pending, unmasked source that its security allows (R247, R248). -/
def Dev.evLine (d : Dev) (s : Nat) : Option (Nat × Nat) :=
  if d.evPending s && !d.evMasked s then
    match d.f EVT_MAP_CORE s with
    | 1 => some (1, d.f EVT_MAP_LINE s)
    | 2 => if d.evSecure s then none else some (2, d.f EVT_MAP_LINE s)
    | _ => none
  else none

/-- The lowest interrupt line asserted at supervisor `core` (1 SV0, 2 SV1). -/
def Dev.lowLine (d : Dev) (core : Nat) : Option Nat :=
  (List.range 32).find? (fun l => (List.range 256).any (fun s => d.evLine s == some (core, l)))

/-- IRQ_N[pin] is driven low (R247, R248). -/
def Dev.irqPin (d : Dev) (pin : Nat) : Bool :=
  (List.range 256).any (fun s => d.evPending s && !d.evMasked s && !d.evSecure s && d.b EVT_MAP_PINEN s
    && d.f EVT_MAP_PIN s == pin)

/-- The NMI of SV0 is raised: EV008 pending, or a source with NMI = 1 pending and unmasked (R247). -/
def Dev.nmiRaised (d : Dev) : Bool :=
  d.evPending 8 || (List.range 256).any (fun s => d.evPending s && !d.evMasked s && d.b EVT_MAP_NMI s)

/-! ### First-error latches -/

/-- Latch a refused memory access (MEM_ACCERR, R201). -/
def Dev.latchAcc (d : Dev) (num a cause : Nat) (write : Bool) : Dev :=
  if d.b MEM_ACCERR_VALID then d
  else
    let d := d.wr MEM_ACCERR (BitVec.ofNat 32 (num + cause * 256 + write.toNat * 1024 + 0x80000000))
    (d.wr MEM_ACCERR_ADDR (BitVec.ofNat 32 a)).raise 16

/-- Latch an integrity report (MEM_INTEG). -/
def Dev.latchInteg (d : Dev) (num a cause : Nat) : Dev :=
  if d.b MEM_INTEG_VALID then d
  else
    let d := d.wr MEM_INTEG (BitVec.ofNat 32 (cause + num * 256 + 0x80000000))
    (d.wr MEM_INTEG_ADDR (BitVec.ofNat 32 a)).raise 18

/-- Latch an engine error (ENG_ERR, ENG_ERRADDR); EV041 when VALID sets. -/
def Dev.latchEng (d : Dev) (n cause : Nat) (a : Word) : Dev :=
  if d.b ENG_ERR_VALID n then d
  else
    let d := d.wr ENG_ERR (BitVec.ofNat 32 (cause + 0x80000000)) n
    (d.wr ENG_ERRADDR a n).raise 41 n

end Sys2Proof.Machine
end

