-- ==== Sys2Proof/Machine/Schedule.lean ====
section
/-!
DEFINITION. Cycle lengths, and the boundaries each commit instance's schedule has (R19, R26, R36).
-/

namespace Sys2Proof.Machine

/-- The chip has left the boot ROM (R58). -/
def Dev.releasedB (d : Dev) : Bool := d.boot.released

/-- A fabric cycle in units of 50 ps: 1.25 ns at 800 MHz, 10 ns on the RC oscillator (R26), 40 ns in NAP. -/
def Dev.fabCycle (d : Dev) : Nat :=
  if d.f PWR_STAT_STATE = 2 then 800 else if d.b CLK_STAT_RCACT then 200 else 25

/-- The freeze window in units of 50 ps (R26). -/
def Dev.freezeWin (d : Dev) : Nat := 64 * d.fabCycle

/-- The first instant at or after `t` of the series base + k × per (R341), in ns. -/
def seriesAtOrAfter (base per t : Nat) : Nat :=
  if per = 0 then t else if t ≤ base then base else base + (t - base + per - 1) / per * per

/-- Some instant of base + k × per lies in (lo, hi]. -/
def seriesHits (base per lo hi : Nat) : Bool :=
  decide (per ≠ 0) && decide (seriesAtOrAfter base per (lo + 1) ≤ hi)

/-- A 64-bit value held in two registers. -/
def wide64 (lo hi : Word) : Nat := lo.toNat + 2 ^ 32 * hi.toNat

/-- The station-cycle period in ns (R19). -/
def Dev.scycNs (d : Dev) : Nat := d.f SYS_SCYC_PER_PERIOD * 31250

/-- The gate-control cycle of lane `p` in ns: a value outside 1,000 to 1,000,000,000 acts as the largest. -/
def Dev.gclCycle (d : Dev) (p : Nat) : Nat :=
  let c := d.f SWC_GCLCYC_CYCLE p
  if 1000 ≤ c && c ≤ 1000000000 then c else 1000000000

/-- The base time of lane `p`'s gate list (R295). -/
def Dev.gclBase (d : Dev) (p : Nat) : Nat := wide64 (d.rd SWC_GCLBASE_LO p) (d.rd SWC_GCLBASE_HI p)

/-- The base time of loop `l` (R447). -/
def Dev.loopBase (d : Dev) (l : Nat) : Nat := wide64 (d.rd LOOP_BASE_LO l) (d.rd LOOP_BASE_HI l)

/-- The sample period of loop `l` in ns: a value outside 20,000 to 100,000,000 acts as the largest. -/
def Dev.loopPer (d : Dev) (l : Nat) : Nat :=
  let p := d.f LOOP_PER_PER l
  if 20000 ≤ p && p ≤ 100000000 then p else 100000000

/-- Gate-list state of lane `p`. -/
def Dev.gclSt (d : Dev) (p : Nat) : ListSt := Tab.look d.swc.gcl {} p

/-- Ring instance `n`. -/
def Dev.ring (d : Dev) (n : Nat) : RingSt := Tab.look d.rings {} n

/-- Replace ring instance `n`. -/
def Dev.setRing (d : Dev) (n : Nat) (r : RingSt) : Dev := { d with rings := Tab.set d.rings n r }

/-- Commit instance `k`. -/
def Dev.inst (d : Dev) (k : Nat) : CmtInst := Tab.look d.cmt {} k

/-- Replace commit instance `k`. -/
def Dev.setInst (d : Dev) (k : Nat) (c : CmtInst) : Dev := { d with cmt := Tab.set d.cmt k c }

/-- The latched round length of ring `n`, in 50 ps, before its first latch the one in force (R375). -/
def Dev.roundLen (d : Dev) (n : Nat) : Nat :=
  if (d.ring n).len = 0 then d.scycNs * 20 / 2 ^ d.f BRG_SCHED_RDIV n else (d.ring n).len

/-- BRG_CORR of ring `n` (R375). -/
def Dev.corr (d : Dev) (n : Nat) : Int := (d.rd BRG_CORR n).toInt

/-- The ring clock of instance `n` in 50 ps (R375). -/
def Dev.ringNow (d : Dev) (n : Nat) : Int := (d.stamp : Int) + d.corr n

/-- The first boundary of instance `k` at or after time `t` (ns) under its schedule in force, in 50 ps of the time base;
`none` for an instance whose boundaries no schedule gives (R27). -/
def Dev.nextBoundary (d : Dev) (k t : Nat) : Option Nat :=
  if k = 0 then some (seriesAtOrAfter 0 d.scycNs t * 20)
  else if k < 25 then
    if (d.gclSt (k - 1)).on then some (seriesAtOrAfter (d.gclBase (k - 1)) (d.gclCycle (k - 1)) t * 20) else none
  else if k < 41 then
    if d.b LOOP_CFG_EN (k - 25) then some (seriesAtOrAfter (d.loopBase (k - 25)) (d.loopPer (k - 25)) t * 20) else none
  else if 49 ≤ k && k < 57 then
    let n := k - 49
    if 2 ≤ d.f BRG_STAT_STATE n then
      let l := d.roundLen n
      let r : Int := (t * 20 : Nat) + d.corr n
      some (((r + l - 1) / l * l - d.corr n).toNat)
    else none
  else none

/-- Instance `k` is idle (R36, R58, R295, R447, R422, R366, R459). -/
def Dev.instIdle (d : Dev) (k : Nat) : Bool :=
  if k = 0 then !d.releasedB
  else if k < 25 then !(d.b SWC_GCLCTL_EN (k - 1) && (d.gclSt (k - 1)).on)
  else if k < 41 then !d.b LOOP_CFG_EN (k - 25)
  else if k < 49 then
    let g := k - 41
    !(d.rd PIO_STAT g).getLsbD (d.f PIO_CTL_BMACH g)
  else if k < 57 then decide (d.f BRG_STAT_STATE (k - 49) < 2)
  else if k < 73 then d.f MDB_TMCFG_ROLE (k - 57) == 0 || !d.b MDB_TMSTAT_SYNCED (k - 57)
  else d.f STP_STAT_STATE (k - 73) != 2

end Sys2Proof.Machine
end

