-- ==== Sys2Proof/Machine/EngBase.lean ====
section
/-!
DEFINITION. What the lanes need of the engines: bindings, work queues, frames (R11, R82, R83), and event-status bits.
-/

namespace Sys2Proof.Machine

/-- Engine `n`. -/
def Dev.e (d : Dev) (n : Nat) : Eng := Tab.look d.eng {} n

/-- Replace engine `n`. -/
def Dev.setE (d : Dev) (n : Nat) (e : Eng) : Dev := { d with eng := Tab.put d.eng {} n e }

/-- Frame `k`. -/
def Dev.fr (d : Dev) (k : Nat) : Frame := Tab.look d.frames {} k

/-- Replace frame `k`. -/
def Dev.setFr (d : Dev) (k : Nat) (f : Frame) : Dev := { d with frames := Tab.set d.frames k f }

/-- Forget frame `k`. -/
def Dev.dropFr (d : Dev) (k : Nat) : Dev := { d with frames := Tab.drop d.frames k }

/-- A new frame; its handle is the key the counter stands at (log 14). -/
def Dev.newFr (d : Dev) (f : Frame) : Nat × Dev :=
  (d.nextFr, { d with frames := Tab.set d.frames d.nextFr f, nextFr := (d.nextFr + 1) % 2 ^ 32 })

/-- The binding slot of engine `e` that names `lane` (R82). -/
def Dev.bindSlot (d : Dev) (e lane : Nat) : Option Nat :=
  (List.range 16).find? (fun k => d.b ENG_BIND_VALID e k && d.f ENG_BIND_LANE e k == lane)

/-- The engine an MB, SL or PG lane is bound to (R11). -/
def Dev.boundEng (d : Dev) (lane : Nat) : Option Nat :=
  (List.range 32).find? (fun e => (d.bindSlot e lane).isSome)

/-- Class `c` of Table 15-5 is effective in power state `s`. -/
def wakeEffective (c s : Nat) : Bool :=
  match c with
  | 0 => s == 2 || s == 3
  | 1 => s == 1 || s == 2
  | 8 => s == 1
  | _ => 1 ≤ s && s ≤ 3

/-- The power state a wake meets: the one being entered while a transition is in progress (R480, R482). -/
def Dev.wakeState (d : Dev) : Nat := if d.b PWR_STAT_BUSY then d.powerTo else d.f PWR_STAT_STATE

/-- A wake source of class `c`, instance `i`, fires (R482): it is recorded when the class is enabled and effective. -/
def Dev.wake (d : Dev) (c i : Nat) : Dev :=
  if (d.f PWR_WAKEEN_EN).testBit c && wakeEffective c d.wakeState then { d with wakes := d.wakes ++ [(c, i)] } else d

/-- Post a work item to engine `e`; `true` when the queue was full and the frame is dropped (R83). An item
for a dozing engine is a wake source (Table 15-5). -/
def Dev.postItem (d : Dev) (e : Nat) (it : Item) : Dev × Bool :=
  let g := d.e e
  if g.wq.length < 64 then ((d.setE e { g with wq := g.wq ++ [it] }).wake 8 0, false)
  else ((d.countF ENG_WQSTAT_DROPS e).raise 40 e, true)

/-- Set an event-status bit; when it sets while enabled its source is raised (R270 and its like). -/
def Dev.evBit (d : Dev) (st en : RegFld) (i src inst : Nat) : Dev :=
  if d.b st i then d
  else
    let d := d.setB st true i
    if d.b en i then d.raise src inst else d

end Sys2Proof.Machine
end

