-- ==== Sys2Proof/Machine/Commit.lean ====
section
/-!
DEFINITION. Boundary commit (chapter 01): staging, arming, timed commits, the freeze window, applying at a boundary.
-/

namespace Sys2Proof.Machine

/-- The staged copy at a system address. -/
def Dev.stgAt (d : Dev) (r : Reg) (i j a : Nat) : Word := Tab.look d.stg (r.rst i j) a

/-- Stage value `v` in register instance (i, j) at arrival time `arr` (R20, R22, R26): the staged copy holds the last
write, and what it replaced is kept for the length of a freeze window. -/
def Dev.stage (d : Dev) (r : Reg) (i j : Nat) (v : Word) (arr : Nat) : Dev :=
  let a := r.addr i j
  { d with
    hist := d.hist.filter (fun h => decide (arr < h.arr + d.freezeWin)) ++ [⟨a, d.stgAt r i j a, arr⟩]
    stg := Tab.put d.stg (r.rst i j) a v }

/-- The value of a staged register that a boundary now commits: the one staged before the freeze window (R28). -/
def Dev.toCommit (d : Dev) (r : Reg) (i j a : Nat) : Word :=
  match d.hist.find? (fun h => h.addr == a && decide (d.wall < h.arr + d.freezeWin)) with
  | some h => h.prev
  | none => d.stgAt r i j a

/-- A staged period outside 0x001 to 0xC80 is replaced by 0xC80 when committed (SYS_SCYC_PER). -/
def commitFix (a : Nat) (v : Word) : Word :=
  if a = SYS_SCYC_PER.base ∧ (v.toNat = 0 ∨ 0xC80 < v.toNat) then 0xC80 else v

/-- Take one staged register's value, as `src` holds it, into force. -/
def Dev.applyReg (d src : Dev) (held : Bool) (a : Nat) : Dev :=
  match findReg a with
  | some (r, i, j) => d.wr r (commitFix a (if held then src.toCommit r i j a else src.stgAt r i j a)) i j
  | none => d

/-- Address `a` is a staged register of instance `k` (Table 1-5). -/
def instAddr (k a : Nat) : Bool :=
  match findReg a with
  | some (r, i, _) => r.staged && r.instOf i == some k
  | none => false

/-- Every staged register of instance `k` takes its staged value (R23); `held` applies the freeze window (R28). -/
def Dev.takeForce (d : Dev) (k : Nat) (held : Bool) : Dev :=
  let addrs := (d.stg.map (·.1) ++ d.regs.map (·.1) ++ d.hist.map (·.addr)).filter (instAddr k)
  addrs.foldl (fun x a => x.applyReg d held a) d

/-- Count one applied commit of instance `k`. -/
def Dev.countApplied (d : Dev) (k : Nat) : Dev :=
  let c := d.inst k
  d.setInst k { c with applied := (c.applied + 1) % 256 }

/-- Count a missed commit with its cause; every increment raises EV001 (SYS_CMT_STATn). -/
def Dev.countMissed (d : Dev) (k cause : Nat) : Dev :=
  let c := d.inst k
  (d.setInst k { c with missed := (c.missed + 1) % 256, cause := cause }).raise 1

/-- The boundary of instance `k` occurs now (R23, R24, R26, R27, R31, R34): arms that arrived before the freeze window
apply; a timed arm whose T has come and that arrived inside the window is missed. -/
def Dev.boundary (d : Dev) (k : Nat) : Dev :=
  let c := d.inst k
  let late := fun (arr : Nat) => decide (d.wall < arr + d.freezeWin)
  let nextNow := c.next.any (fun a => !late a)
  let due := match c.timed with
    | some (t, _) => decide (t ≤ d.ns)
    | none => false
  let timedLate := match c.timed with
    | some (_, arr) => due && late arr && (d.nextBoundary k 0).isNone
    | none => false
  let timedNow := due && !timedLate
  let d := d.setInst k { c with
    next := c.next.filter late
    timed := if due then none else c.timed
    last := d.ns }
  let d := if nextNow || timedNow then (d.takeForce k true).countApplied k else d
  if timedLate then d.countMissed k 2 else d

/-- Latch the first rejected arm; EV000 when VALID sets (SYS_CMT_ERR). -/
def Dev.rejectArm (d : Dev) (num k code : Nat) : Dev :=
  if d.b SYS_CMT_ERR_VALID then d
  else (d.wr SYS_CMT_ERR (BitVec.ofNat 32 (k + num * 256 + code * 65536 + 2 ^ 31))).raise 0

/-- Timed commits pending on the chip (R33). -/
def Dev.timedCount (d : Dev) : Nat := (d.cmt.filter (fun e => e.2.timed.isSome)).length

/-- Arm instance `k` for its next boundary (R24). -/
def Dev.armNext (d : Dev) (k arr : Nat) : Dev :=
  let c := d.inst k
  d.setInst k { c with next := c.next ++ [arr] }

/-- A timed arm of instance `k` at `t`, arriving at wall time `arr` with the time base at `stamp` (50 ps): missed (R32),
rejected (R33) or pending (R30). -/
def Dev.armTimed (d : Dev) (num k t arr stamp : Nat) : Dev :=
  if t * 20 < stamp then d.countMissed k 1
  else
    let inWin := match if d.instIdle k then none else d.nextBoundary k t with
      | some b => decide (b < stamp + d.freezeWin)
      | none => false
    if inWin then d.countMissed k 2
    else if (d.inst k).timed.isSome then d.rejectArm num k 2
    else if 32 ≤ d.timedCount then d.rejectArm num k 3
    else
      let c := d.inst k
      d.setInst k { c with timed := some (t, arr) }

/-- Cancel both pending commits of instance `k` without applying or counting either (R34). -/
def Dev.cancelArms (d : Dev) (k : Nat) : Dev :=
  let c := d.inst k
  d.setInst k { c with next := [], timed := none }

/-- Drop the pending commits of instance `k` for a block reset: each one counts as missed with cause 0x3 (R37). -/
def Dev.cancelReset (d : Dev) (k : Nat) : Dev :=
  let c := d.inst k
  let n := (if c.next.isEmpty then 0 else 1) + (if c.timed.isSome then 1 else 0)
  let d := d.cancelArms k
  if n = 0 then d else if n = 1 then d.countMissed k 3 else (d.countMissed k 3).countMissed k 3

/-- Master `m` may write every ST register of instance `k` (R25; log 15): SV0, SV1 and the host port all of them, those of
the station while it is not secure (R431); any master those of the ring and the buses, which no rule restricts; an engine
those of a PIO group bound to it (chapter 13). -/
def Dev.mayArm (d : Dev) (m : Master) (k : Nat) : Bool :=
  let stn := (25 ≤ k && k < 41) || 73 ≤ k
  if 49 ≤ k && k < 73 then true
  else
    match m with
    | .sv0 => true
    | .sv1 => !(stn && d.b BOOT_SECATTR_STN_SEC)
    | .host => !(stn && d.b BOOT_SECATTR_STN_SEC)
    | .ce n => (41 ≤ k && k < 49) && (d.bindSlot n.val (15 + k)).isSome
    | _ => false

/-- The banked T of master number `num` (R30). -/
def Dev.bankT (d : Dev) (num : Nat) : Nat :=
  wide64 (Tab.look d.tbank 0 (2 * num)) (Tab.look d.tbank 0 (2 * num + 1))

/-- A write of SYS_CMT_ARM by master `m`, arriving at wall time `arr` with the time base at `stamp` (R24, R25, R30 to
R34). -/
def Dev.cmtArm (d : Dev) (m : Master) (v : Word) (arr stamp : Nat) : Dev :=
  let k := getBits v 0 7
  let op := getBits v 8 2
  if 80 < k || op = 3 then d.rejectArm m.num k 4
  else if !d.mayArm m k then d.rejectArm m.num k 1
  else if op = 0 then d.armNext k arr
  else if op = 1 then d.armTimed m.num k (d.bankT m.num) arr stamp
  else d.cancelArms k

/-- A next-boundary arm applies on an idle instance (R36): all that is staged, whenever it arrived. -/
def Dev.idleNext (d : Dev) (k : Nat) : Dev :=
  let c := d.inst k
  if d.instIdle k && !c.next.isEmpty then
    ((d.setInst k { c with next := [], last := d.ns - 1 }).takeForce k false).countApplied k
  else d

/-- A timed commit applies on an idle instance when the time base has reached T (R36). -/
def Dev.idleTimed (d : Dev) (k : Nat) : Dev :=
  let c := d.inst k
  match c.timed with
  | some (t, _) =>
    if d.instIdle k && decide (t ≤ d.ns) then
      ((d.setInst k { c with timed := none, last := d.ns - 1 }).takeForce k false).countApplied k
    else d
  | none => d

/-- SYS_CMT_STATn as a read returns it. -/
def Dev.cmtStat (d : Dev) (k : Nat) : Word :=
  let c := d.inst k
  BitVec.ofNat 32 ((if c.next.isEmpty then 0 else 1) + (if c.timed.isSome then 2 else 0)
    + (if d.instIdle k then 4 else 0) + c.cause * 16 + c.applied * 256 + c.missed * 65536)

/-- After a step of the time base, the next boundary of every schedule is the first after the new time (R342). -/
def Dev.rebase (d : Dev) : Dev :=
  (List.range 81).foldl (fun d k => d.setInst k { d.inst k with last := d.ns }) d

end Sys2Proof.Machine
end

