-- ==== Sys2Proof/Machine/Ring.lean ====
section
/-!
DEFINITION. The braced ring (chapter 12). Ring-clock times count 50 ps.
-/

namespace Sys2Proof.Machine

/-- Set BRG_EVSTAT bit `b` of instance `n`, raising its source while enabled (BRG_EVSTAT). -/
def Dev.brgEv (d : Dev) (n b : Nat) : Dev :=
  let src := if b ≤ 3 then 96 else if b ≤ 6 then 97 else 98
  d.evBit ⟨BRG_EVSTAT, b, 1⟩ ⟨BRG_EVEN, b, 1⟩ n src n

/-- Enter ring state `s`; every change sets STATECHG (R387), and ACTIVE clears COLL (R389). -/
def Dev.brgState (d : Dev) (n s : Nat) : Dev :=
  if d.f BRG_STAT_STATE n = s then d
  else
    let d := (d.setF BRG_STAT_STATE s n).brgEv n 0
    let d := if s = 4 then d.setF BRG_STAT_COLL 0 n else d
    if s = 1 then d.setRing n { d.ring n with since := d.wall, quiet := 0, csFirst := false } else d

/-- Enter PASSIVE with a cause. -/
def Dev.brgPassive (d : Dev) (n cause : Nat) : Dev := (d.setF BRG_STAT_PCAUSE cause n).brgState n 3

/-- A return to LISTEN that counts as lost synchronisation (R376, R387). -/
def Dev.brgLost (d : Dev) (n : Nat) : Dev := (d.count BRG_CNT_SYNCLOST n).brgState n 1

/-- Absorb a step of the time base by `delta` units of 50 ps in BRG_CORR of an enabled instance (R376). -/
def Dev.ringAbsorb (d : Dev) (n : Nat) (delta : Int) : Dev :=
  if !d.b BRG_CTL_EN n then d
  else
    let c := d.corr n - delta
    if -(2 ^ 31) ≤ c ∧ c < 2 ^ 31 then d.wr BRG_CORR (BitVec.ofInt 32 c) n
    else
      let d := (d.wr BRG_CORR 0 n).count BRG_CNT_SYNCLOST n
      if d.f BRG_STAT_STATE n = 1 then d.brgEv n 0 else d.brgState n 1

/-! ### The schedule in force -/

/-- A byte time on the line in 50 ps (R373). -/
def Dev.brgByte (d : Dev) (n : Nat) : Nat :=
  match d.f BRG_CFG_RATE n with
  | 0 => 12800
  | 1 => 6400
  | _ => 3200

/-- Slots per round (BRG_SCHED): 0 acts as 1, above 64 as 64. -/
def Dev.brgSlots (d : Dev) (n : Nat) : Nat := max 1 (min 64 (d.f BRG_SCHED_NSLOT n))

/-- The slot length in 50 ps: outside 1,000 to 1,000,000 ns it acts as the largest. -/
def Dev.brgSlotNs (d : Dev) (n : Nat) : Nat :=
  let s := d.f BRG_SLOTNS_SLOTNS n
  (if 1000 ≤ s && s ≤ 1000000 then s else 1000000) * 20

/-- The kerf in 50 ps: below 20 ns it acts as 20. -/
def Dev.brgKerf (d : Dev) (n : Nat) : Nat := max 20 (d.f BRG_KERF_KERF n) * 20

/-- The hop delay in 50 ps. -/
def Dev.brgHop (d : Dev) (n : Nat) : Nat := d.f BRG_HOP_HOPNS n * 20

/-- The duration of a frame of payload `p` (R374). -/
def Dev.brgFrame (d : Dev) (n p : Nat) : Nat := (16 + p) * d.brgByte n

/-- The longest frame of the instance (R374). -/
def Dev.brgFmax (d : Dev) (n : Nat) : Nat := d.brgFrame n (d.f BRG_CFG_PAYMAX n)

/-- The node identifiers present. -/
def Dev.brgNodes (d : Dev) (n : Nat) : List Nat := (List.range 32).filter (fun k => d.b BRG_NODE_VALID n k)

/-- The number of valid nodes (R378). -/
def Dev.brgN (d : Dev) (n : Nat) : Nat := (d.brgNodes n).length

/-- A node's ring position. -/
def Dev.brgPos (d : Dev) (n k : Nat) : Nat := d.f BRG_NODE_POS n k

/-- This node's identifier. -/
def Dev.brgMe (d : Dev) (n : Nat) : Nat := d.f BRG_CFG_NODEID n

/-- The enabled slots of the round, in order. -/
def Dev.brgSlotList (d : Dev) (n : Nat) : List Nat :=
  (List.range (d.brgSlots n)).filter (fun s => d.b BRG_SLOT_EN n s)

/-- The enabled slots this node owns, in order. -/
def Dev.brgOwned (d : Dev) (n : Nat) : List Nat :=
  (d.brgSlotList n).filter (fun s => d.f BRG_SLOT_OWNER n s == d.brgMe n)

/-- The slots of the node that carry sync frames. -/
def Dev.brgSyncOwned (d : Dev) (n : Nat) : List Nat := (d.brgOwned n).filter (fun s => d.b BRG_SLOT_SYNC n s)

/-- The schedule in force is in error (R379). -/
def Dev.brgError (d : Dev) (n : Nat) : Bool :=
  let ps := (d.brgNodes n).map (d.brgPos n)
  decide (d.brgSlotNs n < d.brgKerf n + d.brgFmax n + (2 * d.brgN n - 2) * d.brgHop n)
  || decide (d.roundLen n < d.brgSlots n * d.brgSlotNs n)
  || !d.b BRG_NODE_VALID n (d.brgMe n)
  || (List.range (d.brgN n)).any (fun p => !ps.contains p)
  || decide (8 < (d.brgOwned n).length)

/-- Judge the schedule: in error, SCHEDERR and PASSIVE with cause 0x5 (R379). -/
def Dev.brgJudge (d : Dev) (n : Nat) : Dev :=
  if d.brgError n then
    let d := if d.b BRG_STAT_SCHEDERR n then d else (d.setB BRG_STAT_SCHEDERR true n).brgEv n 1
    if 2 ≤ d.f BRG_STAT_STATE n then d.brgPassive n 5 else d
  else d.setB BRG_STAT_SCHEDERR false n

/-! ### Enabling (R371) -/

/-- The lane of a port. -/
def Dev.brgLane (d : Dev) (n : Nat) (east : Bool) : Nat := if east then d.f BRG_CFG_EAST n else d.f BRG_CFG_WEST n

/-- A write of EN = 1 to instance `n` is refused (R371). -/
def Dev.brgRefused (d : Dev) (n : Nat) : Bool :=
  let e := d.brgLane n true
  let w := d.brgLane n false
  let used := fun l => (List.range 8).any (fun m =>
    m != n && d.b BRG_CTL_EN m && (d.brgLane m true == l || d.brgLane m false == l))
  !(40 ≤ e && e ≤ 55) || !(40 ≤ w && w ≤ 55) || e == w
  || d.boundEng e != d.boundEng w
  || (match d.boundEng e with
      | some c => d.f ENG_LOAD_LOADID c != 0x000A
      | none => true)
  || used e || used w

/-- Stop an instance with its drivers idle (R393, BRG_CTL.EN = 0). -/
def Dev.brgStop (d : Dev) (n : Nat) : Dev :=
  (d.brgState n 0).setRing n { trim := (d.ring n).trim }

/-- A write of BRG_CTL. -/
def Dev.wBrgCtl (d : Dev) (n : Nat) (v : Word) : Dev :=
  let was := d.b BRG_CTL_EN n
  let d := d.wr BRG_CTL (v &&& 0xE ||| (if was then 1 else 0)) n
  let en := v.getLsbD 0
  if en && !was then
    if d.brgRefused n then (d.setB BRG_STAT_CFGERR true n).brgEv n 2
    else ((d.setB BRG_CTL_EN true n).setB BRG_STAT_CFGERR false n).brgState n 1
  else if !en && was then (d.setB BRG_CTL_EN false n).brgStop n
  else d

/-! ### Rounds (R375, R386, R387, R390, R391) -/

/-- Insert into a list of integers kept in rising order. -/
def insInt (x : Int) : List Int → List Int
  | [] => [x]
  | y :: ys => if x ≤ y then x :: y :: ys else y :: insInt x ys

/-- A list of integers in rising order. -/
def sortInt (l : List Int) : List Int := l.foldr insInt []

/-- The fault-tolerant midpoint of a round's deviations (R386); `none` without any. -/
def ringFtm (l : List Int) : Option Int :=
  let m := l.length
  let k := if 8 ≤ m then 2 else if 3 ≤ m then 1 else 0
  let s := (sortInt l).drop k |>.take (m - 2 * k)
  match s.head?, s.getLast? with
  | some a, some b => some ((a + b) / 2)
  | _, _ => none

/-- The register value of a 50 ps count that saturates at the register's range. -/
def satInt32 (x : Int) : Word := BitVec.ofInt 32 (max (-(2 ^ 31)) (min (2 ^ 31 - 1) x))

/-- Two consecutive expected sync copies missing on one side while the other received one (R390): over the slots of the
round in order, the number of consecutive misses at its end and whether the condition was met. -/
def ringMiss (got : List (Nat × Bool)) (east : Bool) : List Nat → Nat → Bool → Nat × Bool
  | [], m, hit => (m, hit)
  | s :: ss, m, hit =>
    if got.contains (s, east) then ringMiss got east ss 0 hit
    else
      let m := m + 1
      ringMiss got east ss m (hit || (decide (2 ≤ m) && got.contains (s, !east)))

/-- Enter loop-back on a side (R390): good neighbour frames there count from now (R391). -/
def Dev.brgFold (d : Dev) (n : Nat) (east : Bool) : Dev :=
  let r := d.ring n
  let d := d.setRing n (if east then { r with goodE := 0 } else { r with goodW := 0 })
  ((d.setB (if east then BRG_STAT_LBE else BRG_STAT_LBW) true n).count BRG_CNT_LBENTRY n).brgEv n 7

/-- Loop-back entry and restoration at a round start (R390, R391). -/
def Dev.brgLoop (d : Dev) (n : Nat) : Dev :=
  let r := d.ring n
  let slots := (d.brgSlotList n).filter (fun s => d.b BRG_SLOT_SYNC n s)
  let (me, he) := ringMiss r.got true slots r.missE false
  let (mw, hw) := ringMiss r.got false slots r.missW false
  let st := d.f BRG_STAT_STATE n
  let enter := d.b BRG_CTL_LBEN n && (st == 2 || st == 4)
  let inE := d.b BRG_STAT_LBE n
  let inW := d.b BRG_STAT_LBW n
  let d := d.setRing n { r with missE := me, missW := mw }
  let d := if enter && he && !inE then d.brgFold n true else d
  let d := if enter && hw && !inW then d.brgFold n false else d
  let d := if inE && decide (2 ≤ r.goodE) then (d.setB BRG_STAT_LBE false n).brgEv n 7 else d
  if inW && decide (2 ≤ r.goodW) then (d.setB BRG_STAT_LBW false n).brgEv n 7 else d

/-- The state after a round judged (R387): `ftm` the round's midpoint, `ok` a valid sync round. -/
def Dev.brgNext (d : Dev) (n : Nat) (ftm : Option Int) (ok : Bool) : Dev :=
  let r := d.ring n
  let quiet := if r.heard then 0 else r.quiet + 1
  let d := d.setRing n { r with quiet := quiet, syncOk := ok }
  if quiet ≥ 3 then d.brgLost n
  else
    let st := d.f BRG_STAT_STATE n
    let pc := d.f BRG_STAT_PCAUSE n
    if st = 2 && ok then d.brgState n 4
    else if st = 3 && ok && pc != 4 && !(pc == 5 && d.brgError n) then d.brgState n 4
    else if st = 4 && ftm.isSome && !ok then d.brgPassive n 3
    else d

/-- The start of slot `s` of the present round. -/
def Dev.brgSlotAt (d : Dev) (n s : Nat) : Int := (d.ring n).start + (s * d.brgSlotNs n : Nat)

/-- The judgement of the first cold-start slot once it is over (R389): neither own copy passed and another starter was
heard in it: a collision. On the second in a row the higher identifier waits one round more. -/
def Dev.brgCsJudge (d : Dev) (n : Nat) : Dev :=
  let r := d.ring n
  match d.brgSyncOwned n with
  | [] => d
  | s :: _ =>
    if d.f BRG_STAT_STATE n = 2 && r.csFirst
        && decide (d.brgSlotAt n s + (d.brgSlotNs n : Nat) ≤ d.ringNow n) then
      let d := d.setRing n { r with csFirst := false }
      match r.csOwn, r.csOther with
      | false, some o =>
        let c := min 3 (d.f BRG_STAT_COLL n + 1)
        let d := ((d.count BRG_CNT_COLL n).setF BRG_STAT_COLL c n).brgEv n 3
        let d := d.setRing n { d.ring n with csWait := decide (2 ≤ c ∧ o < d.brgMe n) }
        d.brgState n 1
      | _, _ => d
    else d

/-- A round starts (R375): clock correction, state changes, loop-back, then the commit of instance 49 + n. It occurs in
COLDSTART, PASSIVE and ACTIVE once the ring clock has reached the next whole multiple of the round length. -/
def Dev.ringRound (d : Dev) (n : Nat) : Dev :=
  let d := d.brgCsJudge n
  let r := d.ring n
  let len : Int := d.roundLen n
  let st := d.f BRG_STAT_STATE n
  let at' := (r.start / len + 1) * len
  if st < 2 || decide (d.ringNow n < at') then d
  else
    let ftm := ringFtm (r.devs.map (·.dev))
    let half : Int := d.brgKerf n / 2
    let ok := match ftm with
      | some f => decide (-half ≤ f ∧ f ≤ half)
      | none => false
    let d := match ftm with
      | some f =>
        let c := if st = 4 then max (-half) (min half f) else f
        (d.wr BRG_CORR (satInt32 (d.corr n - c)) n).wr BRG_FTM (satInt32 f) n
      | none => d
    let d := d.wr BRG_SYNCSEEN (BitVec.ofNat 32 (r.devs.foldl (fun a x => a + 2 ^ x.node) 0)) n
    let d := d.brgNext n ftm ok
    let d := d.brgLoop n
    let d := d.boundary (49 + n)
    let d := d.setF BRG_STAT_ROUND (d.f BRG_STAT_ROUND n + 1) n
    let d := d.setRing n { d.ring n with
      len := d.scycNs * 20 / 2 ^ d.f BRG_SCHED_RDIV n, start := at', devs := [], firsts := [], heard := false,
      got := [], lbPrev := (d.ring n).lbNow, lbNow := [], csFirst := false, csOther := none, csOwn := false, done := [] }
    d.brgJudge n

/-! ### Sending (R377, R382, R388) -/

/-- The header of an own frame (Table 12-2), for sending eastward. -/
def Dev.brgHeader (d : Dev) (n s : Nat) (cs null : Bool) (plen : Nat) : List Byte :=
  let b0 := d.brgMe n + (if d.b BRG_SLOT_SYNC n s then 32 else 0) + (if cs then 64 else 0)
  let b4 := d.f BRG_STAT_LBE n + 2 * d.f BRG_STAT_LBW n + (if null then 4 else 0)
  [BitVec.ofNat 8 b0, BitVec.ofNat 8 s] ++ natBe 2 (d.f BRG_STAT_ROUND n) ++ [BitVec.ofNat 8 b4, 0] ++ natBe 2 plen

/-- Free the buffer of slot `s` and let a held arm for it enter (R382). -/
def Dev.brgEnter (d : Dev) (n : Nat) (a : Arm) (s : Nat) : Dev :=
  d.setRing n { d.ring n with bufs := Tab.set (d.ring n).bufs s (a.bytes.drop 8) }

/-- The slot an armed frame is for: named in byte 1, or with bit 7 the next owned slot whose buffer is free; `none` when
the node does not own it (R382). -/
def Dev.brgTarget (d : Dev) (n : Nat) (a : Arm) : Option Nat :=
  let b := (a.bytes.getD 1 0).toNat
  let own := d.brgOwned n
  if 128 ≤ b then
    match own.find? (fun s => !((d.ring n).bufs.map (·.1)).contains s) with
    | some s => some s
    | none => own.head?
  else if own.contains (b % 64) then some (b % 64) else none

/-- A drained arm for the ring: `true` when the frame entered or was discarded and the engine's slot is free, `false`
when it is held (R382). -/
def Dev.ringArm (d : Dev) (n : Nat) (a : Arm) : Dev × Bool :=
  let len := a.bytes.length
  if len < 8 || 8 + d.f BRG_CFG_PAYMAX n < len then (d.count BRG_CNT_TXREJ n, true)
  else
    match d.brgTarget n a with
    | none => (d.count BRG_CNT_TXREJ n, true)
    | some s =>
      if ((d.ring n).bufs.map (·.1)).contains s then
        (d.setRing n { d.ring n with held := (d.ring n).held ++ [a] }, false)
      else (d.brgEnter n a s, true)

/-- A slot is sent now: its buffer, or a null frame, in both directions, and the buffer is then freed (R382). In COLDSTART
only sync slots are sent (R388). -/
def Dev.ringSend (d : Dev) (n s : Nat) : Dev :=
  let d := d.brgCsJudge n
  let st := d.f BRG_STAT_STATE n
  let r := d.ring n
  let t := d.brgSlotAt n s
  let now := d.ringNow n
  if (st = 4 || (st = 2 && d.b BRG_SLOT_SYNC n s)) && (d.brgOwned n).contains s && !d.b BRG_STAT_SCHEDERR n
      && !r.done.contains s && decide (t + (d.brgKerf n / 2 : Nat) ≤ now ∧ now < t + (d.brgSlotNs n : Nat)) then
    let buf := r.bufs.find? (fun e => e.1 == s)
    let pay := match buf with
      | some e => e.2
      | none => []
    let bytes := d.brgHeader n s (st == 2) buf.isNone pay.length ++ pay
    d.setRing n { r with sent := some (s, bytes), bufs := Tab.drop r.bufs s, done := r.done ++ [s] }
  else d

/-- The cold-start timeout has run (R388): silence of two rounds and NODEID × 8 slots, one round more after R389. -/
def Dev.brgSilence (d : Dev) (n : Nat) : Nat :=
  2 * d.roundLen n + d.brgMe n * 8 * d.brgSlotNs n + (if (d.ring n).csWait then d.roundLen n else 0)

/-- A cold start (R388): the node sends a cold-start frame in its lowest-numbered owned sync slot, takes its round start
from it and enters COLDSTART. Not while the fast clocks have failed (R385) or the schedule is in error. -/
def Dev.ringColdStart (d : Dev) (n : Nat) : Dev :=
  let r := d.ring n
  match d.brgSyncOwned n with
  | [] => d
  | s :: _ =>
    if d.f BRG_STAT_STATE n = 1 && d.b BRG_CTL_CSEN n && decide (r.since + d.brgSilence n ≤ d.wall)
        && !d.b CLK_STAT_RCACT && !d.brgError n then
      let rs : Int := (d.stamp : Int) - (s * d.brgSlotNs n + d.brgKerf n / 2 : Nat)
      let len : Int := d.roundLen n
      let k := (rs + d.corr n + len / 2) / len
      let d := d.wr BRG_CORR (satInt32 (k * len - rs)) n
      let d := d.setF BRG_STAT_ROUND 0 n
      let bytes := d.brgHeader n s true true 0
      let d := d.setRing n { d.ring n with
        start := k * len, len := d.roundLen n, devs := [], firsts := [], got := [], quiet := 0, csFirst := true,
        csOwn := false, csOther := none, csWait := false, sent := some (s, bytes), done := [s] }
      (d.count BRG_CNT_COLDSTART n).brgState n 2
    else d

/-! ### Receiving (R377, R378, R380, R381, R386, R387, R389) -/

/-- The header fields of a copy (Table 12-2). -/
structure RingHdr where
  node : Nat
  sync : Bool
  cs : Bool
  west : Bool
  slot : Nat
  round : Nat
  lbe : Bool
  lbw : Bool
  null : Bool
  plen : Nat
  deriving DecidableEq, Repr

/-- The header of a copy's bytes. -/
def ringHdr (b : List Byte) : RingHdr :=
  let b0 := b.getD 0 0
  let b4 := b.getD 4 0
  { node := b0.toNat % 32, sync := b0.getLsbD 5, cs := b0.getLsbD 6, west := b0.getLsbD 7,
    slot := (b.getD 1 0).toNat % 64, round := beNat [b.getD 2 0, b.getD 3 0],
    lbe := b4.getLsbD 0, lbw := b4.getLsbD 1, null := b4.getLsbD 2, plen := beNat [b.getD 6 0, b.getD 7 0] }

/-- The hop counts a copy may have (R378): one for a direct copy; one for a folded copy whose fold is known; else any. -/
def Dev.brgHops (d : Dev) (n : Nat) (h : RingHdr) (direct : Bool) : List Nat :=
  let N := d.brgN n
  let p := d.brgPos n h.node
  let q := d.brgPos n (d.brgMe n)
  if N = 0 then []
  else if direct then [if h.west then (p + N - q) % N else (q + N - p) % N]
  else
    let r := d.ring n
    let me := d.brgMe n
    let a := if d.b BRG_STAT_LBE n then some me else (r.lbPrev.find? (fun e => e.2.1)).map (·.1)
    let b := if d.b BRG_STAT_LBW n then some me else (r.lbPrev.find? (fun e => e.2.2)).map (·.1)
    match b with
    | none => (List.range (2 * N - 2)).map (· + 1)
    | some bn =>
      let L := fun x => (x + N - d.brgPos n bn) % N
      if h.west then [L p + L q]
      else
        match a with
        | none => (List.range (2 * N - 2)).map (· + 1)
        | some an => [(L (d.brgPos n an) - L p) + (L (d.brgPos n an) - L q)]

/-- The start delimiter's arrival lies in the acceptance band for some hop count (Table 12-3). -/
def Dev.brgInBand (d : Dev) (n : Nat) (h : RingHdr) (hops : List Nat) : Bool :=
  let m := d.ringNow n
  let half : Int := if d.f BRG_STAT_STATE n = 3 then d.brgSlotNs n / 2 else d.brgKerf n / 2
  hops.any (fun k =>
    let e := d.brgSlotAt n h.slot + (d.brgKerf n / 2 + 4 * d.brgByte n + k * d.brgHop n : Nat)
    decide (e - half ≤ m ∧ m ≤ e + half))

/-- The deviation of a direct sync copy (R386): the copy with the lower hop count counts. -/
def Dev.brgDeviate (d : Dev) (n : Nat) (h : RingHdr) (k : Nat) : Dev :=
  let r := d.ring n
  let e := d.brgSlotAt n h.slot + (d.brgKerf n / 2 + 4 * d.brgByte n + k * d.brgHop n : Nat)
  let new : RingDev := ⟨h.node, d.ringNow n - e, k⟩
  match r.devs.find? (fun x => x.node == h.node) with
  | some x =>
    if x.hops ≤ k then d
    else d.setRing n { r with devs := new :: r.devs.filter (fun x => x.node != h.node) }
  | none => d.setRing n { r with devs := new :: r.devs }

/-- Integration in LISTEN (R387): the copy gives the round start; the node enters PASSIVE with cause 0x1. -/
def Dev.brgIntegrate (d : Dev) (n : Nat) (h : RingHdr) (k : Nat) : Dev :=
  let rs : Int := (d.stamp : Int)
    - (h.slot * d.brgSlotNs n + d.brgKerf n / 2 + 4 * d.brgByte n + k * d.brgHop n : Nat)
  let len : Int := d.roundLen n
  let j := (rs + d.corr n + len / 2) / len
  let d := d.wr BRG_CORR (satInt32 (j * len - rs)) n
  let d := d.setF BRG_STAT_ROUND h.round n
  let d := d.setRing n { d.ring n with
    start := j * len, len := d.roundLen n, devs := [], firsts := [], got := [], quiet := 0, heard := true, done := [] }
  (d.brgPassive n 1).brgJudge n

/-- Repeat a copy out of the other port (R380): `true` for east. Not in an own slot; folded back on a looped side; within
the repeat window; in LISTEN at most one per slot time and port. -/
def Dev.brgRepeat (d : Dev) (n : Nat) (h : RingHdr) (hops : List Nat) (fromEast : Bool) (b : List Byte) : Dev :=
  let r := d.ring n
  let st := d.f BRG_STAT_STATE n
  if st = 1 then
    let lastOut := if fromEast then r.repW else r.repE
    let ok := match lastOut with
      | some t => decide (t + d.brgSlotNs n ≤ d.wall)
      | none => true
    if !ok then d
    else
      let cut := decide (d.brgFmax n < d.brgFrame n (b.length - 8))
      d.setRing n { r with
        repeated := some (!fromEast, b, cut)
        repE := if fromEast then r.repE else some d.wall
        repW := if fromEast then some d.wall else r.repW }
  else if (d.brgOwned n).contains h.slot then d
  else
    let lbIn := if fromEast then d.b BRG_STAT_LBE n else d.b BRG_STAT_LBW n
    let lbOut := if fromEast then d.b BRG_STAT_LBW n else d.b BRG_STAT_LBE n
    if lbIn then d
    else
      let out := if lbOut then fromEast else !fromEast
      let first := d.ringNow n - (4 * d.brgByte n : Nat)
      let fin := first + (d.brgFrame n (b.length - 8) : Nat)
      let t := d.brgSlotAt n h.slot
      let opened := hops.any (fun k => decide (t + (k * d.brgHop n : Nat) ≤ first))
      let cut := hops.all (fun k => decide (t + (d.brgKerf n + d.brgFmax n + k * d.brgHop n : Nat) < fin))
      if !opened then (d.count BRG_CNT_REPREF n).brgEv n 6
      else
        let d := d.setRing n { r with repeated := some (out, b, cut) }
        if cut then (d.count BRG_CNT_REPREF n).brgEv n 6 else d

/-- Post a copy to the bound engine (R381): first copies, and the second copy when the first failed. -/
def Dev.brgPost (d : Dev) (n : Nat) (h : RingHdr) (east band good : Bool) (b : List Byte) : Dev :=
  let r := d.ring n
  let lane := d.brgLane n east
  let first := r.firsts.find? (fun f => f.slot == h.slot)
  let want := band && (!h.null || d.b BRG_CTL_POSTNULL n) && (match first with
    | none => true
    | some f => f.bad)
  let d := d.setRing n { r with
    firsts := match first with
      | none => { slot := h.slot, posted := want, bad := !good } :: r.firsts
      | some _ => r.firsts.map (fun f => if f.slot == h.slot then { f with bad := false } else f) }
  if !want then d
  else
    match d.boundEng lane with
    | none => d
    | some e =>
      let bytes := b.take (8 + h.plen)
      let (k, d) := d.newFr {
        bytes := bytes, arrived := 8, fin := decide (bytes.length ≤ 8), good := good
        sof := d.stamp, sofSync := d.b TIME_STAT_SYNC, eof := d.stamp, eng := some e }
      let (d, full) := d.postItem e { lane := lane, vsrc := 2, ctx := none, frame := k, sof := d.ns }
      if full then d.dropFr k else d

/-- A sync copy received on a port, for loop-back (R390), and the neighbour frames of a looped side (R391). -/
def Dev.brgSides (d : Dev) (n : Nat) (h : RingHdr) (east direct own good : Bool) (hops : List Nat) : Dev :=
  let r := d.ring n
  let r := if h.sync && (direct || own) && good then { r with got := (h.slot, east) :: r.got } else r
  let nb := direct && hops == [1]
  let r := if nb && east then { r with goodE := if good then r.goodE + 1 else 0 }
    else if nb then { r with goodW := if good then r.goodW + 1 else 0 } else r
  let r := if good && !own then { r with lbNow := Tab.set r.lbNow h.node (h.lbe, h.lbw) } else r
  d.setRing n r

/-- The starter's first cold-start slot (R389): an own copy passes, or another starter's frame arrives in its window. -/
def Dev.brgCsNote (d : Dev) (n : Nat) (h : RingHdr) (own good : Bool) : Dev :=
  let r := d.ring n
  if d.f BRG_STAT_STATE n = 2 && r.csFirst then
    if own && good then d.setRing n { r with csOwn := true }
    else if !own && h.cs then d.setRing n { r with csOther := some h.node }
    else d
  else d

/-- A copy arrives on a port (R381): its start delimiter comes now; `b` its header and payload, `crc` and `delim` its
check and end delimiter. -/
def Dev.ringCopy (d : Dev) (n : Nat) (east crc delim : Bool) (b : List Byte) : Dev :=
  let d := d.brgCsJudge n
  let st := d.f BRG_STAT_STATE n
  if st = 0 then d
  else
    let h := ringHdr b
    let chk := crc && delim
    let own := h.node == d.brgMe n
    let direct := h.west == east
    let hops := d.brgHops n h direct
    let d := d.setRing n { d.ring n with since := d.wall }
    if st = 1 then
      let d := (if chk then d.count BRG_CNT_RXOK n else d.count BRG_CNT_RXFAIL n).brgRepeat n h hops east b
      if chk && !own && direct && (h.sync || h.cs) && d.b BRG_NODE_VALID n h.node then
        match hops with
        | k :: _ => d.brgIntegrate n h k
        | [] => d
      else d
    else
      let band := own || d.brgInBand n h hops
      let good := chk && band
      let d := if band then d else (d.count BRG_CNT_SBV n).brgEv n 4
      let d := if good then d.count BRG_CNT_RXOK n else if chk then d else d.count BRG_CNT_RXFAIL n
      let d := if good && !own then d.setRing n { d.ring n with heard := true } else d
      let d := d.brgCsNote n h own good
      let d := d.brgSides n h east direct own good hops
      let d := match hops with
        | k :: _ => if good && direct && !own && h.sync then d.brgDeviate n h k else d
        | [] => d
      let d := if own then d else d.brgPost n h east band good b
      d.brgRepeat n h hops east b

/-! ### The guardian (R383, R384) and software requests (R394) -/

/-- The guardian cuts or holds off an own transmission outside its sender window (R384). -/
def Dev.ringCut (d : Dev) (n : Nat) : Dev :=
  let st := d.f BRG_STAT_STATE n
  if st = 2 || st = 4 then ((d.count BRG_CNT_GUARDCUT n).brgEv n 5).brgPassive n 2 else d

/-- The guardian oscillator's trim, once per second (R383). -/
def Dev.ringTrim (d : Dev) (n : Nat) : Dev :=
  if d.b BRG_CTL_EN n && decide ((d.ring n).trim + wallSecond ≤ d.wall) then
    d.setRing n { d.ring n with trim := d.wall }
  else d

/-- The lane bit GOPASSIVE (R394): ACTIVE goes to PASSIVE, and a PASSIVE node takes cause 0x4. -/
def Dev.ringGoPassive (d : Dev) (n : Nat) : Dev :=
  let st := d.f BRG_STAT_STATE n
  if st = 3 || st = 4 then d.brgPassive n 4 else d

/-- The lane bit RESUME (R394) clears the condition of PCAUSE = 0x4. -/
def Dev.ringResume (d : Dev) (n : Nat) : Dev :=
  if d.f BRG_STAT_PCAUSE n = 4 then d.setF BRG_STAT_PCAUSE 0 n else d

/-- The enabled ring instance that uses an SL lane. -/
def Dev.ringOfLane (d : Dev) (lane : Nat) : Option Nat :=
  (List.range 8).find? (fun n => d.b BRG_CTL_EN n && (d.brgLane n true == lane || d.brgLane n false == lane))

end Sys2Proof.Machine
end

