-- ==== Sys2Proof/Machine/Time.lean ====
section
/-!
DEFINITION. The time base, the domain clocks, PPS, event inputs, target times, the real-time clock and calibration
(chapter 10). A clock's value counts units of 1/tbUnit ns.
-/

namespace Sys2Proof.Machine

/-- A rate in units of 2^-40, limited to 1,000 ppm (R309). -/
def clampRate (v : Word) : Int := max (-1099511628) (min 1099511628 v.toInt)

/-- Domain clock `k`. -/
def Dev.dc (d : Dev) (k : Nat) : Dc := if k = 0 then d.tm.dc0 else d.tm.dc1

/-- Replace domain clock `k`. -/
def Dev.setDc (d : Dev) (k : Nat) (c : Dc) : Dev :=
  if k = 0 then { d with tm := { d.tm with dc0 := c } } else { d with tm := { d.tm with dc1 := c } }

/-- The slew rate in ppb: 0 acts as 1 (TIME_CTL). -/
def Dev.slewPpb (d : Dev) : Nat := max 1 (d.f TIME_CTL_SLEW)

/-- The rate in force (R309), without the slew term. -/
def Dev.rateBase (d : Dev) : Int :=
  match d.f TIME_STAT_STATE with
  | 1 => clampRate (d.rd DC_RATE (d.f TIME_STAT_ACTIVE))
  | 2 => clampRate (d.rd DC_RATE (d.f TIME_STAT_ACTIVE))
  | _ => clampRate (d.rd TIME_RATE)

/-- The slew term of SLEW in ppb, signed (R316). -/
def Dev.slewTerm (d : Dev) : Int :=
  if d.f TIME_STAT_STATE = 2 then (if d.tm.behind then (d.slewPpb : Int) else -(d.slewPpb : Int)) else 0

/-- What a read of TIME_RATE returns: the rate in force, slew term included (R309, R317). -/
def Dev.rateWord (d : Dev) : Word := BitVec.ofInt 32 (d.rateBase + d.slewTerm * 2 ^ 40 / 10 ^ 9)

/-- The advance of a clock in one cycle of `u` units of 50 ps at rate `r` plus `s` ppb (R308). -/
def cycleAdvance (u : Nat) (r s : Int) : Nat := ((u : Int) * (2 ^ 40 * 10 ^ 9 + r * 10 ^ 9 + s * 2 ^ 40) / 4).toNat

/-- The estimate TIME_HOLDEST in ns (R321): HRATE × 10^-9 of the time since HOLDOVER began. -/
def Dev.holdEst (d : Dev) : Nat :=
  if d.f TIME_STAT_STATE = 3 then d.f TIME_HOLD_HRATE * ((d.wall - d.tm.holdAt) / 20) / 10 ^ 9 else 0

/-- SYNC as R320 defines it. -/
def Dev.syncRule (d : Dev) : Bool :=
  !d.b TIME_STAT_CLKFAIL && (match d.f TIME_STAT_STATE with
    | 1 => true
    | 2 => true
    | 3 => decide (d.holdEst ≤ (d.rd TIME_HOLDLIM).toNat)
    | _ => false)

/-- Bring SYNC up to date; EV084 for a change of SYNC (R320). -/
def Dev.syncSettle (d : Dev) : Dev :=
  let s := d.syncRule
  if d.b TIME_STAT_SYNC = s then d else (d.setB TIME_STAT_SYNC s).raise 84

/-- Enter state `s` of Table 10-1; EV084 on each change (R320). -/
def Dev.timeState (d : Dev) (s : Nat) : Dev :=
  if d.f TIME_STAT_STATE = s then d.syncSettle
  else
    let d := if s = 3 then { d with tm := { d.tm with holdAt := d.wall } } else d
    ((d.setF TIME_STAT_STATE s).raise 84).syncSettle

/-- The time at which target `k` fires. -/
def Dev.tgt (d : Dev) (k : Nat) : Nat := wide64 (d.rd TIME_TGT_LO k) (d.rd TIME_TGT_HI k)

/-- Target `k` fires when it is armed and the time base is at or past it (R340). -/
def Dev.fireTarget (d : Dev) (k : Nat) : Dev :=
  if (d.rd TIME_TGTCTL).getLsbD k && decide (d.tgt k ≤ d.ns) then
    (d.wr TIME_TGTCTL ((d.rd TIME_TGTCTL &&& ~~~((1 : Word) <<< k)) ||| ((1 : Word) <<< (4 + k)))).raise 85
  else d

/-- All four targets. -/
def Dev.fireTargets (d : Dev) : Dev := (List.range 4).foldl Dev.fireTarget d

/-- A step of the time base to `v` (R319): STEPPED, EV084, the schedules after it (R342), the rings (R376), the targets a
forward step passes (R340). -/
def Dev.timeStep (d : Dev) (v : Nat) : Dev :=
  let before := d.stamp
  let d := { d with tb := v % (tbUnit * 2 ^ 64) }
  let delta : Int := (d.stamp : Int) - before
  let d := ((d.setB TIME_STAT_STEPPED true).raise 84).rebase
  let d := (List.range 8).foldl (fun d n => d.ringAbsorb n delta) d
  d.fireTargets

/-- Take up the target: step or slew from FREE and HOLDOVER, slew in a hand-over (R315). -/
def Dev.lockOn (d : Dev) (k : Nat) : Dev :=
  let st := d.f TIME_STAT_STATE
  let d := d.setF TIME_STAT_ACTIVE k
  let tgt := (d.dc k).val
  let diff := if d.tb ≤ tgt then tgt - d.tb else d.tb - tgt
  if (st = 0 || st = 3) && d.b TIME_CTL_STEPOK && decide ((d.rd TIME_STEPTHR).toNat * tbUnit < diff) then
    (d.timeStep tgt).timeState 1
  else
    let d := { d with tm := { d.tm with behind := decide (d.tb < tgt) } }
    d.timeState 2

/-- Enter HOLDOVER, the rate last in force going to TIME_RATE without its slew term (R317). -/
def Dev.holdover (d : Dev) : Dev :=
  if d.f TIME_STAT_STATE = 3 then d
  else (d.wr TIME_RATE (BitVec.ofInt 32 d.rateBase)).timeState 3

/-- Domain clock `k` is valid (R312). -/
def Dev.dcValid (d : Dev) (k : Nat) : Bool := d.b DC_CFG_VALID k

/-- The domain clock SEL names now (R314): under 0x3 the PRI clock while valid and otherwise the other; after a failover
the other clock stays the target while valid. `fresh`: the selection itself was just written. -/
def Dev.targetOf (d : Dev) (fresh : Bool) : Option Nat :=
  match d.f TIME_CTL_SEL with
  | 0 => none
  | 1 => some 0
  | 2 => some 1
  | _ =>
    let p := d.f TIME_CTL_PRI
    let act := d.f TIME_STAT_ACTIVE
    let locked := d.f TIME_STAT_STATE == 1 || d.f TIME_STAT_STATE == 2
    if !d.dcValid p then some (1 - p)
    else if !fresh && locked && act != p && d.dcValid act then some act
    else some p

/-- Follow the selection after a write of TIME_CTL or a change of a VALID bit (R314, R315, R317); `r` is the rate in force
before it. -/
def Dev.retarget (d : Dev) (fresh : Bool) (r : Word) : Dev :=
  let st := d.f TIME_STAT_STATE
  match d.targetOf fresh with
  | none => if st = 0 then d else (d.wr TIME_RATE r).timeState 0
  | some k =>
    if !d.dcValid k then d.holdover.setF TIME_STAT_ACTIVE k
    else if (st = 1 || st = 2) && d.f TIME_STAT_ACTIVE = k then d
    else d.lockOn k

/-- A write of TIME_CTL (R314). -/
def Dev.wTimeCtl (d : Dev) (v : Word) : Dev :=
  let fresh := getBits v 0 3 != getBits (d.rd TIME_CTL) 0 3
  (d.wr TIME_CTL (v &&& 0xFFFFFF0F)).retarget fresh d.rateWord

/-- Set or clear VALID of domain clock `k`, keeping since when it has been valid. -/
def Dev.setValid (d : Dev) (k : Nat) (v : Bool) : Dev :=
  let d := if v && !d.dcValid k then d.setDc k { d.dc k with validAt := d.wall } else d
  d.setB DC_CFG_VALID v k

/-- A write of DCk_CFG: EN going from 1 to 0 clears VALID by the same write (R312). -/
def Dev.wDcCfg (d : Dev) (k : Nat) (v : Word) : Dev :=
  let off := d.b DC_CFG_EN k && !v.getLsbD 12
  let valid := v.getLsbD 13 && !off
  let was := d.dcValid k
  let d := d.wr DC_CFG ((v &&& 0xDFFF) ||| (if was then 0x2000 else 0)) k
  (d.setValid k valid).retarget false d.rateWord

/-- Clear both VALID bits, as NAP, HIBERNATE and a clock failure do (R312). -/
def Dev.dcInvalidate (d : Dev) : Dev := ((d.setValid 0 false).setValid 1 false).retarget false d.rateWord

/-- A clock value moved by a signed number of tbUnit fractions. -/
def clockAdd (v : Nat) (x : Int) : Nat := (((v : Int) + x) % ((tbUnit * 2 ^ 64 : Nat) : Int)).toNat

/-- DCk_ADJCTL.GO (R313): while BUSY it adds to the amount still to be slewed; else a step adds the whole amount in one
cycle, and a step of the target while LOCKED is treated as from HOLDOVER (R315); a slew starts otherwise. -/
def Dev.dcAdjust (d : Dev) (k : Nat) (step : Bool) : Dev :=
  let amt : Int := (d.rd DC_ADJ k).toInt * (tbUnit : Int)
  let c := d.dc k
  let d := d.setB DC_ADJCTL_STEP step k
  if d.b DC_ADJCTL_BUSY k then d.setDc k { c with slew := c.slew + amt }
  else if step then
    let d := d.setDc k { c with val := clockAdd c.val amt }
    if d.f TIME_STAT_STATE = 1 && d.f TIME_STAT_ACTIVE = k then
      let big := decide ((d.rd TIME_STEPTHR).toNat * tbUnit < amt.natAbs)
      if d.b TIME_CTL_STEPOK && big then (d.timeStep (d.dc k).val).timeState 1
      else ({ d with tm := { d.tm with behind := decide (d.tb < (d.dc k).val) } }).timeState 2
    else d
  else (d.setDc k { c with slew := amt }).setB DC_ADJCTL_BUSY true k

/-- A domain clock's slew has ended: BUSY clears (R313). -/
def Dev.dcSlewDone (d : Dev) (k : Nat) : Dev :=
  if d.b DC_ADJCTL_BUSY k && (d.dc k).slew == 0 then d.setB DC_ADJCTL_BUSY false k else d

/-- The time base has reached its target (R316): within 50 ps, or past it: LOCKED at the target's value. -/
def Dev.slewDone (d : Dev) : Dev :=
  if d.f TIME_STAT_STATE = 2 then
    let t := (d.dc (d.f TIME_STAT_ACTIVE)).val
    let diff := if d.tb ≤ t then t - d.tb else d.tb - t
    if diff * 20 ≤ tbUnit || d.tm.behind != decide (d.tb < t) then ({ d with tb := t }).timeState 1 else d
  else d

/-- Under SEL = 0x3 the PRI clock, valid for REVERTS seconds without a break, becomes the target again (R314). -/
def Dev.timeRevert (d : Dev) : Dev :=
  let p := d.f TIME_CTL_PRI
  if d.f TIME_CTL_SEL = 3 && d.f TIME_STAT_ACTIVE != p && d.dcValid p
      && decide ((d.dc p).validAt + d.f TIME_CTL_REVERTS * wallSecond ≤ d.wall) then d.lockOn p
  else d

/-- TIME_SETCMD.GO under SEL = 0x0 loads TIME_SET (R318); `true` is the bus error of any other SEL. -/
def Dev.timeSet (d : Dev) : Dev × Bool :=
  if d.f TIME_CTL_SEL = 0 then (d.timeStep (wide64 (d.rd TIME_SET_LO) (d.rd TIME_SET_HI) * tbUnit), false) else (d, true)

/-- A write of TIME_RATE takes effect in FREE and HOLDOVER and is ignored otherwise (R317). -/
def Dev.wTimeRate (d : Dev) (v : Word) : Dev :=
  if d.f TIME_STAT_STATE = 0 || d.f TIME_STAT_STATE = 3 then d.wr TIME_RATE v else d

/-- TIME_HOLDEST exceeds TIME_HOLDLIM: SYNC clears (R320). -/
def Dev.holdLimit (d : Dev) : Dev := d.syncSettle

/-! ### Reads with a latch -/

/-- A read of TIME_NOW_LO latches HI and FRAC (R308). -/
def Dev.readNow (d : Dev) : Dev × Word :=
  let lo := BitVec.ofNat 32 d.ns
  (((d.wr TIME_NOW_LO lo).wr TIME_NOW_HI (BitVec.ofNat 32 (d.ns / 2 ^ 32))).wr TIME_NOW_FRAC (BitVec.ofNat 32 d.frac), lo)

/-- Whole ns of a clock value. -/
def clockNs (v : Nat) : Nat := v / tbUnit % 2 ^ 64

/-- The fraction of a clock value in 50 ps. -/
def clockFrac (v : Nat) : Nat := v % tbUnit * 20 / tbUnit

/-- A read of DCk_NOW_LO latches the domain clock's HI and FRAC (R311). -/
def Dev.readDcNow (d : Dev) (k : Nat) : Dev × Word :=
  let v := (d.dc k).val
  let lo := BitVec.ofNat 32 (clockNs v)
  (((d.wr DC_NOW_LO lo k).wr DC_NOW_HI (BitVec.ofNat 32 (clockNs v / 2 ^ 32)) k).wr DC_NOW_FRAC
    (BitVec.ofNat 32 (clockFrac v)) k, lo)

/-- DCk_DIFF: DCk less the time base in 50 ps units, saturating (Table 10-12). -/
def Dev.dcDiff (d : Dev) (k : Nat) : Word := satInt32 ((((d.dc k).val : Int) - d.tb) * 20 / tbUnit)

/-- The clock a SRC field names: 0x1 DC0, 0x2 DC1, otherwise the time base. -/
def Dev.srcClock (d : Dev) (src : Nat) : Nat :=
  match src with
  | 1 => (d.dc 0).val
  | 2 => (d.dc 1).val
  | _ => d.tb

/-- The stamp of this instant in the clock a SRC field names. -/
def Dev.stampIn (d : Dev) (src : Nat) : Stamp := ⟨clockNs (d.srcClock src), clockFrac (d.srcClock src)⟩

/-! ### The real-time clock (R322) -/

/-- The real-time clock in ns: 30,517.578125 ns per sill-clock cycle, corrected by TRIM ppb. -/
def Dev.rtcNow (d : Dev) : Nat :=
  let cycles := (d.wall - d.tm.rtcAt) * 16 / 9765625
  let trim : Int := (getBits (d.rd TIME_RTCTRIM) 0 24 : Int) - (if (d.rd TIME_RTCTRIM).getLsbD 23 then 2 ^ 24 else 0)
  (d.tm.rtc + ((cycles : Int) * 9765625 * (10 ^ 9 + trim) / (320 * 10 ^ 9)).toNat) % 2 ^ 64

/-- Set the real-time clock. -/
def Dev.setRtc (d : Dev) (ns : Nat) : Dev := { d with tm := { d.tm with rtc := ns, rtcAt := d.wall } }

/-- A write of TIME_RTCTRIM: the clock keeps its value and runs on with the new correction. -/
def Dev.wRtcTrim (d : Dev) (v : Word) : Dev := (d.setRtc d.rtcNow).wr TIME_RTCTRIM (v &&& 0x80FFFFFF)

/-- A read of TIME_RTC_LO latches HI (R322). -/
def Dev.readRtc (d : Dev) : Dev × Word :=
  let lo := BitVec.ofNat 32 d.rtcNow
  ((d.wr TIME_RTC_LO lo).wr TIME_RTC_HI (BitVec.ofNat 32 (d.rtcNow / 2 ^ 32)), lo)

/-- At a whole second while SYNC = 1 the real-time clock is realigned; with AUTO = 1 TRIM takes the measured value (R322). -/
def Dev.rtcRealign (d : Dev) (trim : BitVec 24) : Dev :=
  let sec := d.ns / 10 ^ 9
  if d.b TIME_STAT_SYNC && sec != d.tm.rtcSec then
    let d := d.setRtc d.ns
    let d := { d with tm := { d.tm with rtcSec := sec } }
    if d.b TIME_RTCTRIM_AUTO then d.setF TIME_RTCTRIM_TRIM trim.toNat else d
  else d

/-- The time base loaded from the real-time clock (Table 10-3): FREE, RTCLOAD, the domain clocks set to it. -/
def Dev.loadRtc (d : Dev) : Dev :=
  let d := (d.timeStep (d.rtcNow * tbUnit)).timeState 0
  let d := { d with tm := { d.tm with dc0 := { val := d.tb }, dc1 := { val := d.tb } } }
  d.setB TIME_STAT_RTCLOAD true

/-! ### PPS and event inputs (R337 to R339) -/

/-- The PPS_OUT period in ns (TIME_PPSO_PER). -/
def Dev.ppsPer (d : Dev) : Nat :=
  let p := d.f TIME_PPSO_PER_PER
  if 1000 ≤ p && p ≤ 1000000000 then p else 1000000000

/-- PPS_OUT rises at an instant of its series unless gated (R337). -/
def Dev.ppsRise (d : Dev) : Dev :=
  let now := clockNs (d.srcClock (d.f TIME_PPSO_CFG_SRC))
  let per := d.ppsPer
  let ofs := ((d.rd TIME_PPSO_OFS).toInt % (per : Int)).toNat
  let last := d.tm.ppsLast
  let t := (last + per - ofs) / per * per + ofs
  if d.b TIME_PPSO_CFG_EN && !d.tm.ppsOut && decide (last < t ∧ t ≤ now) then
    let d := { d with tm := { d.tm with ppsLast := now } }
    if d.b TIME_PPSO_CFG_SYNCGATE && !d.b TIME_STAT_SYNC then d
    else
      let w := d.f TIME_PPSO_WID_WID
      { d with tm := { d.tm with ppsOut := true, ppsEnd := t + (if per ≤ w then per / 2 else w) } }
  else d

/-- PPS_OUT falls WID after its rise (R337). -/
def Dev.ppsFall (d : Dev) : Dev :=
  if d.tm.ppsOut && decide (d.tm.ppsEnd ≤ clockNs (d.srcClock (d.f TIME_PPSO_CFG_SRC))) then
    { d with tm := { d.tm with ppsOut := false } }
  else d

/-- An edge on PPS_IN (R338): the chosen edge, at least 100 ns after the last stamped one, replaces the stamp. -/
def Dev.ppsEdge (d : Dev) (rising : Bool) : Dev :=
  let near := match d.tm.ppsiAt with
    | some t => decide (d.wall < t + 2000)
    | none => false
  if d.b TIME_PPSI_CFG_EN && (d.f TIME_PPSI_CFG_EDGE == 0) == rising && !near then
    let d := { d with tm := { d.tm with ppsi := d.stampIn (d.f TIME_PPSI_CFG_SRC), ppsiAt := some d.wall } }
    let d := if d.b TIME_PPSI_FRAC_NEW then d.setB TIME_PPSI_FRAC_OVR true else d
    (d.setB TIME_PPSI_FRAC_NEW true).raise 80
  else d

/-- A read of TIME_PPSI_LO latches HI and FRAC and clears NEW and OVR (R338). -/
def Dev.readPpsi (d : Dev) : Dev × Word :=
  let s := d.tm.ppsi
  let lo := BitVec.ofNat 32 s.ns
  (((d.wr TIME_PPSI_LO lo).wr TIME_PPSI_HI (BitVec.ofNat 32 (s.ns / 2 ^ 32))).wr TIME_PPSI_FRAC (BitVec.ofNat 32 s.frac), lo)

/-- The queue of EVT_INk. -/
def Dev.evq (d : Dev) (k : Nat) : List (Stamp × Bool) := if k = 0 then d.tm.ev0 else d.tm.ev1

/-- Replace the queue of EVT_INk. -/
def Dev.setEvq (d : Dev) (k : Nat) (q : List (Stamp × Bool)) : Dev :=
  if k = 0 then { d with tm := { d.tm with ev0 := q } } else { d with tm := { d.tm with ev1 := q } }

/-- An edge on EVT_INk (R339). -/
def Dev.evEdge (d : Dev) (k : Nat) (rising : Bool) : Dev :=
  let e := d.f TIME_EV_CFG_EDGE k
  let chosen := if rising then e == 1 || e == 3 else e == 2 || e == 3
  let prev := if k = 0 then d.tm.evAt0 else d.tm.evAt1
  let near := match prev with
    | some t => decide (d.wall < t + 400)
    | none => false
  if !chosen then d
  else if near || decide (16 ≤ (d.evq k).length) then d.count TIME_EV_MISS k
  else
    let d := d.setEvq k (d.evq k ++ [(d.stampIn (d.f TIME_EV_CFG_SRC k), rising)])
    let d := if k = 0 then { d with tm := { d.tm with evAt0 := some d.wall } }
      else { d with tm := { d.tm with evAt1 := some d.wall } }
    d.raise (81 + k)

/-- A read of TIME_EVk_LO latches the oldest entry (Table 10-13). -/
def Dev.readEv (d : Dev) (k : Nat) : Dev × Word :=
  let (s, rise, valid) := match d.evq k with
    | (s, r) :: _ => (s, r, true)
    | [] => ((⟨0, 0⟩ : Stamp), false, false)
  let lo := BitVec.ofNat 32 s.ns
  let d := ((d.wr TIME_EV_LO lo k).wr TIME_EV_HI (BitVec.ofNat 32 (s.ns / 2 ^ 32)) k).wr TIME_EV_FRAC
    (BitVec.ofNat 32 (s.frac + rise.toNat * 256 + valid.toNat * 2 ^ 31)) k
  (if k = 0 then { d with tm := { d.tm with evLatch0 := valid } } else { d with tm := { d.tm with evLatch1 := valid } }, lo)

/-- A read of TIME_EVk_FRAC removes the latched entry. -/
def Dev.readEvFrac (d : Dev) (k : Nat) : Dev × Word :=
  let latched := if k = 0 then d.tm.evLatch0 else d.tm.evLatch1
  let v := d.rd TIME_EV_FRAC k
  if latched then
    let d := d.setEvq k ((d.evq k).drop 1)
    (if k = 0 then { d with tm := { d.tm with evLatch0 := false } } else { d with tm := { d.tm with evLatch1 := false } }, v)
  else (d, v)

/-- A write of TIME_TGTCTL: EN bits arm, HIT bits are W1C, a target already passed fires at once (R340). -/
def Dev.wTgtCtl (d : Dev) (v : Word) : Dev :=
  let old := d.rd TIME_TGTCTL
  (d.wr TIME_TGTCTL ((v &&& 0xF) ||| (old &&& ~~~v &&& 0xF0))).fireTargets

/-! ### The stamp queue (R332) -/

/-- Place an entry; a full queue discards it and counts it (R332). -/
def Dev.tsqPut (d : Dev) (e : TsqEnt) : Dev :=
  if d.tm.tsq.length < 256 then { d with tm := { d.tm with tsq := d.tm.tsq ++ [e] } } else d.countF TIME_TSQSTAT_LOST

/-- A read of TIME_TSQ0 latches the oldest entry into TIME_TSQ0 to TIME_TSQ3 (Table 10-17). -/
def Dev.readTsq0 (d : Dev) : Dev × Word :=
  match d.tm.tsq with
  | e :: _ =>
    let d := (((d.wr TIME_TSQ0 e.w0).wr TIME_TSQ1 (BitVec.ofNat 32 e.stamp.ns)).wr TIME_TSQ2
      (BitVec.ofNat 32 (e.stamp.ns / 2 ^ 32))).wr TIME_TSQ3 (e.dom ||| BitVec.ofNat 32 (e.stamp.frac + 2 ^ 31))
    ({ d with tm := { d.tm with tsqLatch := true } }, e.w0)
  | [] =>
    let d := (((d.wr TIME_TSQ0 0).wr TIME_TSQ1 0).wr TIME_TSQ2 0).wr TIME_TSQ3 0
    ({ d with tm := { d.tm with tsqLatch := false } }, 0)

/-- A read of TIME_TSQ3 removes the latched entry. -/
def Dev.readTsq3 (d : Dev) : Dev × Word :=
  let v := d.rd TIME_TSQ3
  if d.tm.tsqLatch then ({ d with tm := { d.tm with tsq := d.tm.tsq.drop 1, tsqLatch := false } }, v) else (d, v)

/-! ### Calibration (R327 to R330) -/

/-- The ageing interval in ms: 0 acts as 1. -/
def Dev.ageMs (d : Dev) : Nat := max 1 (d.f TIME_CALCTL_AGEMS)

/-- A lane's calibration is held: low-power idle in either direction, link down or NAP (Table 10-6). -/
def Dev.calHeldCond (d : Dev) (p : Nat) : Bool :=
  d.b ETH_STAT_LPI_TX p || d.b ETH_STAT_LPI_RX p || !d.b ETH_STAT_LINK p || d.f PWR_STAT_STATE == 2

/-- The calibration state as TIME_CALSTAT shows it (R328). -/
def Dev.calState (d : Dev) (p : Nat) : Nat :=
  if d.f TIME_CALSTAT_STATE p = 1 && d.calHeldCond p then 2 else d.f TIME_CALSTAT_STATE p

/-- ms since the last refresh, saturating (TIME_CALSTAT.AGE). -/
def Dev.calAge (d : Dev) (p : Nat) : Nat :=
  if d.f TIME_CALSTAT_STATE p = 0 then 0xFFFFFF else min 0xFFFFFF ((d.wall - Tab.look d.tm.cal 0 p) / 20000000)

/-- The delays in use in ps, signed: the model's in NONE and AGED, the measured ones otherwise (Table 10-6). -/
def Dev.calTx (d : Dev) (p : Nat) : Word :=
  if d.f TIME_CALSTAT_STATE p = 1 then d.rd TIME_CALTX p else d.rd TIME_LMODTX p

/-- The receive delay in use. -/
def Dev.calRx (d : Dev) (p : Nat) : Word :=
  if d.f TIME_CALSTAT_STATE p = 1 then d.rd TIME_CALRX p else d.rd TIME_LMODRX p

/-- A delay in use moved toward a measured one by at most 250 ps (R329). -/
def calMove (cur m : Word) : Word :=
  BitVec.ofInt 32 (cur.toInt + max (-250) (min 250 (m.toInt - cur.toInt)))

/-- A refresh completes with the measured delays (R327, R329); none completes while the lane is held. -/
def Dev.calRefresh (d : Dev) (p : Nat) (tx rx : Word) : Dev :=
  if d.calHeldCond p then d
  else
    let whole := d.f TIME_CALSTAT_STATE p != 1
    let d := (d.wr TIME_CALTX (if whole then tx else calMove (d.rd TIME_CALTX p) tx) p).wr TIME_CALRX
      (if whole then rx else calMove (d.rd TIME_CALRX p) rx) p
    let d := d.setF TIME_CALSTAT_STATE 1 p
    { d with tm := { d.tm with cal := Tab.set d.tm.cal p d.wall } }

/-- A lane without a refresh within the interval enters AGED (R330). -/
def Dev.calAged (d : Dev) (p : Nat) : Dev :=
  if d.f TIME_CALSTAT_STATE p = 1 && decide (d.ageMs ≤ d.calAge p) then
    ((d.setF TIME_CALSTAT_STATE 3 p).wr TIME_CALAGED (d.rd TIME_CALAGED ||| (1 <<< p))).raise 83
  else d

/-! ### Running on -/

/-- One domain clock over one cycle of `u` units of 50 ps: its rate, and its slew at SLEW ppb (R311, R313). -/
def Dev.dcRun (d : Dev) (k u : Nat) : Dev :=
  let c := d.dc k
  let most : Int := (u : Int) * d.slewPpb * 2 ^ 40 / 4
  let s := max (-most) (min most c.slew)
  d.setDc k { c with val := clockAdd (c.val + cycleAdvance u (clampRate (d.rd DC_RATE k)) 0) s, slew := c.slew - s }

/-- The clocks over one cycle of `u` units of 50 ps (R308, R311, Table 10-1). -/
def Dev.clocksRun (d : Dev) (u : Nat) : Dev :=
  let tb := clockAdd d.tb (cycleAdvance u d.rateBase d.slewTerm)
  let d := (d.dcRun 0 u).dcRun 1 u
  let d := { d with wall := d.wall + u }
  { d with tb := if d.f TIME_STAT_STATE = 1 then (d.dc (d.f TIME_STAT_ACTIVE)).val else tb }

end Sys2Proof.Machine
end

