-- ==== Sys2Proof/Machine/EngRoll.lean ====
section
/-!
DEFINITION. Rolling an engine back (R88, R105, R106), its performance counters (R121, R122) and its tag record (R123).
-/

namespace Sys2Proof.Machine

/-- FL.D, the dry-fit flag. -/
def flD : Nat := 5

/-- An engine executes under dry-fit. -/
def Eng.dry (g : Eng) : Bool := g.cpu.fl.getLsbD flD

/-- The engine's commit group (ENG_LOAD.CGRP). -/
def Dev.cgrp (d : Dev) (n : Nat) : Nat := d.f ENG_LOAD_CGRP n

/-- A commit group's arbiter. -/
def Dev.grp (d : Dev) (k : Nat) : Group := Tab.look d.groups {} k

/-- Replace a commit group's arbiter. -/
def Dev.setGrp (d : Dev) (k : Nat) (g : Group) : Dev := { d with groups := Tab.put d.groups {} k g }

/-- The engine holds its group's commit token. -/
def Dev.holdsToken (d : Dev) (n : Nat) : Bool := (d.grp (d.cgrp n)).holder == some n

/-- The engine has requested its group's token. -/
def Dev.wantsToken (d : Dev) (n : Nat) : Bool := (d.grp (d.cgrp n)).queue.contains n

/-- Request the group's token: requests are granted in the order made (R106). -/
def Dev.requestToken (d : Dev) (n : Nat) : Dev :=
  let k := d.cgrp n
  if d.wantsToken n || d.holdsToken n then d else d.setGrp k { d.grp k with queue := (d.grp k).queue ++ [n] }

/-- Give up the group's token or withdraw the request for it. -/
def Dev.releaseToken (d : Dev) (n : Nat) : Dev :=
  let k := d.cgrp n
  let g := d.grp k
  d.setGrp k { holder := if g.holder = some n then none else g.holder, queue := g.queue.filter (· != n) }

/-! ### Performance counters -/

/-- Add `x` to counter `k` of engine `n`: it wraps at 2^48, and an overflow feeds a chained counter or raises EV043
(R122). -/
def Dev.pmAdd (d : Dev) (n : Nat) : Nat → Nat → Nat → Dev
  | 0, _, _ => d
  | fuel + 1, k, x =>
    let v := (d.rd ENG_PMCNT_LO n k).toNat + 2 ^ 32 * getBits (d.rd ENG_PMCNT_HI n k) 0 16 + x
    let d := (d.wr ENG_PMCNT_LO (BitVec.ofNat 32 v) n k).wr ENG_PMCNT_HI (BitVec.ofNat 32 (v / 2 ^ 32 % 2 ^ 16)) n k
    if v < 2 ^ 48 then d
    else if k < 7 && d.b ENG_PMSEL_CHAIN n (k + 1) then
      if d.b ENG_PMSEL_EN n (k + 1) then d.pmAdd n fuel (k + 1) 1 else d
    else d.raise 43 n

/-- Counter `k` counts by its own event: counter 0 ignores CHAIN (R122). -/
def Dev.pmOwn (d : Dev) (n k : Nat) : Bool := d.b ENG_PMSEL_EN n k && (k == 0 || !d.b ENG_PMSEL_CHAIN n k)

/-- Event `code` of Table 3-7 occurs `x` times; an edge counter counts one rising transition (R122). -/
def Dev.pm (d : Dev) (n code : Nat) (x : Nat := 1) : Dev :=
  if x = 0 then d
  else
    (List.range 8).foldl (fun d k =>
      if d.pmOwn n k && d.f ENG_PMSEL_EVENT n k == code then
        d.pmAdd n 8 k (if d.b ENG_PMSEL_EDGE n k then 1 else x)
      else d) d

/-- A retired slot: provisional under dry-fit (R121). -/
def Dev.pmRetire (d : Dev) (n : Nat) : Dev :=
  let g := d.e n
  if g.dry then d.setE n { g with provRet := g.provRet + 1 } else d.pm n 1

/-- The provisional slots become retired or wasted (R121). -/
def Dev.pmSettle (d : Dev) (n : Nat) (good : Bool) : Dev :=
  let g := d.e n
  (d.setE n { g with provRet := 0 }).pm n (if good then 1 else 2) g.provRet

/-! ### Tagging (R123) -/

/-- The random interval to the next tag: PERIOD/2 to 3 × PERIOD/2 retired instructions; PERIOD 0 acts as 1. -/
def Dev.tagInterval (d : Dev) (n : Nat) : Nat × Dev :=
  let p := max 1 (d.f ENG_TAGCTL_PERIOD n)
  let (v, d) := d.take 32
  (p / 2 + v % (p + 1), d)

/-- Write the tagged instruction's record when its fate is final; its stage times are not fixed by the spec (log 10). -/
def Dev.tagFate (d : Dev) (n fate : Nat) : Dev :=
  let g := d.e n
  match g.tag with
  | none => d
  | some t =>
    let (times, d) := d.take 32
    let d := d.setE n { d.e n with tag := none }
    let d := (d.wr ENG_TAGREC0 t.pc n).wr ENG_TAGREC1 (BitVec.ofNat 32 times) n
    let d := d.wr ENG_TAGREC2 (BitVec.ofNat 32 (fate + t.dry.toNat * 8 + min 7 t.exec * 256 + 2 ^ 31)) n
    d.raise 44 n

/-! ### Rollback -/

/-- Armed slots become free again, unsent (R95). -/
def freeArmed (s : Tab Slot) : Tab Slot := s.map (fun e => if e.2.st = .armed then (e.1, { e.2 with st := .free }) else e)

/-- Restore the checkpoint and discard every deferred effect (R88, R95): the engine resumes after its WQNEXT. -/
def Dev.restore (d : Dev) (n : Nat) : Dev :=
  let g := d.e n
  match g.ck with
  | none => d
  | some c =>
    let d := (d.pmSettle n false).tagFate n 1
    let g := d.e n
    d.setE n { g with
      cpu := { g.cpu with g := c.g, pc := c.pc, fl := c.fl, bits := c.bits }
      cbuf := [], rset := [], slots := freeArmed g.slots, cyc := 0 }

/-- A conflict rollback (R105, R106): the holder of the token and an engine below its third rollback re-execute at once;
on the third the engine requests the token and waits. A software verdict goes with the execution that gave it (R188). -/
def Dev.conflict (d : Dev) (n : Nat) : Dev :=
  match (d.e n).hand with
  | none => d
  | some h =>
    let d := ((d.restore n).count ENG_CNT_CONF n).pm n 6
    let h := { h with conf := h.conf + 1, exec := h.exec + 1 }
    let g := d.e n
    if d.holdsToken n then (d.setE n { g with hand := some { h with soft := none }, run := .run }).count ENG_CNT_SERIAL n
    else if h.conf = 3 then (d.setE n { g with hand := some { h with soft := none }, run := .token }).requestToken n
    else d.setE n { g with hand := some { h with soft := none }, run := .run }

/-- The engine's drain is in progress. -/
def Eng.draining (g : Eng) : Bool :=
  match g.run with
  | .drain _ => true
  | _ => false

/-- The 32-byte line of a comb address (R91). -/
def lineOf (a : Nat) : Nat := a / 32

/-- A line is in the read set of an engine that a write rolls back: its own drain has not started (R105). -/
def Dev.reads (d : Dev) (n line : Nat) : Bool :=
  let g := d.e n
  g.dry && !g.draining && g.rset.contains line

/-- A write to the comb lines `ls` rolls back every engine that has loaded from one of them, but engine `me` (R105). -/
def Dev.conflicts (d : Dev) (me : Option Nat) (ls : List Nat) : Dev :=
  (List.range 32).foldl (fun d n => if some n != me && ls.any (d.reads n) then d.conflict n else d) d

/-- A drain in progress holds the line (R103). -/
def Dev.lineHeld (d : Dev) (line : Nat) : Bool := (List.range 32).any (fun n => (d.e n).held.contains line)

/-- A token holder re-executing has the line in its read set, so that writes by others wait (R106). -/
def Dev.lineToken (d : Dev) (me : Option Nat) (line : Nat) : Bool :=
  (List.range 32).any (fun n => some n != me && d.holdsToken n && d.reads n line)

end Sys2Proof.Machine
end

