-- ==== Sys2Proof/Machine/Mem.lean ====
section
/-!
DEFINITION. The address map's memories (chapter 06): ownership, power, integrity, and loads and stores of comb memory,
engine local memories and supervisor memories.
-/

namespace Sys2Proof.Machine

/-- The regions of Table 1-3. -/
inductive Region where
  | rom | tcm0 | tcm1 | comb
  | code (n : Nat)
  | data (n : Nat)
  | peri | journal | flashA | flashB | gap
  deriving DecidableEq, Repr

/-- The region of a system address (R15). -/
def regionOf (a : Nat) : Region :=
  if a < 0x20000 then .rom
  else if a < 0x10000000 then .gap
  else if a < 0x10080000 then .tcm0
  else if a < 0x10100000 then .gap
  else if a < 0x10180000 then .tcm1
  else if a < 0x20000000 then .gap
  else if a < 0x20400000 then .comb
  else if a < 0x30000000 then .gap
  else if a < 0x30400000 then
    let n := (a - 0x30000000) / 0x20000
    let o := (a - 0x30000000) % 0x20000
    if o < 0x10000 then .code n else if o < 0x18000 then .data n else .gap
  else if a < 0x40000000 then .gap
  else if a < 0x40A00000 then .peri
  else if a < 0x60000000 then .gap
  else if a < 0x60100000 then .journal
  else if a < 0x70000000 then .gap
  else if a < 0x80000000 then .flashA
  else if a < 0x90000000 then .flashB
  else .gap

/-- The security state of a master (Table 2-7). -/
def Dev.secure (d : Dev) : Master → Bool
  | .sv0 => true
  | .dma ch => (d.f BOOT_SECATTR_DMA_SEC).testBit ch.val
  | .stn => d.b BOOT_SECATTR_STN_SEC
  | _ => false

/-- The comb bank of a system address: a[6:3] (R198). -/
def combBank (a : Nat) : Nat := (a - 0x20000000) / 8 % 16

/-- An owner code is one of Table 6-1. -/
def ownerLegal (c : Nat) : Bool :=
  c ≤ 5 || (0x08 ≤ c && c ≤ 0x2F) || c == 0x3E || c == 0x3F

/-- An owner code includes a master (Table 6-1, R202). -/
def Dev.ownerIncl (d : Dev) (c : Nat) (m : Master) : Bool :=
  if c = 0x3F then true
  else if c = 0x3E then !d.secure m
  else if c = 0 then false
  else if c ≤ 5 then m.num == c
  else if 0x08 ≤ c && c ≤ 0x27 then m.num == c
  else if 0x28 ≤ c && c ≤ 0x2F then
    match m with
    | .sv1 => true
    | .ce n => d.cgrp n.val == c - 0x28
    | _ => false
  else false

/-- A memory's power: key b for comb bank b, 16 + 2n and 17 + 2n for engine n's code and data memory. -/
def Dev.pwr (d : Dev) (k : Nat) : MemPwr := Tab.look d.power {} k

/-- The comb bank lines of a drain in progress: a bank holds a line's words (R200). -/
def bankInLine (b line : Nat) : Bool := line * 32 / 8 % 16 ≤ b && b < line * 32 / 8 % 16 + 4

/-- A drain holds a line in bank `b`. -/
def Dev.bankDraining (d : Dev) (b : Nat) : Bool :=
  (List.range 32).any (fun n => (d.e n).held.any (bankInLine b))

/-- The commit buffer holds an entry in bank `b`. -/
def Eng.buffersBank (g : Eng) (b : Nat) : Bool :=
  g.cbuf.any (fun e => match e with
    | .word a _ _ => regionOf a == .comb && combBank a == b
    | _ => false)

/-- Engine `n` has read-set lines or commit-buffer entries in bank `b`. -/
def Dev.touchesBank (d : Dev) (b n : Nat) : Bool :=
  let g := d.e n
  g.dry && !g.draining && (g.rset.any (bankInLine b) || g.buffersBank b)

/-- A change of the bank waits: a drain is on it, or a token holder re-executing touches it (R105, R106, R203, R206). -/
def Dev.bankBusy (d : Dev) (b : Nat) : Bool :=
  d.bankDraining b || (List.range 32).any (fun n => d.holdsToken n && d.touchesBank b n)

/-- A memory is on; in transition it is not (R204), but a comb bank stays on while drains and token holders on it hold the change up
(R206). -/
def Dev.memOn (d : Dev) (k : Nat) : Bool := d.pwr k == {} || (k < 16 && (d.pwr k).cur == .on && d.bankBusy k)

/-- The power key of a region at an address; supervisor memories have none. -/
def pwrKey (a : Nat) : Option Nat :=
  match regionOf a with
  | .comb => some (combBank a)
  | .code n => some (16 + 2 * n)
  | .data n => some (17 + 2 * n)
  | _ => none

/-- The memory at an address is on; a supervisor memory always is. -/
def Dev.onAt (d : Dev) (a : Nat) : Bool :=
  match pwrKey a with
  | some k => d.memOn k
  | none => true

/-- The 4 KiB block of an address is listed in the block hash table and no later write has unhashed it (R59, R215). -/
def Dev.isHashed (d : Dev) (a : Nat) : Bool := d.hashed.contains (a / 4096) && !d.unhashed.contains (a / 4096)

/-- The size of the poison unit at an address (Table 6-4). -/
def poisonUnit (a : Nat) : Nat := if regionOf a = .comb then 8 else 4

/-- The aligned units of size `u` an access of `w` bytes at `a` touches. -/
def unitsOf (a w u : Nat) : List Nat :=
  (List.range ((a + w - 1) / u - a / u + 1)).map (fun i => (a / u + i) * u)

/-- The unit at `x` of size `u` lies wholly inside the access. -/
def unitFull (a w x u : Nat) : Bool := a ≤ x && x + u ≤ a + w

/-- The access touches a poisoned unit. -/
def Dev.hitsPoison (d : Dev) (a w : Nat) : Bool := (unitsOf a w (poisonUnit a)).any d.poison.contains

/-- The failing 32-bit words an access touches. -/
def Dev.hitsParity (d : Dev) (a w : Nat) : List Nat := (unitsOf a w 4).filter d.badPar.contains

/-- Poison the unit that holds a failing word, counting it. -/
def Dev.poisonWord (d : Dev) (x : Nat) : Dev :=
  let u := x / poisonUnit x * poisonUnit x
  ({ d with
    poison := if d.poison.contains u then d.poison else u :: d.poison
    badPar := d.badPar.filter (fun y => y / poisonUnit x != x / poisonUnit x) }).count MEM_CNT_POISON

/-- A full write clears poison and recomputes parity. -/
def Dev.cleanUnits (d : Dev) (a w : Nat) : Dev :=
  { d with
    poison := d.poison.filter (fun x => !unitFull a w x (poisonUnit a))
    badPar := d.badPar.filter (fun x => !unitFull a w x 4) }

/-- Start the integrity reloader on a block (R214): further failures wait in order of detection. -/
def Dev.startReload (d : Dev) (a num : Nat) : Dev :=
  let b := a / 4096
  if d.reloads.any (fun r => r.block == b) then d
  else ({ d with reloads := d.reloads ++ [({ block := b, attempt := 1, num := num } : Reload)] }.count MEM_CNT_PAR).latchInteg num a 1

/-- A block is failed and halts what stalls on it (R214). -/
def Dev.failBlock (d : Dev) (a num : Nat) : Dev :=
  ({ d with failed := if d.failed.contains (a / 4096) then d.failed else a / 4096 :: d.failed }).latchInteg num a 4

/-- What an access of memory comes to. -/
inductive MemRes where
  | done (data : Nat)
  | err
  | stall (block : Nat)
  deriving DecidableEq, Repr

/-- Read `w` bytes at `a` as a little-endian number. -/
def Dev.bytesNat (d : Dev) (a w : Nat) : Nat := leNat (d.bytesAt a w)

/-- A parity failure met by a load of master number `num` other than an engine's own (Table 6-4): a hashed block is
reloaded, a failed or unhashed code block fails, another word is poisoned. -/
def Dev.parityLoad (d : Dev) (num a x : Nat) : Dev × MemRes :=
  let inCode := match regionOf a with
    | .code _ => true
    | _ => false
  if d.failed.contains (x / 4096) then ((d.count MEM_CNT_PAR).failBlock x num, .err)
  else if d.isHashed x then (d.startReload x num, .stall (x / 4096))
  else if inCode then ((d.count MEM_CNT_PAR).failBlock x num, .err)
  else (((d.count MEM_CNT_PAR).poisonWord x).latchInteg num x 2, .err)

/-- A load by a master other than the owning core, or by a supervisor from its own memory (R204, R213, R216), the region's
rights already checked. -/
def Dev.memLoad (d : Dev) (num a w : Nat) : Dev × MemRes :=
  if !d.onAt a then (d.latchAcc num a 2 false, .err)
  else if d.reloads.any (fun r => r.block == a / 4096) then (d, .stall (a / 4096))
  else if d.hitsPoison a w then (d.latchAcc num a 3 false, .err)
  else
    match d.hitsParity a w with
    | x :: _ => d.parityLoad num a x
    | [] => (d, .done (d.bytesNat a w))

/-- Write `w` bytes, clearing the poison and parity of every unit written whole. -/
def Dev.putNat (d : Dev) (a w v : Nat) : Dev := (d.cleanUnits a w).setBytes a (natLe w v)

/-- A store by any master, the region's rights already checked (R204, R216). Under `num` 1 a store to code memory after
release unhashes its block (R215). -/
def Dev.memStore (d : Dev) (num a w v : Nat) : Dev × MemRes :=
  if !d.onAt a then (d.latchAcc num a 2 true, .err)
  else if d.reloads.any (fun r => r.block == a / 4096) then (d, .stall (a / 4096))
  else
    let part := (unitsOf a w (poisonUnit a)).any (fun x => d.poison.contains x && !unitFull a w x (poisonUnit a))
    if part then (d.latchAcc num a 3 true, .err)
    else
      match (d.hitsParity a w).find? (fun x => !unitFull a w x 4) with
      | some x => (((d.count MEM_CNT_PAR).poisonWord x).latchInteg num x 5, .done 0)
      | none =>
        let d := d.putNat a w v
        let d := match regionOf a with
          | .code _ => if d.boot.released && !d.unhashed.contains (a / 4096)
              then { d with unhashed := a / 4096 :: d.unhashed } else d
          | _ => d
        (d, .done 0)

/-- The owner of a comb bank admits the master; a refusal latches MEM_ACCERR (R201). -/
def Dev.bankAdmits (d : Dev) (m : Master) (a : Nat) (write : Bool) : Dev × Bool :=
  if d.ownerIncl (d.f MEM_BANKOWN_OWNER (combBank a)) m then (d, true) else (d.latchAcc m.num a 1 write, false)

/-- A comb load (R201, R204). -/
def Dev.combLoad (d : Dev) (m : Master) (a w : Nat) : Dev × MemRes :=
  match d.bankAdmits m a false with
  | (d, true) => d.memLoad m.num a w
  | (d, false) => (d, .err)

/-- The engine a master is. -/
def engOf : Master → Option Nat
  | .ce n => some n.val
  | _ => none

/-- A comb store: it rolls back the engines that read its line (R105). -/
def Dev.combStore (d : Dev) (m : Master) (a w v : Nat) : Dev × MemRes :=
  match d.bankAdmits m a true with
  | (d, false) => (d, .err)
  | (d, true) =>
    match d.memStore m.num a w v with
    | (d, .done x) => (d.conflicts (engOf m) [lineOf a], .done x)
    | r => r

/-- A comb access must wait for a drain or a token holder (R103, R106). -/
def Dev.combWaits (d : Dev) (m : Master) (a : Nat) (write : Bool) : Bool :=
  d.lineHeld (lineOf a) || (write && d.lineToken (engOf m) (lineOf a))

/-- Store a list of bytes in comb memory as one master, byte by byte; `true` when any was refused. -/
def Dev.combBytes (d : Dev) (m : Master) (a : Nat) : List Byte → Dev × Bool
  | [] => (d, false)
  | b :: bs =>
    match d.combStore m a 1 b.toNat with
    | (d, .done _) => d.combBytes m (a + 1) bs
    | (d, _) => (d, true)

/-- Store 64-bit words of bytes in comb memory. -/
def Dev.combWords (d : Dev) (m : Master) (a : Nat) : List Byte → Nat → Dev × Bool
  | _, 0 => (d, false)
  | bs, fuel + 1 =>
    if bs.isEmpty then (d, false)
    else
      match d.combStore m a 8 (leNat (bs.take 8)) with
      | (d, .done _) => d.combWords m (a + 8) (bs.drop 8) fuel
      | (d, _) => (d, true)

/-! ### Bank owners (R203, R105) -/

/-- A change of the bank counts as a write to every line of it (R105). -/
def Dev.bankConflicts (d : Dev) (b : Nat) : Dev :=
  (List.range 32).foldl (fun d n => if d.touchesBank b n then d.conflict n else d) d

/-- A write of MEM_BANKOWNb (R203): accepted from SV0 and from a master the current code includes, of a legal code; the
change then waits (BANK_OWNER_APPLY). `true` is the bus error of a refusal. -/
def Dev.wBankOwn (d : Dev) (m : Master) (b : Nat) (v : Word) : Dev × Bool :=
  let c := v.toNat % 64
  if (m = .sv0 || d.ownerIncl (d.f MEM_BANKOWN_OWNER b) m) && ownerLegal c then
    ({ d with ownPend := Tab.set d.ownPend b c }, false)
  else (d, true)

/-- A waiting owner code takes effect once nothing holds the bank, rolling back the engines affected (R203). -/
def Dev.bankOwnApply (d : Dev) (b : Nat) : Dev :=
  match d.ownPend.find? (fun e => e.1 == b) with
  | none => d
  | some e =>
    if d.bankBusy b then d
    else ({ d with ownPend := Tab.drop d.ownPend b }.bankConflicts b).setF MEM_BANKOWN_OWNER e.2 b

/-! ### Memory power (R204 to R208) -/

/-- A power code of PWR_COMBPWR: 0x3 is ignored. -/
def pwrCode (c : Nat) : Option PwrSt :=
  match c with
  | 0 => some .on
  | 1 => some .retention
  | 2 => some .off
  | _ => none

/-- The code of a power state. -/
def PwrSt.code : PwrSt → Nat
  | .on => 0
  | .retention => 1
  | .off => 2

/-- A write that names state `t` for memory `k`: it starts a transition, or is held while one is in progress (R205). -/
def Dev.pwrGo (d : Dev) (k : Nat) (t : PwrSt) : Dev :=
  let p := d.pwr k
  let p := match p.target with
    | some _ => { p with held := some t }
    | none => if p.cur = t then p else { p with target := some t }
  { d with power := Tab.put d.power {} k p }

/-- The bytes of memory `k`. -/
def pwrBytes (k a : Nat) : Bool := pwrKey a == some k

/-- Memory `k` is zero-filled: every byte 0, valid parity, no poison (Table 6-2). -/
def Dev.zeroMem (d : Dev) (k : Nat) : Dev :=
  { d with
    mem := d.mem.filter (fun e => !pwrBytes k e.1)
    poison := d.poison.filter (fun a => !pwrBytes k a)
    badPar := d.badPar.filter (fun a => !pwrBytes k a) }

/-- A power transition of memory `k` completes (R205, R206, Table 6-2): leaving on waits for drains and counts as an owner
change; leaving off fills with zero, a code memory then reloading its hashed blocks; a held write starts. -/
def Dev.pwrDone (d : Dev) (k : Nat) : Dev :=
  let p := d.pwr k
  match p.target with
  | none => d
  | some t =>
    if k < 16 && p.cur = .on && d.bankBusy k then d
    else
      let d := if k < 16 && p.cur = .on then d.bankConflicts k else d
      let d := if p.cur = .off then
          let d := d.zeroMem k
          if 16 ≤ k && k % 2 = 0 then
            (d.boot.loaded.filter (fun e => pwrBytes k e.1 && d.isHashed e.1)).foldl (fun d e => d.setByte e.1 e.2) d
          else d
        else if t = .off then d.zeroMem k else d
      let p' : MemPwr := { cur := t, target := match p.held with
        | some h => if h = t then none else some h
        | none => none }
      { d with power := Tab.put d.power {} k p' }

/-- A write of PWR_COMBPWR (R207): only the fields of banks the writer may own; `true` when any field was refused. -/
def Dev.wCombPwr (d : Dev) (m : Master) (v : Word) : Dev × Bool :=
  (List.range 16).foldl (fun (r : Dev × Bool) b =>
    let d := r.1
    let c := getBits v (2 * b) 2
    match pwrCode c with
    | none => r
    | some t =>
      if m = .sv0 || d.ownerIncl (d.f MEM_BANKOWN_OWNER b) m then
        ((d.wr PWR_COMBPWR (putBits (d.rd PWR_COMBPWR) (2 * b) 2 c)).pwrGo b t, r.2)
      else (d, r.2 || c != getBits (d.rd PWR_COMBPWR) (2 * b) 2)) (d, false)

/-- Engine `n` is in reset or halted (R208). -/
def Dev.engStopped (d : Dev) (n : Nat) : Bool :=
  match (d.e n).run with
  | .reset => true
  | .halted => true
  | .dead => true
  | _ => false

/-- A write of PWR_LMPWRk by SV0 or SV1 (R208): only the fields of engines in reset or halted. -/
def Dev.wLmPwr (d : Dev) (m : Master) (k : Nat) (v : Word) : Dev × Bool :=
  if m != .sv0 && m != .sv1 then (d, true)
  else
    (List.range 16).foldl (fun (r : Dev × Bool) j =>
      let d := r.1
      let n := 8 * k + j / 2
      let c := getBits v (2 * j) 2
      match pwrCode c with
      | none => r
      | some t =>
        if d.engStopped n then
          ((d.wr PWR_LMPWR (putBits (d.rd PWR_LMPWR k) (2 * j) 2 c) k).pwrGo (16 + 2 * n + j % 2) t, r.2)
        else (d, r.2 || c != getBits (d.rd PWR_LMPWR k) (2 * j) 2)) (d, false)

/-- PWR_COMBSTAT.BUSY. -/
def Dev.combBusy (d : Dev) : Nat :=
  (List.range 16).foldl (fun x b => if (d.pwr b).target.isSome then x + 2 ^ b else x) 0

/-- PWR_LMSTAT.BUSY: a local memory of engine n in transition or reload. -/
def Dev.lmBusy (d : Dev) : Nat :=
  (List.range 32).foldl (fun x n =>
    if (d.pwr (16 + 2 * n)).target.isSome || (d.pwr (17 + 2 * n)).target.isSome
      || d.reloads.any (fun r => regionOf (r.block * 4096) == .code n) then x + 2 ^ n else x) 0

end Sys2Proof.Machine
end

