-- ==== Sys2Proof/Machine/SwBuf.lean ====
section
/-!
DEFINITION. The packet buffer: cells, queues, drops, and the forager ring (R271, R272, R297 to R299, R303, R304, R307).
Queue numbers: 8p + c for class c of lane p, 192 + n for DMA channel n, 208 for the supervisor port.
-/

namespace Sys2Proof.Machine

/-- Cells of a frame of `n` bytes (R272). -/
def cellsOf (n : Nat) : Nat := (n + 255) / 256

/-- A queue. -/
def Dev.q (d : Dev) (i : Nat) : List QEnt := Tab.look d.swc.queues [] i

/-- Replace a queue. -/
def Dev.setQ (d : Dev) (i : Nat) (l : List QEnt) : Dev :=
  { d with swc := { d.swc with queues := Tab.put d.swc.queues [] i l } }

/-- An Ethernet lane beside its registers. -/
def Dev.lane (d : Dev) (p : Nat) : EthSt := Tab.look d.eth {} p

/-- Replace an Ethernet lane. -/
def Dev.setLane (d : Dev) (p : Nat) (l : EthSt) : Dev := { d with eth := Tab.put d.eth {} p l }

/-- Cells of a copy in transmission or preempted that queue `i` still counts. -/
def txCells (i : Nat) (p : Nat) : Option TxCur → Nat
  | some t => if i = 8 * p + t.cls then t.ent.cells else 0
  | none => 0

/-- The cells queue `i` holds. -/
def Dev.qCells (d : Dev) (i : Nat) : Nat :=
  (d.q i).foldl (fun n e => n + e.cells) 0
    + (if i < 192 then txCells i (i / 8) (d.lane (i / 8)).cur + txCells i (i / 8) (d.lane (i / 8)).held else 0)

/-- The limit of a queue, in cells. -/
def Dev.qLimit (d : Dev) (i : Nat) : Nat :=
  if i < 192 then d.f SWC_QLIMIT_LIMIT (i / 8) (i % 8)
  else if i < 208 then d.f SWC_HQLIMIT_LIMIT (i - 192)
  else d.f SWC_SVQLIMIT_LIMIT

/-- The reserve of a queue, in cells. -/
def Dev.qMin (d : Dev) (i : Nat) : Nat :=
  if i < 192 then d.f SWC_QLIMIT_MIN (i / 8) (i % 8)
  else if i < 208 then d.f SWC_HQLIMIT_MIN (i - 192)
  else d.f SWC_SVQLIMIT_MIN

/-- The status page and class index of a queue's level register (SWC_QLEVELc). -/
def qLevelOf (i : Nat) : Nat × Nat :=
  if i < 192 then (i / 8, i % 8) else if i < 208 then (27, i - 192) else (26, 0)

/-- Note the highest level of a queue or pool. -/
def Dev.noteHigh (d : Dev) (p c n : Nat) : Dev :=
  if d.f SWC_QLEVEL_HIGH p c < n then d.setF SWC_QLEVEL_HIGH n p c else d

/-- The cells of the pool of cluster port 24 or 25. -/
def Dev.pool (d : Dev) (p : Nat) : Nat := Tab.look d.swc.pools 0 p

/-- Set a pool's cells. -/
def Dev.setPool (d : Dev) (p n : Nat) : Dev := { d with swc := { d.swc with pools := Tab.put d.swc.pools 0 p n } }

/-- Free cells (SWC_BUFSTAT). -/
def Dev.freeCells (d : Dev) : Nat := d.f SWC_BUFSTAT_FREE

/-- Take cells from the free ones, noting the lowest level. -/
def Dev.takeCells (d : Dev) (n : Nat) : Dev :=
  let f := d.freeCells - n
  let d := d.setF SWC_BUFSTAT_FREE f
  if f < d.f SWC_BUFSTAT_LOW then d.setF SWC_BUFSTAT_LOW f else d

/-- Cells that admission never gives away (R444): 8 for each valid last-gasp slot, less those its frames hold. -/
def Dev.gaspReserve (d : Dev) : Nat :=
  ((List.range 4).filter (fun k => d.b SENT_LG_VALID k)).length * 8
    - d.stn.gasp.outs.foldl (fun n o =>
      match o with
      | .eth k => n + (Tab.look d.frames {} k).cells
      | _ => n) 0

/-- The free cells less the unused reserves of all queues (R297) and of the last gasp. -/
def Dev.sharedFree (d : Dev) : Nat :=
  d.freeCells - d.gaspReserve - (List.range 209).foldl (fun n i => n + (d.qMin i - d.qCells i)) 0

/-- Count a drop of code `code` at a port, raising EV073 for codes 0x03 to 0x06 and EV072 for others when enabled
(R307). -/
def Dev.swDrop (d : Dev) (p code : Nat) : Dev :=
  let d := d.count SWC_DROP p code
  if (d.rd SWC_DROPEV).getLsbD code then d.raise (if 3 ≤ code && code ≤ 6 then 73 else 72) else d

/-- Remember a drop of frame `k` for its capture record (R303). -/
def Dev.markDrop (d : Dev) (k code : Nat) : Dev :=
  let f := d.fr k
  let w := if (d.f SWC_FORCTL_DROPCAP).testBit code && !f.why.testBit 2 then f.why + 4 else f.why
  d.setFr k { f with drop := code, why := w }

/-- A drop of frame `k` at port `p`. -/
def Dev.frDrop (d : Dev) (k p code : Nat) : Dev := (d.markDrop k code).swDrop p code

/-! ### The forager ring (R303, R304) -/

/-- The ring's size: K outside 4 to 14 acts as 14. -/
def Dev.forSize (d : Dev) : Nat :=
  let k := d.f SWC_FORCTL_K
  2 ^ (if 4 ≤ k && k ≤ 14 then k else 14)

/-- The record of a frame (Table 9-6). -/
def forRecord (f : Frame) (seq : Nat) : List Byte :=
  let time := f.sof / 20 % 2 ^ 63 + (if f.sofSync then 0 else 2 ^ 63)
  let pout := match f.outs with
    | [] => 0xFF
    | [p] => p
    | _ => 0xFE
  let cls := f.tc + f.wasCt.toNat * 8 + f.wasPre.toNat * 16 + f.wasPois.toNat * 32 + f.good.toNat * 64
    + f.eng.isSome.toNat * 128
  let cap := f.bytes.take 96
  natLe 8 time ++ natLe 1 (f.sof % 20) ++ natLe 1 f.port ++ natLe 1 pout ++ natLe 1 cls ++ natLe 2 f.bytes.length
    ++ natLe 2 cap.length ++ natLe 4 f.ctx ++ natLe 2 f.qcells ++ natLe 1 f.drop ++ natLe 1 f.why ++ natLe 4 seq
    ++ natLe 4 0 ++ cap ++ List.replicate (96 - cap.length) 0

/-- Write record `seq` of captured frame `f` to the ring as master 4 (log 17), or lose it (R304). -/
def Dev.forStore (d : Dev) (f : Frame) (seq : Nat) : Dev :=
  let n := d.forSize
  let head := d.f SWC_FORIDX_HEAD % n
  let tail := d.f SWC_FORIDX_TAIL % n
  if (head + 1) % n = tail then (d.count SWC_FORLOST).raise 76
  else
    match d.combWords (.dma 0) ((d.f SWC_FORBASE_BASE / 128 * 128) + 128 * head) (forRecord f seq) 16 with
    | (d, true) => (d.count SWC_FORLOST).raise 76
    | (d, false) =>
      let d := d.setF SWC_FORIDX_HEAD ((head + 1) % n)
      if ((head + 1) % n + n - tail) % n = n / 2 then d.raise 76 else d

/-- A frame whose fate is final: a captured one is recorded, and the records are numbered (R303, R304). -/
def Dev.forWrite (d : Dev) (f : Frame) : Dev :=
  if !d.b SWC_FORCTL_EN || f.why = 0 then d
  else
    let seq := d.swc.forSeq
    ({ d with swc := { d.swc with forSeq := (seq + 1) % 2 ^ 32 } } : Dev).forStore f seq

/-! ### Holders (R272) -/

/-- One holder of frame `k` lets it go: the last one frees its cells and its fate is final (R272, R303). -/
def Dev.release (d : Dev) (k : Nat) : Dev :=
  let f := d.fr k
  if f.holders ≤ 1 then
    let d := d.setF SWC_BUFSTAT_FREE (d.freeCells + f.cells)
    (d.dropFr k).forWrite f
  else d.setFr k { f with holders := f.holders - 1 }

/-- A frame that no destination took is gone, its record written if it is captured. -/
def Dev.discardFr (d : Dev) (k : Nat) : Dev :=
  let f := d.fr k
  if f.holders = 0 then (d.dropFr k).forWrite f else d

/-- An engine lets its item's frame go: its cells leave the cluster's pool (R272, R297). -/
def Dev.releaseItem (d : Dev) (k : Nat) : Dev :=
  let f := d.fr k
  if f.port = 64 then d.dropFr k
  else
    let p := match f.eng with
      | some e => if e < 16 then 24 else 25
      | none => 24
    (d.setPool p (d.pool p - f.cells)).release k

/-- Note the frame's true size once it is complete: the cells beyond it are returned (R297). -/
def Dev.trueSize (d : Dev) (k : Nat) : Dev :=
  let f := d.fr k
  let n := cellsOf f.bytes.length
  if n < f.cells then
    let d := d.setF SWC_BUFSTAT_FREE (d.freeCells + (f.cells - n))
    let d := d.setFr k { f with cells := n }
    let fix := fun (e : QEnt) => if e.fr = k then { e with cells := min e.cells n } else e
    let d := { d with swc := { d.swc with queues := d.swc.queues.map (fun e => (e.1, e.2.map fix)) } }
    match f.eng with
    | some e =>
      let p := if e < 16 then 24 else 25
      d.setPool p (d.pool p - (f.cells - n))
    | none => d
  else d

/-! ### Class credits (R292) -/

/-- The port rate in kbit/s of an Ethernet lane. -/
def Dev.kbps (d : Dev) (p : Nat) : Nat :=
  match d.f ETH_STAT_SPEED p with
  | 0 => 10000
  | 1 => 100000
  | 2 => 1000000
  | 3 => 2500000
  | _ => 10000000

/-- Class `c` of lane `p` is in transmission. -/
def Dev.sending (d : Dev) (p c : Nat) : Bool :=
  match (d.lane p).cur with
  | some t => t.cls == c
  | none => false

/-- Class `c` of lane `p` has a frame waiting, a preempted one included. -/
def Dev.waits (d : Dev) (p c : Nat) : Bool :=
  !(d.q (8 * p + c)).isEmpty || (match (d.lane p).held with
    | some t => t.cls == c
    | none => false)

/-- The credit of class `c` of lane `p` now, in 1/20,000,000 bit (R292): it falls while sending, holds while the gate is
closed, rises at the idle slope while a frame waits, and otherwise returns to 0. -/
def Dev.credNow (d : Dev) (p c : Nat) : Int :=
  let l := d.lane p
  let x := l.cred.getD c 0
  let dt : Int := (d.wall - l.credAt : Nat)
  let idle : Int := d.f SWC_CBS_IDLE p c
  if !(d.f SWC_PCFG_CBSEN p).testBit c then 0
  else if d.sending p c then x + (idle - d.kbps p) * dt
  else if !(d.f SWC_PSTAT_GATES p).testBit c then x
  else if d.waits p c then x + idle * dt
  else min 0 (x + idle * dt)

/-- Bring the credits of lane `p` up to now, before anything they depend on changes. -/
def Dev.credRun (d : Dev) (p : Nat) : Dev :=
  d.setLane p { d.lane p with cred := (List.range 8).map (d.credNow p), credAt := d.wall }

/-! ### Admission and push-out (R297, R298) -/

/-- The class of a queue's tail frame and its cells above the reserve, for a queue the victim rule allows: its tail class
below `c`, its cells above its reserve. Frames in transmission and cut through have left their queue. -/
def Dev.victimOf (d : Dev) (c i : Nat) : Option (Nat × Nat) :=
  match (d.q i).getLast? with
  | none => none
  | some e =>
    let tc := if i < 192 then i % 8 else (d.fr e.fr).tc
    if tc < c && decide (d.qMin i < d.qCells i) then some (tc, d.qCells i - d.qMin i) else none

/-- The victim queue (R297): lowest tail class, then most cells above its reserve, then lowest queue number. -/
def Dev.victim (d : Dev) (c : Nat) : Option Nat :=
  ((List.range 209).foldl (fun (best : Option (Nat × Nat × Nat)) i =>
    match d.victimOf c i, best with
    | none, _ => best
    | some (t, x), none => some (i, t, x)
    | some (t, x), some (_, t', x') => if t < t' || (t == t' && x' < x) then some (i, t, x) else best) none).map (·.1)

/-- Remove the tail frame of a queue (R298). -/
def Dev.pushOut (d : Dev) (i : Nat) : Dev :=
  match (d.q i).getLast? with
  | none => d
  | some e =>
    let d := if i < 192 then d.credRun (i / 8) else d
    let d := d.setQ i (d.q i).dropLast
    (d.frDrop e.fr (qLevelOf i).1 0x0B).release e.fr

/-- Push out frames until `need` shared cells are free or no victim is left (R297). -/
def Dev.makeRoom (d : Dev) (c need : Nat) : Nat → Dev
  | 0 => d
  | fuel + 1 =>
    if need ≤ d.sharedFree then d
    else
      match d.victim c with
      | none => d
      | some i => (d.pushOut i).makeRoom c need fuel

/-- The admission test of R297 for a destination holding `cells` with a limit and reserve: what it answers is the drop
code, 0 when admitted. -/
def Dev.admitTest (d : Dev) (k n cells lim res cause : Nat) : Dev × Nat :=
  if lim < cells + n then (d, cause)
  else
    let f := d.fr k
    let need := if 0 < f.holders then 0 else n - (res - cells)
    if need = 0 then (d, 0)
    else
      let d := if d.sharedFree < need && d.f SWC_BUFCFG_PUSHTC ≤ f.tc then d.makeRoom f.tc need 32768 else d
      if d.sharedFree < need then (d, 0x0A) else (d, 0)

/-- Frame `k` gains a holder; the first takes its `n` cells. -/
def Dev.hold (d : Dev) (k n : Nat) : Dev :=
  let f := d.fr k
  let d := if f.holders = 0 then d.takeCells n else d
  d.setFr k { f with holders := f.holders + 1, cells := if f.holders = 0 then n else f.cells }

/-- Admit frame `k` of `n` cells to queue `i` (R297). -/
def Dev.admitFrame (d : Dev) (k n i : Nat) (e : QEnt) : Dev × Bool :=
  let (p, c) := qLevelOf i
  match d.admitTest k n (d.qCells i) (d.qLimit i) (d.qMin i) 0x09 with
  | (d, 0) =>
    let f := d.fr k
    let d := if i < 192 then d.credRun p else d
    let d := if i < 192 then d.setLane p { d.lane p with offer := d.wall } else d
    let d := if f.outs.isEmpty then d.setFr k { f with qcells := d.qCells i } else d
    let d := d.setFr k { d.fr k with outs := (d.fr k).outs ++ [p] }
    let d := (d.hold k n).setQ i (d.q i ++ [{ e with fr := k, cells := n }])
    (d.noteHigh p c (d.qCells i), true)
  | (d, code) => (d.frDrop k p code, false)

/-- Admit a steered frame to the pool of its engine's cluster and post its item (R83, R297, R298). -/
def Dev.admitEng (d : Dev) (k n e : Nat) (it : Item) : Dev × Bool :=
  let p := if e < 16 then 24 else 25
  match d.admitTest k n (d.pool p) (d.f SWC_BUFCFG_EPOOL) 0 0x0C with
  | (d, 0) =>
    match d.postItem e it with
    | (d, true) => (d.frDrop k p 0x0D, false)
    | (d, false) =>
      let d := (d.hold k n).setPool p (d.pool p + n)
      let d := d.setFr k { d.fr k with eng := some e }
      (d.noteHigh p 0 (d.pool p), true)
  | (d, code) => (d.frDrop k p code, false)

end Sys2Proof.Machine
end

