-- ==== Sys2Proof/Machine/Classify.lean ====
section
/-!
DEFINITION. Classification of frames (R274 to R290): VLAN, stream identification, rules, redundancy, filtering and
policing, destinations, and the forwarding database.
-/

namespace Sys2Proof.Machine

/-! ### Frame fields -/

/-- Bytes `o` to `o + n - 1` of a frame as a big-endian number. -/
def fieldAt (b : List Byte) (o n : Nat) : Nat := beNat ((b.drop o).take n)

/-- The destination address. -/
def daOf (b : List Byte) : Nat := fieldAt b 0 6

/-- The source address. -/
def saOf (b : List Byte) : Nat := fieldAt b 6 6

/-- The destination is broadcast. -/
def isBc (b : List Byte) : Bool := daOf b == 0xFFFFFFFFFFFF

/-- The destination is a group address. -/
def isMc (b : List Byte) : Bool := (daOf b / 2 ^ 40).testBit 0

/-- The destination lies in 01-80-C2-00-00-00 to 01-80-C2-00-00-0F (R260, R276). -/
def isReserved (b : List Byte) : Bool := 0x0180C2000000 ≤ daOf b && daOf b ≤ 0x0180C200000F

/-- The offset of the EtherType after at most two VLAN tags of either type (R277). -/
def etypeAt (b : List Byte) : Nat :=
  let t := fun o => fieldAt b o 2 == 0x8100 || fieldAt b o 2 == 0x88A8
  if t 12 then (if t 16 then 20 else 16) else 12

/-- The EtherType after the tags (R277). -/
def etypeOf (b : List Byte) : Nat := fieldAt b (etypeAt b) 2

/-- The layer-4 data of an IPv4 or IPv6 frame with TCP or UDP and no extension header (R277): IP version, protocol,
offsets of source address, destination address and ports. -/
def l4Of (b : List Byte) : Option (Nat × Nat × Nat × Nat × Nat) :=
  let o := etypeAt b + 2
  if etypeOf b = 0x0800 then
    let pr := fieldAt b (o + 9) 1
    let ihl := fieldAt b o 1 % 16 * 4
    if (pr = 6 || pr = 17) && fieldAt b (o + 6) 2 % 0x2000 == 0 then some (4, pr, o + 12, o + 16, o + ihl) else none
  else if etypeOf b = 0x86DD then
    let pr := fieldAt b (o + 6) 1
    if pr = 6 || pr = 17 then some (6, pr, o + 8, o + 24, o + 40) else none
  else none

/-! ### VLAN (R275) -/

/-- SWC_PCFG of an ingress port; the internal ports have none and act as its reset value (log 18). -/
def Dev.pcfg (d : Dev) (p : Nat) : Word := if p < 24 then d.rd SWC_PCFG p else SWC_PCFG.rst 0 0

/-- What the VLAN step resolves: VID, PCP, DEI, and whether the frame carries the outer tag it reads. -/
structure Vlan where
  vid : Nat
  pcp : Nat
  dei : Nat
  tag : Bool
  deriving DecidableEq, Repr

/-- Resolve VID and PCP at ingress port `p` (R275). -/
def Dev.vlanOf (d : Dev) (p : Nat) (b : List Byte) : Vlan :=
  let c := d.pcfg p
  let pvid := getBits c 0 12
  if fieldAt b 12 2 = (if c.getLsbD 17 then 0x88A8 else 0x8100) then
    let t := fieldAt b 14 2
    { vid := if t % 4096 = 0 then pvid else t % 4096, pcp := t / 8192, dei := t / 4096 % 2, tag := true }
  else { vid := pvid, pcp := getBits c 12 3, dei := 0, tag := false }

/-- The member ports of a VID; none when it is invalid. -/
def Dev.members (d : Dev) (v : Nat) : Nat := if d.b SWC_VLAN0_VALID v then d.f SWC_VLAN0_MEMBER v else 0

/-- The ingress check passes (R275): INGFILT = 0, or a valid VID with the port in its mask. -/
def Dev.ingressOk (d : Dev) (p v : Nat) : Bool :=
  !(d.pcfg p).getLsbD 15 || (d.b SWC_VLAN0_VALID v && (d.members v).testBit p)

/-! ### Flow contexts and rules (R277, R278, R282) -/

/-- The address of flow context `i` (Flow contexts). -/
def ctxAddr (i : Nat) : Nat := 0x40380000 + 64 * i

/-- Word `o` of context `i`. -/
def Dev.ctxW (d : Dev) (i o : Nat) : Word := d.word (ctxAddr i + o)

/-- `n` key bytes of context `i` from key offset `o`, as a big-endian number. -/
def Dev.ctxKey (d : Dev) (i o n : Nat) : Nat := beNat (d.bytesAt (ctxAddr i + 4 + o) n)

/-- Context `i` is valid. -/
def Dev.ctxValid (d : Dev) (i : Nat) : Bool := (d.byte (ctxAddr i)).getLsbD 0

/-- Context `i`, of key type `t`, matches a frame with VID `v` (R277, Table 9-3): unused key bytes must be 0. -/
def Dev.ctxMatch (d : Dev) (i t v : Nat) (b : List Byte) : Bool :=
  let w0 := d.ctxW i 0
  let rest := fun used => d.ctxKey i used (32 - used) == 0
  getBits w0 1 3 == t && (w0.getLsbD 16 || getBits w0 4 12 == v) &&
  (match t with
   | 1 => d.ctxKey i 0 6 == daOf b && rest 6
   | 2 => d.ctxKey i 0 6 == saOf b && rest 6
   | 5 => d.ctxKey i 0 2 == etypeOf b && d.ctxKey i 2 2 == fieldAt b (etypeAt b + 2) 2 && rest 4
   | _ =>
     match l4Of b with
     | none => false
     | some (ver, pr, s, t', po) =>
       let n := if ver = 4 then 4 else 16
       (ver == 4) == (t == 3) && getBits w0 17 8 == pr && d.ctxKey i 0 n == fieldAt b s n
         && d.ctxKey i n n == fieldAt b t' n && rest (2 * n)
         && getBits (d.ctxW i 0x24) 0 16 == fieldAt b po 2 && getBits (d.ctxW i 0x24) 16 16 == fieldAt b (po + 2) 2)

/-- The context that matches (R277): types 0x3 or 0x4, then 0x5, 0x1, 0x2; within a type the lowest index. -/
def Dev.findCtx (d : Dev) (v : Nat) (b : List Byte) : Option Nat :=
  let valid := (List.range 4096).filter d.ctxValid
  let l4 := match l4Of b with
    | some (ver, _) => [if ver = 4 then 3 else 4]
    | none => []
  (l4 ++ [5, 1, 2]).findSome? (fun t => valid.find? (fun i => d.ctxMatch i t v b))

/-- Rule `r` matches a frame at ingress port `p` with VID `v` (R278). -/
def Dev.ruleMatch (d : Dev) (r p v : Nat) (b : List Byte) : Bool :=
  let po := match l4Of b with
    | some (_, _, _, _, o) => some (fieldAt b (o + 2) 2)
    | none => none
  let proto := if etypeOf b = 0x0800 then some (fieldAt b (etypeAt b + 11) 1)
    else if etypeOf b = 0x86DD then some (fieldAt b (etypeAt b + 8) 1) else none
  d.b SWC_RULE0_VALID r && (d.f SWC_RULE0_PORTS r).testBit p
    && (!d.b SWC_RULE1_ETEN r || d.f SWC_RULE1_ETYPE r == etypeOf b)
    && (!d.b SWC_RULE1_VIDEN r || d.f SWC_RULE1_VID r == v)
    && (!d.b SWC_RULE1_PROTEN r || proto == some (d.f SWC_RULE2_PROTO r))
    && (!d.b SWC_RULE1_L4EN r || po == some (d.f SWC_RULE2_L4PORT r))
    && (!d.b SWC_RULE2_DAMC r || isMc b)

/-- The first valid rule that matches. -/
def Dev.findRule (d : Dev) (p v : Nat) (b : List Byte) : Option Nat :=
  (List.range 64).find? (fun r => d.ruleMatch r p v b)

/-! ### The forwarding database (R284) -/

/-- The key of a forwarding-database entry. -/
def fdbKey (vid mac : Nat) : Nat := vid * 2 ^ 48 + mac

/-- An entry of the database. -/
def Dev.fdbFind (d : Dev) (vid mac : Nat) : Option FdbEnt :=
  (d.swc.fdb.find? (fun e => e.1 == fdbKey vid mac)).map (·.2)

/-- Replace the database, FULL following it. -/
def Dev.setFdb (d : Dev) (t : Tab FdbEnt) : Dev :=
  { d with swc := { d.swc with fdb := t } }.setB SWC_FDBCMD_FULL (decide (8192 ≤ t.length))

/-- Learn or refresh a source address at a port (R284): never over a static entry, and not when the database is full. -/
def Dev.learn (d : Dev) (p v : Nat) (b : List Byte) : Dev :=
  if !(d.pcfg p).getLsbD 16 || d.b SWC_VLAN1_NOLEARN v || (saOf b / 2 ^ 40).testBit 0 then d
  else
    match d.fdbFind v (saOf b) with
    | some e =>
      if e.static then d
      else d.setFdb (Tab.set d.swc.fdb (fdbKey v (saOf b)) { e with ports := 2 ^ p, seen := d.wall })
    | none =>
      if 8192 ≤ d.swc.fdb.length then d
      else d.setFdb (Tab.set d.swc.fdb (fdbKey v (saOf b)) ⟨2 ^ p, false, d.wall⟩)

/-- The ports the forwarding database gives a frame (R276, R284): its entry's ports that are members of the VID, or a
flood to the member lanes with FLOOD = 1; never the ingress port nor ports 24 and 25. -/
def Dev.fdbPorts (d : Dev) (p v : Nat) (b : List Byte) : List Nat :=
  match d.fdbFind v (daOf b) with
  | some e => (List.range 28).filter (fun x => e.ports.testBit x && (d.members v).testBit x && x != p && x != 24 && x != 25)
  | none => (List.range 24).filter (fun x => (d.members v).testBit x && d.b SWC_PCFG_FLOOD x && x != p)

/-- The address and VID of the command registers (SWC_FDBDATA0, SWC_FDBDATA1). -/
def Dev.fdbArg (d : Dev) : Nat × Nat :=
  (d.f SWC_FDBDATA1_VID, d.f SWC_FDBDATA1_MACHI * 2 ^ 32 + (d.rd SWC_FDBDATA0).toNat)

/-- A write of SWC_FDBCMD (R284): a command runs at once and stays BUSY until done; `true` is the bus error while BUSY. -/
def Dev.fdbCmd (d : Dev) (op : Nat) : Dev × Bool :=
  if d.b SWC_FDBCMD_BUSY then (d, true)
  else
    let (vid, mac) := d.fdbArg
    match op with
    | 1 =>
      let full := decide (8192 ≤ d.swc.fdb.length) && (d.fdbFind vid mac).isNone
      let d := if full then d else d.setFdb (Tab.set d.swc.fdb (fdbKey vid mac) ⟨d.f SWC_FDBDATA2_PORTS, true, d.wall⟩)
      (d.setB SWC_FDBCMD_BUSY true, false)
    | 2 =>
      let found := (d.fdbFind vid mac).isSome
      let d := d.setFdb (Tab.drop d.swc.fdb (fdbKey vid mac))
      ((d.setB SWC_FDBCMD_FOUND found).setB SWC_FDBCMD_BUSY true, false)
    | 3 =>
      let d := match d.fdbFind vid mac with
        | some e =>
          (d.wr SWC_FDBDATA2 (BitVec.ofNat 32 (e.ports % 2 ^ 28 + e.static.toNat * 2 ^ 31))).setB SWC_FDBCMD_FOUND true
        | none => d.setB SWC_FDBCMD_FOUND false
      (d.setB SWC_FDBCMD_BUSY true, false)
    | 4 => ((d.setFdb (d.swc.fdb.filter (fun e => e.2.static))).setB SWC_FDBCMD_BUSY true, false)
    | _ => (d, false)

/-- A command of the database completes (SWC_FDBCMD). -/
def Dev.fdbDone (d : Dev) : Dev := d.setB SWC_FDBCMD_BUSY false

/-- A dynamic entry without a refresh for at least AGE seconds is removed (R284). -/
def Dev.fdbAge (d : Dev) (vid mac : Nat) : Dev :=
  match d.fdbFind vid mac with
  | some e =>
    let age := d.f SWC_CTL_AGE
    if !e.static && age != 0 && decide (e.seen + age * wallSecond ≤ d.wall) then
      d.setFdb (Tab.drop d.swc.fdb (fdbKey vid mac))
    else d
  | none => d

/-! ### Redundancy (R288, R289, R290) -/

/-- Two lanes are of equal speed; a lane without a link has none to compare (log 22). -/
def Dev.equalSpeed (d : Dev) (a b : Nat) : Bool :=
  !d.b ETH_STAT_LINK a || !d.b ETH_STAT_LINK b || d.f ETH_STAT_SPEED a == d.f ETH_STAT_SPEED b

/-- A pair's configuration is valid and on: its lanes differ, are Ethernet lanes of equal speed, and are in no lower pair. -/
def Dev.redMode (d : Dev) (k : Nat) : Nat :=
  let a := d.f SWC_RED_CFG_LANEA k
  let b := d.f SWC_RED_CFG_LANEB k
  let m := d.f SWC_RED_CFG_MODE k
  let used := fun l => (List.range k).any (fun j =>
    (d.f SWC_RED_CFG_MODE j == 1 || d.f SWC_RED_CFG_MODE j == 2)
      && (d.f SWC_RED_CFG_LANEA j == l || d.f SWC_RED_CFG_LANEB j == l))
  if (m = 1 || m = 2) && a != b && a < 24 && b < 24 && d.equalSpeed a b
      && !used a && !used b then m else 0

/-- Pair `k` is to run and its configuration is invalid, so that it acts as MODE = 0x0. -/
def Dev.redBad (d : Dev) (k : Nat) : Bool := (d.f SWC_RED_CFG_MODE k == 1 || d.f SWC_RED_CFG_MODE k == 2) && d.redMode k == 0

/-- EV074 for the pairs whose configuration a change from `d` to `d'` has made invalid, or that are in `ks` and invalid (R290; log 22). -/
def Dev.redJudge (d d' : Dev) (ks : List Nat) : Dev :=
  if (List.range 4).any (fun k => d'.redBad k && (ks.contains k || !d.redBad k)) then d'.raise 74 else d'

/-- The pair an Ethernet lane is in, and whether it is lane A. -/
def Dev.pairOf (d : Dev) (p : Nat) : Option (Nat × Bool) :=
  ((List.range 4).find? (fun k =>
    d.redMode k != 0 && (d.f SWC_RED_CFG_LANEA k == p || d.f SWC_RED_CFG_LANEB k == p))).map
    (fun k => (k, d.f SWC_RED_CFG_LANEA k == p))

/-- The redundancy tag of a frame on a pair (R289), its check sequence already removed: its sequence number and the frame
without it. -/
def redTag (mode : Nat) (b : List Byte) : Option (Nat × List Byte) :=
  if mode = 2 then
    if fieldAt b 12 2 = 0x892F then some (fieldAt b 16 2, b.take 12 ++ b.drop 18) else none
  else
    let n := b.length
    if 6 ≤ n && fieldAt b (n - 2) 2 == 0x88FB && (fieldAt b (n - 4) 1 / 16 == 0xA || fieldAt b (n - 4) 1 / 16 == 0xB)
    then some (fieldAt b (n - 6) 2, b.take (n - 6)) else none

/-- The duplicate table of pair `k`, entries older than ENTRYMS forgotten. -/
def Dev.dupTab (d : Dev) (k : Nat) : List DupEnt :=
  (Tab.look d.swc.dup [] k).filter (fun e => decide (d.wall < e.at' + d.f SWC_RED_TIME_ENTRYMS k * 20000000))

/-- Replace a duplicate table. -/
def Dev.setDup (d : Dev) (k : Nat) (l : List DupEnt) : Dev := { d with swc := { d.swc with dup := Tab.put d.swc.dup [] k l } }

/-- Duplicate discard (R289): the first copy passes and enters the table, whose oldest entry gives way; a later copy is
dropped with code 0x08. -/
def Dev.dupCheck (d : Dev) (k src seq : Nat) : Dev × Bool :=
  let t := d.dupTab k
  if t.any (fun e => e.src == src && e.seq == seq) then (d.count SWC_RED_DUP k, false)
  else (d.setDup k ((if t.length < 1024 then t else t.drop 1) ++ [⟨src, seq, d.wall⟩]), true)

/-- A duplicate-table entry is forgotten after ENTRYMS (R289). -/
def Dev.dupExpire (d : Dev) (k src seq : Nat) : Dev :=
  d.setDup k ((Tab.look d.swc.dup [] k).filter (fun e =>
    !(e.src == src && e.seq == seq && decide (e.at' + d.f SWC_RED_TIME_ENTRYMS k * 20000000 ≤ d.wall))))

/-- The history length of a recovery function: outside 2 to 32 it acts as 32. -/
def Dev.srecHist (d : Dev) (n : Nat) : Nat :=
  let h := d.f SWC_SREC_CFG_HIST n
  if 2 ≤ h && h ≤ 32 then h else 32

/-- A recovery function's state; no frame passed for RESETMS resets it (R288). -/
def Dev.srec (d : Dev) (n : Nat) : Srec := Tab.look d.swc.srec {} n

/-- Replace a recovery function's state. -/
def Dev.setSrec (d : Dev) (n : Nat) (s : Srec) : Dev := { d with swc := { d.swc with srec := Tab.put d.swc.srec {} n s } }

/-- The function has passed no frame for RESETMS. -/
def Dev.srecStale (d : Dev) (n : Nat) : Bool :=
  let s := d.srec n
  !s.any && decide (s.pass + d.f SWC_SREC_CFG_RESETMS n * 20000000 ≤ d.wall)

/-- A recovery function resets and accepts the next number; EV074 (R288, R290). -/
def Dev.srecReset (d : Dev) (n : Nat) : Dev := if d.srecStale n then (d.setSrec n {}).raise 74 else d

/-- Pass a frame: count it and note the time. -/
def Dev.srecPass (d : Dev) (n : Nat) (s : Srec) : Dev × Bool :=
  ((d.setSrec n { s with any := false, pass := d.wall }).count SWC_SREC_PASS n, true)

/-- Discard a frame, `rogue` ones counted too. -/
def Dev.srecDisc (d : Dev) (n : Nat) (rogue : Bool) : Dev × Bool :=
  let d := d.count SWC_SREC_DISC n
  (if rogue then d.countF SWC_SREC_ERR_ROGUE n else d, false)

/-- Sequence recovery of a frame whose R-TAG carries `seq` (R288): the vector algorithm over HIST numbers, or the match
algorithm; a frame with no R-TAG passes when TAKENOSEQ = 1 and is rogue otherwise. -/
def Dev.srecCheck (d : Dev) (n : Nat) (seq : Option Nat) : Dev × Bool :=
  let d := d.srecReset n
  let s := d.srec n
  match seq with
  | none => if d.b SWC_SREC_CFG_TAKENOSEQ n then d.srecPass n s else d.srecDisc n true
  | some q =>
    let h := d.srecHist n
    if s.any then d.srecPass n { s with seq := q, hist := true :: List.replicate (h - 1) false }
    else if d.b SWC_SREC_CFG_ALG n then
      if q = s.seq then d.srecDisc n false else d.srecPass n { s with seq := q }
    else
      let up := (q + 65536 - s.seq) % 65536
      if up < 32768 && up != 0 then
        if h ≤ up then d.srecDisc n true
        else
          let old := s.hist ++ List.replicate h false
          let lost := ((old.take h).drop (h - up)).foldl (fun x b => if b then x else x + 1) 0
          let d := if lost = 0 then d else (d.countF SWC_SREC_ERR_LOST n 0 lost).raise 74
          d.srecPass n { s with seq := q, hist := (true :: List.replicate (up - 1) false ++ s.hist).take h }
      else
        let down := (65536 - up) % 65536
        if h ≤ down then d.srecDisc n true
        else if s.hist.getD down false then d.srecDisc n false
        else d.srecPass n { s with hist := s.hist.set down true }

/-- The R-TAG of a frame without its outer VLAN tag: its number and the frame without it (R288). -/
def rTag (b : List Byte) : Option (Nat × List Byte) :=
  if fieldAt b 12 2 = 0xF1C1 then some (fieldAt b 16 2, b.take 12 ++ b.drop 18) else none

/-! ### Policing (R285, R287) -/

/-- A stream gate is open: entry 0 with INTERVAL 0 leaves it open (R286). -/
def Dev.sgateOpen (d : Dev) (g : Nat) : Bool :=
  if d.f SWC_SGATE_INTERVAL g 0 = 0 then true
  else d.b SWC_SGATE_OPEN g (Tab.look d.swc.sgate {} g).entry

/-- The scale of the buckets: units in one byte or one bit. -/
def bucketUnit : Nat := 20000000

/-- Meter `m` colours a frame of `len` bytes (R287): 0 green, 1 yellow, 2 red. -/
def Dev.meter (d : Dev) (m len : Nat) : Dev × Nat :=
  let s := Tab.look d.swc.meters {} m
  let dt := d.wall - s.at'
  let gain := d.f SWC_METER0_CIR m * dt
  let cbs := d.f SWC_METER1_CBS m * bucketUnit
  let ebs := d.f SWC_METER3_EBS m * bucketUnit
  let cdef := min cbs (s.cdef - gain)
  let spill := if d.b SWC_METER3_CF m then gain - s.cdef else 0
  let edef := min ebs (s.edef - (d.f SWC_METER2_EIR m * dt + spill))
  let l := len * bucketUnit
  let put := fun (c e : Nat) => { d with swc := { d.swc with meters := Tab.set d.swc.meters m ⟨c, e, d.wall⟩ } }
  if d.f SWC_METER0_CIR m = 0 && d.f SWC_METER2_EIR m = 0 then (put cdef edef, 2)
  else if cdef + l ≤ cbs then (put (cdef + l) edef, 0)
  else if edef + l ≤ ebs then (put cdef (edef + l), 1)
  else (put cdef edef, 2)

/-- The MAXSDU word of a context. -/
def Dev.ctxPol (d : Dev) (i : Nat) : Word := d.ctxW i 0x30

/-- An oversize frame blocks the stream (R285). -/
def Dev.ctxBlock (d : Dev) (i : Nat) : Dev :=
  let w := d.ctxPol i
  if w.getLsbD 14 then d.setWord (ctxAddr i + 0x30) (w ||| 0x8000) else d

/-- Per-stream filtering and policing of a frame of `len` bytes of which `seen` have arrived (R285): the drop code, 0 when
it passes, and whether it passed MAXSDU only provisionally. -/
def Dev.police (d : Dev) (i len seen : Nat) : Dev × Nat × Bool :=
  let w := d.ctxPol i
  let sdu := getBits w 0 14
  if w.getLsbD 15 then (d, 4, false)
  else if sdu ≠ 0 && sdu < len && sdu < seen then (d.ctxBlock i, 3, false)
  else if w.getLsbD 21 && !d.sgateOpen (getBits w 16 5) then (d, 5, false)
  else
    let late := sdu != 0 && decide (sdu < len)
    if w.getLsbD 31 then
      let m := getBits w 22 9
      match d.meter m len with
      | (d, 0) => (d, 0, late)
      | (d, 1) => if d.b SWC_METER3_DROPYEL m then (d, 6, false) else (d, 0, late)
      | (d, _) => (d, 6, false)
    else (d, 0, late)

end Sys2Proof.Machine
end

