-- ==== Sys2Proof/Machine/Ptp.lean ====
section
/-!
DEFINITION. PTP event messages on the Ethernet lanes (R331 to R335): recognition, stamp-queue entries, transparent
correction and one-step completion.
-/

namespace Sys2Proof.Machine

/-- A PTP event message in a frame: the offset of its header, and the offset of its UDP header with the IP version. -/
structure PtpMsg where
  hdr : Nat
  udp : Option (Nat × Nat)
  deriving DecidableEq, Repr

/-- The offset past up to two VLAN tags and an HSR tag (R331). -/
def ptpSkip (b : List Byte) (o vlans : Nat) (hsr : Bool) : Nat → Nat
  | 0 => o
  | fuel + 1 =>
    let t := fieldAt b o 2
    if (t = 0x8100 || t = 0x88A8) && 0 < vlans then ptpSkip b (o + 4) (vlans - 1) hsr fuel
    else if t = 0x892F && hsr then ptpSkip b (o + 6) vlans false fuel
    else o

/-- The event message a frame carries (R331). -/
def ptpOf (b : List Byte) : Option PtpMsg :=
  let o := ptpSkip b 12 2 true 3
  let t := fieldAt b o 2
  let m : Option PtpMsg :=
    if t = 0x88F7 then some ⟨o + 2, none⟩
    else if t = 0x0800 && fieldAt b (o + 11) 1 = 17 then
      let u := o + 2 + fieldAt b (o + 2) 1 % 16 * 4
      if fieldAt b (u + 2) 2 = 319 then some ⟨u + 8, some (u, 4)⟩ else none
    else if t = 0x86DD && fieldAt b (o + 8) 1 = 17 then
      if fieldAt b (o + 44) 2 = 319 then some ⟨o + 50, some (o + 42, 6)⟩ else none
    else none
  match m with
  | some x => if fieldAt b x.hdr 1 % 16 ≤ 3 && decide (x.hdr + 34 ≤ b.length) then some x else none
  | none => none

/-- messageType of an event message: 0 Sync, 1 Delay_Req, 2 Pdelay_Req, 3 Pdelay_Resp. -/
def ptpType (b : List Byte) (m : PtpMsg) : Nat := fieldAt b m.hdr 1 % 16

/-- majorSdoId. -/
def ptpSdo (b : List Byte) (m : PtpMsg) : Nat := fieldAt b m.hdr 1 / 16

/-- domainNumber. -/
def ptpDomain (b : List Byte) (m : PtpMsg) : Nat := fieldAt b (m.hdr + 4) 1

/-- twoStepFlag. -/
def ptpTwoStep (b : List Byte) (m : PtpMsg) : Bool := (fieldAt b (m.hdr + 6) 1).testBit 1

/-- correctionField. -/
def ptpCf (b : List Byte) (m : PtpMsg) : Nat := fieldAt b (m.hdr + 8) 8

/-- The message is carried over UDP/IPv6. -/
def PtpMsg.v6 (m : PtpMsg) : Bool :=
  match m.udp with
  | some (_, 6) => true
  | _ => false

/-- The domain clock that claims a message (R311), DC0 first. -/
def Dev.ptpClock (d : Dev) (b : List Byte) (m : PtpMsg) : Option Nat :=
  (List.range 2).find? (fun k => d.b DC_CFG_EN k && d.f DC_CFG_SDOID k == ptpSdo b m && d.f DC_CFG_DOMAIN k == ptpDomain b m)

/-- A clock value in units of 50 ps. -/
def clock50 (v : Nat) : Nat := v * 20 / tbUnit

/-- The stamp now less or plus a path delay, in 50 ps, of the clock of a message: a domain clock or the time base. -/
def Dev.ptpStamp (d : Dev) (k : Option Nat) (delay : Int) : Nat :=
  let v : Int := match k with
    | some k => clock50 (d.dc k).val
    | none => d.stamp
  (v + delay).toNat

/-- The receive path delay of lane `p` in 50 ps (Table 10-4). -/
def Dev.rxDelay (d : Dev) (p : Nat) : Int :=
  ((d.calRx p).toInt + (if p < 16 then 0 else (d.rd TIME_EXTRX p).toInt)) / 50

/-- The transmit path delay of lane `p` in 50 ps (Table 10-4). -/
def Dev.txDelay (d : Dev) (p : Nat) : Int :=
  ((d.calTx p).toInt + (if p < 16 then 0 else (d.rd TIME_EXTTX p).toInt)) / 50

/-- The stamp-queue entry of a message on lane `p` (Table 10-17), stamped `at50` in its clock. -/
def Dev.tsqEntry (d : Dev) (p : Nat) (tx : Bool) (b : List Byte) (m : PtpMsg) (at50 : Nat) : TsqEnt :=
  { w0 := BitVec.ofNat 32 (p + tx.toNat * 32 + (d.ptpClock b m).getD 2 * 64 + ptpType b m * 256 + d.calState p * 4096
      + fieldAt b (m.hdr + 30) 2 * 65536)
    stamp := ⟨at50 / 20, at50 % 20⟩
    dom := BitVec.ofNat 32 (ptpDomain b m * 256 + ptpSdo b m * 65536) }

/-- Lane `p` receives a frame: an event message takes its stamp (R332). -/
def Dev.ptpRx (d : Dev) (p : Nat) (b : List Byte) : Dev :=
  match ptpOf b with
  | some m =>
    if d.b TIME_LCFG_TSEN p then d.tsqPut (d.tsqEntry p false b m (d.ptpStamp (d.ptpClock b m) (-(d.rxDelay p)))) else d
  | none => d

/-- Lane `p` starts a frame from the supervisor port: the messages of R332 take their stamp; a one-step message over IPv6
counts as two-step (R335). -/
def Dev.ptpTx (d : Dev) (p : Nat) (b : List Byte) : Dev :=
  match ptpOf b with
  | some m =>
    let two := ptpTwoStep b m || m.v6
    let t := ptpType b m
    if d.b TIME_LCFG_TSEN p && (t = 1 || t = 2 || two) then
      d.tsqPut (d.tsqEntry p true b m (d.ptpStamp (d.ptpClock b m) (d.txDelay p)))
    else d
  | none => d

/-- Bytes replaced from offset `o`. -/
def patch (b : List Byte) (o : Nat) (v : List Byte) : List Byte := b.take o ++ v ++ b.drop (o + v.length)

/-- A changed message over UDP/IPv4 has UDP checksum 0 (R335). -/
def ptpUdp0 (b : List Byte) (m : PtpMsg) : List Byte :=
  match m.udp with
  | some (u, _) => patch b (u + 6) [0, 0]
  | none => b

/-- A message with correctionField `cf` and no UDP checksum. -/
def ptpSetCf (b : List Byte) (m : PtpMsg) (cf : Nat) : List Byte := ptpUdp0 (patch b (m.hdr + 8) (natBe 8 cf)) m

/-- The residence time of a message in 2^-16 ns, rounded to the nearest (R333): `res` counts 50 ps. -/
def Dev.ptpResidence (d : Dev) (k : Option Nat) (res : Int) : Int :=
  let (n, m) : Int × Int := match k with
    | some k => if d.b DC_CFG_RRCOR k then (2 ^ 40 + clampRate (d.rd DC_RATE k), 2 ^ 40 + d.rateWord.toInt) else (1, 1)
    | none => (1, 1)
  (res * 65536 * n * 2 + 20 * m) / (40 * m)

/-- Transparent correction of a frame from lane `a`, received at `i` (50 ps), that starts on lane `p` now (R333). -/
def Dev.ptpTransparent (d : Dev) (a p i : Nat) (b : List Byte) : List Byte :=
  match ptpOf b with
  | none => b
  | some m =>
    let t := ptpType b m
    if 1 < t || m.v6 || !d.b TIME_LCFG_TC a || !d.b TIME_LCFG_TC p then b
    else
      let add := d.ptpResidence (d.ptpClock b m) (((d.stamp : Int) + d.txDelay p) - i)
      let add := if t = 0 then
          add + (if d.b TIME_LCFG_P2P a then ((d.rd TIME_LINKDLY a).toNat : Int) else 0) + (d.rd TIME_ASYM a).toInt
        else add - (d.rd TIME_ASYM p).toInt
      ptpSetCf b m (((ptpCf b m : Int) + add) % 2 ^ 64).toNat

/-- One-step completion on lane `p` of a message sent from the supervisor port with DIRECT = 1 (R334). -/
def Dev.ptpOneStep (d : Dev) (p : Nat) (b : List Byte) : List Byte :=
  match ptpOf b with
  | none => b
  | some m =>
    if !d.b TIME_LCFG_ONESTEP p || ptpTwoStep b m || m.v6 then b
    else
      let e := d.ptpStamp (d.ptpClock b m) (d.txDelay p)
      if ptpType b m = 0 then
        let ns := e / 20
        let b := patch b (m.hdr + 34) (natBe 6 (ns / 10 ^ 9) ++ natBe 4 (ns % 10 ^ 9))
        ptpSetCf b m ((ptpCf b m + (e % 20 * 65536 + 10) / 20) % 2 ^ 64)
      else if ptpType b m = 3 then ptpSetCf b m ((ptpCf b m + (e * 65536 + 10) / 20) % 2 ^ 64)
      else b

end Sys2Proof.Machine
end

