-- ==== Sys2Proof/Machine/Egress.lean ====
section
/-!
DEFINITION. Transmission on the Ethernet lanes (R256 to R258, R275, R288, R289, R291 to R296): composing a frame, gates and
windows, transmission selection, preemption.
-/

namespace Sys2Proof.Machine

/-! ### Events and counters of a lane -/

/-- Set bit `b` of ETH_EVSTAT of lane `p` (R270). -/
def Dev.ethEv (d : Dev) (p b : Nat) : Dev := d.evBit ⟨ETH_EVSTAT, b, 1⟩ ⟨ETH_EVEN, b, 1⟩ p (48 + p) 0

/-- Count in a 32-bit counter of lane `p`; CNTSAT when it reaches 0xFFFF_FFFF (R269). -/
def Dev.ethCount (d : Dev) (r : Reg) (p : Nat) (n : Nat := 1) : Dev :=
  let was := d.rd r p
  let d := d.count r p 0 n
  if was != 0xFFFFFFFF && d.rd r p == 0xFFFFFFFF then d.ethEv p 6 else d

/-- Add to a 64-bit octet counter, which wraps (R269). -/
def Dev.octets (d : Dev) (lo hi : Reg) (p n : Nat) : Dev :=
  let v := wide64 (d.rd lo p) (d.rd hi p) + n
  (d.wr lo (BitVec.ofNat 32 v) p).wr hi (BitVec.ofNat 32 (v / 2 ^ 32)) p

/-- The bit time of lane `p` in units of 50 ps. -/
def Dev.bitTime (d : Dev) (p : Nat) : Nat :=
  match d.f ETH_STAT_SPEED p with
  | 0 => 2000
  | 1 => 200
  | 2 => 20
  | 3 => 8
  | _ => 2

/-- The lane discards what is offered to it (R258). -/
def Dev.txDead (d : Dev) (p : Nat) : Bool := !d.b ETH_STAT_LINK p || !d.b ETH_CTL_EN p

/-! ### Composing a frame -/

/-- HSR tag or PRP trailer around a frame of header `hd` and rest `tl` (R289; the LSDU size and the path identifier as in
IEC 62439-3, log 19). -/
def Dev.redCompose (d : Dev) (k n p : Nat) (hd tl : List Byte) (tagged : Bool) : List Byte :=
  let b := d.f SWC_RED_CFG_LANEB k == p
  if d.redMode k = 2 then
    let size := tl.length + 6 + 12 - 14 - (if tagged then 4 else 0)
    hd ++ natBe 2 0x892F ++ natBe 2 ((d.f SWC_RED_CFG_NETID k * 2 + b.toNat) % 16 * 4096 + size % 4096) ++ natBe 2 n ++ tl
  else if d.redMode k = 1 then
    let f := hd ++ tl
    let f := f ++ List.replicate (54 - f.length) 0
    let size := f.length + 6 - 14 - (if tagged then 4 else 0)
    f ++ natBe 2 n ++ natBe 2 ((if b then 0xB else 0xA) * 4096 + size % 4096) ++ natBe 2 0x88FB
  else hd ++ tl

/-- The bytes of a queued copy on lane `p`, before any change by the time block: without check sequence, not padded (R256,
R275, R288, R289). -/
def Dev.composeRaw (d : Dev) (p : Nat) (e : QEnt) : List Byte :=
  let f := d.fr e.fr
  if e.raw then f.bytes.take (f.bytes.length - 4)
  else
    let untag := (d.f SWC_VLAN1_UNTAG f.vid).testBit p
    let vl := if untag then [] else
      natBe 2 (if d.b SWC_PCFG_STAG p then 0x88A8 else 0x8100) ++ natBe 2 (f.pcp * 8192 + f.dei * 4096 + f.vid)
    let rt := match f.rseq with
      | some n => if d.b SWC_PCFG_RTAG p then natBe 2 0xF1C1 ++ [0, 0] ++ natBe 2 n else []
      | none => []
    let hd := f.core.take 12
    let tl := vl ++ rt ++ f.core.drop 12
    match e.red with
    | some (k, n) => d.redCompose k n p hd tl (!untag)
    | none => hd ++ tl

/-- One bit of CRC-32, reflected. -/
def crc32Bit (c : Word) : Word := if c.getLsbD 0 then (c >>> 1) ^^^ 0xEDB88320 else c >>> 1

/-- One byte of CRC-32. -/
def crc32Byte (c : Word) (b : Byte) : Word :=
  let c := c ^^^ b.setWidth 32
  crc32Bit (crc32Bit (crc32Bit (crc32Bit (crc32Bit (crc32Bit (crc32Bit (crc32Bit c)))))))

/-- The frame check sequence of IEEE 802.3, in the order sent; `bad` inverts it (R99). -/
def ethFcs (b : List Byte) (bad : Bool) : List Byte :=
  let c := b.foldl crc32Byte 0xFFFFFFFF
  natLe 4 (if bad then c else ~~~c).toNat

/-- Padded with zero bytes to 60 (R256). -/
def pad60 (b : List Byte) : List Byte := b ++ List.replicate (60 - b.length) 0

/-- The bytes of a copy that starts on lane `p` now (R333, R334). -/
def Dev.compose (d : Dev) (p : Nat) (e : QEnt) : List Byte :=
  let f := d.fr e.fr
  let b := d.composeRaw p e
  let b := if e.mirror || 24 ≤ f.port then b else d.ptpTransparent f.port p f.sof b
  pad60 (if e.sup && e.raw then d.ptpOneStep p b else b)

/-! ### Gate lists and windows (R293, R295) -/

/-- The entries of lane `p`'s list: gates and interval, those below 64 ns acting as 64. -/
def Dev.gclEnts (d : Dev) (p : Nat) : List (Nat × Nat) :=
  (((List.range 256).map (fun e => (d.f SWC_GCLE_GATES p e, d.f SWC_GCLE_INTERVAL p e))).takeWhile (fun x => x.2 != 0)).map
    (fun x => (x.1, max 64 x.2))

/-- The list fitted to a cycle of `len` ns: (end of segment, gates), cut at the cycle's end, the last entry holding. -/
def gclSegs (len : Nat) : Nat → List (Nat × Nat) → List (Nat × Nat)
  | _, [] => []
  | _, [(g, _)] => [(len, g)]
  | a, (g, i) :: es => if len ≤ a + i then [(len, g)] else (a + i, g) :: gclSegs len (a + i) es

/-- The first instant after `now` at which class `c` is closed, in a cycle that starts at `a`. -/
def segClose (a now c : Nat) : Nat → List (Nat × Nat) → Option Nat
  | _, [] => none
  | s, (e, g) :: rest => if now < a + e && !g.testBit c then some (max (a + s) now) else segClose a now c e rest

/-- When the gate of class `c` on lane `p` next closes, in ns; `none` for never. -/
def Dev.gateClose (d : Dev) (p c : Nat) : Option Nat :=
  let ents := d.gclEnts p
  if !d.b SWC_GCLCTL_EN p || ents.isEmpty then none
  else
    let cyc := d.gclCycle p
    let st := d.gclSt p
    let a := if st.on then st.start else seriesAtOrAfter (d.gclBase p) cyc d.ns
    let l := if st.on then seriesAtOrAfter (d.gclBase p) cyc (st.start + 1) - st.start else cyc
    [(a, l), (a + l, cyc), (a + l + cyc, cyc)].findSome? (fun x => segClose x.1 d.ns c 0 (gclSegs x.2 0 ents))

/-- The longest run of open segments: the run so far, the best so far. -/
def openRun (c : Nat) : Nat → Nat → Nat → List (Nat × Nat) → Nat
  | _, _, best, [] => best
  | s, run, best, (e, g) :: rest =>
    let run := if g.testBit c then run + (e - s) else 0
    openRun c e run (max best run) rest

/-- The longest open window of class `c` in one cycle, a window over the cycle start being one; `none` when the gate is
open throughout (R293). -/
def Dev.longestWindow (d : Dev) (p c : Nat) : Option Nat :=
  let ents := d.gclEnts p
  if !d.b SWC_GCLCTL_EN p || ents.isEmpty then none
  else
    let cyc := d.gclCycle p
    let segs := gclSegs cyc 0 ents
    if segs.all (fun x => x.2.testBit c) then none
    else some (openRun c 0 0 0 (segs ++ segs.map (fun x => (x.1 + cyc, x.2))))

/-- Preemptable transmission is in use (R267). -/
def Dev.mmActive (d : Dev) (p : Nat) : Bool := d.b ETH_MMCTL_ACTIVE p

/-- Class `c` is express on lane `p` (R294). -/
def Dev.isExpress (d : Dev) (p c : Nat) : Bool := !(d.mmActive p && (d.f SWC_PREEMPT_PMASK p).testBit c)

/-- The line time of a frame of `len` bytes, check sequence included, with its preamble, in 50 ps. -/
def Dev.txDur (d : Dev) (p len : Nat) : Nat := (8 + len) * 8 * d.bitTime p

/-- The gate check of R293 for a frame of `len` bytes in class `c`. -/
def Dev.windowOk (d : Dev) (p c len : Nat) : Bool :=
  !d.isExpress p c || (match d.gateClose p c with
    | some t => decide (d.stamp + d.txDur p len ≤ t * 20)
    | none => true)

/-- The frame can pass the gate check in no window (R293). -/
def Dev.neverFits (d : Dev) (p c len : Nat) : Bool :=
  d.isExpress p c && (match d.longestWindow p c with
    | some w => decide (w * 20 < d.txDur p len)
    | none => false)

/-- The gate of class `c` is open. -/
def Dev.gateOpen (d : Dev) (p c : Nat) : Bool := (d.f SWC_PSTAT_GATES p).testBit c

/-- The head of class `c`'s queue, once the frame is complete. -/
def Dev.headOf (d : Dev) (p c : Nat) : Option QEnt :=
  match (d.q (8 * p + c)).head? with
  | some e => if (d.fr e.fr).ended then some e else none
  | none => none

/-- The length of a copy on the line, check sequence included. -/
def Dev.entLen (d : Dev) (p : Nat) (e : QEnt) : Nat := (pad60 (d.composeRaw p e)).length + 4

/-- Class `c` of lane `p` is eligible (R291). -/
def Dev.eligible (d : Dev) (p c : Nat) : Bool :=
  match d.headOf p c with
  | none => false
  | some e =>
    d.gateOpen p c && (!(d.f SWC_PCFG_CBSEN p).testBit c || decide (0 ≤ d.credNow p c)) && d.windowOk p c (d.entLen p e)

/-! ### Starting, ending, discarding -/

/-- The slot or buffer a copy came from is free (R98). -/
def Dev.freeSrc (d : Dev) (s : Src) : Dev :=
  match s with
  | .slot e k =>
    let g := d.e e
    d.setE e { g with slots := g.slots.map (fun x => if x.1 = k && x.2.st = .queued then (x.1, { x.2 with st := .free }) else x) }
  | _ => d

/-- A copy leaves for good: its source is freed and its frame has one holder fewer. -/
def Dev.dropEnt (d : Dev) (e : QEnt) : Dev := (d.freeSrc e.src).release e.fr

/-- Take the head of class `c` from its queue. -/
def Dev.popHead (d : Dev) (p c : Nat) : Dev := (d.credRun p).setQ (8 * p + c) ((d.q (8 * p + c)).drop 1)

/-- Put a frame in transmission on lane `p`. -/
def Dev.setCur (d : Dev) (p : Nat) (t : Option TxCur) : Dev :=
  let d := d.credRun p
  let d := d.setLane p { d.lane p with cur := t }
  d.setB SWC_PSTAT_CTACT (match t with
    | some x => x.ct
    | none => false) p

/-- Set the preempted frame of lane `p`. -/
def Dev.setHeldTx (d : Dev) (p : Nat) (t : Option TxCur) : Dev :=
  (d.setLane p { d.lane p with held := t }).setB SWC_PSTAT_HELD t.isSome p

/-- Start copy `e` on lane `p` as class `c`: its stamp is taken and its bytes are fixed now (R333). -/
def Dev.txStart (d : Dev) (p c : Nat) (e : QEnt) (ct poison : Bool) : Dev :=
  let b := d.compose p e
  let d := if e.sup then d.ptpTx p b else d
  let d := if ct then (d.count SWC_CTCNT p).setFr e.fr { d.fr e.fr with wasCt := true } else d
  d.setCur p (some { ent := e, cls := c, express := d.isExpress p c, ct := ct, poison := poison, bytes := b, start := d.wall })

/-- A frame whose cell has failed its CRC is counted once (R217); a cell has no system address, so the one latched is not
given (log 10). -/
def Dev.cellFail (d : Dev) (k num : Nat) : Dev :=
  if (d.fr k).cellBad then d
  else
    let d := (d.setFr k { d.fr k with cellBad := true }).count MEM_CNT_CELL
    let (a, d) := d.take 32
    d.latchInteg num a 6

/-- Class `c` head of lane `p` is discarded on a dead link (R258). -/
def Dev.txDiscard (d : Dev) (p c : Nat) : Dev :=
  match d.headOf p c with
  | some e => ((d.popHead p c).ethCount ETH_CNT_TXDISC p).dropEnt e
  | none => d

/-- The frame in transmission on lane `p` and the preempted one are cut short (R258). -/
def Dev.txCut (d : Dev) (p : Nat) : Dev :=
  let l := d.lane p
  let d := match l.cur with
    | some t => ((d.setCur p none).ethCount ETH_CNT_TXDISC p).dropEnt t.ent
    | none => d
  match l.held with
  | some t => ((d.setHeldTx p none).ethCount ETH_CNT_TXDISC p).dropEnt t.ent
  | none => d

/-! ### Transmission selection (R291) -/

/-- Classes from 7 down to 0. -/
def classesDown : List Nat := [7, 6, 5, 4, 3, 2, 1, 0]

/-- The highest eligible class of one kind. -/
def Dev.pick (d : Dev) (p : Nat) (express : Bool) : Option Nat :=
  classesDown.find? (fun c => d.isExpress p c == express && d.eligible p c)

/-- A class whose head can never pass its gate (R293). -/
def Dev.stuckHead (d : Dev) (p : Nat) : Option Nat :=
  classesDown.find? (fun c => match d.headOf p c with
    | some e => d.neverFits p c (d.entLen p e)
    | none => false)

/-- Start the head of class `c`; a cell that fails before the first byte drops the frame (R217, code 0x0F). -/
def Dev.startHead (d : Dev) (p c : Nat) (crcFail : Bool) : Dev :=
  match d.headOf p c with
  | none => d
  | some e =>
    let d := d.popHead p c
    if crcFail then ((d.cellFail e.fr 0).frDrop e.fr p 0x0F).dropEnt e else d.txStart p c e false false

/-- A preemptable frame in transmission is preempted (R291): its fragment is counted. -/
def Dev.preempt (d : Dev) (p : Nat) (t : TxCur) : Dev :=
  let d := (d.setCur p none).setHeldTx p (some { t with pre := true })
  (d.setFr t.ent.fr { d.fr t.ent.fr with wasPre := true }).ethCount ETH_CNT_MMFRAGTX p

/-- A transmission opportunity on a live lane. -/
def Dev.txLive (d : Dev) (p : Nat) (crcFail : Bool) : Dev :=
  match d.stuckHead p with
  | some c =>
    match d.headOf p c with
    | some e => (((d.popHead p c).frDrop e.fr p 0x0E).raise 75).dropEnt e
    | none => d
  | none =>
    match (d.lane p).cur with
    | some t =>
      if t.express || !d.mmActive p then d
      else
        match d.pick p true with
        | some c => (d.preempt p t).startHead p c crcFail
        | none => if d.gateOpen p t.cls then d else d.preempt p t
    | none =>
      match d.pick p true with
      | some c => d.startHead p c crcFail
      | none =>
        match (d.lane p).held with
        | some t => if d.gateOpen p t.cls then (d.setHeldTx p none).setCur p (some t) else d
        | none =>
          match d.pick p false with
          | some c => d.startHead p c crcFail
          | none => d

/-- A transmission opportunity of lane `p` (R258, R264, R291, R293). `crcFail`: the cells of the frame it would start fail
their CRC (R217). -/
def Dev.txSelect (d : Dev) (p : Nat) (crcFail : Bool) : Dev :=
  let d := d.credRun p
  if d.txDead p then
    match classesDown.find? (fun c => (d.headOf p c).isSome) with
    | some c => d.txDiscard p c
    | none => d
  else if d.b ETH_STAT_LPI_TX p || d.wall < (d.lane p).wakeAt then d
  else d.txLive p crcFail

end Sys2Proof.Machine
end

