-- ==== Sys2Proof/Machine/EthRx.lean ====
section
/-!
DEFINITION. Reception on the Ethernet lanes and the way of a frame through the switch (R255, R260, R265, R266, R274 to R280,
R285, R288, R289, R300, R301, R303, R305).
-/

namespace Sys2Proof.Machine

/-! ### Classification (Table 9-2, steps 2 to 7) -/

/-- The action word of what decides a frame; none decides: DEST = 0x0 and nothing else (R278, R279). -/
def Dev.actOf (d : Dev) (ctx rule : Option Nat) : Word :=
  match ctx, rule with
  | some i, _ => d.ctxW i 0x28
  | none, some r => d.rd SWC_RULE3 r
  | none, none => 0

/-- Count a match of context `i` (Table 9-3), saturating. -/
def Dev.ctxHit (d : Dev) (i : Nat) : Dev :=
  d.setWord (ctxAddr i + 0x38) (BitVec.ofNat 32 (satAdd 0xFFFFFFFF (d.ctxW i 0x38).toNat 1))

/-- Sampling at an ingress port (R303): the Nth frame since the last sample. -/
def Dev.sample (d : Dev) (p : Nat) : Dev × Bool :=
  let n := d.f SWC_FORSAMP_N p
  if n = 0 then (d, false)
  else
    let c := Tab.look d.swc.samp 0 p + 1
    ({ d with swc := { d.swc with samp := Tab.put d.swc.samp 0 p (if n ≤ c then 0 else c) } }, decide (n ≤ c))

/-- A frame without the four bytes of its outer tag. -/
def cutTag (tag : Bool) (b : List Byte) : List Byte := if tag then b.take 12 ++ b.drop 16 else b

/-- Redundancy at ingress (R289): `none` for a later copy; else the frame without tag or trailer, and its number. -/
def Dev.redStep (d : Dev) (p : Nat) (b : List Byte) : Dev × Option (List Byte × Option (Nat × Nat)) :=
  match d.pairOf p with
  | none => (d, some (b, none))
  | some (k, _) =>
    match redTag (d.redMode k) b with
    | none => (d, some (b, none))
    | some (n, b') =>
      match d.dupCheck k (saOf b) n with
      | (d, true) => (d, some (b', some (k, n)))
      | (d, false) => (d, none)

/-- Sequence recovery of context `i` (R288): whether the frame passes, and whether it loses its R-TAG. -/
def Dev.recStep (d : Dev) (i : Nat) (core : List Byte) : Dev × Bool × Bool :=
  let w := d.ctxW i 0x34
  let n := getBits w 9 8
  if w.getLsbD 17 && d.b SWC_SREC_CFG_EN n then
    match d.srecCheck n ((rTag core).map (·.1)) with
    | (d, ok) => (d, ok, true)
  else (d, true, false)

/-- Sequence generation of context `i` (R288): the next number of its function. -/
def Dev.genStep (d : Dev) (i : Nat) : Dev × Option Nat :=
  let w := d.ctxW i 0x34
  if w.getLsbD 8 then
    let n := getBits w 0 8
    let s := d.f SWC_SGEN_NEXT n
    (d.setF SWC_SGEN_NEXT (s + 1) n, some s)
  else (d, none)

/-- Bytes `o` to `o + 5` of the frame taken out. -/
def cut6 (o : Nat) (b : List Byte) : List Byte := b.take o ++ b.drop (o + 6)

/-- Steps 6 and 7 for a frame that a context or nothing decides; the answer is the drop code, 0 when it passes, and whether
its number is one a ring repeats (R289). -/
def Dev.classifyTail (d : Dev) (p k seen : Nat) (ctx : Option Nat) (tag : Bool) : Dev × Nat × Bool :=
  let f := d.fr k
  let raw := f.bytes.take (f.bytes.length - 4)
  let fcs := if p < 24 then f.bytes.drop (f.bytes.length - 4) else []
  match d.redStep p raw with
  | (d, none) => (d, 8, false)
  | (d, some (b, num)) =>
    let core := cutTag tag b
    let d := d.setFr k { d.fr k with core := core, view := b ++ fcs }
    match ctx with
    | none => (d, 0, num.isSome)
    | some i =>
      match d.recStep i core with
      | (d, false, _) => (d, 7, num.isSome)
      | (d, true, cut) =>
        let d := if cut && (rTag core).isSome then
            d.setFr k { d.fr k with core := cut6 12 core, view := cut6 (if tag then 16 else 12) b ++ fcs }
          else d
        match d.police i f.bytes.length seen with
        | (d, 0, late) =>
          let (d, g) := d.genStep i
          (d.setFr k { d.fr k with rseq := g, late := if late then some i else none }, 0, num.isSome)
        | (d, code, _) => (d, code, num.isSome)

/-- What classification gives a frame: its drop code (0: passed), its action word, the deciding context and rule, and
whether a ring pair may repeat it. -/
structure Class where
  code : Nat
  act : Word
  ctx : Option Nat
  rule : Option Nat
  rep : Bool
  deriving DecidableEq, Repr

/-- The class of a frame (R280); a frame of an internal port takes the one of its SOF descriptor. -/
def Dev.tcOf (d : Dev) (p pcp : Nat) (act : Word) (tcIn : Option Nat) : Nat :=
  match tcIn with
  | some t => t
  | none => if act.getLsbD 8 then getBits act 9 3 else getBits (d.rd SWC_TCMAP p) (3 * pcp) 3

/-- Classify frame `k` at ingress port `p`, of which `seen` bytes have arrived (R274, Table 9-2, steps 2 to 7, 9). -/
def Dev.classify (d : Dev) (p k seen : Nat) (tcIn : Option Nat) : Dev × Class :=
  let f := d.fr k
  let raw := f.bytes.take (f.bytes.length - 4)
  let v := d.vlanOf p raw
  let (d, s) := d.sample p
  let d := d.setFr k { f with
    vid := v.vid, pcp := v.pcp, dei := v.dei, core := cutTag v.tag raw, view := if p < 24 then f.bytes else raw, why := if s then 2 else 0 }
  if !d.ingressOk p v.vid then (d, ⟨1, 0, none, none, false⟩)
  else
    let d := d.learn p v.vid raw
    let ctx := d.findCtx v.vid raw
    let rule := if ctx.isSome then none else d.findRule p v.vid raw
    let act := d.actOf ctx rule
    let d := match ctx with
      | some i => d.ctxHit i
      | none => d
    let g := d.fr k
    let d := d.setFr k { g with
      tc := d.tcOf p v.pcp act tcIn
      ctx := (match ctx, rule with
        | some i, _ => i
        | none, some r => 0x1000 + r
        | none, none => 0xFFFFFFFF)
      why := g.why + (if act.getLsbD 18 then 1 else 0) }
    match d.classifyTail p k seen ctx v.tag with
    | (d, code, rep) => (d, ⟨code, act, ctx, rule, rep⟩)

/-! ### Destinations (R276, R279, R289, R305) -/

/-- The ports a frame is forwarded to, before pairs are joined (R276, R279). -/
def Dev.forwardPorts (d : Dev) (p : Nat) (f : Frame) (c : Class) : List Nat :=
  let raw := f.bytes
  let claimed := c.ctx.isSome || c.rule.isSome
  let rsv := isReserved raw
  let db := (d.fdbPorts p f.vid raw).filter (fun x => !(rsv && x < 24))
  if rsv && !claimed then []
  else
    match getBits c.act 0 2, c.ctx with
    | 0, _ => db
    | 1, some i => (List.range 28).filter (fun x => (d.ctxW i 0x2C).getLsbD x && x != p && x != 24 && x != 25)
    | 1, none => db
    | _, _ => []

/-- Lane `x` belongs to pair `k`. -/
def Dev.inPair (d : Dev) (k x : Nat) : Bool :=
  d.redMode k != 0 && (d.f SWC_RED_CFG_LANEA k == x || d.f SWC_RED_CFG_LANEB k == x)

/-- A frame that leaves through a pair leaves on both its lanes; one received on a pair does not leave on it (R289). -/
def Dev.joinPairs (d : Dev) (p : Nat) (ports : List Nat) : List Nat :=
  let own := (d.pairOf p).map (·.1)
  (List.range 28).filter (fun x =>
    match d.pairOf x with
    | some (k, _) => own != some k && ports.any (d.inPair k)
    | none => ports.contains x)

/-- The pair number a frame takes on lane `x` of pair `k` (R289). -/
def Dev.redNum (d : Dev) (x : Nat) : Option (Nat × Nat) := (d.pairOf x).map (fun r => (r.1, d.f SWC_RED_TX_SEQ r.1))

/-- The pairs a frame leaves through take their next number and remember what they sent (R289). -/
def Dev.redSent (d : Dev) (ports : List Nat) (src : Nat) : Dev :=
  (List.range 4).foldl (fun d k =>
    if ports.any (d.inPair k) then
      let n := d.f SWC_RED_TX_SEQ k
      let l := Tab.look d.swc.sent [] k
      let l := if l.contains (src, n) then l else l ++ [(src, n)]
      { d with swc := { d.swc with sent := Tab.put d.swc.sent [] k l } }.setF SWC_RED_TX_SEQ (n + 1) k
    else d) d

/-- An HSR ring frame is repeated on the other lane of its pair unless it is addressed to this node alone or this node sent
it (R289; that the database places its destination on other ports is what makes it this node's, log 20). -/
def Dev.hsrRepeat (d : Dev) (p : Nat) (f : Frame) : Option Nat :=
  match d.pairOf p with
  | none => none
  | some (k, a) =>
    if d.redMode k != 2 then none
    else
      let raw := f.bytes.take (f.bytes.length - 4)
      match redTag 2 raw with
      | none => none
      | some (n, _) =>
        let own := (Tab.look d.swc.sent [] k).contains (saOf raw, n)
        let here := !isMc raw && (match d.fdbFind f.vid (daOf raw) with
          | some e => !e.ports.testBit (d.f SWC_RED_CFG_LANEA k) && !e.ports.testBit (d.f SWC_RED_CFG_LANEB k)
          | none => false)
        if own || here then none else some (if a then d.f SWC_RED_CFG_LANEB k else d.f SWC_RED_CFG_LANEA k)

/-- The mirror lane takes a copy of a frame from port `p` (R305). -/
def Dev.mirrors (d : Dev) (p : Nat) (act : Word) : Bool :=
  d.b SWC_MIRROR_EN && decide (d.f SWC_MIRROR_MPORT < 24) && d.f SWC_MIRROR_MPORT != p
    && ((d.f SWC_MIRSRC_PORTS).testBit p || act.getLsbD 19)

/-- Insert a destination in order of queue number. -/
def insDest (x : Nat × QEnt) : List (Nat × QEnt) → List (Nat × QEnt)
  | [] => [x]
  | y :: ys => if x.1 < y.1 then x :: y :: ys else y :: insDest x ys

/-- The mirror copy's queue. -/
def Dev.mirrorDest (d : Dev) (k : Nat) : Nat × QEnt :=
  (8 * d.f SWC_MIRROR_MPORT + d.f SWC_MIRROR_MTC, { fr := k, cells := 0, raw := true, mirror := true })

/-- Every destination queue of a frame that passed, in increasing number, engines apart (R276, R279, R280, R288, R289). -/
def Dev.destsOf (d : Dev) (p k : Nat) (c : Class) (sup : Bool) : List (Nat × QEnt) :=
  let f := d.fr k
  let claimed := c.ctx.isSome || c.rule.isSome
  let ports := d.joinPairs p (d.forwardPorts p f c)
  let lanes := (ports.filter (· < 24)).map (fun x =>
    (8 * x + f.tc, ({ fr := k, cells := 0, sup := sup, red := d.redNum x } : QEnt)))
  let sv := c.act.getLsbD 12 || ports.contains 26 || (isReserved f.bytes && !claimed)
  let host := if c.act.getLsbD 13 then some (192 + getBits c.act 14 4)
    else if ports.contains 27 then some (192 + d.f SWC_CTL_HCH) else none
  let plain : QEnt := { fr := k, cells := 0 }
  let l := lanes ++ (match host with
      | some q => [(q, plain)]
      | none => []) ++ (if sv then [(208, plain)] else [])
  let l := match (if c.rep then d.hsrRepeat p f else none) with
    | some x => insDest (8 * x + f.tc, ({ fr := k, cells := 0, raw := true } : QEnt)) l
    | none => l
  if d.mirrors p c.act then insDest (d.mirrorDest k) l else l

/-! ### Admission and cut-through (R297, R300, R301) -/

/-- Frame `k` from lane `p` may be sent cut-through on lane `x` in class `c`, its queue having been empty (R300). -/
def Dev.cutOk (d : Dev) (p x c : Nat) (express : Bool) : Bool :=
  let len := max 64 (min 9216 (d.f ETH_MAXFRM_LEN p))
  d.b SWC_CTL_CT && d.b SWC_PCFG_CT x && p < 24 && d.bitTime p ≤ d.bitTime x && express && !d.txDead x
    && !d.b ETH_STAT_LPI_TX x && decide ((d.lane x).wakeAt ≤ d.wall)
    && d.gateOpen x c && (!(d.f SWC_PCFG_CBSEN x).testBit c || decide (0 ≤ d.credNow x c)) && d.windowOk x c len
    && (match (d.lane x).cur with
      | none => (d.lane x).held.isNone || d.isExpress x c
      | some t => !t.express && d.isExpress x c)

/-- Admit frame `k` to one lane queue and send it cut-through when it may be. -/
def Dev.admitLane (d : Dev) (p k n q : Nat) (e : QEnt) (express : Bool) : Dev :=
  let x := q / 8
  let c := q % 8
  let empty := (d.q q).isEmpty
  match d.admitFrame k n q e with
  | (d, false) => d
  | (d, true) =>
    if empty && d.cutOk p x c express then
      let e := { e with fr := k, cells := n }
      let d := d.setQ q []
      let d := match (d.lane x).cur with
        | some t => d.preempt x t
        | none => d
      d.txStart x c e true (!(d.fr k).good)
    else d

/-- Admit frame `k` of `n` cells to every destination, the engine's pool last (R297). -/
def Dev.admitAll (d : Dev) (p k n : Nat) (dests : List (Nat × QEnt)) (express : Bool) : Dev :=
  dests.foldl (fun d x => if x.1 < 192 then d.admitLane p k n x.1 x.2 express else (d.admitFrame k n x.1 x.2).1) d

/-- Steer frame `k` to engine `e` (R83, R279, R301): the item carries lane `lane`. -/
def Dev.steer (d : Dev) (k n e lane : Nat) (ctx : Option Nat) : Dev :=
  let f := d.fr k
  (d.admitEng k n e { lane := lane, vsrc := 0, ctx := ctx, frame := k, sof := f.sof / 20 % 2 ^ 32 }).1

/-! ### The verdict at the frame's end (R255, R285, R301, R302) -/

/-- A ring queue whose channel serves it hands its copy over from the classification point (R301). -/
def Dev.ringTakes (d : Dev) (q : Nat) : Bool :=
  192 ≤ q && q < 208 && d.b DMA_CTL_MODE (q - 192) && d.b DMA_CTL_EN (q - 192)

/-- Withdraw the stored copies of frame `k` from their queues (R255, R285), those of a serving ring excepted. -/
def Dev.withdraw (d : Dev) (k : Nat) : Dev :=
  (List.range 209).foldl (fun d q =>
    if d.ringTakes q then d
    else
      let l := d.q q
      let mine := l.filter (fun e => e.fr == k)
      if mine.isEmpty then d
      else
        let d := if q < 192 then d.credRun (q / 8) else d
        mine.foldl (fun d e => d.dropEnt e) (d.setQ q (l.filter (fun e => e.fr != k)))) d

/-- Copies of frame `k` being sent cut-through end poisoned (R302), a relay among them (R99). -/
def Dev.poisonTx (d : Dev) (k : Nat) : Dev :=
  (List.range 24).foldl (fun d p =>
    let l := d.lane p
    let fix := fun (t : Option TxCur) => t.map (fun t => if t.ent.fr = k && t.ct then { t with poison := true } else t)
    if (l.cur.any (fun t => t.ent.fr == k)) || (l.held.any (fun t => t.ent.fr == k)) then
      d.setLane p { l with cur := fix l.cur, held := fix l.held }
    else d) d

/-- The frame has wholly arrived (R297): its true size is noted; with a bad verdict its stored copies are withdrawn. -/
def Dev.frameEnd (d : Dev) (k : Nat) : Dev :=
  let f := d.fr k
  let d := d.setFr k { f with ended := true }
  let d := d.trueSize k
  if f.good then d else (d.withdraw k).poisonTx k

/-! ### The switch's entry -/

/-- Frame `k` enters the switch at port `p` (R274, R279): classified, admitted everywhere, cut through where it may be.
`n` is the cells it counts, `seen` the bytes arrived; `lane` and `tcIn` what an internal port gives it. -/
def Dev.swEnter (d : Dev) (p k n seen lane : Nat) (tcIn : Option Nat) (express : Bool) : Dev :=
  match d.classify p k seen tcIn with
  | (d, c) =>
    let src := saOf (d.fr k).bytes
    let rejected := c.code != 0
    let dests := if rejected then (if d.mirrors p c.act then [d.mirrorDest k] else []) else d.destsOf p k c (p == 26)
    let steered := !rejected && c.act.getLsbD 2
    let d := if rejected then d.frDrop k p c.code
      else if dests.isEmpty && !steered then d.frDrop k p 2 else d
    let d := if rejected then d else d.redSent ((dests.filter (fun x => x.2.red.isSome)).map (fun x => x.1 / 8)) src
    let d := d.admitAll p k n dests express
    let d := if steered then d.steer k n (getBits c.act 3 5) lane c.ctx else d
    d

/-- The switch admits no frame while it enters or is in NAP or HIBERNATE (R477). -/
def Dev.napDiscards (d : Dev) : Bool := 2 ≤ d.f PWR_STAT_STATE || (d.b PWR_STAT_BUSY && 2 ≤ d.powerTo && 2 ≤ d.pw.step)

/-- A frame from an Ethernet lane reaches the switch (SWC_CTL.EN, R477). -/
def Dev.swLane (d : Dev) (p : Nat) (f : Frame) (express : Bool) : Dev :=
  if d.napDiscards then d.count PWR_NAPDISC
  else if !d.b SWC_CTL_EN then d
  else
    let len := f.bytes.length
    let n := cellsOf (if len ≤ 64 then len else max 64 (min 9216 (d.f ETH_MAXFRM_LEN p)))
    let (k, d) := d.newFr { f with arrived := min 64 len, ended := false }
    let d := d.swEnter p k n (min 64 len) p none express
    let d := if (d.fr k).late.isSome && f.good then d else d.frameEnd k
    d.discardFr k

/-- A complete frame of an internal port reaches the switch (R274): `b` carries no check sequence (R222); the stored
frame counts the one the MAC will add. The lane number of an item on it is not given (log 10). -/
def Dev.swInternal (d : Dev) (p tc : Nat) (b : List Byte) : Dev :=
  if d.napDiscards then d.count PWR_NAPDISC
  else if !d.b SWC_CTL_EN then d
  else
    let (lane, d) := d.take 6
    let f : Frame := {
      port := p, bytes := b ++ ethFcs b false, sof := d.stamp, eof := d.stamp, sofSync := d.b TIME_STAT_SYNC
      arrived := b.length + 4, fin := true, known := true }
    let (k, d) := d.newFr f
    let d := d.swEnter p k (cellsOf (b.length + 4)) (b.length + 4) lane (some tc) false
    (d.frameEnd k).discardFr k

/-- A frame that skips classification goes to one lane and class as composed (R281): `b` counts four bytes of check
sequence. `true`: admitted. -/
def Dev.swDirect (d : Dev) (port p c : Nat) (b : List Byte) (src : Src) (sup : Bool) : Dev × Bool :=
  let (k, d) := d.newFr {
    port := port, bytes := b, sof := d.stamp, eof := d.stamp, tc := c, fin := true, known := true, arrived := b.length }
  let e : QEnt := { fr := k, cells := 0, src := src, raw := true, sup := sup }
  match d.admitFrame k (cellsOf b.length) (8 * p + c) e with
  | (d, true) => (d, true)
  | (d, false) => (d.discardFr k, false)

/-! ### The lane (R255, R260, R265, R266) -/

/-- CRC-16 of polynomial 0x1021, one bit. -/
def crcBit (c : BitVec 16) : BitVec 16 := if c.getLsbD 15 then (c <<< 1) ^^^ 0x1021 else c <<< 1

/-- One byte into the CRC, most significant bit first. -/
def crcByte (c : BitVec 16) (b : Byte) : BitVec 16 :=
  let c := c ^^^ ((b.setWidth 16) <<< 8)
  crcBit (crcBit (crcBit (crcBit (crcBit (crcBit (crcBit (crcBit c)))))))

/-- CRC-16, polynomial 0x1021, initial value 0xFFFF, most significant bit first, no final inversion (R265). -/
def crc16 (b : List Byte) : BitVec 16 := b.foldl crcByte 0xFFFF

/-- The mask of wake pattern `k`. -/
def Dev.wpMask (d : Dev) (p k : Nat) : Nat :=
  (d.rd ETH_WP_MASK0 p k).toNat + 2 ^ 32 * (d.rd ETH_WP_MASK1 p k).toNat + 2 ^ 64 * (d.rd ETH_WP_MASK2 p k).toNat
    + 2 ^ 96 * (d.rd ETH_WP_MASK3 p k).toNat

/-- Wake pattern `k` matches a frame with a good check sequence (R265). -/
def Dev.wpMatch (d : Dev) (p : Nat) (b : List Byte) (k : Nat) : Bool :=
  let m := d.wpMask p k
  let sel := (List.range 128).filter m.testBit
  (d.f ETH_WAKECTL_PEN p).testBit k && !sel.isEmpty && sel.all (· < b.length)
    && (crc16 (sel.map (fun i => b.getD i 0))).toNat == d.f ETH_WP_CHK_CHECK p k

/-- The wake patterns on a frame received with a good check sequence (R265, R266). -/
def Dev.wakeCheck (d : Dev) (p : Nat) (b : List Byte) : Dev :=
  match (List.range 4).find? (d.wpMatch p b) with
  | some k =>
    let d := (d.ethEv p 3).setF ETH_WAKECTL_LAST k p
    if d.wakeState = 2 && !d.b ETH_WAKECTL_NAPRX p then d else d.wake 1 p
  | none => d

/-- A frame is tagged for the lane filter (R260). -/
def filterTagged (b : List Byte) : Bool :=
  (fieldAt b 12 2 == 0x8100 || fieldAt b 12 2 == 0x88A8) && fieldAt b 14 2 % 4096 != 0

/-- The lane filter (R260); `true`: passed. -/
def Dev.laneFilter (d : Dev) (p : Nat) (b : List Byte) : Dev × Bool :=
  if isReserved b then (d, true)
  else if (d.b ETH_RXFILT_DROPBC p && isBc b) || (d.b ETH_RXFILT_DROPMC p && isMc b && !isBc b)
      || (d.b ETH_RXFILT_DROPUNTAG p && !filterTagged b) || (d.b ETH_RXFILT_DROPTAG p && filterTagged b) then
    (d.ethCount ETH_CNT_RXFILT p, false)
  else
    let rate := d.f ETH_RXFILT_RATE p
    if rate = 0 || !isMc b then (d, true)
    else
      let w := d.ns / 1000000
      let l := d.lane p
      let c := (if l.window = w then l.wcount else 0) + 1
      let d := d.setLane p { l with window := w, wcount := c }
      if rate < c then (d.ethCount ETH_CNT_RXRATE p, false) else (d, true)

/-- A new filter window begins on a whole millisecond (R260). -/
def Dev.rateWindow (d : Dev) (p : Nat) : Dev :=
  let w := d.ns / 1000000
  if (d.lane p).window = w then d else d.setLane p { d.lane p with window := w, wcount := 0 }

/-- The frame on its way from the MAC of lane `p` to the switch: stamped, filtered (R260, R324). -/
def Dev.rxPass (d : Dev) (p : Nat) (b : List Byte) (good express : Bool) : Dev :=
  match d.laneFilter p b with
  | (d, false) => d
  | (d, true) =>
    d.swLane p {
      port := p, bytes := b, good := good, sof := ((d.stamp : Int) - d.rxDelay p).toNat
      eof := ((d.stamp : Int) - d.rxDelay p).toNat + b.length * 8 * d.bitTime p
      sofSync := d.b TIME_STAT_SYNC } express

/-- A good frame is counted (Table 8-2). -/
def Dev.rxGood (d : Dev) (p : Nat) (b : List Byte) : Dev :=
  let d := (d.ethCount ETH_CNT_RXOK p).octets ETH_CNT_RXOCT_LO ETH_CNT_RXOCT_HI p b.length
  if isBc b then d.ethCount ETH_CNT_RXBC p else if isMc b then d.ethCount ETH_CNT_RXMC p else d

/-- Lane `p` receives a frame of bytes `b`, check sequence included, that ends as `how` (R255, Table 8-2, R267). `frags`: 0
from the express MAC, else the fragments it was reassembled from. -/
def Dev.macRx (d : Dev) (p : Nat) (b : List Byte) (how : RxEnd) (frags : Nat) : Dev :=
  let maxLen := max 64 (min 9216 (d.f ETH_MAXFRM_LEN p))
  let len := b.length
  match how with
  | .asm => d.ethCount ETH_CNT_MMASMERR p
  | .smd => d.ethCount ETH_CNT_MMSMDERR p
  | _ =>
    let d := if 2 ≤ frags then d.ethCount ETH_CNT_MMASMOK p else d
    if maxLen < len then (d.ethCount ETH_CNT_RXOVER p).rxPass p (b.take (maxLen + 1)) false (frags == 0)
    else if how = .sym then
      let d := d.ethCount ETH_CNT_RXSYM p
      if len < 64 then d else d.rxPass p b false (frags == 0)
    else if len < 64 then d.ethCount (if how = .good then ETH_CNT_RXRUNT else ETH_CNT_RXFRAG) p
    else if how = .fcs then (d.ethCount ETH_CNT_RXFCS p).rxPass p b false (frags == 0)
    else if fieldAt b 12 2 = 0x8808 then d.ethCount ETH_CNT_RXCTL p
    else (((d.rxGood p b).ptpRx p b).wakeCheck p b).rxPass p b true (frags == 0)

/-- A frame on the medium of lane `p` (R255, R258, R261, R266): a lane that is down, off, disabled or looped back receives
none; in NAP a lane kept receiving discards it. -/
def Dev.ethRx (d : Dev) (p : Nat) (b : List Byte) (how : RxEnd) (frags : Nat) : Dev :=
  if d.f PWR_STAT_STATE = 2 then
    if d.b ETH_WAKECTL_NAPRX p && d.f ETH_CTL_PWR p = 0 && d.b ETH_CTL_EN p then
      let d := if how = .good then d.wakeCheck p b else d
      d.ethCount ETH_CNT_RXFILT p
    else d
  else if d.txDead p || d.f ETH_CTL_PWR p != 0 || d.b ETH_CTL_LOOP p then d
  else d.macRx p b how frags

/-- Byte MAXSDU + 1 of frame `k` arrives (R285): the frame fails step 2 everywhere and is counted once at its ingress port. -/
def Dev.maxsduFail (d : Dev) (k : Nat) : Dev :=
  let f := d.fr k
  match f.late with
  | none => d
  | some i =>
    if f.ended then d
    else
      let d := (d.ctxBlock i).frDrop k f.port 3
      let d := d.setFr k { d.fr k with good := false, late := none }
      (d.frameEnd k).discardFr k

end Sys2Proof.Machine
end

