-- ==== Sys2Proof/Machine/EthTx.lean ====
section
/-!
DEFINITION. The Ethernet lanes: end of transmission, link, energy detect, low-power idle, MAC merge verification, MDIO, octet
counters; gate lists and stream gates (R254 to R269, R286, R295, R296).
-/

namespace Sys2Proof.Machine

/-- The frame in transmission on lane `p` ends (R217, R257, R267, R272); a frame still arriving cannot end. A looped lane
receives what it sent. -/
def Dev.txEnd (d : Dev) (p : Nat) (crcFail : Bool) : Dev :=
  match (d.lane p).cur with
  | none => d
  | some t =>
    let k := t.ent.fr
    if !(d.fr k).ended then d
    else
      let d := if crcFail then d.cellFail k 0 else d
      let bad := t.poison || crcFail
      let d := d.setCur p none
      let d := (d.ethCount (if bad then ETH_CNT_TXPOIS else ETH_CNT_TXOK) p).octets ETH_CNT_TXOCT_LO ETH_CNT_TXOCT_HI p
        (t.bytes.length + 4)
      let d := if t.pre then d.ethCount ETH_CNT_MMFRAGTX p else d
      let d := d.setLane p { d.lane p with offer := d.wall }
      let d := if bad then d.setFr k { d.fr k with wasPois := true } else d
      let d := d.dropEnt t.ent
      if d.b ETH_CTL_LOOP p then
        d.macRx p (t.bytes ++ ethFcs t.bytes bad) (if bad then .fcs else .good) (if t.express then 0 else if t.pre then 2 else 1)
      else d

/-! ### Link (R251 to R254, R258, R262) -/

/-- EEE_ON (R262). -/
def Dev.eeeRule (d : Dev) (p : Nat) : Bool :=
  if p < 16 then
    d.b ETH_STAT_LINK p && d.f ETH_STAT_SPEED p == 1 && d.b ETH_EEE_EN p && d.b ETH_ANADV_AEEE p && d.b ETH_ANLP_PEEE p
  else if 22 ≤ p then d.b ETH_EEE_EN p else false

/-- Bring EEE_ON up to date; without it neither direction is in low-power idle. -/
def Dev.eeeSettle (d : Dev) (p : Nat) : Dev :=
  let on := d.eeeRule p
  let d := d.setB ETH_STAT_EEE_ON on p
  if on then d else (d.setB ETH_STAT_LPI_TX false p).setB ETH_STAT_LPI_RX false p

/-- The speed code a link of lane `p` comes up at (R251, R253); `none` when no common ability is advertised. -/
def Dev.linkSpeed (d : Dev) (p : Nat) (i : LinkInfo) : Option Nat :=
  if p < 16 then
    if d.b ETH_CTL_ANEN p then
      if i.ten then (if d.b ETH_ANADV_A10 p then some 0 else none) else (if d.b ETH_ANADV_A100 p then some 1 else none)
    else some (if d.f ETH_CTL_SPD p = 1 then 0 else 1)
  else if p < 22 then some (if d.f ETH_CTL_SPD p = 1 then 3 else 2)
  else some 4

/-- No lane runs on the RC oscillator (R466, R468), in NAP or HIBERNATE. -/
def Dev.lanesOff (d : Dev) : Bool := d.b CLK_STAT_RCACT || 2 ≤ d.f PWR_STAT_STATE

/-- The clause's link status becomes OK (R252 to R254). -/
def Dev.linkUp (d : Dev) (p : Nat) (i : LinkInfo) : Dev :=
  match d.linkSpeed p i with
  | none => d
  | some s =>
    if d.b ETH_STAT_LINK p || d.f ETH_CTL_PWR p != 0 || d.lanesOff then d
    else
      let before := d
      let an := p < 22 && d.b ETH_CTL_ANEN p
      let done := an && i.andone
      let d := ((d.setB ETH_STAT_LINK true p).setF ETH_STAT_SPEED s p).setB ETH_STAT_ANDONE done p
      let d := d.setB ETH_STAT_PDET (p < 16 && an && i.pdet) p
      let d := d.setB ETH_STAT_RFAULT (16 ≤ p && i.rfault) p
      let d := d.setB ETH_STAT_XOVER (p < 16 && (match d.f ETH_CTL_MDIX p with
        | 1 => false
        | 2 => true
        | _ => i.xover)) p
      let d := if done then (d.setF ETH_ANLP_PAGE i.page.toNat p).setB ETH_ANLP_PEEE (p < 16 && i.peee) p else d
      let d := d.eeeSettle p
      let d := d.ethEv p 0
      let d := if done then d.ethEv p 1 else d
      before.redJudge (if 16 ≤ p && i.rfault then d.ethEv p 7 else d) []

/-- A frame being received when the link is lost is aborted (R255). -/
def Dev.rxAbort (d : Dev) (p : Nat) : Dev :=
  (d.frames.filter (fun x => x.2.port == p && !x.2.ended)).foldl (fun d x =>
    let d := (d.ethCount ETH_CNT_RXSYM p).setFr x.1 { d.fr x.1 with good := false, late := none }
    (d.frameEnd x.1).discardFr x.1) d

/-- The link of lane `p` is lost (R255, R258, R290). -/
def Dev.linkDown (d : Dev) (p : Nat) : Dev :=
  if !d.b ETH_STAT_LINK p then d
  else
    let paired := (d.pairOf p).isSome
    let d := (d.rxAbort p).txCut p
    let d := ((d.setB ETH_STAT_LINK false p).setB ETH_STAT_ANDONE false p).setB ETH_STAT_PDET false p
    let d := (d.setB ETH_STAT_RFAULT false p).eeeSettle p
    let d := (d.setB ETH_STAT_LPI_TX false p).setB ETH_STAT_LPI_RX false p
    let d := d.ethEv p 0
    if paired then d.raise 74 else d

/-- A write of ETH_CTL of lane `p` (R252 to R254, R258, R261). -/
def Dev.wEthCtl (d : Dev) (p : Nat) (v : Word) : Dev :=
  let old := d.rd ETH_CTL p
  let new := v &&& 0x3EF
  let moved := old.getLsbD 0 && (old ^^^ new) &&& 0x1E8 != 0
  let pwr := getBits new 1 2
  let cut := v.getLsbD 4 || moved || pwr != 0 || getBits old 1 2 != 0
  let d := if cut then d.linkDown p else d
  let d := if old.getLsbD 0 && !new.getLsbD 0 then d.txCut p else d
  let d := d.wr ETH_CTL new p
  if pwr = 1 then d else d.setB ETH_STAT_ED false p

/-- A write of ETH_ANADV of lane `p` (R254). -/
def Dev.wAnadv (d : Dev) (p : Nat) (v : Word) : Dev :=
  let new := v &&& 0x1F
  let d := if d.b ETH_CTL_EN p && d.rd ETH_ANADV p != new then d.linkDown p else d
  (d.wr ETH_ANADV new p).eeeSettle p

/-- A write of ETH_EEE of lane `p` (R262). -/
def Dev.wEee (d : Dev) (p : Nat) (v : Word) : Dev := (d.wr ETH_EEE (v &&& 0xFFFFFF07) p).eeeSettle p

/-- Lane `p` is in energy detect: by PWR, or held in it in NAP and, with EDWAKE, in HIBERNATE (R261, R478). -/
def Dev.inEnergyDetect (d : Dev) (p : Nat) : Bool :=
  let held := d.f ETH_CTL_PWR p == 0 && ((d.f PWR_STAT_STATE == 2 && !d.b ETH_WAKECTL_NAPRX p)
    || (d.f PWR_STAT_STATE == 3 && d.b ETH_WAKECTL_EDWAKE p))
  d.f ETH_CTL_PWR p == 1 || held

/-- The energy detector of lane `p` fires (R261). -/
def Dev.energyDetect (d : Dev) (p : Nat) : Dev :=
  if d.inEnergyDetect p then
    let d := (d.setB ETH_STAT_ED true p).ethEv p 2
    if d.b ETH_WAKECTL_EDWAKE p then d.wake 0 p else d
  else d

/-! ### Energy-efficient Ethernet (R263, R264) -/

/-- The wake time of lane `p` in 50 ps: TW_TX, at least the lane's minimum. -/
def Dev.twTx (d : Dev) (p : Nat) : Nat := max (twTxMin p) (d.f ETH_EEE_TW_TX p) * 20000

/-- HOLD in 50 ps; 0 acts as 1. -/
def Dev.lpiHold (d : Dev) (p : Nat) : Nat := max 1 (d.f ETH_EEE_HOLD p) * 20000

/-- HOLD expires with nothing offered (R263): low-power idle is asserted; under a gate list only with GATED_OK. -/
def Dev.lpiEntry (d : Dev) (p : Nat) : Dev :=
  let l := d.lane p
  let quiet := classesDown.all (fun c => (d.q (8 * p + c)).isEmpty || !d.gateOpen p c)
  if d.b ETH_STAT_EEE_ON p && d.b ETH_STAT_LINK p && !d.b ETH_STAT_LPI_TX p && l.cur.isNone && l.held.isNone && quiet
      && decide (l.offer + d.lpiHold p ≤ d.wall) && decide (l.wakeAt ≤ d.wall)
      && (!(d.gclSt p).on || d.b ETH_EEE_GATED_OK p) then
    (d.setB ETH_STAT_LPI_TX true p).ethCount ETH_CNT_LPITX p
  else d

/-- Leave low-power idle: a frame may start after the wake time. -/
def Dev.lpiLeave (d : Dev) (p : Nat) : Dev :=
  let d := d.setB ETH_STAT_LPI_TX false p
  d.setLane p { d.lane p with wakeAt := d.wall + d.twTx p, offer := d.wall }

/-- A frame is offered during low-power idle (R264). -/
def Dev.lpiExit (d : Dev) (p : Nat) : Dev :=
  if d.b ETH_STAT_LPI_TX p && classesDown.any (fun c => !(d.q (8 * p + c)).isEmpty) then d.lpiLeave p else d

/-- The first instant after `now` at which a closed gate opens, in a cycle that starts at `a`; `g` the gates before it. -/
def segOpen (a now : Nat) : Nat → Nat → List (Nat × Nat) → Option Nat
  | _, _, [] => none
  | s, g, (e, g') :: rest =>
    if now < a + s && (List.range 8).any (fun c => g'.testBit c && !g.testBit c) then some (a + s) else segOpen a now e g' rest

/-- When lane `p`'s list next opens a closed gate, in ns. -/
def Dev.nextOpen (d : Dev) (p : Nat) : Option Nat :=
  let ents := d.gclEnts p
  if !d.b SWC_GCLCTL_EN p || ents.isEmpty || !(d.gclSt p).on then none
  else
    let cyc := d.gclCycle p
    let a := (d.gclSt p).start
    let l := seriesAtOrAfter (d.gclBase p) cyc (a + 1) - a
    let segs := gclSegs l 0 ents
    let last := (segs.getLast?.map (·.2)).getD 0xFF
    match segOpen a d.ns 0 0xFF segs with
    | some t => some t
    | none => segOpen (a + l) d.ns 0 last (gclSegs cyc 0 ents)

/-- TW_TX before the list opens a closed gate, the lane leaves low-power idle (R263). -/
def Dev.lpiGateWake (d : Dev) (p : Nat) : Dev :=
  if d.b ETH_STAT_LPI_TX p then
    match d.nextOpen p with
    | some t => if t * 20 ≤ d.stamp + d.twTx p then d.lpiLeave p else d
    | none => d
  else d

/-- Low-power idle from the partner begins (R264). -/
def Dev.lpiRxEntry (d : Dev) (p : Nat) : Dev :=
  if d.b ETH_STAT_EEE_ON p && !d.b ETH_STAT_LPI_RX p then (d.setB ETH_STAT_LPI_RX true p).ethCount ETH_CNT_LPIRX p else d

/-- Low-power idle from the partner ends (R264). -/
def Dev.lpiRxExit (d : Dev) (p : Nat) : Dev := d.setB ETH_STAT_LPI_RX false p

/-- The LLDP agent receives an EEE TLV that asks for `tw` us (R264). -/
def Dev.lldpTlv (d : Dev) (p tw : Nat) : Dev :=
  if d.b ETH_EEE_LLDP p then d.setF ETH_EEE_TW_TX (max (twTxMin p) tw) p else d

/-- The partner's TLV has been absent for three intervals (R264). -/
def Dev.lldpTimeout (d : Dev) (p : Nat) : Dev :=
  if 22 ≤ p && d.b ETH_EEE_LLDP p then (d.setB ETH_EEE_EN false p).eeeSettle p else d

/-! ### MAC merge (R267) -/

/-- A write of ETH_MMCTL of lane `p`: a change of PEN or VDIS starts over. -/
def Dev.wMmctl (d : Dev) (p : Nat) (v : Word) : Dev :=
  let old := d.rd ETH_MMCTL p
  let same := (old ^^^ v) &&& 3 == 0
  let pen := v.getLsbD 0
  let vdis := v.getLsbD 1
  let d := d.wr ETH_MMCTL ((v &&& 0x7FF) ||| (old &&& 0xF000)) p
  if same then d
  else
    let d := d.setLane p { d.lane p with verifies := 0 }
    (d.setF ETH_MMCTL_VSTAT (if pen && !vdis then 1 else 0) p).setB ETH_MMCTL_ACTIVE (pen && vdis) p

/-- VTIME has passed (R267): a verify mPacket is sent, or verification fails after three. -/
def Dev.mmTimer (d : Dev) (p : Nat) : Dev :=
  let s := d.f ETH_MMCTL_VSTAT p
  if !d.b ETH_STAT_LINK p || (s != 1 && s != 2) then d
  else
    let n := (d.lane p).verifies
    if s = 2 && 3 ≤ n then (d.setF ETH_MMCTL_VSTAT 4 p).ethEv p 5
    else (d.setF ETH_MMCTL_VSTAT 2 p).setLane p { d.lane p with verifies := n + 1 }

/-- A response to a verify mPacket (R267). -/
def Dev.mmResponse (d : Dev) (p : Nat) : Dev :=
  if d.f ETH_MMCTL_VSTAT p = 2 then
    ((d.setF ETH_MMCTL_VSTAT 3 p).setB ETH_MMCTL_ACTIVE true p).ethEv p 5
  else d

/-! ### MDIO (R268) -/

/-- Insert a command: after all earlier ones, the lower lane first of those of one cycle. -/
def insMdio (c : MdioCmd) : List MdioCmd → List MdioCmd
  | [] => [c]
  | x :: xs => if x.at' = c.at' && c.lane < x.lane then c :: x :: xs else x :: insMdio c xs

/-- A write of ETH_MDIOCMD of lane `p` (R268); `true` is the bus error of a GO while BUSY. -/
def Dev.wMdio (d : Dev) (p : Nat) (v : Word) : Dev × Bool :=
  if v.getLsbD 12 && d.b ETH_MDIOCMD_BUSY p then (d, true)
  else
    let d := d.wr ETH_MDIOCMD ((v &&& 0xFFF) ||| (d.rd ETH_MDIOCMD p &&& 0x6000)) p
    if v.getLsbD 12 then
      let c : MdioCmd := { lane := p, cmd := v &&& 0xFFF, data := d.rd ETH_MDIODATA p, at' := d.wall }
      (({ d with mdio := insMdio c d.mdio }.setB ETH_MDIOCMD_BUSY true p).setB ETH_MDIOCMD_ERR false p, false)
    else (d, false)

/-- The running command completes (R268): a read returns what a PHY drove, or 0xFFFF and ERR when none drove the turnaround. -/
def Dev.mdioDone (d : Dev) (reply : Option (BitVec 16)) : Dev :=
  match d.mdio with
  | [] => d
  | c :: rest =>
    let d := { d with mdio := rest }.setB ETH_MDIOCMD_BUSY false c.lane
    let d := if c.cmd.getLsbD 11 then d
      else
        match reply with
        | some v => d.setF ETH_MDIODATA_DATA v.toNat c.lane
        | none => (d.setF ETH_MDIODATA_DATA 0xFFFF c.lane).setB ETH_MDIOCMD_ERR true c.lane
    d.ethEv c.lane 4

/-! ### Octet counters (R269) -/

/-- A read of an octet counter's LO latches HI. -/
def Dev.readOctets (d : Dev) (p : Nat) (tx : Bool) : Dev × Word :=
  if tx then (d.setLane p { d.lane p with latTx := some (d.rd ETH_CNT_TXOCT_HI p) }, d.rd ETH_CNT_TXOCT_LO p)
  else (d.setLane p { d.lane p with latRx := some (d.rd ETH_CNT_RXOCT_HI p) }, d.rd ETH_CNT_RXOCT_LO p)

/-- A read of an octet counter's HI gives the latched value. -/
def Dev.octetsHi (d : Dev) (p : Nat) (tx : Bool) : Word :=
  if tx then (d.lane p).latTx.getD (d.rd ETH_CNT_TXOCT_HI p) else (d.lane p).latRx.getD (d.rd ETH_CNT_RXOCT_HI p)

/-! ### Gate lists (R295, R296) and stream gates (R286) -/

/-- Replace the gate-list state of lane `p`. -/
def Dev.setGcl (d : Dev) (p : Nat) (s : ListSt) : Dev := { d with swc := { d.swc with gcl := Tab.put d.swc.gcl {} p s } }

/-- Put gates in force (SWC_PSTAT.GATES). -/
def Dev.setGates (d : Dev) (p g : Nat) : Dev := (d.credRun p).setF SWC_PSTAT_GATES g p

/-- The sum of a list's intervals. -/
def Dev.gclTotal (d : Dev) (p : Nat) : Nat := (d.gclEnts p).foldl (fun n e => n + e.2) 0

/-- The latest cycle start of lane `p` at or before now, under the values in force. -/
def Dev.gclInstant (d : Dev) (p : Nat) : Option Nat :=
  let b := d.gclBase p
  if d.ns < b then none else some (b + (d.ns - b) / d.gclCycle p * d.gclCycle p)

/-- A cycle start of lane `p` since the last one (R295): the boundary of instance 1 + p, then entry 0. -/
def Dev.gateCycle (d : Dev) (p : Nat) : Dev :=
  match d.gclInstant p with
  | none => d
  | some t =>
    if !d.b SWC_GCLCTL_EN p || t ≤ (d.inst (1 + p)).last then d
    else
      let st := d.gclSt p
      let cut := st.on && decide (t < st.start + d.gclTotal p)
      let d := if cut then (d.count SWC_GCLCUT p).raise 75 else d
      let d := d.setGcl p { on := true, start := t, entry := 0 }
      let d := d.boundary (1 + p)
      if d.b SWC_GCLCTL_EN p then
        d.setGates p (match d.gclEnts p with
          | (g, _) :: _ => g
          | [] => 0xFF)
      else (d.setGcl p {}).setGates p 0xFF

/-- The time at which entry `i` of a list that started at `s` ends. -/
def entryEnd (s : Nat) (i : Nat) (ents : List (Nat × Nat)) : Nat := (ents.take (i + 1)).foldl (fun n e => n + e.2) s

/-- An entry of lane `p`'s list ends and the next one's gates apply (R295). -/
def Dev.gclEntry (d : Dev) (p : Nat) : Dev :=
  let st := d.gclSt p
  let ents := d.gclEnts p
  if st.on && decide (entryEnd st.start st.entry ents ≤ d.ns) then
    match ents[st.entry + 1]? with
    | some (g, _) => (d.setGcl p { st with entry := st.entry + 1 }).setGates p g
    | none => d
  else d

/-- The entries of stream gate `g`: open, interval. -/
def Dev.sgateEnts (d : Dev) (g : Nat) : List (Nat × Nat) :=
  ((List.range 16).map (fun e => (d.f SWC_SGATE_OPEN g e, d.f SWC_SGATE_INTERVAL g e))).takeWhile (fun x => x.2 != 0)

/-- Every stream gate starts its entry 0 at a station-cycle boundary at `t` (R286). -/
def Dev.sgateStart (d : Dev) (t : Nat) : Dev :=
  { d with swc := { d.swc with
    sgate := (List.range 32).foldl (fun l g => Tab.put l {} g { on := true, start := t, entry := 0 }) d.swc.sgate } }

/-- An entry of stream gate `g` ends and the next one's state applies (R286). -/
def Dev.sgateEntry (d : Dev) (g : Nat) : Dev :=
  let st := Tab.look d.swc.sgate {} g
  let ents := d.sgateEnts g
  if st.on && decide (entryEnd st.start st.entry ents ≤ d.ns) && decide (st.entry + 1 < ents.length) then
    { d with swc := { d.swc with sgate := Tab.put d.swc.sgate {} g { st with entry := st.entry + 1 } } }
  else d

end Sys2Proof.Machine
end

