-- ==== Sys2Proof/Machine/Mailbox.lean ====
section
/-!
DEFINITION. Mailboxes, pegs and the event registers (chapter 07).
-/

namespace Sys2Proof.Machine

/-! ### Mailboxes -/

/-- The two sides of mailbox `m`. -/
def Dev.mbox (d : Dev) (m : Nat) : MbxSide × MbxSide := Tab.look d.mbx ({}, {}) m

/-- One side. -/
def Dev.mside (d : Dev) (m s : Nat) : MbxSide := if s = 0 then (d.mbox m).1 else (d.mbox m).2

/-- Replace one side. -/
def Dev.setMside (d : Dev) (m s : Nat) (x : MbxSide) : Dev :=
  let b := d.mbox m
  { d with mbx := Tab.put d.mbx ({}, {}) m (if s = 0 then (x, b.2) else (b.1, x)) }

/-- The master number side `s` of mailbox `m` names. -/
def Dev.sideOf (d : Dev) (m s : Nat) : Nat := if s = 0 then d.f MBX_CFG_SIDE0 m else d.f MBX_CFG_SIDE1 m

/-- Side `s`'s epoch (R233). -/
def Dev.epoch (d : Dev) (m s : Nat) : Nat := if s = 0 then d.f MBX_EPOCH_EPOCH0 m else d.f MBX_EPOCH_EPOCH1 m

/-- The address of side `s`'s window of mailbox `m`. -/
def mbxWindow (m s : Nat) : Nat := 0x40040000 + m * 0x100 + 0x20 + 0x20 * s

/-- A window access is accepted (R227). -/
def Dev.windowOpen (d : Dev) (mst : Master) (m s : Nat) : Bool :=
  d.b MBX_CFG_EN m && d.sideOf m s == mst.num && (match mst with
    | .dma _ => false
    | .stn => false
    | _ => true)

/-- Words of a queue not yet read. -/
def queueWords (q : List Msg) : Nat := q.foldl (fun n x => n + x.words.length) 0

/-- Words on their way from side `s` of mailbox `m` to its outgoing queue. -/
def Dev.flying (d : Dev) (m s : Nat) : Nat :=
  (d.postings.filter (fun p => p.box == m && p.side == s)).foldl (fun n p => n + p.words.length) 0

/-- Free words of the outgoing queue of side `s`, messages on their way counted (R104, R229). -/
def Dev.outRoom (d : Dev) (m s : Nat) : Nat := 8 - (queueWords (d.mside m (1 - s)).inq + d.flying m s)

/-- Set an error flag of a side window; EV020 when it sets. -/
def Dev.mbxErr (d : Dev) (x : RegFld) (m s : Nat) : Dev :=
  if d.b x m s then d else (d.setB x true m s).raise 20

/-- A write of MBX_TX (R228, R229): one word more, a ninth being ignored; `true` is the bus error while TXPEND = 1. -/
def Dev.mbxTx (d : Dev) (m s : Nat) (v : Word) : Dev × Bool :=
  let x := d.mside m s
  if x.pend.isSome then (d, true)
  else if x.asm.length < 8 then (d.setMside m s { x with asm := x.asm ++ [v] }, false)
  else (d.mbxErr MBX_STAT_ERR_OVF m s, false)

/-- A write of MBX_RING (R228, R229): ABORT discards; RING posts, or holds the message while the queue lacks room. -/
def Dev.mbxRing (d : Dev) (num m s : Nat) (v : Word) : Dev × Bool :=
  let x := d.mside m s
  if x.pend.isSome then (d, true)
  else if v.getLsbD 1 then (d.setMside m s { x with asm := [] }, false)
  else if v.getLsbD 0 && !x.asm.isEmpty then
    let room := decide (x.asm.length ≤ d.outRoom m s)
    let d := d.setMside m s { x with asm := [], pend := if room then none else some x.asm }
    (if room then { d with postings := d.postings ++ [⟨num, m, s, x.asm⟩] } else d, false)
  else (d, false)

/-- A message of side `s` enters its queue: tagged, ready, its doorbell raised (R232, R233). -/
def Dev.enterQueue (d : Dev) (m s : Nat) (words : List Word) : Dev :=
  let r := d.mside m (1 - s)
  let msg : Msg := { words := words, len := words.length, epoch := d.epoch m (1 - s) }
  (d.setMside m (1 - s) { r with inq := r.inq ++ [msg] }).raise (128 + 2 * m + s)

/-- The next requesting master in rotation (R237). -/
def rotateNext (last : Nat) (l : List Posting) : Option Posting :=
  let key := fun (p : Posting) => (p.num + 64 - last - 1) % 64
  l.foldl (fun best p => match best with
    | none => some p
    | some b => if key p < key b then some p else best) none

/-- Remove the first posting equal to `p`. -/
def dropPosting (p : Posting) : List Posting → List Posting
  | [] => []
  | x :: xs => if x = p then xs else x :: dropPosting p xs

/-- The block accepts one message in rotation (R237). -/
def Dev.mbxDeliver (d : Dev) : Dev :=
  match rotateNext d.mbxLast d.postings with
  | none => d
  | some p => { d with postings := dropPosting p d.postings, mbxLast := p.num }.enterQueue p.box p.side p.words

/-- A TXPEND message enters its queue whole once there is room and nothing is ahead of it (R229, R230). -/
def Dev.pendEntry (d : Dev) (m s : Nat) : Dev :=
  let x := d.mside m s
  match x.pend with
  | none => d
  | some w =>
    if w.length ≤ d.outRoom m s && d.flying m s == 0 then (d.setMside m s { x with pend := none }).enterQueue m s w else d

/-- A read of MBX_RX (R231). -/
def Dev.mbxRx (d : Dev) (m s : Nat) : Dev × Word :=
  let x := d.mside m s
  match x.inq with
  | [] => (d.mbxErr MBX_STAT_ERR_EMPTY m s, 0)
  | msg :: rest =>
    match msg.words with
    | [] => (d.setMside m s { x with inq := rest }, 0)
    | w :: ws =>
      (d.setMside m s { x with inq := if ws.isEmpty then rest else { msg with words := ws } :: rest }, w)

/-- MBX_RXHDR. -/
def Dev.rxhdr (d : Dev) (m s : Nat) : Word :=
  match (d.mside m s).inq with
  | [] => 0
  | msg :: _ => BitVec.ofNat 32 (msg.len + msg.words.length * 16 + (if msg.epoch = d.epoch m s then 0 else 256))

/-- MBX_STAT, its error flags those held in the register. -/
def Dev.mbxStat (d : Dev) (m s : Nat) : Word :=
  let x := d.mside m s
  BitVec.ofNat 32 (x.asm.length + (if x.pend.isSome then 16 else 0) + (8 - queueWords (d.mside m (1 - s)).inq) * 256
    + queueWords x.inq * 65536 + x.inq.length * 2 ^ 20) ||| (d.rd MBX_STAT m s &&& 0x3000000)

/-- A reset of the master of number `num` (R234). -/
def Dev.mbxMasterReset (d : Dev) (num : Nat) : Dev :=
  (List.range 64).foldl (fun d m =>
    (List.range 2).foldl (fun d s =>
      if d.sideOf m s = num then
        let d := d.setMside m s { d.mside m s with asm := [], pend := none }
        let e := (d.epoch m s + 1) % 256
        if s = 0 then d.setF MBX_EPOCH_EPOCH0 e m else d.setF MBX_EPOCH_EPOCH1 e m
      else d) d) d

/-- An MBX block reset on mailboxes: assembly buffers and TXPEND messages go (R235). -/
def Dev.mbxBlockReset (d : Dev) : Dev :=
  { d with mbx := d.mbx.map (fun e =>
    (e.1, ({ e.2.1 with asm := [], pend := none }, { e.2.2 with asm := [], pend := none }))) }

/-- Mailbox `m` holds a message for master number `num` (Table 4-2). -/
def Dev.mbxReady (d : Dev) (num m : Nat) : Bool :=
  d.b MBX_CFG_EN m && ((d.sideOf m 0 == num && !(d.mside m 0).inq.isEmpty)
    || (d.sideOf m 1 == num && !(d.mside m 1).inq.isEmpty))

/-! ### Pegs -/

/-- Latch a peg report (MBX_PEGERR) and raise EV019 (R239, R241). -/
def Dev.pegErr (d : Dev) (p writer owner cause : Nat) : Dev :=
  let d := if d.b MBX_PEGERR_VALID then d else
    d.wr MBX_PEGERR (BitVec.ofNat 32 (p + writer * 256 + owner * 65536 + cause * 2 ^ 24 + 2 ^ 31))
  d.raise 19

/-- A read of a peg (R238). -/
def Dev.pegRead (d : Dev) (num p : Nat) : Dev × Word :=
  if d.f MBX_PEG_OWNER p = 0 then (d.setF MBX_PEG_OWNER num p, 0) else (d, d.rd MBX_PEG p)

/-- A write of a peg (R239). -/
def Dev.pegWrite (d : Dev) (num p : Nat) (v : Word) : Dev :=
  let o := d.f MBX_PEG_OWNER p
  if o = num && getBits v 0 6 = num then d.setF MBX_PEG_OWNER 0 p else d.pegErr p num o 1

/-- A write of MBX_PEGFREE by master number `num` (R241). -/
def Dev.pegFree (d : Dev) (num : Nat) (v : Word) : Dev :=
  let p := getBits v 0 6
  let o := d.f MBX_PEG_OWNER p
  if getBits v 16 16 = 0x5046 && o != 0 then (d.setF MBX_PEG_OWNER 0 p).pegErr p num o 2 else d

/-! ### Event registers -/

/-- The bits of a 32-source word that a master may see (R246). -/
def Dev.evVisible (d : Dev) (m : Master) (k : Nat) : Word :=
  if d.secure m then 0xFFFFFFFF
  else BitVec.ofNat 32 ((List.range 32).foldl (fun x j => if d.evSecure (32 * k + j) then x else x + 2 ^ j) 0)

/-- Source `s` is raised again while its instances remain (R244): no journal entry. -/
def Dev.reRaise (d : Dev) (s : Nat) : Dev :=
  if evGrouped s && d.rd EVT_SUB (s - 40) != 0 then d.setPending s else d

/-- A W1C write of EVT_PENDk (R244, R246). -/
def Dev.wEvtPend (d : Dev) (m : Master) (k : Nat) (v : Word) : Dev :=
  let x := v &&& d.evVisible m k &&& d.rd EVT_PEND k
  let d := d.wr EVT_PEND (d.rd EVT_PEND k &&& ~~~x) k
  (List.range 32).foldl (fun d j => if x.getLsbD j then d.reRaise (32 * k + j) else d) d

/-- A write of EVT_MASKk (R246, R247): a pending source whose mask bit clears sends its message. -/
def Dev.wEvtMask (d : Dev) (m : Master) (k : Nat) (v : Word) : Dev :=
  let see := d.evVisible m k
  let old := d.rd EVT_MASK k
  let new := (v &&& see) ||| (old &&& ~~~see)
  let open' := old &&& ~~~new &&& d.rd EVT_PEND k
  let d := d.wr EVT_MASK new k
  (List.range 32).foldl (fun d j => if open'.getLsbD j then d.sendMsix (32 * k + j) else d) d

/-- Software may raise source `s` (R245). -/
def Dev.mayRaise (d : Dev) (m : Master) (s : Nat) : Bool := d.b EVT_MAP_SWR s && (d.secure m || !d.evSecure s)

/-- A raise by EVT_RAISE or EVRAISE (R243, R245, R249): it names no instance. -/
def Dev.softRaise (d : Dev) (s : Nat) : Dev :=
  let d := d.setPending s
  if d.b EVT_MAP_JRN s then d.journal { origin := s, time := d.jtime, cls := min 2 (d.f EVT_MAP_JCLASS s) } else d

/-- A write of EVT_RAISE (R245); `true` is the bus error of a raise not permitted. A grouped source raised by software names
no instance. -/
def Dev.wEvtRaise (d : Dev) (m : Master) (v : Word) : Dev × Bool :=
  let s := getBits v 0 8
  if d.mayRaise m s then (d.softRaise s, false) else (d, true)

end Sys2Proof.Machine
end

