-- ==== Sys2Proof/Machine/DmaReg.lean ====
section
/-!
DEFINITION. The DMA channels' registers (R218, R219, R221, R223, R224).
-/

namespace Sys2Proof.Machine

/-- Channel `n` beside its registers. -/
def Dev.dch (d : Dev) (n : Nat) : DmaCh := Tab.look d.dma {} n

/-- Replace a channel. -/
def Dev.setDch (d : Dev) (n : Nat) (c : DmaCh) : Dev := { d with dma := Tab.put d.dma {} n c }

/-- Channel `n` is in ring mode. -/
def Dev.ringMode (d : Dev) (n : Nat) : Bool := d.f DMA_CTL_MODE n == 1

/-- A transfer completes (R220): DONE, and the channel's event when enabled. -/
def Dev.dmaDone (d : Dev) (n : Nat) : Dev :=
  let d := d.setB DMA_STAT_DONE true n
  if d.b DMA_CTL_IE_DONE n then d.raise (24 + n) else d

/-- The shadow set becomes the active set when the channel is idle, enabled and its shadow is valid (R218); a length of 0
completes at once (R220). -/
def Dev.dmaPromote (d : Dev) (n : Nat) : Dev :=
  if d.b DMA_CTL_EN n && !d.ringMode n && d.b DMA_STAT_SHADOW_VALID n && !d.b DMA_STAT_BUSY n && !d.b DMA_STAT_HALTED n then
    let d := (d.wr DMA_ASRC_LO (d.rd DMA_SRC_LO n) n).wr DMA_ASRC_HI (d.rd DMA_SRC_HI n) n
    let d := (d.wr DMA_ADST_LO (d.rd DMA_DST_LO n) n).wr DMA_ADST_HI (d.rd DMA_DST_HI n) n
    let d := (d.setF DMA_ALEN_LEN (d.f DMA_LEN_LEN n) n).setF DMA_BYTES_BYTES 0 n
    let d := d.setB DMA_STAT_SHADOW_VALID false n
    if d.f DMA_ALEN_LEN n = 0 then d.dmaDone n else d.setB DMA_STAT_BUSY true n
  else d

/-- A write to the shadow set or to DMA_GO is refused (R218). -/
def Dev.shadowShut (d : Dev) (n : Nat) : Bool := d.b DMA_STAT_SHADOW_VALID n || d.ringMode n

/-- A write of DMA_GO (R218). -/
def Dev.wDmaGo (d : Dev) (n : Nat) (v : Word) : Dev × Bool :=
  if d.shadowShut n then (d, true)
  else if v.getLsbD 0 then ((d.setB DMA_STAT_SHADOW_VALID true n).dmaPromote n, false) else (d, false)

/-- `k` bytes from address `a` take undefined values, where they are memory (R224, log 10). -/
def Dev.blur (d : Dev) (a : Nat) : Nat → Dev
  | 0 => d
  | k + 1 =>
    let (v, d) := d.take 8
    let d := match regionOf a with
      | .comb => (d.setByte a (BitVec.ofNat 8 v)).conflicts none [lineOf a]
      | .code _ => d.setByte a (BitVec.ofNat 8 v)
      | .data _ => d.setByte a (BitVec.ofNat 8 v)
      | .tcm0 => d.setByte a (BitVec.ofNat 8 v)
      | .tcm1 => d.setByte a (BitVec.ofNat 8 v)
      | _ => d
    d.blur (a + 1) k

/-- A 12-bit index left undefined (R224). -/
def Dev.blurHead (d : Dev) (x : RegFld) (n : Nat) : Dev :=
  let (v, d) := d.take 12
  d.setF x v n

/-- EN = 0 (R223, R224): a halted channel returns to idle; a busy one loses its beats, its counts and its shadow set, and
its frames. -/
def Dev.dmaStop (d : Dev) (n : Nat) : Dev :=
  if d.b DMA_STAT_HALTED n then d.setB DMA_STAT_HALTED false n
  else if d.ringMode n then
    let c := d.dch n
    let d := d.setDch n {}
    if c.inFrame || c.rxBusy || d.b DMA_STAT_BUSY n then
      ((d.blurHead DMA_TRIDX_HEAD n).blurHead DMA_RRIDX_HEAD n).setB DMA_STAT_BUSY false n
    else d
  else if d.b DMA_STAT_BUSY n then
    let d := if d.f DMA_CTL_DST_SP n = 0 then d.blur (d.rd DMA_ADST_LO n).toNat (d.f DMA_ALEN_LEN n) else d
    let (b, d) := d.take 24
    let d := d.setF DMA_BYTES_BYTES b n
    let d := (d.blurHead DMA_TRIDX_HEAD n).blurHead DMA_RRIDX_HEAD n
    (d.setB DMA_STAT_BUSY false n).setB DMA_STAT_SHADOW_VALID false n
  else d

/-- A write of DMA_CTL (R219, R223, R224): while EN = 1 the mode and space fields keep their values, with a bus error when
the write would change one; EN = 1 with a mode or space that is not legal leaves EN at 0. -/
def Dev.wDmaCtl (d : Dev) (n : Nat) (v : Word) : Dev × Bool :=
  let old := d.rd DMA_CTL n
  let en := old.getLsbD 0
  let err := en && (old ^^^ v) &&& 0x1FE != 0
  let fields := if en then old &&& 0x1FE else v &&& 0x1FE
  let legal := getBits fields 1 2 ≤ 1 && getBits fields 3 2 ≤ 1 && getBits fields 5 2 ≤ 1 && getBits fields 7 2 ≤ 1
  let on := v.getLsbD 0 && legal
  let d := if en && !v.getLsbD 0 then d.dmaStop n else d
  let d := d.wr DMA_CTL (fields ||| (v &&& 0x200) ||| (if on then 1 else 0)) n
  (if on && !en then d.dmaPromote n else d, err)

/-- The rings of channel `n`, or of the supervisor port for 16: its index register (R221). -/
def ringIdx (n : Nat) (tx : Bool) : Reg × Nat :=
  if n < 16 then (if tx then DMA_TRIDX else DMA_RRIDX, n) else (if tx then SWC_SVTRIDX else SWC_SVRRIDX, 0)

/-- A write of TAIL (R221) hands over descriptors and lets a stopped ring go on. -/
def Dev.wTail (d : Dev) (n : Nat) (tx : Bool) (v : Word) : Dev :=
  let (r, i) := ringIdx n tx
  let d := d.wr r (putBits (d.rd r i) 0 12 (getBits v 0 12)) i
  d.setDch n (if tx then { d.dch n with txStop := false } else { d.dch n with rxStop := false })

/-- A DMA block reset stops every channel as R224 does and then resets the registers. -/
def Dev.dmaBlockStop (d : Dev) : Dev :=
  (List.range 16).foldl (fun d n => (d.dmaStop n).setDch n {}) d

end Sys2Proof.Machine
end

