-- ==== Sys2Proof/Machine/Journal.lean ====
section
/-!
DEFINITION. The journal controller (chapter 16): rows and their CRC, row writes and wear, admission of queue entries with
coalescing, rate limit and overwrite, the alarm reserve, acknowledgement and push, summaries, FORMAT, the journal window.
-/

namespace Sys2Proof.Machine

/-! ### Rows (R495, R496, R498, R506) -/

/-- A word's bytes, lowest first. -/
def wordBytes (w : Word) : List Byte := natLe 4 w.toNat

/-- The eight words of 32 bytes. -/
def rowWords (b : List Byte) : List Word :=
  (List.range 8).map (fun i => BitVec.ofNat 32 (leNat ((b.drop (4 * i)).take 4)))

/-- The CRC of a record holds: CRC-16 over bytes 0x00 to 0x1D (R496). -/
def rowGood (ws : List Word) : Bool :=
  let b := (ws.map wordBytes).flatten
  b.length == 32 && leNat (b.drop 30) == (crc16 (b.take 30)).toNat

/-- A record's words (Table 16-3), its SEQ and CRC among them. -/
def recWords (r : JRec) (seq : Nat) : List Word :=
  let unit := if r.kind = 1 then 1000000 else 1000
  let dt := min 0xFFFFFFFF ((r.last % 2 ^ 63 - r.time % 2 ^ 63) / unit)
  let data := if r.kind = 1 then min 0xFFFFFFFF r.nfull + min 0xFFFF r.nrate * 2 ^ 32 + r.origin * 2 ^ 48 else r.data
  let b := natLe 8 r.time ++ natLe 4 (r.cls + r.kind * 4 + r.origin % 512 * 16 + r.code % 65536 * 65536)
    ++ natLe 4 (min 0xFFFFFF r.count) ++ natLe 4 dt ++ natLe 8 data ++ natLe 2 seq
  rowWords (b ++ natLe 2 (crc16 b).toNat)

/-- Replace the journal's state. -/
def Dev.setJ (d : Dev) (j : Jrn) : Dev := { d with jrn := j }

/-- Partition `c`. -/
def Dev.part (d : Dev) (c : Nat) : JPart := if c = 0 then d.jrn.alarm else if c = 1 then d.jrn.event else d.jrn.trace

/-- Replace partition `c`. -/
def Dev.setPart (d : Dev) (c : Nat) (p : JPart) : Dev :=
  d.setJ (if c = 0 then { d.jrn with alarm := p } else if c = 1 then { d.jrn with event := p } else { d.jrn with trace := p })

/-- The first row of partition `c` (R495). -/
def Dev.partBase (d : Dev) (c : Nat) : Nat :=
  256 + (if c = 0 then 0 else if c = 1 then d.jrn.alarm.size else d.jrn.alarm.size + d.jrn.event.size)

/-- The overflow row and, after it, the last-gasp row: the reserve of the alarm partition (R502). -/
def Dev.ovfRow (d : Dev) : Nat := 256 + d.jrn.alarm.size - 2

/-- The rows of partition `c` that ordinary records may take (R502). -/
def Dev.partRows (d : Dev) (c : Nat) : Nat := (d.part c).size - (if c = 0 then 2 else 0)

/-- The record a row holds. -/
def Dev.jrow (d : Dev) (r : Nat) : Option JAlloc := (d.jrn.alloc.find? (fun e => e.1 == r)).map (·.2)

/-- Replace what row `r` holds. -/
def Dev.setRow (d : Dev) (r : Nat) (a : JAlloc) : Dev := d.setJ { d.jrn with alloc := Tab.set d.jrn.alloc r a }

/-- The least write count of any physical row, and the first row that has it. -/
def minWear (w : Tab Nat) : Nat × Nat :=
  if w.length < 32768 then (0, ((List.range 32768).find? (fun q => (w.find? (fun e => e.1 == q)).isNone)).getD 0)
  else w.foldl (fun m e => if e.2 < m.1 then (e.2, e.1) else m) (w.foldl (fun m e => max m e.2) 0, 0)

/-- Count a write of logical row `r`; a row 2^20 writes ahead of the least-written one is swapped with it, which writes both
(R506). -/
def Dev.wearRow (d : Dev) (r : Nat) : Dev :=
  let j := d.jrn
  let p := Tab.look j.phys r r
  let w := Tab.set j.wear p (Tab.look j.wear 0 p + 1)
  if Tab.look w 0 p ≤ 2 ^ 20 then d.setJ { j with wear := w }
  else
    let m := minWear w
    if Tab.look w 0 p ≤ m.1 + 2 ^ 20 then d.setJ { j with wear := w }
    else
      let q := m.2
      let r2 := Tab.look j.log q q
      d.setJ { j with
        wear := Tab.set (Tab.set w p (Tab.look w 0 p + 1)) q (m.1 + 1)
        phys := Tab.set (Tab.set j.phys r q) r2 p
        log := Tab.set (Tab.set j.log q r) p r2 }

/-- Row `r` now holds these words. -/
def Dev.storeRow (d : Dev) (r : Nat) (ws : List Word) : Dev :=
  (d.setJ { d.jrn with rows := Tab.set d.jrn.rows r ws, torn := d.jrn.torn.filter (fun x => x != r) }).wearRow r

/-- A row as a read finds it: a row whose CRC fails reads as empty and is counted once (R496). An empty row reads 0. -/
def Dev.readRow (d : Dev) (r : Nat) : Dev × List Word :=
  match d.jrn.rows.find? (fun e => e.1 == r) with
  | none => (d, List.replicate 8 0)
  | some e =>
    if rowGood e.2 then (d, e.2)
    else if d.jrn.torn.contains r then (d, List.replicate 8 0)
    else ((d.setJ { d.jrn with torn := r :: d.jrn.torn }).count JRN_TORN, List.replicate 8 0)

/-- The contents a rewrite of row `r` writes, with a sequence number of its own. -/
def Dev.encodeRow (d : Dev) (r : Nat) : Dev × List Word :=
  let d := d.setJ { d.jrn with seq := (d.jrn.seq + 1) % 65536 }
  match d.jrow r with
  | some a => (d.setRow r { a with dirty := false, lastRw := d.wall }, recWords a.r d.jrn.seq)
  | none => (d, List.replicate 8 0)

/-- Start the next waiting row write when none is in progress (R498): written contents first, then rewrites; a row no longer
allocated is passed over (R503). -/
def Dev.startWrite (d : Dev) : Nat → Dev
  | 0 => d
  | fuel + 1 =>
    if d.jrn.writing.isSome then d
    else
      match d.jrn.direct, d.jrn.wq with
      | x :: rest, _ => d.setJ { d.jrn with direct := rest, writing := some x }
      | [], r :: rest =>
        let d := d.setJ { d.jrn with wq := rest }
        if (d.jrow r).isSome then
          let e := d.encodeRow r
          e.1.setJ { e.1.jrn with writing := some (r, e.2) }
        else Dev.startWrite d fuel
      | [], [] => d

/-- Start what waits. -/
def Dev.kick (d : Dev) : Dev := d.startWrite (d.jrn.wq.length + 1)

/-- Row `r` waits to be written. -/
def Dev.queueRow (d : Dev) (r : Nat) (first : Bool) : Dev :=
  if d.jrn.wq.contains r then d
  else (d.setJ { d.jrn with wq := if first then r :: d.jrn.wq else d.jrn.wq ++ [r] }).kick

/-- List a row for push, or count it lost when the list is full (R504). -/
def Dev.listRow (d : Dev) (r : Nat) : Dev :=
  if 256 ≤ d.jrn.push.length then d.count JRN_PUSHLOST else d.setJ { d.jrn with push := d.jrn.push ++ [r] }

/-- A row write completes (R498): the row holds its new contents, unless FORMAT took the row; the next write starts. -/
def Dev.rowWriteDone (d : Dev) : Dev :=
  match d.jrn.writing with
  | none => d
  | some (r, ws) => ((d.setJ { d.jrn with writing := none }).storeRow r ws).kick

/-! ### Admission (R499 to R502) -/

/-- Add one to summary count `i` (R505). -/
def Dev.jsum (d : Dev) (i : Nat) : Dev :=
  d.setJ { d.jrn with sums := d.jrn.sums.set i (satAdd 0xFFFF (d.jrn.sums.getD i 0) 1) }

/-- Coalescing is enabled for class `c`. -/
def Dev.coalOn (d : Dev) (c : Nat) : Bool := d.b JRN_PART_COAL_COALEN c

/-- The record of a queue entry (R497): a source's data are its EVT_SUB bits as the controller writes the record. -/
def Dev.recOf (d : Dev) (e : JEnt) : JRec :=
  match e.row with
  | none =>
    { cls := e.cls, origin := e.origin, code := e.origin, src := true, time := e.time, last := e.time
      data := if evGrouped e.origin then (d.rd EVT_SUB (e.origin - 40)).toNat else 0 }
  | some ws =>
    { cls := e.cls, origin := e.origin, code := getBits (ws.getD 2 0) 16 16, src := false, time := e.time, last := e.time
      data := (ws.getD 5 0).toNat + 2 ^ 32 * (ws.getD 6 0).toNat }

/-- The rows whose cache entry is open: the overflow record is no cache entry. -/
def Dev.cache (d : Dev) : List (Nat × JAlloc) := d.jrn.alloc.filter (fun e => e.2.isOpen && e.2.r.kind != 1)

/-- The open entry a record coalesces into (R499). -/
def Dev.coalHit (d : Dev) (r : JRec) : Option Nat :=
  (d.cache.find? (fun e => e.2.r.cls == r.cls && e.2.r.origin == r.origin && e.2.r.code == r.code
    && e.2.r.src == r.src && (r.src || e.2.r.data == r.data))).map (·.1)

/-- The next use stamp of the cache. -/
def Dev.jtick (d : Dev) : Dev × Nat := (d.setJ { d.jrn with tick := d.jrn.tick + 1 }, d.jrn.tick + 1)

/-- A coalescing occurrence (R500). -/
def Dev.absorb (d : Dev) (row : Nat) (r : JRec) : Dev :=
  match d.jrow row with
  | none => d
  | some a =>
    let (d, t) := d.jtick
    let nr := { a.r with
      count := satAdd 0xFFFFFF a.r.count 1
      last := r.time
      data := if r.src then a.r.data ||| r.data else a.r.data }
    ((d.setRow row { a with r := nr, dirty := true, used := t }).count JRN_COAL r.cls).jsum 3

/-- Take a token of class `c` (R499): RATE per second up to BURST, in elapsed time. -/
def Dev.token (d : Dev) (c : Nat) : Dev × Bool :=
  let p := d.part c
  let burst := d.f JRN_PART_RATE_BURST c * wallSecond
  let lack := p.lack - (d.wall - p.at') * d.f JRN_PART_RATE_RATE c
  let ok := decide (lack + wallSecond ≤ burst)
  (d.setPart c { p with lack := if ok then lack + wallSecond else min lack burst, at' := d.wall }, ok)

/-- A row ordinary records of class `c` may take is free. -/
def Dev.partFree (d : Dev) (c : Nat) : Bool :=
  !(d.part c).freed.isEmpty || decide ((d.part c).taken < d.partRows c)

/-- JRN_STAT.ALMFULL. -/
def Dev.almFull (d : Dev) : Bool := !d.partFree 0

/-- The oldest free row of class `c`: those never taken lead those freed since (R501). -/
def Dev.takeRow (d : Dev) (c : Nat) : Dev × Nat :=
  let p := d.part c
  if p.taken < d.partRows c then (d.setPart c { p with taken := p.taken + 1 }, d.partBase c + p.taken)
  else (d.setPart c { p with freed := p.freed.drop 1 }, p.freed.headD 0)

/-- Forget what row `r` of class `c` held: it leaves the cache, the order and the push list. -/
def Dev.dropRow (d : Dev) (c r : Nat) : Dev :=
  let d := d.setJ { d.jrn with alloc := Tab.drop d.jrn.alloc r, push := d.jrn.push.filter (fun x => x != r) }
  d.setPart c { d.part c with order := (d.part c).order.filter (fun x => x != r) }

/-- The reserve row `r` waits in the written order? The overflow record is in it once closed (R503). -/
def Dev.isReserve (d : Dev) (r : Nat) : Bool := d.ovfRow ≤ r && r ≤ d.ovfRow + 1

/-- The overflow record is open. -/
def Dev.ovfOpen (d : Dev) : Bool :=
  match d.jrow d.ovfRow with
  | some a => a.isOpen
  | none => false

/-- List row `r` again: its pushed state ends (R502 to R504). -/
def Dev.relist (d : Dev) (r : Nat) : Dev :=
  match d.jrow r with
  | none => d
  | some a =>
    let d := d.setRow r { a with pushed := false, acked := false }
    if d.jrn.push.contains r then d else d.listRow r

/-- An alarm row that has closed with a COUNT beyond the one it was pushed with is listed again; otherwise, if acknowledged,
it is freed (R503): a reserve row leaves only the order. Freeing an ordinary row closes the overflow record. -/
def Dev.settleRow (d : Dev) (r : Nat) : Nat → Dev
  | 0 => d
  | fuel + 1 =>
    match d.jrow r with
    | none => d
    | some a =>
      if a.pushed && decide (a.pcount < min 0xFFFFFF a.r.count) then d.relist r
      else if a.acked then
        let d := d.dropRow 0 r
        if d.isReserve r then d
        else
          let d := d.setPart 0 { d.part 0 with freed := (d.part 0).freed ++ [r] }
          match d.jrow d.ovfRow with
          | some o =>
            if o.isOpen then
              let d := d.setRow d.ovfRow { o with isOpen := false }
              let d := d.setPart 0 { d.part 0 with order := (d.part 0).order ++ [d.ovfRow] }
              let d := if o.dirty then d.queueRow d.ovfRow false else d
              Dev.settleRow d d.ovfRow fuel
            else d
          | none => d
      else d

/-- A cache entry closes or is evicted (R500): its row is rewritten when its COUNT changed, and an alarm row settles. -/
def Dev.closeEntry (d : Dev) (r : Nat) : Dev :=
  match d.jrow r with
  | none => d
  | some a =>
    if !a.isOpen then d
    else
      let d := d.setRow r { a with isOpen := false }
      let d := if a.dirty then d.queueRow r false else d
      if a.r.cls = 0 then d.settleRow r 2 else d

/-- The least recently used entry of the cache. -/
def lruOf : List (Nat × JAlloc) → Option (Nat × JAlloc)
  | [] => none
  | e :: es =>
    match lruOf es with
    | some m => if e.2.used ≤ m.2.used then some e else some m
    | none => some e

/-- Open a cache entry for row `r`, evicting the least recently used one of 32 (R500). -/
def Dev.openEntry (d : Dev) (r : Nat) : Dev :=
  let d := if 32 ≤ d.cache.length then
      match lruOf d.cache with
      | some e => d.closeEntry e.1
      | none => d
    else d
  let (d, t) := d.jtick
  match d.jrow r with
  | some a => d.setRow r { a with isOpen := true, used := t, opened := d.wall, lastRw := d.wall }
  | none => d

/-- A record takes row `r` of class `c`: it is counted, joins the written order and is written at once (R501). -/
def Dev.putRec (d : Dev) (r : Nat) (rc : JRec) : Dev :=
  let c := rc.cls
  let d := d.setRow r { r := rc }
  let d := d.setPart c { d.part c with order := (d.part c).order ++ [r] }
  ((d.setF JRN_PART_FILL_NEWEST r c).count JRN_WR c).jsum c

/-- EV111 when the alarm partition becomes full (R502). -/
def Dev.fullCheck (d : Dev) (was : Bool) : Dev := if d.almFull && !was then d.raise 111 else d

/-- A record of class `c` with room in its partition takes its row: an event or trace partition that is full gives its oldest
record (R501); an alarm row is listed and raises EV110 (R502, R504). -/
def Dev.placeRec (d : Dev) (rc : JRec) : Dev × Nat :=
  let c := rc.cls
  let was := d.almFull
  let x := if d.partFree c then d.takeRow c
    else
      let r := (d.part c).order.headD 0
      ((d.dropRow c r).count JRN_OVW c, r)
  let r := x.2
  let d := (x.1.putRec r rc).queueRow r true
  if c = 0 then (((d.listRow r).raise 110).fullCheck was, r) else (d, r)

/-- An alarm folds into the overflow record, which opens, goes on or reopens (R502). -/
def Dev.fold (d : Dev) (rc : JRec) (rate : Bool) : Dev :=
  let r := d.ovfRow
  let d := (d.count JRN_DROP 0).jsum 3
  let add := fun (x : JRec) => { x with
    count := satAdd 0xFFFFFF x.count 1
    last := rc.time
    origin := rc.origin
    nfull := if rate then x.nfull else x.nfull + 1
    nrate := if rate then x.nrate + 1 else x.nrate }
  match d.jrow r with
  | some a =>
    if a.isOpen then d.setRow r { a with r := add a.r, dirty := true }
    else
      let d := d.setPart 0 { d.part 0 with order := (d.part 0).order.filter (fun x => x != r) }
      (d.setRow r { a with r := add a.r, dirty := true, isOpen := true }).relist r
  | none =>
    let new : JRec := add { cls := 0, kind := 1, origin := rc.origin, code := 0, data := 0, src := false, time := rc.time, last := rc.time, count := 0 }
    let d := d.setRow r { r := new, isOpen := true, lastRw := d.wall }
    let d := ((d.setF JRN_PART_FILL_NEWEST r 0).count JRN_WR 0).jsum 0
    (((d.queueRow r true).listRow r).raise 110).raise 111

/-- A record that fits no coalescing entry: rate limit, then row (R499, R501, R502). -/
def Dev.admitRec (d : Dev) (rc : JRec) : Dev :=
  let c := rc.cls
  match d.token c with
  | (d, false) => if c = 0 then d.fold rc true else (d.count JRN_DROP c).jsum 3
  | (d, true) =>
    if c = 0 && d.almFull then d.fold rc false
    else if d.partRows c = 0 then (d.count JRN_DROP c).jsum 3
    else
      match d.placeRec rc with
      | (d, r) => if d.coalOn c then d.openEntry r else d

/-- The controller takes the oldest queue entry (R497, R499): not during a row write or FORMAT. -/
def Dev.jrnProcess (d : Dev) : Dev :=
  let asleep := decide (2 ≤ d.f PWR_STAT_STATE)
  if d.jrn.writing.isSome || d.jrn.fmtAt.isSome then d
  else
    match d.jq.find? (fun e => !asleep || e.origin == 10) with
    | none => d
    | some e =>
      let d := { d with jq := d.jq.erase e }
      let rc := d.recOf e
      match if d.coalOn rc.cls then d.coalHit rc else none with
      | some row => d.absorb row rc
      | none => d.admitRec rc

/-- Once per second an open row whose COUNT changed is rewritten in place (R500). -/
def Dev.coalRewrite (d : Dev) (r : Nat) : Dev :=
  match d.jrow r with
  | some a => if a.isOpen && a.dirty && decide (a.lastRw + wallSecond ≤ d.wall) then d.queueRow r false else d
  | none => d

/-- A cache entry's COALWIN has expired in elapsed time (R500). -/
def Dev.coalClose (d : Dev) (r : Nat) : Dev :=
  match d.jrow r with
  | some a =>
    if a.isOpen && a.r.kind != 1 && decide (a.opened + d.f JRN_PART_COAL_COALWIN a.r.cls * (wallSecond / 10) ≤ d.wall)
    then d.closeEntry r else d
  | none => d

/-! ### Summaries, FORMAT, acknowledgement (R495, R503 to R505) -/

/-- A summary record is written every SUMPER seconds while SUMEN = 1 (R505). -/
def Dev.jrnSummary (d : Dev) : Dev :=
  if !d.b JRN_CTL_SUMEN || decide (d.wall < d.jrn.sumAt + max 1 (d.f JRN_CTL_SUMPER) * wallSecond)
    || d.jrn.fmtAt.isSome then d
  else
    let s := d.jrn.sums
    let data := s.getD 0 0 + s.getD 1 0 * 2 ^ 16 + s.getD 2 0 * 2 ^ 32 + s.getD 3 0 * 2 ^ 48
    let d := d.setJ { d.jrn with sums := [0, 0, 0, 0], sumAt := d.wall }
    match d.placeRec { cls := 1, kind := 2, origin := 0, code := 0, data := data, src := false, time := d.jtime, last := d.jtime } with
    | (d, r) => d.listRow r

/-- FORMAT starts (R495): the partitions are emptied and rebuilt with the sizes then written, or with the reset sizes. -/
def Dev.jrnFormat (d : Dev) : Dev :=
  let a := d.f JRN_PART_SIZE_SIZE 0
  let e := d.f JRN_PART_SIZE_SIZE 1
  let t := d.f JRN_PART_SIZE_SIZE 2
  let bad := decide (32512 < a + e + t) || decide (a < 16) || decide (e < 16)
  let d := if bad then d.setB JRN_STAT_CFGERR true else d
  let keep := fun (r : Nat) => decide (r < 256)
  d.setJ { d.jrn with
    rows := d.jrn.rows.filter (fun x => keep x.1)
    torn := d.jrn.torn.filter keep
    alloc := []
    push := []
    wq := []
    writing := match d.jrn.writing with
      | some (r, ws) => if r < 256 then some (r, ws) else none
      | none => none
    alarm := { d.jrn.alarm with size := if bad then 0x1000 else a, taken := 0, freed := [], order := [] }
    event := { d.jrn.event with size := if bad then 0x3000 else e, taken := 0, freed := [], order := [] }
    trace := { d.jrn.trace with size := if bad then 0x3F00 else t, taken := 0, freed := [], order := [] }
    fmtAt := some d.wall }

/-- FORMAT completes after 325 ms (R495). -/
def Dev.formatDone (d : Dev) : Dev :=
  match d.jrn.fmtAt with
  | some t => if t + 6500000000 ≤ d.wall then (d.setJ { d.jrn with fmtAt := none }).kick else d
  | none => d

/-- A write of JRN_CTL: SUMEN and SUMPER, and FORMAT by a secure master (R527). -/
def Dev.wJrnCtl (d : Dev) (sec : Bool) (v : Word) : Dev :=
  let d := (d.setF JRN_CTL_SUMEN (getBits v 1 1)).setF JRN_CTL_SUMPER (getBits v 16 16)
  if v.getLsbD 0 && sec then d.jrnFormat else d

/-- A write of JRN_PUSHACK (R504). -/
def Dev.pushAck (d : Dev) (v : Word) : Dev :=
  let r := getBits v 0 15
  match d.jrn.push with
  | h :: rest =>
    if h = r then
      let d := d.setJ { d.jrn with push := rest }
      match d.jrow r with
      | some a =>
        let n := match d.jrn.rows.find? (fun e => e.1 == r) with
          | some e => getBits (e.2.getD 3 0) 0 24
          | none => min 0xFFFFFF a.r.count
        d.setRow r { a with pushed := true, pcount := n }
      | none => d
    else d
  | [] => d

/-- The rows of a list up to and including `r`. -/
def upTo (r : Nat) : List Nat → List Nat
  | [] => []
  | x :: xs => if x = r then [x] else x :: upTo r xs

/-- A write of JRN_ALMACK by SV0 or SV1 (R503): every pushed alarm row written up to the row named is acknowledged, and freed
if its entry is closed. -/
def Dev.almAck (d : Dev) (v : Word) : Dev :=
  let r := getBits v 0 15
  let l := (d.part 0).order ++ (if d.ovfOpen then [d.ovfRow] else [])
  if !l.contains r then d
  else (upTo r l).foldl (fun d x =>
    match d.jrow x with
    | some a =>
      if !a.pushed then d
      else
        let d := d.setRow x { a with acked := true }
        if a.isOpen then d else d.settleRow x 2
    | none => d) d

/-- The last-gasp record (R445, R502): ahead of the queue, in a free ordinary row, else in the last-gasp row, else folded. Its
row is written at once. -/
def Dev.gaspRecord (d : Dev) (data : Nat) : Dev :=
  let rc : JRec := { cls := 0, kind := 3, origin := 103, code := 103, data := data, src := false, time := d.jtime, last := d.jtime }
  let done := fun (d : Dev) (r : Nat) =>
    match d.encodeRow r with
    | (d, ws) => ((d.storeRow r ws).listRow r).raise 110
  if d.partFree 0 then
    let was := d.almFull
    match d.takeRow 0 with
    | (d, r) => (done (d.putRec r rc) r).fullCheck was
  else if (d.jrow (d.ovfRow + 1)).isNone then done (d.putRec (d.ovfRow + 1) rc) (d.ovfRow + 1)
  else d.fold rc false

/-! ### The window (R495, R497, R498) -/

/-- A write of word `i` of row `r` through the window (R497), by a master with access to the row; `true` is the bus error of
a record of class 0x3. Word 7 submits the record, or commits a protected row. -/
def Dev.windowWrite (d : Dev) (num r i : Nat) (v : Word) : Dev × Bool :=
  let d := d.setJ { d.jrn with banks := Tab.put d.jrn.banks 0 (8 * num + i) v }
  if i < 7 then (d, false)
  else
    let ws := (List.range 8).map (fun k => Tab.look d.jrn.banks 0 (8 * num + k))
    if r < 256 then ((d.setJ { d.jrn with direct := d.jrn.direct ++ [(r, ws)] }).kick, false)
    else if getBits (ws.getD 2 0) 0 2 = 3 then (d, true)
    else (d.journal { origin := 256 + num, time := d.jtime, cls := getBits (ws.getD 2 0) 0 2, row := some ws }, false)

/-- The row at a journal-window address is being written: a read of it stalls (R498). -/
def Dev.rowBusy (d : Dev) (r : Nat) : Bool :=
  match d.jrn.writing with
  | some (x, _) => x == r
  | none => false

/-- JRN_STAT as a read returns it. -/
def Dev.jrnStat (d : Dev) : Word :=
  BitVec.ofNat 32 (d.jrn.writing.isSome.toNat + d.jrn.fmtAt.isSome.toNat * 2 + d.almFull.toNat * 4 + d.ovfOpen.toNat * 8
    + d.f JRN_STAT_CFGERR * 16)

/-- JRN_PARTc_FILL as a read returns it. -/
def Dev.jrnFill (d : Dev) (c : Nat) : Word :=
  BitVec.ofNat 32 ((d.part c).order.length + (c == 0 && d.ovfOpen).toNat + d.f JRN_PART_FILL_NEWEST c * 65536)

/-- JRN_PUSHHEAD as a read returns it. -/
def Dev.pushHead (d : Dev) : Word :=
  match d.jrn.push with
  | r :: _ => BitVec.ofNat 32 (r + 2 ^ 31)
  | [] => 0

/-- JRN_WEAR as a read returns it. -/
def Dev.jrnWear (d : Dev) : Word :=
  let mx := d.jrn.wear.foldl (fun m e => max m e.2) 0 / 2 ^ 20
  let mn := (if d.jrn.wear.length < 32768 then 0 else (minWear d.jrn.wear).1) / 2 ^ 20
  BitVec.ofNat 32 (min 0xFFFF mx + min 0xFFFF mn * 65536)

/-- A sill reset of the controller (R498, R507): a row being written is torn and free; the cache and the push list are emptied,
unpushed alarm rows listed again. -/
def Dev.jrnSill (d : Dev) : Dev :=
  let j := d.jrn
  let d := match j.writing with
    | none => d
    | some (r, ws) =>
      let d := d.setJ { j with rows := Tab.set j.rows r ((ws.take 7) ++ [~~~(ws.getD 7 0)]) }
      match d.jrow r with
      | some a =>
        let d := d.dropRow a.r.cls r
        if d.isReserve r then d
        else d.setPart a.r.cls { d.part a.r.cls with freed := (d.part a.r.cls).freed ++ [r] }
      | none => d
  let d := if d.ovfOpen then d.setPart 0 { d.part 0 with order := (d.part 0).order ++ [d.ovfRow] } else d
  let full := fun (p : JPart) => { p with lack := 0, at' := 0 }
  let d := d.setJ { d.jrn with
    alloc := d.jrn.alloc.map (fun e => (e.1, { e.2 with isOpen := false, dirty := false, opened := 0, lastRw := 0, used := 0 }))
    push := []
    wq := []
    direct := []
    writing := none
    banks := []
    sums := [0, 0, 0, 0]
    sumAt := 0
    tick := 0
    fmtAt := none
    alarm := full d.jrn.alarm
    event := full d.jrn.event
    trace := full d.jrn.trace }
  (d.part 0).order.foldl (fun d r =>
    match d.jrow r with
    | some a => if a.pushed then d else d.listRow r
    | none => d) d

end Sys2Proof.Machine
end

