-- ==== Sys2Proof/Machine/MdBus.lean ====
section
/-!
DEFINITION. The multi-drop message buses (chapter 11): enabling, acceptance and posting, the priority slot and the FIFO,
transmission, error states, sleep and waking, reference messages, lane signal bits.
-/

namespace Sys2Proof.Machine

/-- Controller `n` beside its registers. -/
def Dev.mbus (d : Dev) (n : Nat) : MbSt := Tab.look d.mb {} n

/-- Replace controller `n`. -/
def Dev.setMb (d : Dev) (n : Nat) (m : MbSt) : Dev := { d with mb := Tab.put d.mb {} n m }

/-- The source of bit `b` of MDB_EVSTAT (Table 11-6). -/
def mdbSource (b : Nat) : Nat := if b ≤ 4 then 88 else if b ≤ 6 then 89 else if b ≤ 9 then 90 else 91

/-- Set bit `b` of MDB_EVSTAT (R369). -/
def Dev.mbEv (d : Dev) (n b : Nat) : Dev := d.evBit ⟨MDB_EVSTAT, b, 1⟩ ⟨MDB_EVEN, b, 1⟩ n (mdbSource b) n

/-- STATE of controller `n`. -/
def Dev.mbState (d : Dev) (n : Nat) : Nat := d.f MDB_STAT_STATE n

/-- Set STATE. -/
def Dev.setMbState (d : Dev) (n s : Nat) : Dev := d.setF MDB_STAT_STATE s n

/-- The lane of controller `n` is bound to an engine (R11). -/
def Dev.mbBound (d : Dev) (n : Nat) : Option Nat := d.boundEng (24 + n)

/-- Error active or error passive (R357). -/
def Dev.mbOnBus (d : Dev) (n : Nat) : Bool := d.mbState n == 2 || d.mbState n == 3

/-- MBn_DE is asserted (R344, R362). -/
def Dev.mbDrives (d : Dev) (n : Nat) : Bool :=
  d.b MDB_CTL_EN n && !(d.mbus n).listen && (d.mbOnBus n || d.mbState n == 1) && (d.mbBound n).isSome

/-- The level of pin MBn_DE (R344). -/
def Dev.mbDe (d : Dev) (n : Nat) : Bool := d.mbDrives n != d.b MDB_CTL_DEPOL n

/-! ### Bit timing and enabling (R345) -/

/-- The nominal bit time in units of 12.5 ns. -/
def Dev.mbNominal (d : Dev) (n : Nat) : Nat :=
  (d.f MDB_NBT_NBRP n + 1) * (1 + (d.f MDB_NBT_NTSEG1 n + 1) + (d.f MDB_NBT_NTSEG2 n + 1))

/-- The data-phase bit time in units of 12.5 ns. -/
def Dev.mbData (d : Dev) (n : Nat) : Nat :=
  (d.f MDB_DBT_DBRP n + 1) * (1 + (d.f MDB_DBT_DTSEG1 n + 1) + (d.f MDB_DBT_DTSEG2 n + 1))

/-- A write of EN = 1 is refused (R345). -/
def Dev.mbRefused (d : Dev) (n : Nat) : Bool :=
  decide (d.f MDB_NBT_NTSEG2 n < d.f MDB_NBT_NSJW n) || decide (d.f MDB_DBT_DTSEG2 n < d.f MDB_DBT_DSJW n)
  || (d.b MDB_CTL_FDEN n && decide (d.mbNominal n < d.mbData n))

/-- Controller `n` stops: nothing is in transmission and no sleep is asked for (R368, EN = 0). -/
def Dev.mbStop (d : Dev) (n : Nat) : Dev :=
  ((d.setMb n { d.mbus n with cur := none, sleepReq := false, dec := false }).setMbState n 0).setB MDB_STAT_TXACT false n

/-- The error state the counters give: error passive above 127 (R357). -/
def Dev.mbSettle (d : Dev) (n : Nat) : Dev :=
  if d.mbOnBus n then
    let passive := decide (127 < d.f MDB_STAT_TEC n) || decide (127 < d.f MDB_STAT_REC n)
    if passive && d.mbState n == 2 then (d.setMbState n 3).mbEv n 1
    else if passive then d else d.setMbState n 2
  else d

/-- Start recovery from bus-off (R357). -/
def Dev.mbRecover (d : Dev) (n : Nat) : Dev :=
  let m := d.mbus n
  if m.off = 1 then
    let d := d.setMb n { m with off := 2 }
    if d.mbState n = 4 then d.setMbState n 5 else d
  else d

/-- Add to the transmit error counter; beyond 255 the controller goes bus-off, ending all transmission (R357). -/
def Dev.mbTecAdd (d : Dev) (n k : Nat) : Dev :=
  let t := d.f MDB_STAT_TEC n + k
  let d := d.setF MDB_STAT_TEC (min 255 t) n
  if 255 < t then
    let d := (d.setMb n { d.mbus n with off := 1, cur := none }).setB MDB_STAT_TXACT false n
    let d := ((d.setMbState n 4).count MDB_CNT_BUSOFF n).mbEv n 5
    if d.b MDB_CTL_BOREC n then d else d.mbRecover n
  else d.mbSettle n

/-- 128 occurrences of 11 recessive bits complete the recovery (R357). -/
def Dev.mbRecovered (d : Dev) (n : Nat) : Dev :=
  let m := d.mbus n
  if m.off = 2 && d.mbState n == 5 then
    let d := ((d.setMb n { m with off := 0 }).setF MDB_STAT_TEC 0 n).setF MDB_STAT_REC 0 n
    (d.setMbState n 2).mbEv n 6
  else d

/-- Eleven recessive bits of integration (R358, R362): the controller takes its state. -/
def Dev.mbIntegrated (d : Dev) (n : Nat) : Dev :=
  let s := d.mbState n
  if s = 1 || s = 7 then
    match (d.mbus n).off with
    | 0 => (d.setMbState n 2).mbSettle n
    | 1 => d.setMbState n 4
    | _ => d.setMbState n 5
  else d

/-! ### Waking (R360 to R362) -/

/-- A wake sets WAKE, signals PWR and starts the controller (R362). -/
def Dev.mbWake (d : Dev) (n : Nat) : Dev :=
  if d.mbState n = 6 then
    let d := d.setMb n { d.mbus n with dec := false }
    ((d.setMbState n 7).mbEv n 7).wake 2 (24 + n)
  else d

/-- Wall time of a number of ms. -/
def msWall (k : Nat) : Nat := k * 20000000

/-- One transition at a wake detector (R360, R409): those of the window kept, and whether there are more than the limit. -/
def WakeDet.note (w : WakeDet) (now win limit : Nat) : WakeDet × Bool :=
  let l := w.trans.filter (fun t => decide (now < t + win)) ++ [now]
  ({ w with trans := l }, decide (limit < l.length))

/-- A dominant level at MBn_RX during sleep, longer than FILT or a shorter pulse (R360, R361). -/
def Dev.mbDominant (d : Dev) (n : Nat) (long : Bool) : Dev :=
  if d.mbState n != 6 then d
  else
    let m := d.mbus n
    let det := { m.det with actAt := d.wall, live := true }
    let quar := d.b MDB_WAKE_QUAR n
    if long then
      let d := d.setMb n { m with det := det, dec := m.dec || (d.b MDB_WAKE_WAKEMODE n && !quar) }
      if quar || d.b MDB_WAKE_WAKEMODE n then d else d.mbWake n
    else
      let (det, chat) := det.note d.wall (msWall (d.f MDB_WAKECHAT_CHATWIN n)) (d.f MDB_WAKECHAT_CHATMAX n)
      let d := d.setMb n { m with det := det, dec := m.dec || (d.b MDB_WAKE_WAKEMODE n && !quar) }
      if chat && !quar then
        ((d.setB MDB_WAKE_QUAR true n).setMb n { d.mbus n with dec := false }).mbEv n 8
      else d

/-- The input has stayed recessive for QUIET (R360). -/
def Dev.mbQuiet (d : Dev) (n : Nat) : Dev :=
  let m := d.mbus n
  if d.b MDB_WAKE_QUAR n && decide (m.det.actAt + msWall (100 * d.f MDB_WAKECHAT_QUIET n) ≤ d.wall) then
    (d.setB MDB_WAKE_QUAR false n).setMb n { m with det := { m.det with trans := [] } }
  else d

/-- A dominant level has lasted STUCK (R360): reported once until the input has been recessive. -/
def Dev.mbStuck (d : Dev) (n : Nat) : Dev :=
  let m := d.mbus n
  if m.det.live && decide (m.det.actAt + msWall (100 * d.f MDB_WAKECHAT_STUCK n) ≤ d.wall) then
    (d.setMb n { m with det := { m.det with live := false } }).mbEv n 9
  else d

/-- The data length a DLC gives (Table 11-3). -/
def mbLen (fdf : Bool) (dlc : Nat) : Nat :=
  if dlc ≤ 8 then dlc
  else if fdf then [12, 16, 20, 24, 32, 48, 64].getD (dlc - 9) 64 else 8

/-- The data length of a frame: a remote frame carries none. -/
def mbFrameLen (f : MbFrame) : Nat := if f.rtr && !f.fdf then 0 else mbLen f.fdf f.dlc.toNat

/-- The frame's data, as long as its DLC says. -/
def mbFrameBytes (f : MbFrame) : List Byte := (f.data ++ List.replicate 64 0).take (mbFrameLen f)

/-- The wake-frame decoder has decoded a frame (R361). -/
def Dev.mbWakeFrame (d : Dev) (n : Nat) (f : MbFrame) (crc : Bool) : Dev :=
  if d.mbState n != 6 || !(d.mbus n).dec || decide (d.mbNominal n < 160) then d
  else
    let id := d.rd MDB_WKID n
    let mask := (d.rd MDB_WKMASK n).toNat
    let data := wide64 (d.rd MDB_WKDATA_LO n) (d.rd MDB_WKDATA_HI n)
    let dm := wide64 (d.rd MDB_WKDMASK_LO n) (d.rd MDB_WKDMASK_HI n)
    let got := leNat ((mbFrameBytes f).take 8)
    let need := leNat ((List.range (mbFrameBytes f).length).map (fun _ => (0xFF : Byte)))
    let hit := crc && !f.fdf && f.ide == id.getLsbD 29 && ((f.id.toNat ^^^ getBits id 0 29) &&& mask) == 0
      && (!id.getLsbD 30 || (((got ^^^ data) &&& dm) == 0 && dm &&& need == dm))
    if hit then d.mbWake n else d.count MDB_CNT_WAKEMISS n

/-- The decoder stops after 1 ms of bus idle (R361). -/
def Dev.mbDecIdle (d : Dev) (n : Nat) : Dev := d.setMb n { d.mbus n with dec := false }

/-- The decoder's oscillator is trimmed once per second during sleep (R361). -/
def Dev.mbTrim (d : Dev) (n : Nat) : Dev :=
  if d.mbState n = 6 && decide ((d.mbus n).trim + wallSecond ≤ d.wall) then
    d.setMb n { d.mbus n with trim := d.wall }
  else d

/-- A sleep request (R359). -/
def Dev.mbSleepReq (d : Dev) (n : Nat) : Dev :=
  if d.b MDB_CTL_EN n && d.mbState n != 6 then d.setMb n { d.mbus n with sleepReq := true } else d

/-- At bus-idle the controller enters sleep (R359). -/
def Dev.mbSleep (d : Dev) (n : Nat) : Dev :=
  let m := d.mbus n
  if m.sleepReq && m.cur.isNone then
    (d.setMb n { m with sleepReq := false, dec := false, trim := d.wall, det := {} }).setMbState n 6
  else d

/-! ### Arms (R351, R352, R355) -/

/-- The frame an armed slot holds (Table 11-3). -/
def mbOfArm (b : List Byte) : MbFrame :=
  let w := beNat (b.take 4)
  let b4 := b.getD 4 0
  { ide := w.testBit 31, rtr := w.testBit 30, fdf := b4.getLsbD 7, brs := b4.getLsbD 6
    id := BitVec.ofNat 29 w, dlc := BitVec.ofNat 4 b4.toNat, data := b.drop 8 }

/-- An armed frame is for the priority slot. -/
def mbPrio (b : List Byte) : Bool := (b.getD 4 0).getLsbD 5

/-- An armed frame is timed, and its AT in units of 4 us. -/
def mbAten (b : List Byte) : Bool := (b.getD 6 0).getLsbD 7

/-- AT of an armed frame. -/
def mbAt (b : List Byte) : Nat := beNat ((b.drop 6).take 2) % 32768

/-- The controller discards the frame at the copy (R352, R355). -/
def Dev.mbReject (d : Dev) (n : Nat) (b : List Byte) : Bool :=
  let f := mbOfArm b
  decide (b.length < 8 + mbFrameLen f) || (f.fdf && !d.b MDB_CTL_FDEN n) || (f.brs && !f.fdf)
  || (b.getD 0 0).getLsbD 5 || (f.rtr && f.fdf) || (b.getD 4 0).getLsbD 4 || b.getD 5 0 != 0
  || (mbAten b && !mbPrio b)

/-- The destination of an armed frame is full, or an earlier arm waits for it. -/
def Dev.mbFull (d : Dev) (n : Nat) (b : List Byte) : Bool :=
  let m := d.mbus n
  m.held.any (fun a => mbPrio a.bytes == mbPrio b)
  || (if mbPrio b then m.ps.isSome else decide (64 ≤ m.fifo.length))

/-- A frame enters the priority slot or the FIFO; in sleep it wakes the controller under TXWAKE (R351, R355, R359). -/
def Dev.mbCopy (d : Dev) (n : Nat) (a : Arm) : Dev :=
  let m := d.mbus n
  if mbPrio a.bytes && mbAten a.bytes && !d.b MDB_TMSTAT_SYNCED n then (d.count MDB_CNT_TXLATE n).mbEv n 4
  else
    let d := d.setMb n (if mbPrio a.bytes then { m with ps := some a } else { m with fifo := m.fifo ++ [a] })
    if d.b MDB_CTL_TXWAKE n then d.mbWake n else d

/-- A drained arm for the lane (R351, R352): `true` when the frame entered or was discarded, `false` when it is held. -/
def Dev.mbArm (d : Dev) (n : Nat) (a : Arm) : Dev × Bool :=
  if d.mbReject n a.bytes then ((d.count MDB_CNT_TXREJ n).mbEv n 3, true)
  else if d.mbFull n a.bytes then (d.setMb n { d.mbus n with held := (d.mbus n).held ++ [a] }, false)
  else (d.mbCopy n a, true)

/-- The engine slot an arm came from is free (R98). -/
def Dev.freeArm (d : Dev) (a : Arm) : Dev :=
  match a.slot with
  | some s => d.freeSrc (.slot a.eng s)
  | none => d

/-- Take the first arm that satisfies `p` from a list. -/
def takeArm (p : Arm → Bool) : List Arm → Option (Arm × List Arm)
  | [] => none
  | a :: l => if p a then some (a, l) else (takeArm p l).map (fun x => (x.1, a :: x.2))

/-- The oldest held arm whose destination has room enters (R351). -/
def Dev.mbHeldEnter (d : Dev) (n : Nat) : Dev :=
  let m := d.mbus n
  match takeArm (fun a => if mbPrio a.bytes then m.ps.isNone else decide (m.fifo.length < 64)) m.held with
  | some (a, rest) => ((d.setMb n { m with held := rest }).mbCopy n a).freeArm a
  | none => d

/-- A flush (R356): every FIFO frame and the priority-slot frame are discarded; the one in transmission completes. -/
def Dev.mbFlush (d : Dev) (n : Nat) : Dev :=
  let m := d.mbus n
  let src := m.cur.map (·.src)
  let keepF := if src = some .fifo then m.fifo.take 1 else []
  let keepP := if src = some .ps then m.ps else none
  let k := m.fifo.length + (if m.ps.isSome then 1 else 0) - (keepF.length + (if keepP.isSome then 1 else 0))
  (d.setMb n { m with fifo := keepF, ps := keepP, cur := m.cur.map (fun c => { c with flushed := true }) }).count
    MDB_CNT_TXFLUSH n 0 k

/-! ### Reference messages (R363 to R366) -/

/-- ROLE in force: 0x3 acts as 0x0. -/
def Dev.tmRole (d : Dev) (n : Nat) : Nat := if d.f MDB_TMCFG_ROLE n = 3 then 0 else d.f MDB_TMCFG_ROLE n

/-- The cycle length in ns: outside 100,000 to 100,000,000 it acts as the largest. -/
def Dev.tmPer (d : Dev) (n : Nat) : Nat :=
  let p := d.f MDB_TMPER_PERIOD n
  if 100000 ≤ p && p ≤ 100000000 then p else 100000000

/-- The first due instant. -/
def Dev.tmBase (d : Dev) (n : Nat) : Nat := wide64 (d.rd MDB_TMBASE_LO n) (d.rd MDB_TMBASE_HI n)

/-- A frame is a reference message of the bus (R363). -/
def Dev.isRef (d : Dev) (n : Nat) (f : MbFrame) : Bool :=
  d.tmRole n != 0 && f.ide == d.b MDB_TMREFID_IDE n && f.id.toNat / 8 == d.f MDB_TMREFID_REFID n / 8

/-- This node's reference message (R363). -/
def Dev.refFrame (d : Dev) (n : Nat) : MbFrame :=
  { ide := d.b MDB_TMREFID_IDE n
    id := BitVec.ofNat 29 (d.f MDB_TMREFID_REFID n / 8 * 8 + d.f MDB_TMCFG_PRIO n)
    dlc := 1
    data := [BitVec.ofNat 8 ((d.f MDB_TMSTAT_CYCLE n + 1) % (d.f MDB_TMCFG_CYCMAX n + 1))] }

/-- Set MASTER, reporting a change (R365). -/
def Dev.setMaster (d : Dev) (n : Nat) (v : Bool) : Dev :=
  if d.b MDB_TMSTAT_MASTER n = v then d else (d.setB MDB_TMSTAT_MASTER v n).mbEv n 10

/-- A valid reference message, received or sent, with its stamp (R363, R364). -/
def Dev.refSeen (d : Dev) (n : Nat) (f : MbFrame) (at' : Nat) (own : Bool) : Dev :=
  let m := d.mbus n
  let cyc := (mbFrameBytes f).head?.map (fun b => b.toNat % 64)
  let lower := !own && m.refDue && decide (f.id.toNat < (d.refFrame n).id.toNat)
  (d.setMb n { m with
    refPend := some (cyc, at')
    refAt := d.ns
    refDue := m.refDue && !own && !lower }).setMaster n own

/-- The bus-cycle boundary after a valid reference message (R355, R363, R365, R366). -/
def Dev.refBoundary (d : Dev) (n : Nat) : Dev :=
  let m := d.mbus n
  match m.refPend with
  | none => d
  | some (cyc, at') =>
    let d := d.setMb n { m with refPend := none, mark := at' }
    let d := match cyc with
      | some c => d.setF MDB_TMSTAT_CYCLE c n
      | none => d
    let d := if d.b MDB_TMSTAT_SYNCED n then d else (d.setB MDB_TMSTAT_SYNCED true n).mbEv n 11
    let m := d.mbus n
    let d := match m.ps with
      | some a =>
        if mbAten a.bytes && !(m.cur.map (fun (c : MbCur) => c.src) == some MbSrc.ps) then
          ((d.setMb n { m with ps := none }).count MDB_CNT_TXLATE n).mbEv n 4
        else d
      | none => d
    d.boundary (57 + n)

/-- The reference message of a potential master becomes due (R363, R364): delayed by its backoff while the time base is not
synchronised, and withdrawn when one has arrived within that delay. -/
def Dev.refDue (d : Dev) (n : Nat) : Dev :=
  let m := d.mbus n
  let delay := if d.b TIME_STAT_SYNC then 0 else d.f MDB_TMCFG_PRIO n * d.f MDB_TMCFG_BACKOFF n * 1000
  let base := d.tmBase n
  let t := base + (d.ns - delay - base) / d.tmPer n * d.tmPer n
  if d.tmRole n = 2 && decide (base + delay ≤ d.ns) && decide (m.refLast < t) then
    let gone := decide (0 < delay) && decide (t ≤ m.refAt)
    d.setMb n { m with refLast := t, refDue := m.refDue || !gone }
  else d

/-- No valid reference message within 1.5 × TMPER (R365). -/
def Dev.syncTimeout (d : Dev) (n : Nat) : Dev :=
  if d.b MDB_TMSTAT_SYNCED n && decide (2 * (d.mbus n).refAt + 3 * d.tmPer n ≤ 2 * d.ns) then
    (d.setB MDB_TMSTAT_SYNCED false n).mbEv n 11
  else d

/-- A read of MDB_TMREF_LO latches HI and FRAC. -/
def Dev.readTmref (d : Dev) (n : Nat) : Dev × Word :=
  let t := (d.mbus n).mark
  ((d.wr MDB_TMREF_HI (BitVec.ofNat 32 (t / 20 / 2 ^ 32)) n).wr MDB_TMREF_FRAC (BitVec.ofNat 32 (t % 20)) n,
    BitVec.ofNat 32 (t / 20))

/-! ### Receiving (R347 to R350) -/

/-- The deciding filter and whether it rejects (R347). -/
def Dev.mbFilter (d : Dev) (n : Nat) (f : MbFrame) : Option (Nat × Bool) :=
  ((List.range 32).find? (fun k =>
    d.b MDB_FLT_FID_EN n k && d.b MDB_FLT_FID_IDE n k == f.ide
    && ((f.id.toNat ^^^ d.f MDB_FLT_FID_FID n k) &&& d.f MDB_FLT_MASK_MASK n k) == 0)).map
    (fun k => (k, d.b MDB_FLT_MASK_REJECT n k))

/-- The bytes the frame port shows (Table 11-3). -/
def mbPort (f : MbFrame) (flt : Nat) (ref : Bool) : List Byte :=
  natBe 4 (f.ide.toNat * 2 ^ 31 + f.rtr.toNat * 2 ^ 30 + f.id.toNat)
  ++ [BitVec.ofNat 8 (f.fdf.toNat * 128 + f.brs.toNat * 64 + f.dlc.toNat), 0, BitVec.ofNat 8 flt,
    BitVec.ofNat 8 (f.esi.toNat + 2 * ref.toNat)]
  ++ mbFrameBytes f

/-- The start-of-frame stamp in 50 ps: now, less MDB_RXDLY in units of 10 ps (R350). -/
def Dev.mbStamp (d : Dev) (n : Nat) : Nat := (d.stamp * 5 - d.f MDB_RXDLY_PS n) / 5

/-- The receive buffers in use. -/
def Dev.mbRxUsed (d : Dev) (n : Nat) : List Nat := (d.mbus n).rx.filter (fun k => d.frames.any (fun e => e.1 == k))

/-- Post a frame to the bound engine (R348); whether it was posted. -/
def Dev.mbPost (d : Dev) (n e flt : Nat) (f : MbFrame) (good : Bool) : Dev × Bool :=
  let used := d.mbRxUsed n
  if 32 ≤ used.length then ((d.count MDB_CNT_RXOVR n).mbEv n 2, false)
  else
    let b := mbPort f flt (d.isRef n f)
    let at' := d.mbStamp n
    match d.newFr {
      bytes := b, arrived := 8, fin := decide (b.length ≤ 8), good := good, sof := at', sofSync := d.b TIME_STAT_SYNC
      eof := d.stamp, eng := some e } with
    | (k, d) =>
      match (d.setMb n { d.mbus n with rx := used ++ [k] }).postItem e
        { lane := 24 + n, vsrc := 1, ctx := none, frame := k, sof := at' / 20 } with
      | (d, true) => (d.dropFr k, false)
      | (d, false) => (d, true)

/-- The receive error counter after a frame (R357; ISO 11898-1): not in listen-only (R358). -/
def Dev.mbRec (d : Dev) (n : Nat) (how : MbEnd) : Dev :=
  if (d.mbus n).listen then d
  else
    let r := d.f MDB_STAT_REC n
    let d := match how with
      | .good =>
        if 127 < r then
          let (v, d) := d.take 4
          d.setF MDB_STAT_REC (119 + v % 9) n
        else d.setF MDB_STAT_REC (r - 1) n
      | .err => (d.setF MDB_STAT_REC (satAdd 255 r 1) n).count MDB_CNT_RXERR n
      | .errDom => (d.setF MDB_STAT_REC (satAdd 255 r 9) n).count MDB_CNT_RXERR n
    d.mbSettle n

/-- A frame from another node comes in on bus `n` (R347 to R350). -/
def Dev.mbRx (d : Dev) (n : Nat) (f : MbFrame) (how : MbEnd) : Dev :=
  match d.mbBound n with
  | none => d
  | some e =>
    if !d.mbOnBus n then d
    else
      let good := how == .good
      let (d, posted) := match d.mbFilter n f with
        | some (k, false) => d.mbPost n e k f good
        | _ => (d.count MDB_CNT_RXFILT n, false)
      let d := if posted && good then d.count MDB_CNT_RXOK n else d
      let d := if good && d.isRef n f then d.refSeen n f (d.mbStamp n) false else d
      d.mbRec n how

/-! ### Transmitting (R353 to R358) -/

/-- The frame offered at the next opportunity (R353, R355). -/
def Dev.mbOffer (d : Dev) (n : Nat) : Option (MbSrc × MbFrame) :=
  let m := d.mbus n
  if m.refDue then some (.ref, d.refFrame n)
  else
    let ps := match m.ps with
      | some a => if !mbAten a.bytes || decide (m.mark + mbAt a.bytes * 80000 ≤ d.stamp) then some a else none
      | none => none
    match ps, m.fifo with
    | some a, _ => some (.ps, mbOfArm a.bytes)
    | none, a :: _ => some (.fifo, mbOfArm a.bytes)
    | none, [] => none

/-- Remove the frame in transmission from its place. -/
def Dev.mbRemove (d : Dev) (n : Nat) (c : MbCur) : Dev :=
  let m := d.mbus n
  d.setMb n { m with
    cur := none
    refDue := m.refDue && decide (c.src ≠ MbSrc.ref)
    ps := if c.src = MbSrc.ps then none else m.ps
    fifo := if c.src = MbSrc.fifo then m.fifo.drop 1 else m.fifo }

/-- The frame in transmission meets an error (R353, R356): it is offered again, or discarded when flushed. -/
def Dev.mbTxFail (d : Dev) (n : Nat) (ack : Bool) : Dev :=
  let m := d.mbus n
  let d := match m.cur with
    | some c => if c.flushed && decide (c.src ≠ MbSrc.ref) then (d.mbRemove n c).count MDB_CNT_TXFLUSH n
        else d.setMb n { m with cur := none }
    | none => d
  let d := (d.setB MDB_STAT_TXACT false n).count MDB_CNT_TXERR n
  if ack && d.mbState n == 3 then d else d.mbTecAdd n 8

/-- An opportunity to start a frame, or the error that ends one under way (R353, R357). Nothing is offered in listen-only
(R358), in sleep or off the bus. -/
def Dev.mbOpportunity (d : Dev) (n : Nat) (out : MbTx) : Dev :=
  let m := d.mbus n
  if !d.mbOnBus n || m.listen || (d.mbBound n).isNone then d
  else if m.cur.isSome then
    match out with
    | .err => d.mbTxFail n false
    | .noAck => d.mbTxFail n true
    | _ => d
  else
    match d.mbOffer n with
    | none => d
    | some (src, f) =>
      match out with
      | .lost => d.count MDB_CNT_TXARB n
      | .start => (d.setMb n { m with cur := some { src := src, fr := f, start := d.stamp } }).setB MDB_STAT_TXACT true n
      | .err => d.mbTxFail n false
      | .noAck => d.mbTxFail n true

/-- The frame in transmission has been sent without error (R353): it leaves its place, and a reference message acts as one
received. With TDCEN = 1 a frame with bit-rate switching measures TDCV (R346). -/
def Dev.mbSent (d : Dev) (n : Nat) (tdcv : Nat) : Dev :=
  match (d.mbus n).cur with
  | none => d
  | some c =>
    let d := ((d.mbRemove n c).setB MDB_STAT_TXACT false n).count MDB_CNT_TXOK n
    let d := if d.b MDB_TDC_TDCEN n && c.fr.fdf && c.fr.brs then d.setF MDB_TDC_TDCV tdcv n else d
    let d := (d.setF MDB_STAT_TEC (d.f MDB_STAT_TEC n - 1) n).mbSettle n
    if d.isRef n c.fr then d.refSeen n c.fr c.start true else d

/-- A change of MODE takes effect at bus-idle (R358): back to normal the controller integrates first. -/
def Dev.mbModeChange (d : Dev) (n : Nat) : Dev :=
  let m := d.mbus n
  let want := d.f MDB_CTL_MODE n != 0
  if m.cur.isNone && m.listen != want then
    let d := d.setMb n { m with listen := want }
    if !want && d.mbOnBus n then d.setMbState n 1 else d
  else d

/-! ### Registers, lane bits, clock failure, reset (R356 to R359, R367, R368) -/

/-- A write of MDB_CTL. -/
def Dev.wMdbCtl (d : Dev) (n : Nat) (v : Word) : Dev :=
  let was := d.b MDB_CTL_EN n
  let d := d.wr MDB_CTL ((v &&& 0xFE) ||| (if was then 1 else 0)) n
  let en := v.getLsbD 0
  let d := if en && !was then
      if d.mbRefused n then (d.setB MDB_STAT_CFGERR true n).mbEv n 0
      else
        let d := (d.setB MDB_CTL_EN true n).setB MDB_STAT_CFGERR false n
        (d.setMb n { d.mbus n with listen := d.f MDB_CTL_MODE n != 0 }).setMbState n
          (if d.b CLK_STAT_RCACT then 0 else 1)
    else if !en && was then (d.setB MDB_CTL_EN false n).mbStop n
    else d
  let d := if v.getLsbD 8 then d.mbFlush n else d
  let d := if v.getLsbD 9 && d.b MDB_CTL_BOREC n then d.mbRecover n else d
  let d := if v.getLsbD 10 then d.mbSleepReq n else d
  if v.getLsbD 11 then d.mbWake n else d

/-- MDB_TXSTAT as a read returns it. -/
def Dev.mdbTxstat (d : Dev) (n : Nat) : Word :=
  let m := d.mbus n
  BitVec.ofNat 32 (m.fifo.length + m.ps.isSome.toNat * 256 + (!m.held.isEmpty).toNat * 512)

/-- A read of lane signal bit `i` of an MB lane (Table 11-5). -/
def Dev.mbBit (d : Dev) (n i : Nat) : Bool :=
  let m := d.mbus n
  match i with
  | 0 => m.ps.isNone
  | 1 => m.fifo.isEmpty && m.held.isEmpty
  | 2 => decide (m.fifo.length ≤ d.f MDB_TXWM_LOW n)
  | 3 => decide (64 ≤ m.fifo.length)
  | 4 => d.mbState n == 3
  | 5 => m.off != 0
  | 6 => d.b MDB_TMSTAT_SYNCED n
  | 7 => d.b MDB_TMSTAT_MASTER n
  | 8 => d.mbState n == 6
  | _ => false

/-- A write of 1 to lane signal bit `i` of an MB lane (Table 11-5). -/
def Dev.mbBitSet (d : Dev) (n i : Nat) : Dev :=
  match i with
  | 32 => d.mbFlush n
  | 33 => if d.b MDB_CTL_BOREC n then d.mbRecover n else d
  | 34 => d.mbSleepReq n
  | 35 => d.mbWake n
  | _ => d

/-- A clock failure stops the controller (R368); a sleeping one stays asleep in the sill domain. -/
def Dev.mbClockFail (d : Dev) (n : Nat) : Dev :=
  if d.b MDB_CTL_EN n && d.mbState n != 6 then
    ((d.setMb n { d.mbus n with cur := none }).setMbState n 0).setB MDB_STAT_TXACT false n
  else d

/-- The main reference is restored: the controller integrates again (R368). -/
def Dev.mbClockBack (d : Dev) (n : Nat) : Dev := if d.b MDB_CTL_EN n && d.mbState n = 0 then d.setMbState n 1 else d

/-- What a block reset does beside the registers (R368): FIFO, priority slot and buffers emptied, held arms released unsent,
the wake detector's state kept in the sill domain. -/
def Dev.mbBlockStop (d : Dev) (n : Nat) : Dev :=
  let m := d.mbus n
  let d := m.held.foldl Dev.freeArm d
  d.setMb n { det := m.det, trim := m.trim }

end Sys2Proof.Machine
end

