-- ==== Sys2Proof/Machine/Serial.lean ====
section
/-!
DEFINITION. The serial lanes (chapter 13): enabling, framing and verdicts, receive memory, the transmit store and the driver
enable, sleep and waking, lane signal bits.
-/

namespace Sys2Proof.Machine

/-- Lane `n` beside its registers. -/
def Dev.sln (d : Dev) (n : Nat) : SlSt := Tab.look d.sl {} n

/-- Replace lane `n`. -/
def Dev.setSl (d : Dev) (n : Nat) (s : SlSt) : Dev := { d with sl := Tab.put d.sl {} n s }

/-- Set bit `b` of SLN_EVSTAT (R412). -/
def Dev.slEv (d : Dev) (n b : Nat) : Dev :=
  d.evBit ⟨SLN_EVSTAT, b, 1⟩ ⟨SLN_EVEN, b, 1⟩ n (if b ≤ 6 then 92 else 93) n

/-- STATE: a lane that wakes runs 50 us after the waking edge (R409). -/
def Dev.slState (d : Dev) (n : Nat) : Nat :=
  let s := d.f SLN_STAT_STATE n
  if s = 3 && decide ((d.sln n).wokeAt + 1000000 ≤ d.wall) then 1 else s

/-- The lane runs, and no enabled ring instance drives it (R371). -/
def Dev.slRuns (d : Dev) (n : Nat) : Bool := d.slState n == 1 && (d.ringOfLane (40 + n)).isNone

/-- CODE: 0x3 acts as 0x0. -/
def Dev.slCode (d : Dev) (n : Nat) : Nat := if d.f SLN_CTL_CODE n = 3 then 0 else d.f SLN_CTL_CODE n

/-- FRAMING: 0x4 to 0x7 act as 0x0. -/
def Dev.slFraming (d : Dev) (n : Nat) : Nat := if 4 ≤ d.f SLN_CTL_FRAMING n then 0 else d.f SLN_CTL_FRAMING n

/-- A gap ends the frame (Table 13-2). -/
def Dev.slGap (d : Dev) (n : Nat) : Bool := decide (d.slFraming n < 2)

/-- A bit time in 50 ps (Table 13-1). -/
def Dev.slBit (d : Dev) (n : Nat) : Nat :=
  let os := if d.slCode n ≠ 0 then 4 else if d.b SLN_CHAR_OS8 n then 8 else 16
  os * (16 * d.f SLN_RATE_DIV n + d.f SLN_RATE_FRAC n) * 100 / 16

/-- Data bits of a character: a code outside 5 to 8 acts as 8. -/
def Dev.slData (d : Dev) (n : Nat) : Nat :=
  let b := d.f SLN_CHAR_DBITS n
  if 5 ≤ b && b ≤ 8 then b else 8

/-- Half bit times of one character under CODE 0x0: start bit, data, parity, stop. -/
def Dev.slChar (d : Dev) (n : Nat) : Nat :=
  let par := d.f SLN_CHAR_PAR n
  2 * (1 + d.slData n + (if 1 ≤ par && par ≤ 4 then 1 else 0)) + 2 + min 2 (d.f SLN_CHAR_STOP n)

/-- Largest received frame. -/
def Dev.slMax (d : Dev) (n : Nat) : Nat := max 1 (min 4096 (d.f SLN_RXMAX_MAX n))

/-! ### Checks -/

/-- One bit of a reflected 16-bit check. -/
def refl16Bit (poly c : BitVec 16) : BitVec 16 := if c.getLsbD 0 then (c >>> 1) ^^^ poly else c >>> 1

/-- One byte of a reflected 16-bit check. -/
def refl16Byte (poly c : BitVec 16) (b : Byte) : BitVec 16 :=
  (List.range 8).foldl (fun c _ => refl16Bit poly c) (c ^^^ b.zeroExtend 16)

/-- CRC-16 of Table 13-2: 0x8005 reflected, initial value 0xFFFF. -/
def modbusCrc (b : List Byte) : BitVec 16 := b.foldl (refl16Byte 0xA001) 0xFFFF

/-- The FCS-16 register before its complement: 0x1021 reflected, initial value 0xFFFF. -/
def hdlcFcs (b : List Byte) : BitVec 16 := b.foldl (refl16Byte 0x8408) 0xFFFF

/-- The verdict of a frame with a hardware check, by its framing. -/
def slGood (framing : Nat) (b : List Byte) : Bool :=
  if framing = 1 then modbusCrc b == 0 else if framing = 3 then hdlcFcs b == 0xF0B8 else true

/-- The check a lane appends, low byte first. -/
def slCheck (framing : Nat) (b : List Byte) : List Byte :=
  if framing = 1 then natLe 2 (modbusCrc b).toNat
  else if framing = 3 then natLe 2 (~~~ (hdlcFcs b)).toNat
  else []

/-! ### Receiving (R400 to R404) -/

/-- Receive memory in use: what frames still held keep. -/
def Dev.slMem (d : Dev) (n : Nat) : List (Nat × Nat) := (d.sln n).mem.filter (fun e => d.frames.any (fun x => x.1 == e.1))

/-- Set the receive side. -/
def Dev.slRx (d : Dev) (n : Nat) (r : SlRx) : Dev := d.setSl n { d.sln n with rx := r, eof := false, esc := false }

/-- A frame starts with `arrived` bytes presented (R83, R403, R404): admitted when MAX bytes are free, and posted. -/
def Dev.slOpen (d : Dev) (n e arrived : Nat) (b : List Byte) : Dev :=
  let mem := d.slMem n
  if 8192 < mem.foldl (fun t x => t + x.2) 0 + d.slMax n then
    ((d.slRx n .skip).count SLN_CNT_RXDROP n).slEv n 5
  else
    let at' := (d.stamp * 5 - d.f SLN_RXDLY_PS n) / 5
    match d.newFr {
      bytes := b, arrived := arrived, ended := false, sof := at', sofSync := d.b TIME_STAT_SYNC, eng := some e } with
    | (k, d) =>
      match d.postItem e
        { lane := 40 + n, vsrc := if d.slFraming n % 2 = 1 then 2 else 3, ctx := none, frame := k, sof := at' / 20 } with
      | (d, true) => (d.dropFr k).slRx n .skip
      | (d, false) => (d.setSl n { d.sln n with mem := mem ++ [(k, d.slMax n)] }).slRx n (.frame k)

/-- The frame being received aborts (R402, R95). -/
def Dev.slAbort (d : Dev) (n : Nat) (next : SlRx) : Dev :=
  match (d.sln n).rx with
  | .frame k => (d.setFr k { d.fr k with good := false, ended := true, eof := d.stamp }).slRx n next
  | _ => d.slRx n next

/-- After an abort a gap-framed lane waits for idle, an HDLC one for a flag (log 23). -/
def Dev.slAfter (d : Dev) (n : Nat) : SlRx := if d.slGap n || d.slFraming n == 3 then .outside else .none

/-- The frame being received ends at its verdict point (R93, R400, R403). -/
def Dev.slFinish (d : Dev) (n : Nat) : Dev :=
  match (d.sln n).rx with
  | .frame k =>
    let f := d.fr k
    let len := f.bytes.length
    if d.slFraming n = 3 && decide (len < 3) then ((d.slAbort n .none).count SLN_CNT_RXFRM n).slEv n 2
    else
      let good := slGood (d.slFraming n) f.bytes
      let s := d.sln n
      let d := d.setSl n { s with mem := s.mem.map (fun x => if x.1 = k then (k, len) else x) }
      let d := (d.setFr k { f with good := good, ended := true, fin := decide (len ≤ f.arrived), eof := d.stamp }).slRx n .none
      if good then d.count SLN_CNT_RXOK n else (d.count SLN_CNT_RXCRC n).slEv n 3
  | _ => d.slRx n .none

/-- A byte of the frame being received: beyond MAX the frame aborts. -/
def Dev.slByte (d : Dev) (n : Nat) (b : Byte) : Dev :=
  match (d.sln n).rx with
  | .frame k =>
    let f := d.fr k
    if d.slMax n ≤ f.bytes.length then ((d.slAbort n (d.slAfter n)).count SLN_CNT_RXOVER n).slEv n 4
    else d.setFr k { f with bytes := f.bytes ++ [b] }
  | _ => d

/-- A character arrives (Table 13-2, R401). -/
def Dev.slCharIn (d : Dev) (n e : Nat) (c : Byte) : Dev :=
  let b : Byte := BitVec.ofNat 8 (c.toNat % 2 ^ d.slData n)
  let s := d.sln n
  match d.slFraming n with
  | 2 =>
    let sof : Byte := BitVec.ofNat 8 (d.f SLN_DELIM_SOFCH n)
    let eof : Byte := BitVec.ofNat 8 (d.f SLN_DELIM_EOFCH n)
    let eof2 : Byte := BitVec.ofNat 8 (d.f SLN_DELIM_EOF2 n)
    if b = sof then
      let d := match s.rx with
        | .frame _ => ((d.slAbort n .none).count SLN_CNT_RXFRM n).slEv n 2
        | _ => d
      d.slOpen n e 0 []
    else if s.rx = .none || s.rx = .outside then d.count SLN_CNT_RXFRM n
    else if s.eof && b == eof2 then d.slFinish n
    else if b = eof then
      if d.b SLN_DELIM_EOF2EN n then d.setSl n { s with eof := true } else d.slFinish n
    else (d.setSl n { s with eof := false }).slByte n b
  | 3 =>
    let esc := d.slCode n == 0 && d.b SLN_DELIM_ESCEN n
    if d.slCode n = 0 && b == 0x7E then d.slFinish n
    else if s.rx = .outside then d.count SLN_CNT_RXFRM n
    else if esc && b == 0x7D then d.setSl n { s with esc := true }
    else
      let v : Byte := if s.esc then b ^^^ 0x20 else b
      let d := d.setSl n { s with esc := false }
      if s.rx = .none then d.slOpen n e 1 [v] else d.slByte n v
  | _ =>
    match s.rx with
    | .none => d.slOpen n e 1 [b]
    | .outside => d.count SLN_CNT_RXFRM n
    | _ => d.slByte n b

/-- What ends a burst of characters (R402). -/
def Dev.slErr (d : Dev) (n : Nat) (how : SlEnd) : Dev :=
  match how with
  | .more => d
  | .flag => if d.slFraming n = 3 then d.slFinish n else d
  | .par => ((d.slAbort n (d.slAfter n)).count SLN_CNT_RXPAR n).slEv n 1
  | .frm => ((d.slAbort n (d.slAfter n)).count SLN_CNT_RXFRM n).slEv n 2
  | .abort =>
    if d.slFraming n = 3 then ((d.slAbort n .none).count SLN_CNT_RXFRM n).slEv n 2 else d

/-- Characters come in on lane `n` (R398 to R404, R407). -/
def Dev.slReceive (d : Dev) (n : Nat) (cs : List Byte) (how : SlEnd) : Dev :=
  match d.boundEng (40 + n) with
  | none => d
  | some e =>
    if !d.slRuns n || (!d.b SLN_CTL_DUPLEX n && d.b SLN_STAT_DEON n)
      || (d.slCode n != 0 && !d.b SLN_STAT_LOCK n) then d
    else
      let d := (cs.foldl (fun d c => d.slCharIn n e c) d).slErr n how
      let dur := if d.slCode n = 0 then cs.length * d.slChar n * d.slBit n / 2 else cs.length * 8 * d.slBit n
      d.setSl n { d.sln n with rxLast := max (d.sln n).rxLast (d.wall + dur) }

/-- The line has been idle for IDLEGAP after the last stop bit (R400). -/
def Dev.slIdle (d : Dev) (n : Nat) : Dev :=
  let s := d.sln n
  if d.slRuns n && d.slGap n && decide (s.rxLast + d.f SLN_GAP_IDLEGAP n * d.slBit n / 2 ≤ d.wall) then d.slFinish n else d

/-- The PLL has seen 16 transitions (R399). -/
def Dev.slLock (d : Dev) (n : Nat) : Dev := if d.slCode n ≠ 0 && d.slRuns n then d.setB SLN_STAT_LOCK true n else d

/-- 16 bit times without a transition (R399, R402). -/
def Dev.slLockLoss (d : Dev) (n : Nat) : Dev :=
  if d.b SLN_STAT_LOCK n then
    let d := d.setB SLN_STAT_LOCK false n
    match (d.sln n).rx with
    | .frame _ => ((d.slAbort n .none).count SLN_CNT_RXFRM n).slEv n 2
    | _ => d.slRx n .none
  else d

/-! ### Sleep and waking (R409) -/

/-- A wake sets WAKE, signals PWR and starts the lane. -/
def Dev.slWake (d : Dev) (n : Nat) : Dev :=
  if d.f SLN_STAT_STATE n = 2 then
    let d := (d.setSl n { d.sln n with wokeAt := d.wall }).setF SLN_STAT_STATE 3 n
    let d := if d.b SLN_CTL_DEHOLD n then d.setB SLN_STAT_DEON true n else d
    (d.slEv n 7).wake 3 (40 + n)
  else d

/-- A start-bit level at SLn_RX during sleep, longer than FILT or a shorter pulse (R360, R409). -/
def Dev.slEdge (d : Dev) (n : Nat) (long : Bool) : Dev :=
  if d.f SLN_STAT_STATE n ≠ 2 then d
  else
    let s := d.sln n
    let det := { s.det with actAt := d.wall, live := true }
    let quar := d.b SLN_WAKE_QUAR n
    if long then
      let d := d.setSl n { s with det := det }
      if quar then d else (d.slWake n).count SLN_CNT_WAKEDISC n
    else
      let (det, chat) := det.note d.wall (msWall (d.f SLN_WAKECHAT_CHATWIN n)) (d.f SLN_WAKECHAT_CHATMAX n)
      let d := d.setSl n { s with det := det }
      if chat && !quar then (d.setB SLN_WAKE_QUAR true n).slEv n 8 else d

/-- The input has stayed idle for QUIET. -/
def Dev.slQuiet (d : Dev) (n : Nat) : Dev :=
  let s := d.sln n
  if d.b SLN_WAKE_QUAR n && decide (s.det.actAt + msWall (100 * d.f SLN_WAKECHAT_QUIET n) ≤ d.wall) then
    (d.setB SLN_WAKE_QUAR false n).setSl n { s with det := { s.det with trans := [] } }
  else d

/-- The start-bit level has lasted STUCK: reported once. -/
def Dev.slStuck (d : Dev) (n : Nat) : Dev :=
  let s := d.sln n
  if s.det.live && decide (s.det.actAt + msWall (100 * d.f SLN_WAKECHAT_STUCK n) ≤ d.wall) then
    (d.setSl n { s with det := { s.det with live := false } }).slEv n 9
  else d

/-- A sleep request. -/
def Dev.slSleepReq (d : Dev) (n : Nat) : Dev :=
  if d.b SLN_CTL_EN n && d.f SLN_STAT_STATE n != 2 then d.setSl n { d.sln n with sleepReq := true } else d

/-- The line is idle: no frame and no burst. -/
def Dev.slLineIdle (d : Dev) (n : Nat) : Bool :=
  let s := d.sln n
  s.cur.isNone && decide (s.rxLast ≤ d.wall)
    && (match s.rx with
      | .none => true
      | .outside => true
      | _ => false)

/-- The lane enters sleep: DE deasserted, its clock stopped, the wake detector armed. -/
def Dev.slSleep (d : Dev) (n : Nat) : Dev :=
  let s := d.sln n
  if s.sleepReq && d.slLineIdle n then
    let d := d.setSl n { s with sleepReq := false, rx := .none, eof := false, esc := false, det := {} }
    ((d.setF SLN_STAT_STATE 2 n).setB SLN_STAT_DEON false n).setB SLN_STAT_LOCK false n
  else d

/-! ### Transmitting (R405 to R408) -/

/-- Bytes in the store. -/
def Dev.slUsed (d : Dev) (n : Nat) : Nat := (d.sln n).store.foldl (fun t x => t + x.1.length) 0

/-- A frame enters the store; in sleep it wakes the lane under TXWAKE. -/
def Dev.slEnter (d : Dev) (n : Nat) (b : List Byte) : Dev :=
  let s := d.sln n
  let d := d.setSl n { s with store := s.store ++ [(b, d.wall)] }
  if d.b SLN_CTL_TXWAKE n then d.slWake n else d

/-- A frame of a drained arm or of TXMEM (R190, R351, R405): `true` when it entered; an arm that does not fit is held. -/
def Dev.slArm (d : Dev) (n : Nat) (a : Arm) : Dev × Bool :=
  let s := d.sln n
  if s.held.isEmpty && decide (d.slUsed n + a.bytes.length ≤ 4096) then (d.slEnter n a.bytes, true)
  else if a.slot.isNone then (d, false)
  else (d.setSl n { s with held := s.held ++ [a] }, false)

/-- The oldest held arm enters when it fits, and its slot is free. -/
def Dev.slHeldEnter (d : Dev) (n : Nat) : Dev :=
  let s := d.sln n
  match s.held with
  | a :: rest =>
    if d.slUsed n + a.bytes.length ≤ 4096 then ((d.setSl n { s with held := rest }).slEnter n a.bytes).freeArm a else d
  | [] => d

/-- The bits that HDLC bit stuffing adds: one after five consecutive 1s. -/
def stuffed (ones : Nat) : List Bool → Nat
  | [] => 0
  | true :: l => if ones = 4 then 1 + stuffed 0 l else stuffed (ones + 1) l
  | false :: l => stuffed 0 l

/-- The bits of bytes, least significant first. -/
def bitsOf (b : List Byte) : List Bool := b.flatMap (fun x => (List.range 8).map x.getLsbD)

/-- How long a frame takes on the line, in 50 ps, its flags included. -/
def Dev.slDur (d : Dev) (n : Nat) (b : List Byte) : Nat :=
  if d.slCode n = 0 then
    let extra := if d.slFraming n = 3 then
        2 + (if d.b SLN_DELIM_ESCEN n then (b.filter (fun x => x == 0x7E || x == 0x7D)).length else 0)
      else 0
    (b.length + extra) * d.slChar n * d.slBit n / 2
  else (16 + 8 * b.length + stuffed 0 (bitsOf b)) * d.slBit n

/-- The first instant at which the oldest frame's first bit may leave (R406). -/
def Dev.slFirst (d : Dev) (n : Nat) (entered : Nat) : Nat :=
  let s := d.sln n
  let last := if d.b SLN_CTL_DUPLEX n then s.txLast else max s.txLast s.rxLast
  max (last + d.f SLN_GAP_IFGAP n * d.slBit n / 2) (entered + d.f SLN_DE_LEAD n * d.slBit n / 16)

/-- The oldest stored frame starts (R405 to R407); `echo`: a bit of it comes back different. -/
def Dev.slTxStart (d : Dev) (n : Nat) (echo : Bool) : Dev :=
  let s := d.sln n
  match s.cur, s.store with
  | none, (b, at') :: _ =>
    if d.slRuns n && decide (d.slFirst n at' ≤ d.wall) then
      let w := b ++ (if d.b SLN_CTL_TXCRC n then slCheck (d.slFraming n) b else [])
      let d := d.setSl n { s with cur := some (d.wall + d.slDur n w), sent := w }
      let d := (d.setB SLN_STAT_TXACT true n).setB SLN_STAT_DEON true n
      if echo && d.b SLN_CTL_ECHO n then (d.slEv n 6).count SLN_CNT_ECHOERR n else d
    else d
  | _, _ => d

/-- The last stop bit or closing flag has been sent. -/
def Dev.slTxEnd (d : Dev) (n : Nat) : Dev :=
  let s := d.sln n
  match s.cur with
  | some t =>
    if t ≤ d.wall then
      ((d.setSl n { s with cur := none, store := s.store.drop 1, txLast := t }).setB SLN_STAT_TXACT false n).count SLN_CNT_TXOK n
    else d
  | none => d

/-- TAIL after the frame's end (R406). -/
def Dev.slTail (d : Dev) (n : Nat) : Dev :=
  let s := d.sln n
  let tail := s.txLast + d.f SLN_DE_TAIL n * d.slBit n / 16
  let next := match s.store with
    | (_, at') :: _ => decide (d.slFirst n at' ≤ tail)
    | [] => false
  if s.cur.isNone && decide (tail ≤ d.wall) && !next && !(d.b SLN_CTL_DEHOLD n && d.b SLN_CTL_EN n) then
    d.setB SLN_STAT_DEON false n
  else d

/-- A flush (R408). -/
def Dev.slFlush (d : Dev) (n : Nat) : Dev :=
  let s := d.sln n
  let keep := if s.cur.isSome then s.store.take 1 else []
  (d.setSl n { s with store := keep }).count SLN_CNT_TXFLUSH n 0 (s.store.length - keep.length)

/-! ### Registers, lane bits, clock failure, reset -/

/-- The lane stops: DE deasserted, nothing on the line, a frame being received aborts. -/
def Dev.slStop (d : Dev) (n : Nat) : Dev :=
  let d := d.slAbort n .none
  let d := d.setSl n { d.sln n with cur := none, sleepReq := false }
  (((d.setF SLN_STAT_STATE 0 n).setB SLN_STAT_TXACT false n).setB SLN_STAT_DEON false n).setB SLN_STAT_LOCK false n

/-- A write of EN = 1 is refused (R397). -/
def Dev.slRefused (d : Dev) (n : Nat) : Bool :=
  d.f SLN_RATE_DIV n == 0 || (d.slCode n == 1 && decide (d.f SLN_RATE_DIV n < 2))
  || (d.slCode n != 0 && d.f SLN_CTL_FRAMING n != 3)

/-- A write of SLN_CTL; `true` for a bus error: CODE, FRAMING and DUPLEX change only while EN = 0 (R397). -/
def Dev.wSlnCtl (d : Dev) (n : Nat) (v : Word) : Dev × Bool :=
  let old := d.rd SLN_CTL n
  let was := d.b SLN_CTL_EN n
  let err := was && (old ^^^ v) &&& 0x7E != 0
  let keep : Word := if was then (v &&& 0x3F80) ||| (old &&& 0x7F) else v &&& 0x3FFE
  let d := d.wr SLN_CTL keep n
  let en := v.getLsbD 0
  let d := if en && !was then
      if d.slRefused n then (d.setB SLN_STAT_CFGERR true n).slEv n 0
      else
        let d := (d.setB SLN_CTL_EN true n).setB SLN_STAT_CFGERR false n
        if d.b CLK_STAT_RCACT then d else d.setF SLN_STAT_STATE 1 n
    else if !en && was then (d.setB SLN_CTL_EN false n).slStop n
    else d
  let d := if d.b SLN_CTL_DEHOLD n && d.slState n == 1 then d.setB SLN_STAT_DEON true n else d
  let d := if v.getLsbD 16 then d.slFlush n else d
  let d := if v.getLsbD 17 then d.slSleepReq n else d
  (if v.getLsbD 18 then d.slWake n else d, err)

/-- SLN_STAT as a read returns it. -/
def Dev.slnStat (d : Dev) (n : Nat) : Word :=
  let rx := match (d.sln n).rx with
    | .frame _ => 1
    | .skip => 1
    | _ => 0
  putBits (putBits (putBits (d.rd SLN_STAT n) 0 2 (d.slState n)) 6 1 rx) 16 13 (4096 - d.slUsed n)

/-- A read of lane signal bit `i` of an SL lane (Table 13-4). -/
def Dev.slBitRead (d : Dev) (n i : Nat) : Bool :=
  let s := d.sln n
  match i with
  | 0 => s.store.isEmpty && s.held.isEmpty
  | 1 => decide (d.slUsed n + 2048 ≤ 4096)
  | 2 => d.b SLN_STAT_TXACT n
  | 3 => (d.slnStat n).getLsbD 6
  | 4 => d.b SLN_STAT_DEON n
  | 5 => d.b SLN_STAT_LOCK n
  | 8 => d.f SLN_STAT_STATE n == 2
  | _ => false

/-- A write of 1 to lane signal bit `i` of an SL lane (Table 13-4). -/
def Dev.slBitSet (d : Dev) (n i : Nat) : Dev :=
  match i with
  | 32 => d.slFlush n
  | 33 => d.slSleepReq n
  | 34 => d.slWake n
  | _ => d

/-- A clock failure stops the lane, which keeps its store (R410); a sleeping one stays asleep in the sill domain. -/
def Dev.slClockFail (d : Dev) (n : Nat) : Dev := if d.b SLN_CTL_EN n && d.f SLN_STAT_STATE n != 2 then d.slStop n else d

/-- The main reference is restored (R410). -/
def Dev.slClockBack (d : Dev) (n : Nat) : Dev :=
  if d.b SLN_CTL_EN n && d.f SLN_STAT_STATE n = 0 then
    let d := d.setF SLN_STAT_STATE 1 n
    if d.b SLN_CTL_DEHOLD n then d.setB SLN_STAT_DEON true n else d
  else d

/-- What a block reset does beside the registers (R410): stores and receive memory emptied, held arms released unsent, an arriving
frame aborted; the wake detector's state stays in the sill domain. -/
def Dev.slBlockStop (d : Dev) (n : Nat) : Dev :=
  let d := d.slAbort n .none
  let s := d.sln n
  (s.held.foldl Dev.freeArm d).setSl n { det := s.det }

end Sys2Proof.Machine
end

