-- ==== Sys2Proof/Machine/Pio.lean ====
section
/-!
DEFINITION. The programmable I/O groups (chapter 13): pins and edges, queues and frames, the instructions, boundaries and
forced loads.
-/

namespace Sys2Proof.Machine

/-- Group `g` beside its registers. -/
def Dev.pg (d : Dev) (g : Nat) : PioG := Tab.look d.pio {} g

/-- Replace group `g`. -/
def Dev.setPg (d : Dev) (g : Nat) (p : PioG) : Dev := { d with pio := Tab.put d.pio {} g p }

/-- Machine `k` of group `g`. -/
def Dev.pioM (d : Dev) (g k : Nat) : PioM := Tab.look (d.pg g).m {} k

/-- Replace machine `k` of group `g`; PIO_STAT shows whether it runs, and whether it is stalled or halted in place. -/
def Dev.setPioM (d : Dev) (g k : Nat) (m : PioM) : Dev :=
  let p := d.pg g
  let d := d.setPg g { p with m := Tab.put p.m {} k m }
  let r := putBits (d.rd PIO_STAT g) k 1 m.run.toNat
  d.wr PIO_STAT (putBits r (4 + k) 1 (m.mid && (m.stall || !m.run)).toNat) g

/-- Set bit `b` of PIO_SMk_FLAG; when it sets while enabled EV094 is raised (R428). -/
def Dev.pioEv (d : Dev) (g k b : Nat) : Dev :=
  if (d.rd PIO_SM_FLAG g k).getLsbD b then d
  else
    let d := d.wr PIO_SM_FLAG (putBits (d.rd PIO_SM_FLAG g k) b 1 1) g k
    if (d.rd PIO_EVEN g).getLsbD (8 * k + b) then d.raise 94 g else d

/-- Machine `k` is enabled. -/
def Dev.pioEn (d : Dev) (g k : Nat) : Bool := (d.f PIO_CTL_EN g).testBit k

/-- All four machines are halted. -/
def Dev.pioHalted (d : Dev) (g : Nat) : Bool := (List.range 4).all (fun k => !(d.pioM g k).run)

/-! ### Pins (R414, R421) -/

/-- Levels at the balls: a pin whose direction bit is 1 is driven. -/
def PioG.balls (p : PioG) : BitVec 8 := (p.out &&& p.dir) ||| (p.ext &&& ~~~p.dir)

/-- Levels at the balls two PIO clock cycles before wall time `t`. -/
def PioG.view (p : PioG) (t : Nat) : BitVec 8 :=
  match (p.hist.filter (fun h => decide (t < h.1 + 100))).getLast? with
  | some h => h.2
  | none => p.balls

/-- One pin's edge record after its ball went to `level`. -/
def PinEdges.note (e : PinEdges) (level : Bool) (at' wall : Nat) : PinEdges :=
  { rises := if level then e.rises + 1 else e.rises
    falls := if level then e.falls else e.falls + 1
    at' := at', rising := level, wall := wall }

/-- The pins of a group become those of `q`, at time-base instant `at'`: the edges at the balls are stamped (R421). -/
def Dev.setPins (d : Dev) (g : Nat) (q : PioG) (at' : Nat) : Dev :=
  let was := (d.pg g).balls
  let now := q.balls
  if was = now then d.setPg g q
  else
    let es := (List.range 8).foldl (fun (es : Tab PinEdges) p =>
      if was.getLsbD p = now.getLsbD p then es
      else Tab.set es p ((Tab.look es {} p).note (now.getLsbD p) at' d.wall)) q.edges
    d.setPg g { q with
      edges := es
      hist := (d.wall, was) :: q.hist.filter (fun h => decide (d.wall < h.1 + 100)) }

/-- The mask of the pins machine `k` may write in this PIO clock cycle: the lowest machine number wins (R414). -/
def pinsFree (by' : Tab (Nat × Nat)) (cyc k mask : Nat) : List Nat :=
  (List.range 8).filter (fun p => mask.testBit p &&
    (match Tab.look by' (0, 4) p with
      | (c, m) => !(decide (c = cyc) && decide (m < k))))

/-- Machine `k` writes levels or directions of the pins in `mask`, at time-base instant `at'`. -/
def Dev.pioDrive (d : Dev) (g k : Nat) (dir : Bool) (mask : Nat) (v : BitVec 8) (at' : Nat) : Dev :=
  let p := d.pg g
  let cyc := d.wall / 50
  let pins := pinsFree (if dir then p.dirBy else p.lvlBy) cyc k mask
  let mk : BitVec 8 := BitVec.ofNat 8 (pins.foldl (fun n x => n + 2 ^ x) 0)
  let note := fun (t : Tab (Nat × Nat)) => pins.foldl (fun t x => Tab.set t x (cyc, k)) t
  if dir then d.setPins g { p with dir := (p.dir &&& ~~~mk) ||| (v &&& mk), dirBy := note p.dirBy } at'
  else d.setPins g { p with out := (p.out &&& ~~~mk) ||| (v &&& mk), lvlBy := note p.lvlBy } at'

/-- An edge arrives on pin `x` from outside (R421). -/
def Dev.pinEdge (d : Dev) (g x : Nat) (level : Bool) : Dev :=
  let p := d.pg g
  let bit : BitVec 8 := 1 <<< x
  d.setPins g { p with ext := if level then p.ext ||| bit else p.ext &&& ~~~bit } d.stamp

/-- Edges of pin `x` in one direction, and whether the latest edge is past the two-cycle view. -/
def Dev.edgesOf (d : Dev) (g x : Nat) (rising : Bool) : Nat :=
  let e := Tab.look (d.pg g).edges {} x
  let n := if rising then e.rises else e.falls
  if e.rising = rising && decide (d.wall < e.wall + 100) then n - 1 else n

/-! ### Time (R413) -/

/-- `n` machine cycles of machine `m` from wall time `t` (R413), and the machine past them. -/
def PioM.pass (m : PioM) (t n : Nat) : PioM :=
  let per := if getBits m.clk 0 20 = 0 then 1048576 else getBits m.clk 0 20
  let dith := getBits m.clk 20 4
  let more := (m.dith + n) * dith / 16 - m.dith * dith / 16
  { m with due := t + 50 * (n * per + more), dith := (m.dith + n) % 16 }

/-! ### Queues and frames (R417 to R419) -/

/-- Words of the TX queue. -/
def Dev.txd (d : Dev) (g k : Nat) : Nat := min 16 (d.f PIO_SM_QCFG_TXD g k)

/-- The TX queue is full or absent. -/
def Dev.txFull (d : Dev) (g k : Nat) : Bool := decide (d.txd g k ≤ (d.pioM g k).txq.length)

/-- The RX queue is full or absent. -/
def Dev.rxFull (d : Dev) (g k : Nat) : Bool := decide (16 - d.txd g k ≤ (d.pioM g k).rxq.length)

/-- Frame memory in use: what frames still held keep. -/
def Dev.pgMem (d : Dev) (g : Nat) : List (Nat × Nat) := (d.pg g).mem.filter (fun e => d.frames.any (fun x => x.1 == e.1))

/-- The first word of a frame starts it and posts its work item (R418). -/
def Dev.pgOpen (d : Dev) (g k : Nat) (w : Word) : Dev :=
  match d.boundEng (56 + g) with
  | none => d.setPioM g k { d.pioM g k with skip := true }
  | some e =>
    let mem := d.pgMem g
    match d.newFr {
      bytes := [BitVec.ofNat 8 k, 0, 0, 0] ++ natBe 4 w.toNat, arrived := 8, ended := false, sof := d.stamp
      sofSync := d.b TIME_STAT_SYNC, eng := some e } with
    | (h, d) =>
      match d.postItem e { lane := 56 + g, vsrc := 3, ctx := none, frame := h, sof := d.stamp / 20 } with
      | (d, true) => (d.dropFr h).setPioM g k { d.pioM g k with skip := true }
      | (d, false) =>
        (d.setPg g { d.pg g with mem := mem ++ [(h, 4)] }).setPioM g k { d.pioM g k with fr := some h }

/-- A further word of a frame: one that would exceed 1,028 bytes aborts (R418). -/
def Dev.pgMore (d : Dev) (g k h : Nat) (w : Word) : Dev :=
  let f := d.fr h
  if 1028 < f.bytes.length + 4 then
    ((d.setFr h { f with good := false, ended := true, eof := d.stamp }).setPioM g k
      { d.pioM g k with fr := none, skip := true }).pioEv g k 1
  else
    let p := d.pg g
    (d.setFr h { f with bytes := f.bytes ++ natBe 4 w.toNat, arrived := f.bytes.length + 4 }).setPg g
      { p with mem := p.mem.map (fun e => if e.1 = h then (h, e.2 + 4) else e) }

/-- The frame of machine `k` ends (R418). -/
def Dev.pgEnd (d : Dev) (g k : Nat) : Dev :=
  let m := d.pioM g k
  let d := match m.fr with
    | some h => d.setFr h { d.fr h with ended := true, fin := true, eof := d.stamp }
    | none => d
  d.setPioM g k { d.pioM g k with fr := none, skip := false }

/-- Under FRAME = 1, words leave the RX queue for frame memory while there is room (R418). -/
def Dev.pgMove (d : Dev) (g k : Nat) : Nat → Dev
  | 0 => d
  | fuel + 1 =>
    let m := d.pioM g k
    if !d.b PIO_SM_QCFG_FRAME g k then d
    else
      match m.ends, m.rxq with
      | 0 :: es, _ => ((d.setPioM g k { m with ends := es }).pgEnd g k).pgMove g k fuel
      | _, [] => d
      | es, w :: q =>
        let room := decide ((d.pgMem g).foldl (fun t x => t + x.2) 0 + 4 ≤ 4096)
        if !m.skip && !room then d
        else
          let d := d.setPioM g k { m with rxq := q, ends := es.map (· - 1) }
          let d := if m.skip then d
            else
              match m.fr with
              | none => d.pgOpen g k w
              | some h => d.pgMore g k h w
          d.pgMove g k fuel

/-- Push words into the RX queue. -/
def Dev.rxPush (d : Dev) (g k : Nat) (ws : List Word) : Dev :=
  let m := d.pioM g k
  (d.setPioM g k { m with rxq := m.rxq ++ ws }).pgMove g k 40

/-- Words of armed frames enter the TX queue as room appears; a slot is free when its last word has entered (R419). -/
def Dev.pgFeed (d : Dev) (g k : Nat) : Nat → Dev
  | 0 => d
  | fuel + 1 =>
    let m := d.pioM g k
    match m.feed with
    | (a, []) :: rest => ((d.setPioM g k { m with feed := rest }).freeArm a).pgFeed g k fuel
    | (a, w :: ws) :: rest =>
      if d.txFull g k then d
      else (d.setPioM g k { m with txq := m.txq ++ [w], feed := (a, ws) :: rest }).pgFeed g k fuel
    | [] => d

/-- The words of an armed frame, the first byte in bits [31:24]. -/
def beWords : Nat → List Byte → List Word
  | 0, _ => []
  | _ + 1, [] => []
  | n + 1, b => BitVec.ofNat 32 (beNat (b.take 4)) :: beWords n (b.drop 4)

/-- A frame for a PG lane (R419): `true` when its source is free at once, because it was discarded or has entered. -/
def Dev.pgArm (d : Dev) (g : Nat) (a : Arm) : Dev × Bool :=
  let len := a.bytes.length
  let k := (a.bytes.getD 0 0).toNat % 4
  if len < 8 || 2048 < len || len % 4 != 0 || (a.bytes.drop 1).take 3 != [0, 0, 0] || d.txd g k == 0 then
    (d.pioEv g k 5, true)
  else
    let m := d.pioM g k
    let d := (d.setPioM g k { m with feed := m.feed ++ [(a, beWords 512 (a.bytes.drop 4))] }).pgFeed g k 1024
    (d, !(d.pioM g k).feed.any (fun x => x.1 == a))

/-- An engine reset releases its partly fed slots; their remaining words never enter (R419). -/
def Dev.pgEngReset (d : Dev) (e : Nat) : Dev :=
  (List.range 32).foldl (fun d i =>
    let m := d.pioM (i / 4) (i % 4)
    if m.feed.any (fun x => x.1.eng == e) then
      d.setPioM (i / 4) (i % 4) { m with feed := m.feed.filter (fun x => x.1.eng != e) }
    else d) d

/-- A write of PIO_SMk_TXQ; `true` for a bus error (R417). -/
def Dev.wTxq (d : Dev) (g k : Nat) (v : Word) : Dev × Bool :=
  if d.txFull g k then (d.pioEv g k 5, true)
  else
    let m := d.pioM g k
    (d.setPioM g k { m with txq := m.txq ++ [v] }, false)

/-- A read of PIO_SMk_RXQ; `true` for a bus error: any load while FRAME = 1, and an engine's (R417). -/
def Dev.readRxq (d : Dev) (m : Master) (g k : Nat) : Dev × Word × Bool :=
  let isEng := match m with
    | .ce _ => true
    | _ => false
  if isEng || d.b PIO_SM_QCFG_FRAME g k then (d, 0, true)
  else
    let x := d.pioM g k
    match x.rxq with
    | w :: q => (d.setPioM g k { x with rxq := q }, w, false)
    | [] => (d, 0, false)

/-- A write of PIO_SMk_QCFG; `true` for a bus error: it is written only while machine `k` is halted (R417). -/
def Dev.wQcfg (d : Dev) (g k : Nat) (v : Word) : Dev × Bool :=
  let m := d.pioM g k
  if m.run then (d, true)
  else
    let was := d.txd g k
    let d := d.wr PIO_SM_QCFG (v &&& 0x11F) g k
    if d.txd g k = was then (d, false)
    else (d.setPioM g k { m with txq := [], rxq := [], ends := [] }, false)

/-- Load TM and set ARMED: the target is the first instant from now whose low bits and fraction equal it (R420). -/
def Dev.loadTm (d : Dev) (g k : Nat) (ns : Word) (frac : Nat) : Dev :=
  let d := (d.wr PIO_SM_TM_LO ns g k).setF PIO_SM_TM_FRAC_FRAC frac g k
  let f := d.f PIO_SM_TM_FRAC_FRAC g k
  let t := d.ns / 2 ^ 32 * 2 ^ 32 + ns.toNat
  let at' := t * 20 + f
  d.setPioM g k { d.pioM g k with target := some (if at' < d.stamp then at' + 2 ^ 32 * 20 else at') }

/-! ### Instructions (R415, R416) -/

/-- OP of an instruction word. -/
def pioOp (w : Word) : Nat := getBits w 20 4

/-- XFER's destination codes. -/
def xferDst (c : Nat) : Bool := c = 0 || (2 ≤ c && c ≤ 7)

/-- XFER's source codes. -/
def xferSrc (c : Nat) : Bool := c = 0 || c = 1 || (3 ≤ c && c ≤ 7) || c = 15

/-- An instruction is no reserved form (R415, Table 13-5). -/
def pioValid (w : Word) : Bool :=
  match pioOp w with
  | 0 => getBits w 17 3 == 0
  | 1 => getBits w 18 2 == 0 && (if w.getLsbD 16 then getBits w 0 16 == 0 else !w.getLsbD 17)
  | 2 => decide (getBits w 16 4 ≤ 4) && getBits w 9 7 == 0 && getBits w 3 5 == 0
  | 3 => getBits w 8 12 == 0
  | 4 => getBits w 8 12 == 0
  | 5 =>
    let dst := getBits w 16 4
    let src := getBits w 12 4
    xferDst dst && xferSrc src && (!w.getLsbD 11 || src == 1 || dst == 2) && (src == 15 || getBits w 0 11 == 0)
  | 6 => decide (getBits w 16 4 ≤ 9) && getBits w 11 5 == 0 && getBits w 6 2 == 0
  | 7 => getBits w 12 8 == 0 && !w.getLsbD 8
  | 8 => getBits w 0 20 == 0
  | 9 => getBits w 3 17 == 0
  | _ => false

/-- The instruction must wait: the machine stalls, halting in place when its EN bit is clear; a timed action is late
(R413, R420, R425). -/
def Dev.pioWait (d : Dev) (g k : Nat) : Dev :=
  let m := d.pioM g k
  let late := m.timed.isSome
  let d := d.setPioM g k { m with stall := true, timed := none, run := m.run && d.pioEn g k }
  if late then d.pioEv g k 4 else d

/-- The instruction is complete: the machine goes on at `pc`, or halts when its EN bit is clear (R425). -/
def Dev.pioDone (d : Dev) (g k pc : Nat) : Dev :=
  let m := d.pioM g k
  d.setPioM g k { m with mid := false, stall := false, timed := none, pc := pc % 64, run := m.run && d.pioEn g k }

/-- Complete after one machine cycle. -/
def Dev.pioNext (d : Dev) (g k pc : Nat) : Dev := (d.setPioM g k ((d.pioM g k).pass d.wall 1)).pioDone g k pc

/-- The boundary of group `g`, when `k` is its boundary machine (R422). -/
def Dev.pioBoundary (d : Dev) (g k : Nat) : Dev := if d.f PIO_CTL_BMACH g = k then d.boundary (41 + g) else d

/-- PINS. -/
def Dev.pioPins (d : Dev) (g k : Nat) : Dev :=
  let m := d.pioM g k
  (d.pioDrive g k (m.instr.getLsbD 16) (getBits m.instr 8 8) (BitVec.ofNat 8 m.instr.toNat) (m.timed.getD d.stamp)).pioNext
    g k (m.pc + 1)

/-- HOLD (R420, R422). -/
def Dev.pioHold (d : Dev) (g k : Nat) : Dev :=
  let m := d.pioM g k
  if !m.instr.getLsbD 16 then
    if m.stall then if m.due ≤ d.wall then d.pioDone g k (m.pc + 1) else d
    else (d.setPioM g k (m.pass d.wall (getBits m.instr 0 16 + 1))).pioWait g k
  else
    let b := m.instr.getLsbD 17
    match m.target with
    | none => if m.stall then (d.pioNext g k (m.pc + 1)).pioEv g k 4 else (d.pioEv g k 4).pioNext g k (m.pc + 1)
    | some t =>
      let fin := fun (d : Dev) (x : Option Nat) =>
        let d := d.pioNext g k (m.pc + 1)
        let d := d.setPioM g k { d.pioM g k with target := none, timed := x, due := d.wall }
        if b then d.pioBoundary g k else d
      if m.stall then if t ≤ d.stamp then fin d (some t) else d
      else if t < d.stamp then fin (d.pioEv g k 4) none
      else if t = d.stamp then fin d (some t)
      else d.pioWait g k

/-- The condition of AWAIT. -/
def Dev.awaitMet (d : Dev) (g k : Nat) (m : PioM) : Bool :=
  let i := getBits m.instr 0 3
  let pol := m.instr.getLsbD 8
  match getBits m.instr 16 4 with
  | 0 => ((d.pg g).view d.wall).getLsbD i == pol
  | 1 => decide (m.edges < d.edgesOf g i pol)
  | 2 => (d.rd PIO_FLAGS g).getLsbD i == pol
  | 3 => !m.txq.isEmpty == pol
  | _ => if pol then !d.rxFull g k else m.rxq.isEmpty

/-- AWAIT. -/
def Dev.pioAwait (d : Dev) (g k : Nat) : Dev :=
  let m := d.pioM g k
  if d.awaitMet g k m then d.pioNext g k (m.pc + 1) else if m.stall then d else d.pioWait g k

/-- The shift moves its bit onto DPIN: the leading bit of SHR (R416). -/
def Dev.shiftOut (d : Dev) (g k : Nat) : Dev :=
  let m := d.pioM g k
  let msb := m.pins.getLsbD 13
  let bit := if msb then m.shr.getLsbD 31 else m.shr.getLsbD 0
  let p := getBits m.pins 0 3
  let d := d.setPioM g k { m with shr := if msb then m.shr <<< 1 else m.shr >>> 1 }
  if (d.pg g).dir.getLsbD p then d.pioDrive g k false (2 ^ p) (if bit then 0xFF else 0) d.stamp else d

/-- The sample of IPIN enters SHR at its trailing end (R416). -/
def Dev.shiftIn (d : Dev) (g k : Nat) : Dev :=
  let m := d.pioM g k
  let msb := m.pins.getLsbD 13
  let bit := ((d.pg g).view d.wall).getLsbD (getBits m.pins 4 3)
  let v : Word := if bit then (if msb then 1 else 0x80000000) else 0
  d.setPioM g k { m with shr := (if msb then m.shr <<< 1 else m.shr >>> 1) ||| v }

/-- A shift drives CPIN while its direction bit is 1. -/
def Dev.clockPin (d : Dev) (g k : Nat) (level : Bool) : Dev :=
  let p := getBits (d.pioM g k).pins 8 3
  if (d.pg g).dir.getLsbD p then d.pioDrive g k false (2 ^ p) (if level then 0xFF else 0) d.stamp else d

/-- The end of a shift: the store of a SHIN, then BCNT clears (R416). -/
def Dev.shiftEnd (d : Dev) (g k : Nat) : Dev :=
  let m := d.pioM g k
  let store := pioOp m.instr = 4 && m.instr.getLsbD 7
  if store && d.rxFull g k then
    if m.stall then d else (d.pioEv g k 1).pioWait g k
  else
    let d := if store then (d.setPioM g k { m with shr := 0 }).rxPush g k [m.shr] else d
    let d := d.setPioM g k { d.pioM g k with bcnt := 0, ph := 0, due := d.wall }
    d.pioDone g k (m.pc + 1)

/-- The bits a shift moves. -/
def shiftBits (w : Word) : Nat := if getBits w 0 5 = 0 then 32 else getBits w 0 5

/-- The next bit of a shift starts (own clock or no clock). -/
def Dev.bitStart (d : Dev) (g k : Nat) : Dev :=
  let m := d.pioM g k
  let clk := m.instr.getLsbD 5
  let d := if clk then d.clockPin g k (!m.pins.getLsbD 11) else d
  let d := if pioOp m.instr = 3 then d.shiftOut g k else d
  let m := (d.pioM g k).pass d.wall 1
  d.setPioM g k { m with ph := if clk then 1 else 2, stall := false, run := m.run }

/-- SHOUT and SHIN, one step of the bit in progress (R416): the bit's start, the second half of its clock, its end. -/
def Dev.pioShift (d : Dev) (g k : Nat) : Dev :=
  let m := d.pioM g k
  let n := shiftBits m.instr
  let out := pioOp m.instr = 3
  let ext := m.instr.getLsbD 6
  let load := out && m.instr.getLsbD 7 && m.bcnt == 0 && m.ph == 0
  if n ≤ m.bcnt then d.shiftEnd g k
  else if load && m.txq.isEmpty then
    if m.stall then d else (d.pioEv g k 0).pioWait g k
  else
    let d := if load then
        d.setPioM g k { m with shr := m.txq.headD 0, txq := m.txq.drop 1, ph := if ext then 3 else 0 }
      else d
    let m := d.pioM g k
    if ext then
      let cpin := getBits m.pins 8 3
      if m.edges < d.edgesOf g cpin (!m.pins.getLsbD 12) then
        let d := if out then d.shiftOut g k else d.shiftIn g k
        let d := d.setPioM g k { d.pioM g k with bcnt := m.bcnt + 1, edges := m.edges + 1, stall := false, ph := 3 }
        if n ≤ m.bcnt + 1 then d.shiftEnd g k else d.pioWait g k
      else if m.stall then d.setPioM g k m else d.pioWait g k
    else
      match m.ph with
      | 1 =>
        let d := d.clockPin g k (m.pins.getLsbD 11)
        d.setPioM g k { (d.pioM g k).pass d.wall 1 with ph := 2 }
      | 2 =>
        let d := if out then d else d.shiftIn g k
        let d := d.setPioM g k { d.pioM g k with bcnt := m.bcnt + 1, ph := 0 }
        if n ≤ m.bcnt + 1 then d.shiftEnd g k else d.bitStart g k
      | _ => d.bitStart g k

/-- The value of XFER's source but the TX queue. -/
def Dev.xferVal (d : Dev) (g k src : Nat) : Word :=
  let m := d.pioM g k
  match src with
  | 0 => m.shr
  | 3 => m.cnt0.zeroExtend 32
  | 4 => m.cnt1.zeroExtend 32
  | 5 => m.hld
  | 6 => ((d.pg g).view d.wall).zeroExtend 32
  | 7 => (d.pg g).dir.zeroExtend 32
  | _ => BitVec.ofNat 32 (getBits m.instr 0 11)

/-- XFER's destination takes `v`. -/
def Dev.xferPut (d : Dev) (g k dst : Nat) (v : Word) : Dev :=
  let m := d.pioM g k
  let at' := m.timed.getD d.stamp
  match dst with
  | 0 => d.setPioM g k { m with shr := v }
  | 2 => d.rxPush g k [v]
  | 3 => d.setPioM g k { m with cnt0 := v.truncate 16 }
  | 4 => d.setPioM g k { m with cnt1 := v.truncate 16 }
  | 5 => d.setPioM g k { m with hld := v }
  | 6 => d.pioDrive g k false 0xFF (v.truncate 8) at'
  | _ => d.pioDrive g k true 0xFF (v.truncate 8) at'

/-- XFER (R415, R416). -/
def Dev.pioXfer (d : Dev) (g k : Nat) : Dev :=
  let m := d.pioM g k
  let dst := getBits m.instr 16 4
  let src := getBits m.instr 12 4
  let nb := m.instr.getLsbD 11
  let empty := src = 1 && m.txq.isEmpty
  let full := dst = 2 && d.rxFull g k
  if empty || full then
    let d := if m.stall then d else (if empty then d.pioEv g k 0 else d.pioEv g k 1)
    if nb then
      let d := if empty || src != 1 then d else d.setPioM g k { d.pioM g k with txq := m.txq.drop 1 }
      d.pioNext g k (m.pc + 1)
    else if m.stall then d else d.pioWait g k
  else
    let v := if src = 1 then m.txq.headD 0 else d.xferVal g k src
    let d := if src = 1 then d.setPioM g k { m with txq := m.txq.drop 1 } else d
    (d.xferPut g k dst v).pioNext g k (m.pc + 1)

/-- BR: whether the condition holds, and the machine after it. -/
def Dev.brCond (d : Dev) (g k : Nat) : Bool × PioM :=
  let m := d.pioM g k
  let i := getBits m.instr 8 3
  let pin := ((d.pg g).view d.wall).getLsbD i
  let flag := (d.rd PIO_FLAGS g).getLsbD i
  let eq := getBits m.shr 0 16 == getBits m.hld 0 16
  match getBits m.instr 16 4 with
  | 0 => (true, m)
  | 1 => if m.cnt0 = 0 then (false, m) else (true, { m with cnt0 := m.cnt0 - 1 })
  | 2 => if m.cnt1 = 0 then (false, m) else (true, { m with cnt1 := m.cnt1 - 1 })
  | 3 => (pin, m)
  | 4 => (!pin, m)
  | 5 => (flag, m)
  | 6 => (!flag, m)
  | 7 => (eq, m)
  | 8 => (!eq, m)
  | _ => (m.txq.isEmpty, m)

/-- BR. -/
def Dev.pioBr (d : Dev) (g k : Nat) : Dev :=
  let (c, m) := d.brCond g k
  (d.setPioM g k m).pioNext g k (if c then getBits m.instr 0 6 else m.pc + 1)

/-- MARK (R418, R422, R427): when two machines change one flag in one cycle, a set prevails. -/
def Dev.pioMark (d : Dev) (g k : Nat) : Dev :=
  let m := d.pioM g k
  let p := d.pg g
  let mask : BitVec 8 := BitVec.ofNat 8 m.instr.toNat
  let clr := m.instr.getLsbD 9
  let cyc := d.wall / 50
  let set0 : BitVec 8 := if p.markAt = cyc then p.markSet else 0
  let clr0 : BitVec 8 := if p.markAt = cyc then p.markClr else 0
  let fl : BitVec 8 := BitVec.ofNat 8 (d.f PIO_FLAGS_FLAG g)
  let fl := if clr then fl &&& ~~~(mask &&& ~~~set0) else fl ||| mask
  let d := d.setF PIO_FLAGS_FLAG fl.toNat g
  let d := d.setPg g { p with
    markAt := cyc
    markSet := if clr then set0 else set0 ||| mask
    markClr := if clr then clr0 ||| mask else clr0 }
  let d := if m.instr.getLsbD 10 && d.b PIO_SM_QCFG_FRAME g k then
      let m := d.pioM g k
      (d.setPioM g k { m with ends := m.ends ++ [m.rxq.length] }).pgMove g k 40
    else d
  let d := d.pioNext g k (m.pc + 1)
  if m.instr.getLsbD 11 then d.pioBoundary g k else d

/-- LDT (R420). -/
def Dev.pioLdt (d : Dev) (g k : Nat) : Dev :=
  let m := d.pioM g k
  match m.txq with
  | a :: b :: q => ((d.setPioM g k { m with txq := q }).loadTm g k a (getBits b 0 5)).pioNext g k (m.pc + 1)
  | l =>
    if m.stall then d
    else (if l.isEmpty then d.pioEv g k 0 else d).pioWait g k

/-- SNAP (R421). -/
def Dev.pioSnap (d : Dev) (g k : Nat) : Dev :=
  let m := d.pioM g k
  let x := getBits m.instr 0 3
  if 16 - d.txd g k < m.rxq.length + 2 then
    if m.stall then d else d.pioWait g k
  else
    let e := Tab.look (d.pg g).edges {} x
    let found := m.snaps.getD x 0 < e.rises + e.falls
    let d := d.setPioM g k { m with snaps := m.snaps.set x (e.rises + e.falls) }
    let ws : List Word := if found then
        [BitVec.ofNat 32 (e.at' / 20), BitVec.ofNat 32 (e.at' % 20 + e.rising.toNat * 256 + 2 ^ 31)]
      else [0, 0]
    (d.rxPush g k ws).pioNext g k (m.pc + 1)

/-- The latched instruction goes on. -/
def Dev.pioGo (d : Dev) (g k : Nat) : Dev :=
  match pioOp (d.pioM g k).instr with
  | 0 => d.pioPins g k
  | 1 => d.pioHold g k
  | 2 => d.pioAwait g k
  | 3 => d.pioShift g k
  | 4 => d.pioShift g k
  | 5 => d.pioXfer g k
  | 6 => d.pioBr g k
  | 7 => d.pioMark g k
  | 8 => d.pioLdt g k
  | 9 => d.pioSnap g k
  | _ => d

/-- Machine `k` latches the word at its PC with its settings in force (R424). -/
def Dev.pioLatch (d : Dev) (g k : Nat) : Dev :=
  let m := d.pioM g k
  let w := d.rd PIO_PROG g m.pc
  let pins := d.rd PIO_SM_PINS g k
  let e := if pioOp w = 2 then d.edgesOf g (getBits w 0 3) (w.getLsbD 8)
    else d.edgesOf g (getBits pins 8 3) (!pins.getLsbD 12)
  d.setPioM g k { m with instr := w, mid := true, stall := false, clk := d.rd PIO_SM_CLK g k, pins := pins, ph := 0, edges := e }

/-- Machine `k` runs the instruction `op` at its PC, or the next step of it, when its cycle has come. -/
def Dev.pioExec (d : Dev) (g k op : Nat) : Dev :=
  let m := d.pioM g k
  if !m.run || m.fault || m.stall || decide (d.wall < m.due) then d
  else if m.mid then if pioOp m.instr = op then d.pioGo g k else d
  else
    let w := d.rd PIO_PROG g m.pc
    if pioOp w = op && pioValid w then (d.pioLatch g k).pioGo g k else d

/-- A reserved instruction at the PC halts the machine and sets FAULT (R415). -/
def Dev.pioReserved (d : Dev) (g k : Nat) : Dev :=
  let m := d.pioM g k
  if !m.run || m.fault || m.mid || decide (d.wall < m.due) || pioValid (d.rd PIO_PROG g m.pc) then d
  else (d.setPioM g k { m with run := false, fault := true }).pioEv g k 3

/-- A stalled machine looks at its condition again (R413). -/
def Dev.pioRelease (d : Dev) (g k : Nat) : Dev :=
  let d := d.pgMove g k 40
  let m := d.pioM g k
  if m.run && m.mid && m.stall then d.pioGo g k else d

/-! ### Enabling, forced loads, flags (R425 to R429) -/

/-- The EN bits of a group become `en` (R425). -/
def Dev.pioEnable (d : Dev) (g en : Nat) : Dev :=
  let d := d.setF PIO_CTL_EN en g
  (List.range 4).foldl (fun d k =>
    let m := d.pioM g k
    if en.testBit k then d.setPioM g k { m with run := true, fault := false, due := if m.run then m.due else max m.due d.wall }
    else d.setPioM g k { m with run := m.run && m.mid && !m.stall }) d

/-- FORCE (R426): machines halt, instructions in progress are abandoned, the writer's arm of the group's instance applies, and
each PC takes START. -/
def Dev.pioForce (d : Dev) (w : Master) (g : Nat) : Dev :=
  let d := d.setF PIO_CTL_EN 0 g
  let d := (List.range 4).foldl (fun d k =>
    let m := d.pioM g k
    let d := d.setPioM g k { m with run := false, mid := false, stall := false, bcnt := 0, ph := 0, timed := none }
    if m.mid then d.pioEv g k 2 else d) d
  let d := (d.cmtArm w (BitVec.ofNat 32 (41 + g)) d.wall d.stamp).idleNext (41 + g)
  (List.range 4).foldl (fun d k => d.setPioM g k { d.pioM g k with pc := d.f PIO_SM_PINS_START g k }) d

/-- A write of PIO_CTL; `true` for a bus error: BMACH changes only while all machines are halted. -/
def Dev.wPioCtl (d : Dev) (w : Master) (g : Nat) (v : Word) : Dev × Bool :=
  let bm := getBits v 8 2
  let err := bm != d.f PIO_CTL_BMACH g && !d.pioHalted g
  let d := if err then d else d.setF PIO_CTL_BMACH bm g
  let en := if d.b CLK_STAT_RCACT then 0 else getBits v 0 4
  if v.getLsbD 4 then (d.pioForce w g, err) else (d.pioEnable g en, err)

/-- The flags become `v` where `mask` is 1, but those a MARK changed in this cycle (R427). -/
def Dev.wFlags (d : Dev) (g : Nat) (mask v : BitVec 8) : Dev :=
  let p := d.pg g
  let keep : BitVec 8 := if p.markAt = d.wall / 50 then p.markSet ||| p.markClr else 0
  let mask := mask &&& ~~~keep
  let fl : BitVec 8 := BitVec.ofNat 8 (d.f PIO_FLAGS_FLAG g)
  d.setF PIO_FLAGS_FLAG ((fl &&& ~~~mask) ||| (v &&& mask)).toNat g

/-- A program word is written while all machines are halted: it takes force as it stages (R423). -/
def Dev.progNow (d : Dev) (g a : Nat) (v : Word) : Dev :=
  if d.pioHalted g then d.wr PIO_PROG (v &&& 0xFFFFFF) g a else d

/-- A read of lane signal bit `i` of a PG lane (Table 13-6). -/
def Dev.pgBit (d : Dev) (g i : Nat) : Bool :=
  if i < 4 then (d.pioM g i).run && d.pioEn g i
  else if i < 8 then (d.pioM g (i - 4)).txq.isEmpty
  else if i < 12 then d.txFull g (i - 8)
  else if i < 16 then (d.pioM g (i - 12)).rxq.isEmpty
  else if i < 24 then (d.f PIO_FLAGS_FLAG g).testBit (i - 16)
  else false

/-- A write of 1 to lane signal bit `i` of a PG lane (Table 13-6). -/
def Dev.pgBitSet (d : Dev) (g i : Nat) : Dev :=
  if 32 ≤ i && i < 40 then d.wFlags g (1 <<< (i - 32)) 0xFF
  else if 40 ≤ i && i < 48 then d.wFlags g (1 <<< (i - 40)) 0
  else d

/-- PIO_STAT as a read returns it: PEND shows a staged program word that differs from its value in force. -/
def Dev.pioStat (d : Dev) (g : Nat) : Word :=
  putBits (d.rd PIO_STAT g) 8 1 ((List.range 64).any (fun a => d.rdStaged PIO_PROG g a != d.rd PIO_PROG g a)).toNat

/-- PIO_SMk_QSTAT as a read returns it. -/
def Dev.qstat (d : Dev) (g k : Nat) : Word :=
  let m := d.pioM g k
  BitVec.ofNat 32 (m.txq.length + m.rxq.length * 256)

/-- PIO_SMk_TM_FRAC as a read returns it. -/
def Dev.tmFrac (d : Dev) (g k : Nat) : Word := putBits (d.rd PIO_SM_TM_FRAC g k) 31 1 (d.pioM g k).target.isSome.toNat

/-- PIO_SMk_PC as a read returns it. -/
def Dev.smPc (d : Dev) (g k : Nat) : Word := BitVec.ofNat 32 ((d.pioM g k).pc + (d.pioM g k).bcnt * 256)

/-- PIO_SMk_CNT as a read returns it. -/
def Dev.smCnt (d : Dev) (g k : Nat) : Word :=
  BitVec.ofNat 32 ((d.pioM g k).cnt0.toNat + (d.pioM g k).cnt1.toNat * 65536)

/-- NAP, HIBERNATE and clock failure halt every machine in place (R430). -/
def Dev.pioHaltAll (d : Dev) (g : Nat) : Dev :=
  (List.range 4).foldl (fun d k => d.setPioM g k { d.pioM g k with run := false }) d

/-- After a wake the EN bits are as they were (R430). -/
def Dev.pioResumeAll (d : Dev) (g : Nat) : Dev :=
  (List.range 4).foldl (fun d k => d.setPioM g k { d.pioM g k with run := d.pioEn g k && !(d.pioM g k).fault }) d

/-- A clock failure clears EN too (R430). -/
def Dev.pioClockFail (d : Dev) (g : Nat) : Dev := (d.pioHaltAll g).setF PIO_CTL_EN 0 g

/-- What a block reset does beside the registers (R430): machines halt, pins become inputs, queues and frame memory are emptied,
arriving frames are aborted, partly fed slots are released. -/
def Dev.pioBlockStop (d : Dev) (g : Nat) : Dev :=
  let d := (List.range 4).foldl (fun d k =>
    let m := d.pioM g k
    let d := match m.fr with
      | some h => d.setFr h { d.fr h with good := false, ended := true, eof := d.stamp }
      | none => d
    m.feed.foldl (fun d x => d.freeArm x.1) d) d
  let p := d.pg g
  let d := d.setPins g { p with out := 0, dir := 0 } d.stamp
  let p := d.pg g
  d.setPg g { p with m := [], lvlBy := [], dirBy := [], markAt := 0, markSet := 0, markClr := 0, mem := [] }

end Sys2Proof.Machine
end

