-- ==== Sys2Proof/Machine/StepAxes.lean ====
section
/-!
DEFINITION. The step axes (chapter 14): motion, the segment table, planned motion, halting, stall detection, standstill.
Positions count in 1/(2 × 10^18) unit and velocities in 10^-9 units/s, so that a motion of whole ns is exact.
-/

namespace Sys2Proof.Machine

/-- Axis `m` beside its registers. -/
def Dev.ax (d : Dev) (m : Nat) : AxSt := Tab.look d.stn.axes {} m

/-- Replace axis `m`. -/
def Dev.setAx (d : Dev) (m : Nat) (a : AxSt) : Dev := { d with stn := { d.stn with axes := Tab.put d.stn.axes {} m a } }

/-- One unit of position. -/
def posUnit : Int := 2 * 10 ^ 18

/-- One unit per second. -/
def velUnit : Int := 10 ^ 9

/-- The greatest r with r × r at most `n`, by bits from `2^fuel` down. -/
def isqrtFrom (n : Nat) : Nat → Nat → Nat
  | 0, r => r
  | k + 1, r => if (r + 2 ^ k) * (r + 2 ^ k) ≤ n then isqrtFrom n k (r + 2 ^ k) else isqrtFrom n k r

/-- The integer square root of a number below 2^200. -/
def isqrt (n : Nat) : Nat := isqrtFrom n 100 0

/-- MODE: 0x3 acts as 0x1. -/
def Dev.axMode (d : Dev) (m : Nat) : Nat := if d.f STP_CFG_MODE m = 3 then 1 else d.f STP_CFG_MODE m

/-- VLIM in units/s (R458). -/
def Dev.axVlim (d : Dev) (m : Nat) : Nat := 500000 * 2 ^ (8 - min 8 (d.f STP_CFG_MRES m))

/-- The largest velocity of a plan, in 10^-9 units/s. -/
def Dev.axVmax (d : Dev) (m : Nat) : Int := (min (d.rd STP_VMAX m).toNat (d.axVlim m) : Nat) * velUnit

/-- AMAX in units/s². -/
def Dev.axAmax (d : Dev) (m : Nat) : Nat := (d.rd STP_AMAX m).toNat

/-- ns of the present piece of motion that have passed. -/
def Dev.axTime (d : Dev) (a : AxSt) : Nat := (d.wall - a.t0) / 20

/-- Position and velocity after `t` ns of a piece at constant acceleration. -/
def segAt (a : AxSt) (s : AxSeg) (t : Nat) : Int × Int :=
  match s.dur with
  | some u =>
    if u ≤ t then (s.p1.getD (a.p + 2 * a.v * u + s.acc * u * u), s.v1)
    else (a.p + 2 * a.v * t + s.acc * t * t, a.v + s.acc * t)
  | none => (a.p + 2 * a.v * t + s.acc * t * t, a.v + s.acc * t)

/-- Position and velocity after `t` ns of a table entry. -/
def cubicAt (a : AxSt) (c : AxCubic) (t : Nat) : Int × Int :=
  if c.t ≤ t then (c.p1, c.v1)
  else
    let u : Int := t
    let n : Int := c.t
    (a.p + (c.a * u * n * n + c.c2 * u * u * n + c.c3 * u * u * u) / (n * n * n),
      (c.a * n * n + 2 * c.c2 * u * n + 3 * c.c3 * u * u) / (2 * n * n * n))

/-- Present position and velocity of axis `m`. -/
def Dev.axNow (d : Dev) (m : Nat) : Int × Int :=
  let a := d.ax m
  match a.cubic, a.segs with
  | some c, _ => cubicAt a c (d.axTime a)
  | none, s :: _ => segAt a s (d.axTime a)
  | none, [] => (a.p, a.v)

/-- STP_POS as a read returns it. -/
def Dev.stpPos (d : Dev) (m : Nat) : Word := BitVec.ofInt 32 ((d.axNow m).1 / posUnit)

/-- STP_VEL as a read returns it. -/
def Dev.stpVel (d : Dev) (m : Nat) : Word := BitVec.ofInt 32 ((d.axNow m).2 / velUnit)

/-- The axis moves. -/
def Dev.axMoving (d : Dev) (m : Nat) : Bool := d.f STP_STAT_STATE m == 2

/-- STP_STAT as a read returns it: off while EN = 0 in force. -/
def Dev.stpStat (d : Dev) (m : Nat) : Word :=
  let r := d.rd STP_STAT m
  if getBits r 0 3 = 3 then r
  else if !d.b STP_CFG_EN m then putBits r 0 3 0
  else if getBits r 0 3 = 0 then putBits r 0 3 1 else r

/-- The motion of axis `m` is fixed at its present position and velocity. -/
def Dev.axHere (d : Dev) (m : Nat) : Dev :=
  let (p, v) := d.axNow m
  d.setAx m { d.ax m with p := p, v := v, t0 := d.wall }

/-- The axis comes to rest at position `p`, in state `s`. -/
def Dev.axRest (d : Dev) (m : Nat) (p : Int) (s : Nat) : Dev :=
  let d := d.setAx m { d.ax m with
    p := p, v := 0, t0 := d.wall, segs := [], cubic := none, seek := false, restAt := d.wall, stby := false }
  d.setF STP_STAT_STATE s m

/-- The axis halts (R461): velocity 0 at once, position lost. -/
def Dev.axHalt (d : Dev) (m : Nat) : Dev := (d.axRest m (d.axNow m).1 3).setB STP_STAT_POSLOST true m

/-- REACHED sets (R460), unless a stall arose in the same cycle (R462). -/
def Dev.axReached (d : Dev) (m : Nat) : Dev :=
  let a := d.ax m
  let stalled := match a.stallAt with
    | some t => decide (d.wall < t + d.fabCycle)
    | none => false
  if stalled then d
  else
    let was := d.b STP_STAT_REACHED m
    let d := (d.setB STP_STAT_REACHED true m).setAx m { a with reachAt := some d.wall }
    if !was && d.b STP_EVEN_REACHED m then d.raise 106 m else d

/-! ### Plans (R460) -/

/-- A change of velocity at acceleration `a` from `v` to `v1`, in whole ns. -/
def rampSeg (a : Nat) (v v1 : Int) : List AxSeg :=
  if v = v1 || a = 0 then []
  else [{ acc := if v < v1 then a else -(a : Int), dur := some ((v1 - v).natAbs / a), v1 := v1 }]

/-- From rest to rest over the distance `x` (scaled), with the end at `p1`: acceleration, cruise, deceleration. -/
def restSegs (a : Nat) (vm : Int) (v x : Int) (p1 : Int) : List AxSeg :=
  let sg : Int := if x < 0 then -1 else 1
  let dist := x.natAbs
  let v0 := v.natAbs
  let top := isqrt ((a * dist + v0 * v0) / 2)
  let vt := min top vm.natAbs
  let used := if a = 0 then 0 else ((vt * vt - v0 * v0) + vt * vt) / a
  let cruise := if vt = 0 then 0 else (dist - used) / (2 * vt)
  if a = 0 || vt = 0 then []
  else
    rampSeg a v (sg * vt)
    ++ (if cruise = 0 then [] else [{ acc := 0, dur := some cruise, v1 := sg * vt }])
    ++ [{ acc := -sg * a, dur := some (vt / a), v1 := 0, p1 := some p1 }]

/-- The plan to a position (R460): from the present motion, directly when the stop lies before the target, else by way of 0. -/
def posPlan (a : Nat) (vm : Int) (p v target : Int) : List AxSeg :=
  let x := target - p
  let ahead := decide (v = 0) || (decide (0 < v) == decide (0 < x) && decide (x ≠ 0))
  let stop : Int := if a = 0 then 0 else v * v / a
  if v = 0 && x = 0 then []
  else if ahead && decide (stop ≤ x.natAbs) then
    if vm.natAbs < v.natAbs then
      let vt := if v < 0 then -(vm.natAbs : Int) else vm.natAbs
      let p2 := p + (if v < 0 then -1 else 1) * ((v * v - vt * vt) / a)
      rampSeg a v vt ++ restSegs a vm vt (target - p2) target
    else restSegs a vm v x target
  else
    let p2 := p + (if v < 0 then -1 else 1) * stop
    (rampSeg a v 0).map (fun s => { s with p1 := some p2 })
      ++ (if target = p2 then [] else restSegs a vm 0 (target - p2) target)

/-- The plan to a velocity (R460): by way of 0 when it reverses, then on at that velocity; no plan where AMAX = 0 changes nothing. -/
def velPlan (a : Nat) (v vt : Int) : List AxSeg :=
  let rev := decide (v ≠ 0) && decide (vt ≠ 0) && decide (v < 0) != decide (vt < 0)
  if a = 0 && decide (v ≠ vt) then []
  else
    (if rev then rampSeg a v 0 ++ rampSeg a 0 vt else rampSeg a v vt)
      ++ (if vt = 0 then [] else [{ acc := 0, dur := none, v1 := vt }])

/-- STP_TARGET as the plan takes it. -/
def Dev.axGoal (d : Dev) (m : Nat) : Int := (d.rd STP_TARGET m).toInt

/-- The axis starts along `segs` from its present position and velocity; with none it rests or reached its target. -/
def Dev.axFollow (d : Dev) (m : Nat) (segs : List AxSeg) (seek : Bool) : Dev :=
  let d := d.axHere m
  let a := d.ax m
  let d := d.setAx m { a with segs := segs, cubic := none, seek := seek, stby := false }
  match segs with
  | [] =>
    let d := if a.v = 0 then
        if d.axMoving m then d.axRest m a.p 1 else d
      else d.setAx m { d.ax m with segs := [{ acc := 0, dur := none, v1 := a.v }] }
    if seek then d.axReached m else d
  | s :: _ =>
    let d := d.setF STP_STAT_STATE 2 m
    if seek && s.dur.isNone then (d.setAx m { d.ax m with seek := false }).axReached m else d

/-- A new plan for the target (R460): its start is a boundary of instance 73 + m. With AMAX or VMAX 0 a target elsewhere is not
reached. -/
def Dev.axReplan (d : Dev) (m : Nat) : Dev :=
  let d := d.boundary (73 + m)
  let (p, v) := d.axNow m
  let vm := d.axVmax m
  let a := d.axAmax m
  if !d.b STP_CFG_EN m then d
  else if d.axMode m = 1 then
    let goal := d.axGoal m * posUnit
    d.axFollow m (posPlan a vm p v goal) ((decide (0 < a) && decide (0 < vm)) || (decide (v = 0) && decide (p = goal)))
  else if d.axMode m = 2 then
    let goal := max (-vm) (min vm (d.axGoal m * velUnit))
    d.axFollow m (velPlan a v goal) (decide (0 < a) || decide (v = goal))
  else d

/-- A write of STP_TARGET by master number `num` (R454, R460, R461): dropped while halted; of writes in one fabric cycle the lowest
master number's stands. -/
def Dev.axTarget (d : Dev) (num m : Nat) (v : Word) : Dev :=
  let a := d.ax m
  let lower := match a.wrote with
    | some (t, n) => decide (d.wall < t + d.fabCycle) && decide (n < num)
    | none => false
  if d.f STP_STAT_STATE m = 3 || lower then d
  else
    let d := (d.wr STP_TARGET v m).setAx m { a with wrote := some (d.wall, num) }
    if d.b STP_CFG_EN m && d.axMode m != 0 then d.axReplan m else d

/-! ### The segment table (R459) -/

/-- The entry `k` latched from position `p` and velocity `v`. -/
def Dev.axEntry (d : Dev) (m k : Nat) (p v : Int) : AxCubic :=
  let t := (d.rd STP_SEG_T m k).toNat
  let p1 := (d.rd STP_SEG_P m k).toInt * posUnit
  let v1 := (d.rd STP_SEG_V m k).toInt * velUnit
  let dp := p1 - p
  let a := 2 * v * t
  let b := 2 * v1 * t
  { a := a, c2 := 3 * dp - 2 * a - b, c3 := a + b - 2 * dp, t := t, p1 := p1, v1 := v1
    last := d.b STP_SEG_FLG_LAST m k || k == 255
    next := if d.b STP_SEG_FLG_LINK m k then d.f STP_SEG_FLG_NEXT m k else k + 1 }

/-- The largest speed of the cubic exceeds VLIM. -/
def cubicFast (c : AxCubic) (vlim : Nat) : Bool :=
  let l : Int := 2 * (vlim : Int) * velUnit * c.t
  let b := 2 * c.v1 * c.t
  let k := 3 * c.c3
  let inside := if 0 < k then decide (0 < -c.c2) && decide (-c.c2 < k) else decide (-c.c2 < 0) && decide (k < -c.c2)
  decide (l < c.a.natAbs) || decide (l < b.natAbs)
    || (decide (k ≠ 0) && inside && decide (l * k.natAbs < (c.a * k - c.c2 * c.c2).natAbs))

/-- Entry `k` starts (R459): a boundary, then the entry is latched and checked. -/
def Dev.axStart (d : Dev) (m k : Nat) : Dev :=
  let d := d.boundary (73 + m)
  let a := d.ax m
  if !d.b STP_CFG_EN m then d.axRest m a.p 1
  else
    let c := d.axEntry m k a.p a.v
    let d := d.setF STP_STAT_SEG k m
    if c.t = 0 || (c.last && decide (c.v1 ≠ 0)) || cubicFast c (d.axVlim m) then
      (d.axHalt m).setB STP_STAT_SEGERR true m
    else (d.setAx m { a with cubic := some c, segs := [], seek := false, stby := false }).setF STP_STAT_STATE 2 m

/-- STP_CTL.GO (R459, R461). -/
def Dev.axGo (d : Dev) (m : Nat) : Dev :=
  if d.f STP_STAT_STATE m = 3 || !d.b STP_CFG_EN m || d.axMode m != 0 then d
  else (d.axHere m).axStart m (d.f STP_START_START m)

/-- STP_CTL.STOP, and the stop before NAP (R461, R463): a deceleration to 0 at AMAX. -/
def Dev.axStop (d : Dev) (m : Nat) : Dev :=
  if !d.axMoving m then d
  else
    let d := if d.axMode m = 0 then d else d.boundary (73 + m)
    let (p, v) := d.axNow m
    let a := d.axAmax m
    let stop : Int := if a = 0 then 0 else v * v / a
    let p2 := p + (if v < 0 then -1 else 1) * stop
    d.axFollow m ((rampSeg a v 0).map (fun s => { s with p1 := some p2 })) false

/-- A write of STP_CTL (R459, R461). -/
def Dev.wStpCtl (d : Dev) (m : Nat) (v : Word) : Dev :=
  let d := if v.getLsbD 3 && d.f STP_STAT_STATE m = 3 then d.axRest m (d.ax m).p 1 else d
  let d := if v.getLsbD 2 then d.axHalt m else d
  let d := if v.getLsbD 1 then d.axStop m else d
  if v.getLsbD 0 then d.axGo m else d

/-- The end of the piece of motion in force (R459, R460): the next one starts at that instant, or the axis rests. -/
def Dev.axBoundary (d : Dev) (m : Nat) : Dev :=
  let a := d.ax m
  if !d.axMoving m then d
  else
    match a.cubic, a.segs with
    | some c, _ =>
      if d.axTime a < c.t then d
      else
        let d := d.setAx m { a with p := c.p1, v := c.v1, t0 := a.t0 + 20 * c.t, cubic := none }
        if c.last then d.axRest m c.p1 1
        else d.axStart m c.next
    | none, s :: rest =>
      match s.dur with
      | none => d
      | some u =>
        if d.axTime a < u then d
        else
          let (p, v) := segAt a s u
          let d := d.setAx m { a with p := p, v := v, t0 := a.t0 + 20 * u, segs := rest }
          match rest with
          | [] =>
            let d := d.axRest m p 1
            if a.seek then d.axReached m else d
          | r :: _ =>
            let d := d.boundary (73 + m)
            if !d.b STP_CFG_EN m then d.axRest m p 1
            else if a.seek && r.dur.isNone then (d.setAx m { d.ax m with seek := false }).axReached m else d
    | none, [] => d

/-- A write of STP_POS; `true` for a bus error: it is accepted only at rest. -/
def Dev.wStpPos (d : Dev) (m : Nat) (v : Word) : Dev × Bool :=
  if d.axMoving m then (d, true) else (d.setAx m { d.ax m with p := v.toInt * posUnit }, false)

/-! ### Stall detection (R462) -/

/-- The cosine of k quarter turns / 256, in 10^-18, by its series. -/
def cosScaled (k : Nat) : Int :=
  let x : Int := 3141592653589793238 * k / 512
  let x2 := x * x / 10 ^ 18
  ((List.range 14).foldl (fun (s : Int × Int) n =>
    (s.1 + s.2, -(s.2 * x2 / 10 ^ 18) / ((2 * n + 1) * (2 * n + 2) : Nat))) (0, 10 ^ 18)).1

/-- The load angle of a ratio num/den, between its neighbouring whole values: the largest k whose cosine is at least the ratio. -/
def laFloor (num den : Int) : Nat :=
  ((List.range 257).filter (fun k => decide (num * 10 ^ 18 ≤ cosScaled k * den))).getLastD 0

/-- The load angle of a coil voltage (R462): V of the wrong sign counts as 256. The rounding, and the angle with no back-EMF expected,
are not stated (log 10). -/
def Dev.loadAngle (d : Dev) (m : Nat) (volt : BitVec 16) : Nat × Dev :=
  let speed := ((d.axNow m).2 / velUnit).natAbs
  let den : Int := (d.f STP_KE_KE m * speed : Nat)
  let num := volt.toInt * 256000
  if volt.toInt < 0 then (256, d)
  else if den = 0 then
    let (x, d) := d.take 9
    (min 256 x, d)
  else if den ≤ num then (0, d)
  else if num = 0 then (256, d)
  else
    let (x, d) := d.take 1
    (laFloor num den + x, d)

/-- A zero-current window of axis `m` ends with the coil voltage `volt` (R462). -/
def Dev.axWindow (d : Dev) (m : Nat) (volt : BitVec 16) : Dev :=
  let fs := ((d.axNow m).2 / velUnit).natAbs / 256
  if !d.axMoving m || !d.b STP_CFG_EN m || !d.b STP_CFG_SENSE m || decide (fs < d.f STP_STALL_VMIN m) then d
  else
    let (la, d) := d.loadAngle m volt
    let d := d.setF STP_LA_LA la m
    let a := d.ax m
    let n := if d.f STP_STALL_LA m ≤ la then a.stalls + 1 else 0
    if n < max 1 (d.f STP_STALL_N m) then d.setAx m { a with stalls := n }
    else
      let d := d.setAx m { a with stalls := 0, stallAt := some d.wall }
      let same := match a.reachAt with
        | some t => decide (d.wall < t + d.fabCycle)
        | none => false
      let d := if same then d.setB STP_STAT_REACHED false m else d
      let was := d.b STP_STAT_STALL m
      let d := d.setB STP_STAT_STALL true m
      let d := if !was && d.b STP_EVEN_STALL m then d.raise 105 m else d
      if d.b STP_CFG_STALLACT m then d.axHalt m else d

/-! ### Standstill, power, clock failure (R461, R463) -/

/-- The axis has been at rest for STBYDLY. -/
def Dev.axStandstill (d : Dev) (m : Nat) : Dev :=
  let a := d.ax m
  if !d.axMoving m && d.b STP_CFG_EN m && decide (a.restAt + d.f STP_STBYDLY_MS m * 20000000 ≤ d.wall) then
    d.setAx m { a with stby := true }
  else d

/-- A clock failure forces every input low and halts the axis. -/
def Dev.axClockFail (d : Dev) (m : Nat) : Dev := if d.b STP_CFG_EN m then d.axHalt m else d

/-- Standstill mode off at once: the last gasp sheds the axis (R444). -/
def Dev.axShed (d : Dev) (m : Nat) : Dev :=
  let d := if d.axMoving m then d.axRest m (d.axNow m).1 1 else d
  d.setAx m { d.ax m with stby := true }

/-! ### The bridges (R457) -/

/-- The electrical angle in 1/1,024 of a turn: one quarter turn per full step, quantised to the resolution. -/
def Dev.axAngle (d : Dev) (m : Nat) : Nat :=
  let q : Int := 2 ^ (8 - min 8 (d.f STP_CFG_MRES m))
  (((d.axNow m).1 / posUnit / q * q) % 1024).toNat

/-- What the bridges of axis `m` do: duties of phases A and B (Q0.16, in units of 2^-32), or `none` with the inputs held by
STDBY 0x1 (`false`: all low) or 0x2 (`true`: every L high, every H low). -/
def Dev.axBridge (d : Dev) (m : Nat) : Option (Int × Int) × Bool :=
  let off := !d.b STP_CFG_EN m || d.b CLK_STAT_RCACT || d.stn.gasp.shed
  let a := d.ax m
  let mode := if a.stby then d.f STP_CFG_STDBY m else 3
  let amp := if a.stby then d.f STP_AMPL_HOLD m else d.f STP_AMPL_RUN m
  if off || mode = 1 then (none, false)
  else if mode = 2 then (none, true)
  else
    let t := d.axAngle m
    (some (amp * Config.sine t, amp * Config.sine ((t + 256) % 1024)), false)

end Sys2Proof.Machine
end

