-- ==== Sys2Proof/Machine/Station.lean ====
section
/-!
DEFINITION. The station inputs, the mains sentinel and the last gasp (chapter 14).
-/

namespace Sys2Proof.Machine

/-- Replace the station's state. -/
def Dev.setStn (d : Dev) (s : Stn) : Dev := { d with stn := s }

/-- RUN and DOZE: the fast parts of the station work (Table 14-3). -/
def Dev.stnAwake (d : Dev) : Bool := decide (d.f PWR_STAT_STATE < 2)

/-- The AFE and the loop evaluator run: not in NAP or HIBERNATE, nor from the first step of their entry, nor shed (R444, R477). -/
def Dev.stnRuns (d : Dev) : Bool := d.stnAwake && !(d.b PWR_STAT_BUSY && decide (2 ≤ d.powerTo)) && !d.stn.gasp.shed

/-- An instant as a station stamp carries it: the time base in RUN and DOZE, the real-time clock in NAP and HIBERNATE (R438,
R439). -/
def Dev.stnNs (d : Dev) : Nat := if d.stnAwake then d.ns else d.rtcNow

/-! ### Analog inputs (R432 to R434) -/

/-- The enabled channels of converter `c`. -/
def Dev.afeOn (d : Dev) (c : Nat) : List Nat :=
  if (d.rd AFE_CTL).getLsbD c then ((List.range 12).map (· + 12 * c)).filter (fun n => d.b AFE_CH_EN n) else []

/-- The channel converter `c` converts: the next enabled one after its last, else the first (R432). -/
def Dev.afeNext (d : Dev) (c : Nat) : Option Nat :=
  let l := d.afeOn c
  match (if c = 0 then d.stn.afe0 else d.stn.afe1) with
  | some k => ((l.filter (fun n => decide (k < n))).head?).orElse (fun _ => l.head?)
  | none => l.head?

/-- The result of channel `n` completes, the mean of its conversions (R432 to R434). -/
def Dev.afeResult (d : Dev) (n : Nat) (codes : List (BitVec 16)) : Dev :=
  let c := n / 12
  let k := 2 ^ d.f AFE_CH_AVG n
  let at' := if c = 0 then d.stn.afeAt0 else d.stn.afeAt1
  if d.afeNext c != some n || codes.length != k || !d.stnRuns
    || decide (d.wall < at' + 10000 * k) then d
  else
    let sum := codes.foldl (fun s x => s + x.toNat) 0
    let (up, d) := if sum % k = 0 then (0, d) else d.take 1
    let code := sum / k + up
    let lof := decide (code < d.f AFE_LIM_LO n)
    let hif := decide (d.f AFE_LIM_HI n < code)
    let s := d.stn
    let d := d.setStn (if c = 0 then { s with afe0 := some n, afeAt0 := d.wall } else { s with afe1 := some n, afeAt1 := d.wall })
    let d := d.wr AFE_RES (BitVec.ofNat 32 (code + lof.toNat * 2 ^ 29 + hif.toNat * 2 ^ 30 + 2 ^ 31)) n
    let d := d.wr AFE_TS (BitVec.ofNat 32 (d.ns - 250 * k)) n
    if (lof || hif) && !(d.rd AFE_RANGE).getLsbD n then
      let d := d.wr AFE_RANGE (d.rd AFE_RANGE ||| (1 <<< n))
      if (d.rd AFE_RANGEEN).getLsbD n then d.raise 107 else d
    else d

/-- A read of AFE_RESn clears NEW (R433). -/
def Dev.readAfe (d : Dev) (n : Nat) : Dev × Word := (d.setB AFE_RES_NEW false n, d.rd AFE_RES n)

/-- At a station-cycle boundary under SYNC = 1 each converter starts its scan again (R432). -/
def Dev.afeSync (d : Dev) : Dev :=
  if d.b AFE_CTL_SYNC then
    d.setStn { d.stn with afe0 := none, afe1 := none, afeAt0 := d.wall, afeAt1 := d.wall }
  else d

/-! ### Digital inputs (R435 to R438) -/

/-- Input `i`. -/
def Dev.di (d : Dev) (i : Nat) : DiSt := Tab.look d.stn.di {} i

/-- Replace input `i`. -/
def Dev.setDi (d : Dev) (i : Nat) (x : DiSt) : Dev := d.setStn { d.stn with di := Tab.put d.stn.di {} i x }

/-- The level of input `i` after POL: 1 means active. -/
def Dev.diActive (d : Dev) (i : Nat) : Bool := (d.di i).raw != d.b DI_CFG_POL i

/-- Bit `i` of a 32-bit status register. -/
def Dev.bitOf (d : Dev) (r : Reg) (i : Nat) : Bool := (d.rd r).getLsbD i

/-- Set or clear bit `i` of a 32-bit status register. -/
def Dev.putBit (d : Dev) (r : Reg) (i : Nat) (v : Bool) : Dev :=
  d.wr r (if v then d.rd r ||| (1 <<< i) else d.rd r &&& ~~~((1 : Word) <<< i))

/-- A raw transition of input `i` (R435, R436). -/
def Dev.diEdge (d : Dev) (i : Nat) (level : Bool) : Dev :=
  let x := d.di i
  if x.raw = level then d
  else
    let n := x.count + 1
    let d := d.setDi i { x with raw := level, at' := d.wall, ns := d.stnNs, count := n }
    let max := d.f DI_CFG_CHATMAX i
    if max ≠ 0 && decide (max < n) && !d.bitOf DI_QUAR i then
      ((d.putBit DI_QUAR i true).putBit DI_ALM_CHAT i true).raise 100 i
    else d

/-- A change of input `i` is reported (R435). -/
def Dev.diReport (d : Dev) (i : Nat) : Dev :=
  let d := (d.setDi i { d.di i with told := d.bitOf DI_STATE i }).putBit DI_CHG i true
  if d.b DI_CFG_EVEN i then d.raise 101 i else d

/-- The raw level of input `i` has held for FILT: the change is accepted (R435 to R438). -/
def Dev.diAccept (d : Dev) (i : Nat) : Dev :=
  let x := d.di i
  let lvl := d.diActive i
  if d.bitOf DI_STATE i = lvl || decide (d.wall < x.at' + max 1 (d.f DI_CFG_FILT i) * 2000000) then d
  else
    let d := (d.putBit DI_STATE i lvl).wr DI_TS (BitVec.ofNat 32 x.ns) i
    let d := if lvl then d.setDi i { x with actAt := d.wall } else d.putBit DI_STUCK i false
    if d.bitOf DI_QUAR i then d
    else
      let d := d.diReport i
      if lvl && d.b DI_CFG_WAKE i then d.wake 6 i else d

/-- A chatter window ends (R436). -/
def Dev.diWindow (d : Dev) : Dev :=
  let s := d.stn
  if d.wall < s.diWin + d.f DI_TIMING_CHATWIN * 2000000000 then d
  else d.setStn { s with diWin := d.wall, di := s.di.map (fun e => (e.1, { e.2 with count := 0 })) }

/-- Input `i` has had no transition for QUIET (R436). -/
def Dev.diQuiet (d : Dev) (i : Nat) : Dev :=
  let x := d.di i
  if d.bitOf DI_QUAR i && decide (x.at' + d.f DI_TIMING_QUIET * 2000000000 ≤ d.wall) then
    let d := d.putBit DI_QUAR i false
    if d.bitOf DI_STATE i = x.told then d else d.diReport i
  else d

/-- Input `i` has been active for longer than STUCK (R437). -/
def Dev.diStuck (d : Dev) (i : Nat) : Dev :=
  let t := d.f DI_CFG_STUCK i
  if t ≠ 0 && d.bitOf DI_STATE i && !d.bitOf DI_STUCK i && decide ((d.di i).actAt + t * wallSecond < d.wall) then
    ((d.putBit DI_STUCK i true).putBit DI_ALM_STUCK i true).raise 100 i
  else d

/-! ### Sentinel (R439 to R442) -/

/-- Sense input `k`. -/
def Dev.sense (d : Dev) (k : Nat) : SentIn := if k = 0 then d.stn.in0 else d.stn.in1

/-- Replace sense input `k`. -/
def Dev.setSense (d : Dev) (k : Nat) (x : SentIn) : Dev :=
  d.setStn (if k = 0 then { d.stn with in0 := x } else { d.stn with in1 := x })

/-- Place an entry in the event queue and raise EV102 (R439, R440, R442). -/
def Dev.sentPut (d : Dev) (ch kind : Nat) : Dev :=
  let d := if d.stn.evq.length < 16 then
      d.setStn { d.stn with evq := d.stn.evq ++
        [{ ch := ch, kind := kind, nosync := !(d.stnAwake && d.b TIME_STAT_SYNC), ns := d.stnNs }] }
    else d.countF SENT_EVQ0_EVQLOST
  d.raise 102

/-- The capture buffer's size in samples. -/
def capSize : Nat := 65536

/-- A trigger of bit `b` of TRIGMASK (R441): the first one enabled starts the post-trigger phase. -/
def Dev.sentTrig (d : Dev) (b : Nat) : Dev :=
  if !(d.f SENT_CAP_TRIGMASK).testBit b then d
  else if d.f SENT_CAPSTAT_STATE = 1 then
    let d := (d.wr SENT_TRIG_LO (BitVec.ofNat 32 d.ns)).wr SENT_TRIG_HI (BitVec.ofNat 32 (d.ns / 2 ^ 32))
    ((d.setF SENT_TRIGSRC_SRC (2 ^ b)).setF SENT_CAPSTAT_STATE 2).setStn { d.stn with trigAt := d.wall }
  else if d.f SENT_CAPSTAT_STATE = 0 then d
  else d.countF SENT_CAPSTAT_TRIGIGN

/-- Comparator `k` sees its input go above HI (0), below LO (1), or back inside (2) (R439). -/
def Dev.sentCross (d : Dev) (k pos : Nat) : Dev :=
  let x := d.sense k
  if !d.b SENT_CMP_T_EN k || x.pos = pos || 2 < pos then d
  else if d.wall < x.blank then d.setSense k { x with pos := pos }
  else
    let d := d.setSense k { x with pos := pos, blank := d.wall + d.f SENT_CMP_T_BLANK k * 20000 }
    ((d.sentPut k pos).sentTrig k).wake 4 k

/-- The capture converter and the RMS logic run (R439, Table 14-3). -/
def Dev.sentRuns (d : Dev) : Bool := d.b SENT_CTL_EN && d.stnAwake && !d.b CLK_STAT_RCACT

/-- Input `k` is captured. -/
def Dev.captured (d : Dev) (k : Nat) : Bool := d.f SENT_CTL_CH != 1 - k

/-- A sag or a loss is declared on input `k` (R440). -/
def Dev.declareSag (d : Dev) (k : Nat) (loss : Bool) : Dev :=
  let x := d.sense k
  let d := d.setSense k (if loss then { x with loss := true } else { x with sag := true })
  let d := (d.sentPut (if loss then 3 else 2) k).sentTrig (if loss then 3 else 2)
  if d.f PWR_STAT_STATE = 1 then d.wake 4 (if loss then 3 else 2) else d

/-- A zero crossing ends a half-cycle of input `k` with the RMS `rms` (R440). -/
def Dev.halfCycle (d : Dev) (k rms : Nat) : Dev :=
  if !d.sentRuns || !d.captured k then d
  else
    let x := d.sense k
    let low := decide (rms < d.f SENT_SAG_SAGLVL)
    let gone := decide (rms < d.f SENT_SAG_LOSSLVL)
    let x := { x with
      zeroAt := d.wall, zeroOut := false
      sagRun := if low then x.sagRun + 1 else 0
      lossRun := if gone then x.lossRun + 1 else 0
      sag := x.sag && low
      loss := x.loss && gone }
    let d := (d.setSense k x).setF SENT_RMS_RMS rms k
    let d := if x.sagRun = d.f SENT_SAGT_SAGHC && x.sagRun != 0 then d.declareSag k false else d
    if x.lossRun = d.f SENT_SAGT_LOSSHC && x.lossRun != 0 then d.declareSag k true else d

/-- No zero crossing of input `k` for 1.5 nominal half-cycles (R440). -/
def Dev.zeroTimeout (d : Dev) (k : Nat) : Dev :=
  let x := d.sense k
  let t := if d.b SENT_CTL_FNOM then 250000000 else 300000000
  if !d.sentRuns || !d.captured k || x.zeroOut || decide (d.wall < x.zeroAt + t) then d
  else (d.setSense k { x with zeroOut := true }).declareSag k true

/-- A write of SENT_CTL: the zero-crossing timeouts start when the converter does. -/
def Dev.wSentCtl (d : Dev) (v : Word) : Dev :=
  let was := d.b SENT_CTL_EN
  let d := d.wr SENT_CTL (v &&& 0xF)
  if d.b SENT_CTL_EN && !was then
    (d.setSense 0 { d.sense 0 with zeroAt := d.wall, zeroOut := false }).setSense 1 { d.sense 1 with zeroAt := d.wall, zeroOut := false }
  else d

/-- A write of SENT_CAP (R441). -/
def Dev.wSentCap (d : Dev) (v : Word) : Dev :=
  let d := d.wr SENT_CAP (v &&& 0x3FFFFF)
  let d := if v.getLsbD 24 then d.setF SENT_CAPSTAT_STATE 1 else d
  if v.getLsbD 25 then d.sentTrig 4 else d

/-- Write the samples of a capture from index `i` on, as master 5 (R441). -/
def Dev.capWrite (d : Dev) (i : Nat) : List (BitVec 13) → Dev
  | [] => d
  | s :: l =>
    match d.combStore .stn ((d.rd SENT_BASE).toNat / 256 * 256 + 2 * (i % capSize)) 2 s.toNat with
    | (d, .done _) => d.capWrite (i + 1) l
    | (d, _) => (d.setB SENT_CAPSTAT_WERR true).capWrite (i + 1) l

/-- The post-trigger samples are complete (R441); `samples` are all those taken since ARM, code in [11:0] and input in [12]. -/
def Dev.capDone (d : Dev) (samples : List (BitVec 13)) : Dev :=
  let post := capSize - d.f SENT_CAP_PRE
  if d.f SENT_CAPSTAT_STATE ≠ 2 || !d.sentRuns || decide (samples.length < post)
    || decide (d.wall < d.stn.trigAt + post * 5000) then d
  else
    let d := d.capWrite 0 samples
    (d.setF SENT_CAPSTAT_STATE 3).setF SENT_CAPSTAT_OLDEST (samples.length % capSize)

/-- SENT_EVQ0 as a read returns it. -/
def Dev.evq0 (d : Dev) : Word :=
  let lost := d.f SENT_EVQ0_EVQLOST * 256
  match d.stn.evq with
  | e :: _ => BitVec.ofNat 32 (e.ch + e.kind % 4 * 4 + lost + e.nosync.toNat * 2 ^ 30 + 2 ^ 31)
  | [] => BitVec.ofNat 32 lost

/-- SENT_EVQ1 as a read returns it. -/
def Dev.evq1 (d : Dev) : Word :=
  match d.stn.evq with
  | e :: _ => BitVec.ofNat 32 e.ns
  | [] => 0

/-- A read of SENT_EVQ2 removes the oldest entry (R442). -/
def Dev.readEvq2 (d : Dev) : Dev × Word :=
  match d.stn.evq with
  | e :: l => (d.setStn { d.stn with evq := l }, BitVec.ofNat 32 (e.ns / 2 ^ 32))
  | [] => (d, 0)

/-- PWR_FAIL_N goes low (R441, R443). -/
def Dev.failLow (d : Dev) : Dev := (d.setStn { d.stn with failLow := some d.wall }).sentTrig 5

/-! ### Last gasp (R443 to R445) -/

/-- The condition of firing source `b` of SENT_LGCTL.SRC: 0 PWR_FAIL_N low for 1 us, 1 a loss, 2 a sag, 3 the supply monitor, which the
command itself reports; in NAP and HIBERNATE sources 0 and 3 alone (Table 14-3). -/
def Dev.gaspCause (d : Dev) (b : Nat) : Bool :=
  match b with
  | 0 => match d.stn.failLow with
    | some t => decide (t + 20000 ≤ d.wall)
    | none => false
  | 1 => d.stnAwake && ((d.sense 0).loss || (d.sense 1).loss)
  | 2 => d.stnAwake && ((d.sense 0).sag || (d.sense 1).sag)
  | 3 => true
  | _ => false

/-- The bytes of slot `k`, or `none` when a read is refused. -/
def Dev.gaspBytes (d : Dev) (a : Nat) : Nat → Dev × Option (List Byte)
  | 0 => (d, some [])
  | n + 1 =>
    match d.combLoad .stn a 1 with
    | (d, .done v) =>
      match d.gaspBytes (a + 1) n with
      | (d, some l) => (d, some (BitVec.ofNat 8 v :: l))
      | (d, none) => (d, none)
    | (d, _) => (d, none)

/-- Slot `k` hands its frame to its lane; `none` when it sends nothing (R444). -/
def Dev.gaspSlot (d : Dev) (k : Nat) : Dev × Option GaspOut :=
  let lane := d.f SENT_LG_LANE k
  let len := min 2048 (d.f SENT_LG_LEN_LEN k)
  if len = 0 || !d.stnAwake then (d, none)
  else
    match d.gaspBytes ((d.rd SENT_LG_ADDR k).toNat / 8 * 8) len with
    | (d, none) => (d, none)
    | (d, some b) =>
      if lane < 24 then
        if !d.b ETH_CTL_EN lane then (d, none)
        else
          let (h, d) := d.newFr {
            port := 25, bytes := b, sof := d.stamp, eof := d.stamp, tc := d.f SENT_LG_TC k, fin := true, known := true
            arrived := b.length, outs := [lane] }
          let d := d.hold h (cellsOf b.length)
          let i := 8 * lane + d.f SENT_LG_TC k
          let d := (d.credRun lane).setQ i ({ fr := h, cells := cellsOf b.length, raw := true } :: d.q i)
          (d, some (.eth h))
      else if lane < 40 then
        let n := lane - 24
        if !d.b MDB_CTL_EN n then (d, none)
        else (d.setMb n { d.mbus n with ps := some { eng := 0, slot := none, bytes := b } }, some (.mb n b))
      else if lane < 56 then
        let n := lane - 40
        if !d.b SLN_CTL_EN n || (d.ringOfLane lane).isSome then (d, none)
        else
          let d := if d.b SENT_LG_FLUSH k then
              let d := d.slFlush n
              let s := d.sln n
              match s.cur with
              | some t =>
                let c := if d.slCode n = 0 then d.slChar n * d.slBit n / 2 else 8 * d.slBit n
                d.setSl n { s with cur := some (min t (d.wall + c)) }
              | none => d
            else d
          (d.slEnter n b, some (.sl n b d.wall))
      else (d, none)

/-- Every Ethernet lane that no valid slot names goes to PWR = 0x2 (R444). -/
def Dev.gaspLanes (d : Dev) (named : List Nat) : Dev :=
  (List.range 24).foldl (fun d p =>
    if named.contains p || d.f ETH_CTL_PWR p == 2 then d
    else
      let was := d.f ETH_CTL_PWR p
      let d := (d.linkDown p).setF ETH_CTL_PWR 2 p
      d.setStn { d.stn with gasp := { d.stn.gasp with pwr := d.stn.gasp.pwr ++ [(p, was)] } }) d

/-- The last gasp fires on source `b` (R443, R444). -/
def Dev.gaspFire (d : Dev) (b : Nat) : Dev :=
  if !d.b SENT_LGCTL_EN || !(d.f SENT_LGCTL_SRC).testBit b || !d.gaspCause b then d
  else
    let d := d.setB SENT_LGCTL_EN false
    let d := ((d.setF SENT_LGSTAT_SENT 0).setF SENT_LGSTAT_ERR 0).setB SENT_LGSTAT_JDONE false
    let d := (d.setB SENT_LGSTAT_FIRED true).raise 103
    let d := d.setStn { d.stn with gasp := { shed := true, src := b, at' := d.wall } }
    let d := (List.range 8).foldl Dev.axShed d
    let valid := (List.range 4).filter (fun k => d.b SENT_LG_VALID k)
    let d := if d.stnAwake then d.gaspLanes (valid.map (fun k => d.f SENT_LG_LANE k)) else d
    (List.range 4).foldl (fun d k =>
      if !valid.contains k then d.setStn { d.stn with gasp := { d.stn.gasp with outs := d.stn.gasp.outs ++ [.none] } }
      else
        let (d, o) := d.gaspSlot k
        let d := match o with
          | some _ => d
          | none => d.setF SENT_LGSTAT_ERR (d.f SENT_LGSTAT_ERR ||| 2 ^ k)
        d.setStn { d.stn with gasp := { d.stn.gasp with outs := d.stn.gasp.outs ++ [o.getD .none] } }) d

/-- The frame of a slot has left its lane. -/
def Dev.gaspLeft (d : Dev) (o : GaspOut) : Bool :=
  match o with
  | .none => false
  | .eth h => !d.frames.any (fun e => e.1 == h)
  | .sl n b t => !(d.sln n).store.any (fun e => e == (b, t))
  | .mb n b => (d.mbus n).ps.map (fun (a : Arm) => a.bytes) != some b

/-- The SENTk bits (R445). -/
def Dev.gaspSent (d : Dev) : Nat :=
  (List.range 4).foldl (fun s k => if d.gaspLeft (d.stn.gasp.outs.getD k .none) then s + 2 ^ k else s) 0

/-- The final record is written: the last frame has left, or 100 ms have passed (R445). -/
def Dev.gaspFinal (d : Dev) : Dev :=
  let g := d.stn.gasp
  let all := g.outs.all (fun o => o == .none || d.gaspLeft o)
  if d.b SENT_LGSTAT_JDONE || g.outs.isEmpty || !(all || decide (g.at' + 2000000000 ≤ d.wall)) then d
  else
    let sent := d.gaspSent
    let d := (d.setF SENT_LGSTAT_SENT sent).setB SENT_LGSTAT_JDONE true
    d.gaspRecord (2 ^ g.src + sent * 16 + d.f SENT_LGSTAT_ERR * 256)

/-- PWR_FAIL_N high and the supplies in range for LGREC after firing: the shed blocks are restored (R445). -/
def Dev.gaspRecover (d : Dev) : Dev :=
  let g := d.stn.gasp
  if !g.shed || decide (d.wall < g.at' + d.f SENT_LGCTL_LGREC * 20000000) then d
  else
    let d := g.pwr.foldl (fun d x => d.setF ETH_CTL_PWR x.2 x.1) d
    let d := d.setStn { d.stn with failLow := none, gasp := { g with shed := false, pwr := [] } }
    (d.setB SENT_LGSTAT_RECOV true).raise 103

/-- What a block reset does beside the registers (Table 14-3): capture ended, last gasp disarmed, motion ended; what the sill domain
holds stays. -/
def Dev.stnBlockStop (d : Dev) : Dev :=
  let s := d.stn
  d.setStn { di := s.di, diWin := s.diWin, in0 := { pos := s.in0.pos, blank := s.in0.blank }
             in1 := { pos := s.in1.pos, blank := s.in1.blank }, failLow := s.failLow }

end Sys2Proof.Machine
end

