-- ==== Sys2Proof/Machine/Loops.lean ====
section
/-!
DEFINITION. The loop engines (chapter 14): sample instants, the evaluator, banks, manual and safe states. Values are Q16.16 as
integers of 2^-16.
-/

namespace Sys2Proof.Machine

/-- Loop `n` beside its registers. -/
def Dev.lp (d : Dev) (n : Nat) : LoopSt := Tab.look d.stn.loops {} n

/-- Replace loop `n`. -/
def Dev.setLp (d : Dev) (n : Nat) (x : LoopSt) : Dev := d.setStn { d.stn with loops := Tab.put d.stn.loops {} n x }

/-- A sum saturates at ±32,768 (Loop engines). -/
def satQ (x : Int) : Int := max (-(2 ^ 31)) (min (2 ^ 31 - 1) x)

/-- A product or quotient a / b brought to the grid; its rounding is not stated (log 10). -/
def Dev.roundQ (d : Dev) (a b : Int) : Int × Dev :=
  if b = 0 || a % b = 0 then (a / b, d)
  else
    let (x, d) := d.take 1
    (a / b + x, d)

/-- Insert a waiting evaluation by sample instant, then loop number (R448). -/
def insEval (x : Nat × Nat) : List (Nat × Nat) → List (Nat × Nat)
  | [] => [x]
  | y :: l => if x.1 < y.1 || (x.1 == y.1 && decide (x.2 < y.2)) then x :: y :: l else y :: insEval x l

/-- A sample instant of loop `n` (R447, R448): the boundary first, then the evaluation is queued; one still waiting is skipped. -/
def Dev.loopSample (d : Dev) (n : Nat) : Dev :=
  let base := d.loopBase n
  let per := d.loopPer n
  let last := (d.inst (25 + n)).last
  if !d.stnRuns || !d.b LOOP_CFG_EN n || decide (d.ns < base)
    || !seriesHits base per last d.ns then d
  else
    let t := base + (d.ns - base) / per * per
    let d := d.boundary (25 + n)
    let d := d.wr LOOP_TS (BitVec.ofNat 32 t) n
    let wait := d.stn.evals.any (fun e => e.2 == n)
    let d := if wait then d.count LOOP_OVR n else d
    let rest := d.stn.evals.filter (fun e => e.2 != n)
    if d.b LOOP_CFG_EN n then d.setStn { d.stn with evals := insEval (t, n) rest }
    else d.setStn { d.stn with evals := rest }

/-! ### The evaluation (R449 to R451) -/

/-- A comb word read as master 5. -/
def Dev.loopWord (d : Dev) (a : Nat) : Dev × Option Int :=
  match d.combLoad .stn (a / 4 * 4) 4 with
  | (d, .done v) => (d, some (BitVec.ofNat 32 v).toInt)
  | (d, _) => (d, none)

/-- The loop's input (R449). -/
def Dev.loopInput (d : Dev) (n : Nat) : Dev × Option Int :=
  let i := d.f LOOP_CFG_SRCIDX n
  match d.f LOOP_CFG_SRC n with
  | 1 => d.loopWord (d.rd LOOP_SRCADDR n).toNat
  | 2 => (d, some (d.rd LOOP_OUT (i % 16)).toInt)
  | _ => (d, some (if i < 24 then d.f AFE_RES_CODE i else 0))

/-- The setpoint. -/
def Dev.loopSp (d : Dev) (n : Nat) : Dev × Option Int :=
  if d.b LOOP_CFG_SPSRC n then d.loopWord (d.rd LOOP_SPADDR n).toNat else (d, some (d.rd LOOP_SP n).toInt)

/-- Breakpoint `k` of bank `b`: E and G. -/
def Dev.bpt (d : Dev) (n b k : Nat) : Int × Nat :=
  let w := if b = 0 then d.rd LOOP_BP0 n k else d.rd LOOP_BP1 n k
  ((BitVec.ofNat 16 w.toNat).toInt, getBits w 16 16)

/-- The gain in units of 2^-12 (R451). -/
def Dev.loopGain (d : Dev) (n b : Nat) (e : Int) : Int × Dev :=
  let nbp := min 64 (d.f LOOP_NBP_NBP n b)
  if nbp = 0 then (4096, d)
  else
    let (q, d) := d.roundQ e 16
    let x := max (-(2 ^ 15)) (min (2 ^ 15 - 1) q)
    match ((List.range nbp).filter (fun k => decide ((d.bpt n b k).1 ≤ x))).getLast? with
    | none => ((d.bpt n b 0).2, d)
    | some k =>
      if k + 1 = nbp then ((d.bpt n b k).2, d)
      else
        let (e0, g0) := d.bpt n b k
        let (e1, g1) := d.bpt n b (k + 1)
        let (r, d) := d.roundQ (((g1 : Int) - g0) * (x - e0)) (e1 - e0)
        (g0 + r, d)

/-- Clamp to [lo, hi]. -/
def clampQ (x lo hi : Int) : Int := max lo (min hi x)

/-- g × k × e. -/
def Dev.gainQ (d : Dev) (g k e : Int) : Int × Dev :=
  let (a, d) := d.roundQ (g * k) 4096
  d.roundQ (a * e) 65536

/-- The evaluation of loop `n` with input `pv` and setpoint `sp` (R450): what it will answer, ending at `due`. -/
def Dev.loopCompute (d : Dev) (n due : Nat) (pv sp : Int) : LoopRun × Dev :=
  let b := d.f LOOP_CFG_SEL n
  let s := d.lp n
  let s := if s.ireset then { s with iTerm := 0, dTerm := 0, ireset := false } else s
  let state := if s.safe then 3 else if d.b LOOP_CTL_MAN n then 2 else 1
  let e := satQ (if d.b LOOP_CFG_REV n then pv - sp else sp - pv)
  let (g, d) := d.loopGain n b e
  let (p, d) := d.gainQ g (d.rd LOOP_KP n b).toInt e
  let alpha : Int := if getBits (d.rd LOOP_ALPHA n b) 0 16 = 0 then 65536 else getBits (d.rd LOOP_ALPHA n b) 0 16
  let (kd, d) := d.roundQ ((d.rd LOOP_KD n b).toInt * satQ (s.pvLast - pv)) 65536
  let (dd, d) := d.roundQ (alpha * satQ (kd - s.dTerm)) 65536
  let dt := satQ (s.dTerm + dd)
  let bias := (d.rd LOOP_BIAS n b).toInt
  let omin := (d.rd LOOP_OMIN n b).toInt
  let omax := (d.rd LOOP_OMAX n b).toInt
  if state ≠ 1 then
    let u := if state = 2 then (d.rd LOOP_MANOUT n).toInt else (d.rd LOOP_SAFE n).toInt
    let i := satQ (satQ (satQ (u - p) - dt) - bias)
    ({ n := n, due := due, pv := pv, e := e, u := u, sat := false, state := state
       st := { s with pvLast := pv, dTerm := dt, iTerm := i } }, d)
  else
    let (di, d) := d.gainQ g (d.rd LOOP_KI n b).toInt e
    let i1 := clampQ (satQ (s.iTerm + di)) omin omax
    let u1 := satQ (satQ (satQ (p + i1) + dt) + bias)
    let held := (decide (omax < u1) && decide (0 < di)) || (decide (u1 < omin) && decide (di < 0))
    let i := if held then s.iTerm else i1
    let u2 := satQ (satQ (satQ (p + i) + dt) + bias)
    let u := clampQ u2 omin omax
    ({ n := n, due := due, pv := pv, e := e, u := u, sat := decide (u ≠ u2), state := state
       st := { s with pvLast := pv, dTerm := dt, iTerm := i } }, d)

/-- A read of the loop must wait for a drain holding its line (R103, R449). -/
def Dev.loopWaits (d : Dev) (n : Nat) : Bool :=
  (d.f LOOP_CFG_SRC n == 1 && d.combWaits .stn ((d.rd LOOP_SRCADDR n).toNat / 4 * 4) false)
  || (d.b LOOP_CFG_SPSRC n && d.combWaits .stn ((d.rd LOOP_SPADDR n).toNat / 4 * 4) false)

/-- The evaluator starts the first waiting evaluation (R448 to R450). -/
def Dev.loopEval (d : Dev) : Dev :=
  match d.stn.run, d.stn.evals with
  | none, (_, n) :: rest =>
    if !d.stnRuns || d.loopWaits n then d
    else
      let d := d.setStn { d.stn with evals := rest }
      match d.loopInput n with
      | (d, none) => d.setB LOOP_STAT_SRCERR true n
      | (d, some pv) =>
        match d.loopSp n with
        | (d, none) => d.setB LOOP_STAT_SRCERR true n
        | (d, some sp) =>
          let (r, d) := d.loopCompute n (d.wall + (if d.b CLK_STAT_RCACT then 400000 else 50000)) pv sp
          let d := d.setLp n { d.lp n with ireset := false }
          d.setStn { d.stn with run := some r }
  | _, _ => d

/-! ### The output (R454, R456) -/

/-- The saturation timer and the alarm after an evaluation (R456). -/
def Dev.loopSat (d : Dev) (n : Nat) (sat : Bool) : Dev :=
  let x := d.lp n
  let lim := d.f LOOP_SAT_SATLIM n
  let t := if sat then x.satNs + d.loopPer n else 0
  let d := d.setLp n { x with satNs := t }
  let d := if sat then d else d.setB LOOP_STAT_SATALM false n
  if lim ≠ 0 && decide (lim * 100000000 < t) && !d.b LOOP_STAT_SATALM n then
    let d := (d.setB LOOP_STAT_SATALM true n).raise 104 n
    if d.b LOOP_CFG_SAFEEN n then d.setLp n { d.lp n with safe := true } else d
  else d

/-- The destination takes the output `u` (R454). -/
def Dev.loopDest (d : Dev) (n : Nat) (u : Int) : Dev :=
  match d.f LOOP_CFG_DST n with
  | 1 =>
    match d.combStore .stn ((d.rd LOOP_DSTADDR n).toNat / 4 * 4) 4 (BitVec.ofInt 32 u).toNat with
    | (d, .done _) => d
    | (d, _) => d.setB LOOP_STAT_DSTERR true n
  | 2 =>
    let m := d.f LOOP_CFG_DSTIDX n
    if d.axMode m = 2 then
      let (v, d) := d.roundQ (clampQ u (-65536) 65536 * (d.rd STP_VMAX m).toNat) 65536
      d.axTarget 5 m (BitVec.ofInt 32 v)
    else d.setB LOOP_STAT_DSTERR true n
  | _ => d

/-- The output's comb write must wait (R103, R106). -/
def Dev.destWaits (d : Dev) (n : Nat) : Bool :=
  d.f LOOP_CFG_DST n == 1 && d.combWaits .stn ((d.rd LOOP_DSTADDR n).toNat / 4 * 4) true

/-- The evaluation in progress completes (R454). -/
def Dev.loopOutput (d : Dev) : Dev :=
  match d.stn.run with
  | none => d
  | some r =>
    if d.wall < r.due || !d.stnRuns || d.destWaits r.n then d
    else
      let n := r.n
      let d := d.setStn { d.stn with run := none }
      let now := d.lp n
      let d := d.setLp n { r.st with safe := now.safe, satNs := now.satNs, ireset := now.ireset }
      let d := (d.wr LOOP_PV (BitVec.ofInt 32 r.pv) n).wr LOOP_OUT (BitVec.ofInt 32 r.u) n
      let d := (d.wr LOOP_I (BitVec.ofInt 32 r.st.iTerm) n).wr LOOP_ERR (BitVec.ofInt 32 r.e) n
      let d := (d.setB LOOP_STAT_SAT r.sat n).setF LOOP_STAT_STATE r.state n
      let d := if r.state = 1 then d.loopSat n r.sat else d
      d.loopDest n r.u

/-! ### Registers (R452, R453, R455, R456) -/

/-- A write of LOOP_CTL. -/
def Dev.wLoopCtl (d : Dev) (n : Nat) (v : Word) : Dev :=
  let d := d.wr LOOP_CTL (v &&& 1) n
  let d := if v.getLsbD 1 && (d.lp n).safe then
      ((d.setLp n { d.lp n with safe := false, satNs := 0 }).setB LOOP_STAT_SATALM false n).setF LOOP_STAT_STATE 1 n
    else d
  if v.getLsbD 2 then d.setLp n { d.lp n with ireset := true } else d

/-- A write to bank `b` of loop `n` is refused: the bank is in force and LEGACY is not (R452, R453). -/
def Dev.bankShut (d : Dev) (n b : Nat) : Bool := d.f LOOP_CFG_SEL n == b && !d.b LOOP_CFG_LEGACY n

/-- LOOP_STAT as a read returns it: idle while EN = 0 is in force. -/
def Dev.loopStat (d : Dev) (n : Nat) : Word :=
  let r := d.rd LOOP_STAT n
  if !d.b LOOP_CFG_EN n then putBits r 0 2 0 else if getBits r 0 2 = 0 then putBits r 0 2 1 else r

end Sys2Proof.Machine
end

