-- ==== Sys2Proof/Machine/Power.lean ====
section
/-!
DEFINITION. Clocks, power states and waking (chapter 15), all but the wake from HIBERNATE, which is a chip reset.
-/

namespace Sys2Proof.Machine

/-- Replace the power state's part. -/
def Dev.setPw (d : Dev) (p : PowerSt) : Dev := { d with pw := p }

/-! ### Clock failure and restoration (R467 to R470) -/

/-- What a clock failure does to the blocks (R468; Table 10-3, R368, R385, R410, R430, Table 14-3, R258). -/
def Dev.clockBlocks (d : Dev) : Dev :=
  let d := (List.range 16).foldl (fun d n => (d.mbClockFail n).slClockFail n) d
  let d := (List.range 8).foldl (fun d n =>
    let d := if 1 < d.f BRG_STAT_STATE n then d.brgState n 1 else d
    (d.pioClockFail n).axClockFail n) d
  let d := (List.range 24).foldl Dev.linkDown d
  let d := d.mbxMasterReset 3
  let d := d.setB TIME_STAT_CLKFAIL true
  let d := if d.f TIME_STAT_STATE = 0 then d else d.holdover
  d.dcInvalidate.syncSettle

/-- A source fails (R468): `cause` as CLK_STAT.CAUSE has it. In NAP only the main source is watched, and its failure ends NAP
(R475, R482); an entry in progress is abandoned (R480). -/
def Dev.clockFail (d : Dev) (cause : Nat) : Dev :=
  if d.b CLK_STAT_CLKFAIL || !d.boot.released || d.f PWR_STAT_STATE == 3 then d
  else
    let nap := d.f PWR_STAT_STATE == 2
    if nap && cause != 6 then d
    else
      let d := ((d.setB CLK_STAT_CLKFAIL true).setB CLK_STAT_RCACT true).setF CLK_STAT_CAUSE cause
      let d := d.countF CLK_STAT_FAILCNT
      let lock := match cause with
        | 3 => d.f CLK_STAT_LOCK &&& 6
        | 4 => d.f CLK_STAT_LOCK &&& 5
        | 5 => d.f CLK_STAT_LOCK &&& 3
        | _ => 0
      let d := d.setF CLK_STAT_LOCK lock
      let d := if cause = 3 || cause = 4 || cause = 5 then d else d.setB CLK_STAT_MAINOK false
      let d := d.clockBlocks.raise 8
      if d.b PWR_STAT_BUSY then d.setPw { d.pw with abandon := 4 } else d

/-- A monitor window ends with deviation `dev` of source `src` in units of 10 ppm (R467): `src` 0 the main source, 1 a supervisor
or engine PLL, 2 the fabric PLL, 3 the time PLL. -/
def Dev.clockWindow (d : Dev) (src : Nat) (dev : Int) : Dev :=
  if !d.boot.released || d.f PWR_STAT_STATE == 3 then d
  else
    let a := dev.natAbs
    let d := d.setF CLK_MON_DEV (BitVec.ofInt 16 (max (-32768) (min 32767 dev))).toNat
    let d := d.setF CLK_MON_MAXDEV (max (d.f CLK_MON_MAXDEV) (min 65535 a))
    if 1000 < a then
      d.clockFail (if d.f PWR_STAT_STATE = 2 then 6 else if src = 0 then 2 else src + 2)
    else if d.f CLK_CTL_WARN * 100 < a then d.raise 9 else d

/-- A plumb check of the main source passes (R465, R469): ±200 ppm, ±5 % while the sill clock is imprecise. -/
def Dev.plumbOk (d : Dev) (ppm : Int) : Bool :=
  decide (ppm.natAbs ≤ if d.b CLK_STAT_SILLRC then 50000 else 200)

/-- The result of a plumb check goes to CLK_PLUMB. -/
def Dev.plumbNote (d : Dev) (ppm : Int) : Dev :=
  (d.setF CLK_PLUMB_PPM (BitVec.ofInt 16 (max (-32768) (min 32767 ppm))).toNat).setB CLK_PLUMB_PASS (d.plumbOk ppm)

/-- The clocks are restored (R469): the blocks restart as their chapters set out. -/
def Dev.clockBack (d : Dev) : Dev :=
  let d := ((d.setB CLK_STAT_CLKFAIL false).setB CLK_STAT_RCACT false).setB CLK_STAT_MAINOK true
  let d := (d.setF CLK_STAT_LOCK 7).setB TIME_STAT_CLKFAIL false
  let d := d.setPw { d.pw with restore := false }
  (List.range 16).foldl (fun d n => (d.mbClockBack n).slClockBack n) d

/-- The once-per-second plumb check of a failed main source (R469). -/
def Dev.clockRestore (d : Dev) (ppm : Int) : Dev :=
  if !d.b CLK_STAT_RCACT || !d.boot.released || d.f PWR_STAT_STATE == 3
    || decide (d.wall < d.pw.plumbAt + wallSecond) || !(d.b CLK_CTL_AUTOREST || d.pw.restore) then d
  else
    let d := (d.setPw { d.pw with plumbAt := d.wall }).plumbNote ppm
    if d.plumbOk ppm then d.clockBack else d

/-- A write of CLK_CTL. -/
def Dev.wClkCtl (d : Dev) (v : Word) : Dev :=
  let d := d.wr CLK_CTL (v &&& 0xF01)
  if v.getLsbD 1 then d.setPw { d.pw with restore := true } else d

/-- The RC oscillator is trimmed (R467). -/
def Dev.rcTrim (d : Dev) : Dev :=
  if d.wall < d.pw.rcAt + wallSecond then d else d.setPw { d.pw with rcAt := d.wall }

/-- The sill crystal is lost (R470). -/
def Dev.sillLoss (d : Dev) : Dev :=
  if d.b CLK_STAT_SILLRC then d else ((d.setB CLK_STAT_SILLRC true).setPw { d.pw with sillAt := d.wall }).raise 9

/-- The sill crystal is back (R470). -/
def Dev.sillBack (d : Dev) : Dev :=
  if d.b CLK_STAT_SILLRC && decide (d.pw.sillAt + wallSecond ≤ d.wall) then d.setB CLK_STAT_SILLRC false else d

/-- A write of CLK_ENGPLL (R79, R473): engines waiting in WQNEXT take the bin at once. -/
def Dev.wEngPll (d : Dev) (v : Word) : Dev :=
  let bin := min 8 (getBits v 0 4)
  let d := d.wr CLK_ENGPLL (v &&& 0xF)
  (List.range 32).foldl (fun d n =>
    let g := d.e n
    if g.run = .idle || g.run = .halted || g.run = .reset then d.setE n { g with bin := bin } else d) d

/-- The engine clock's frequency in MHz (R473). -/
def Dev.engMhz (d : Dev) (n : Nat) : Nat := if d.b CLK_STAT_RCACT then 100 else 600 + 25 * (d.e n).bin

/-- CLKOUTk (R472): its source's frequency in kHz and the divider in force, `none` while held low. -/
def Dev.clkOut (d : Dev) (k : Nat) : Option (Nat × Nat) :=
  if !d.b CLK_OUT_EN k then none
  else
    let src := d.f CLK_OUT_SRC k
    let f := if src = 3 then 33
      else if d.b CLK_STAT_RCACT then 100000
      else if src = 0 then 25000 else if src = 1 then 800000 else 1250000
    some (f, max (d.f CLK_OUT_DIV k + 1) ((f + 124999) / 125000))

/-- The spread in force of a target enabled in CLK_SSC (R471): depth in 0.1 % and rate in kHz. -/
def Dev.spread (d : Dev) : Nat × Nat := (min 20 (d.f CLK_SSC_DEPTH), max 30 (min 60 (d.f CLK_SSC_RATE)))

/-! ### Requests (R475, R480) -/

/-- A request is refused or an entry abandoned: REFUSE and EV012 (R480). -/
def Dev.powerRefuse (d : Dev) (code : Nat) : Dev := (d.setF PWR_STAT_REFUSE code).raise 12

/-- An engine must halt at its WQNEXT: by HALT, or by a low-power state entered or reached (R476, R477). -/
def Dev.engHold (d : Dev) (n : Nat) : Bool :=
  let busy := d.b PWR_STAT_BUSY
  d.b ENG_CTL_HALT n || (!busy && 1 ≤ d.f PWR_STAT_STATE) || (busy && d.powerTo == 1) || (busy && d.pw.from' == 1 && d.powerTo != 0)
    || (busy && 4 ≤ d.pw.step && (d.e n).wq.isEmpty)

/-- Engines waiting in WQNEXT that must halt do so. -/
def Dev.engHaltIdle (d : Dev) : Dev :=
  (List.range 32).foldl (fun d n =>
    let g := d.e n
    if g.run = .idle && d.engHold n then d.setE n { g with run := .halted } else d) d

/-- Halted engines with no cause left to hold them wait in WQNEXT again. -/
def Dev.engResume (d : Dev) : Dev :=
  (List.range 32).foldl (fun d n =>
    let g := d.e n
    if g.run = .halted && !d.engHold n then d.setE n { g with run := .idle } else d) d

/-- Every engine is in reset or halted, and none drains. -/
def Dev.allHalted (d : Dev) : Bool := (List.range 32).all d.engStopped

/-- Some commit instance shows PEND_NEXT or PEND_TIMED. -/
def Dev.commitsPend (d : Dev) : Bool := d.cmt.any (fun e => !e.2.next.isEmpty || e.2.timed.isSome)

/-- A transition to state `to'` begins. -/
def Dev.powerBegin (d : Dev) (to' : Nat) : Dev :=
  let d := (d.setF PWR_STAT_REFUSE 0).setB PWR_STAT_BUSY true
  let d := { d with powerTo := to', wakes := [] }
  let d := d.setPw { d.pw with step := if 2 ≤ to' then 1 else 0, at' := d.wall, from' := d.f PWR_STAT_STATE, abandon := 0, woke := false }
  let d := if 2 ≤ to' then (List.range 8).foldl Dev.axStop d else d
  d.engHaltIdle

/-- A write of PWR_CTL by SV0 or SV1 (R475, R480). -/
def Dev.wPwrCtl (d : Dev) (v : Word) : Dev :=
  let d := d.wr PWR_CTL (v &&& 0xFFFF0020)
  if !v.getLsbD 4 then d
  else
    let req := getBits v 0 2
    let st := d.f PWR_STAT_STATE
    let ok := (st == 0 && req != 0) || (st == 1 && req != 1)
    if !ok || d.b PWR_STAT_BUSY then d.powerRefuse 1
    else if req = 3 && d.commitsPend && !d.b PWR_CTL_DISCARD then d.powerRefuse 3
    else if req = 2 && d.b CLK_STAT_CLKFAIL then d.powerRefuse 5
    else d.powerBegin req

/-! ### Entry steps (R476 to R478) -/

/-- Step 2 of R477. -/
def Dev.napLanes (d : Dev) : Dev :=
  let d := (List.range 16).foldl (fun d n => (d.mbSleepReq n).slSleepReq n) d
  let d := (List.range 8).foldl (fun d n =>
    let d := if d.b BRG_CTL_EN n then d.brgStop n else d
    d.pioHaltAll n) d
  (List.range 24).foldl (fun d p =>
    if d.f ETH_CTL_PWR p = 0 && (!d.b ETH_WAKECTL_NAPRX p || d.powerTo == 3) then d.linkDown p else d) d

/-- Egress queues are empty, nothing is in transmission, no DMA channel is busy. -/
def Dev.drained (d : Dev) : Bool :=
  (List.range 209).all (fun q => (d.q q).isEmpty)
  && (List.range 24).all (fun p => (d.lane p).cur.isNone && (d.lane p).held.isNone)
  && (List.range 16).all (fun n => !d.b DMA_STAT_BUSY n)

/-- DRAIN expires (R477, step 3): frames still queued are discarded and counted, the Ethernet items whose frames go with them
are removed and counted, DMA stops. -/
def Dev.napDrain (d : Dev) : Dev :=
  if !(d.b PWR_STAT_BUSY && d.pw.step == 3) || decide (d.wall < d.pw.at' + d.f PWR_CTL_DRAIN * 20000) then d
  else
    let d := (List.range 24).foldl Dev.txCut d
    let d := (List.range 209).foldl (fun d q =>
      let l := d.q q
      if l.isEmpty then d
      else
        let d := if q < 192 then d.credRun (q / 8) else d
        (l.foldl (fun d e => d.dropEnt e) (d.setQ q [])).count PWR_NAPDISC 0 0 l.length) d
    let d := (List.range 32).foldl (fun d n =>
      let g := d.e n
      let gone := g.wq.filter (fun i => (d.fr i.frame).port != 64)
      if gone.isEmpty then d
      else
        let d := d.setE n { g with wq := g.wq.filter (fun i => (d.fr i.frame).port == 64) }
        (gone.foldl (fun d i => d.releaseItem i.frame) d).count PWR_NAPDISC 0 0 gone.length) d
    let d := (List.range 16).foldl (fun d n =>
      if d.b DMA_CTL_EN n then (d.dmaStop n).setB DMA_CTL_EN false n else d) d
    (d.setPw { d.pw with step := 4, at' := d.wall }).engHaltIdle

/-- Memories that are on enter retention, or leave it: those whose register names `on` (R477 step 7, R484). -/
def Dev.napMemories (d : Dev) (enter : Bool) : Dev :=
  (List.range 80).foldl (fun d k =>
    let code := if k < 16 then getBits (d.rd PWR_COMBPWR) (2 * k) 2
      else getBits (d.rd PWR_LMPWR ((k - 16) / 16)) (2 * ((k - 16) % 16)) 2
    let p := d.pwr k
    if enter && p.cur = .on then { d with power := Tab.put d.power {} k { p with cur := .retention } }
    else if !enter && code = 0 && p.cur = .retention then { d with power := Tab.put d.power {} k { p with cur := .on } }
    else d) d

/-- The blocks stopped at entry restart (R484, R480): the ring re-enters LISTEN, PIO machines run on. -/
def Dev.napRestart (d : Dev) : Dev :=
  let d := (List.range 8).foldl (fun d n =>
    let d := if d.b BRG_CTL_EN n && d.f BRG_STAT_STATE n == 0 then d.brgState n 1 else d
    if d.b CLK_STAT_RCACT then d else d.pioResumeAll n) d
  d.engResume

/-- RUN or DOZE is reached: EV012, and EV010 after a wake (R475, R483). -/
def Dev.powerReached (d : Dev) (s : Nat) (woken : Bool) : Dev :=
  let d := ((d.setF PWR_STAT_STATE s).setB PWR_STAT_BUSY false).setPw { d.pw with step := 0, abandon := 0, wakeAt := none }
  let d := d.napRestart.raise 12
  if woken then d.raise 10 else d

/-- An entry is abandoned at a step boundary (R480). -/
def Dev.powerAbandon (d : Dev) : Dev :=
  let code := d.pw.abandon
  let woke := d.pw.woke
  let d := (d.setB PWR_STAT_BUSY false).setPw { d.pw with step := 0, abandon := 0 }
  let d := d.napRestart.powerRefuse code
  if woke then d.raise 10 else d

/-- The low-power state is reached. -/
def Dev.powerAsleep (d : Dev) (s : Nat) : Dev :=
  ((d.setF PWR_STAT_STATE s).setB PWR_STAT_BUSY false).setPw { d.pw with step := 0 }

/-- Go to the next step. -/
def Dev.powerStep (d : Dev) (k : Nat) : Dev := d.setPw { d.pw with step := k, at' := d.wall }

/-- A step of the transition in progress completes, when what it waits for has come (R475 to R478). -/
def Dev.powerDone (d : Dev) : Dev :=
  if !d.b PWR_STAT_BUSY then d
  else if d.pw.abandon ≠ 0 then d.powerAbandon
  else
    match d.powerTo, d.pw.step with
    | 0, _ => d.powerReached 0 false
    | 1, _ =>
      let d := d.engHaltIdle
      if d.allHalted then ((d.powerAsleep 1).raise 12) else d
    | _, 1 => if (List.range 8).any d.axMoving then d else d.napLanes.powerStep 2
    | _, 2 => d.powerStep 3
    | _, 3 => if d.drained then (d.powerStep 4).engHaltIdle else d
    | _, 4 =>
      let d := d.engHaltIdle
      if d.allHalted then (d.powerStep 5).mbxMasterReset 3 else d
    | 2, 5 =>
      let d := if d.f TIME_STAT_STATE = 0 then d else d.holdover
      (d.dcInvalidate.syncSettle).powerStep 6
    | 2, 6 => (d.napMemories true).powerStep 7
    | 2, _ =>
      let d := d.setF PWR_STAT_ORIGIN d.pw.from'
      (d.setF CLK_STAT_LOCK 0).powerAsleep 2
    | _, 5 =>
      let lanes := (List.range 24).filter (fun p => d.b ETH_WAKECTL_EDWAKE p)
      (d.setPw { d.pw with hibLanes := lanes }).powerStep 6
    | _, 6 => ((d.setRtc d.ns).dcInvalidate).powerStep 7
    | _, _ => d.powerAsleep 3

/-! ### Waking (R482 to R484) -/

/-- The lowest class that fired, with its instance. -/
def lowWake : List (Nat × Nat) → Option (Nat × Nat)
  | [] => none
  | x :: l =>
    match lowWake l with
    | some y => if y.1 < x.1 then some y else some x
    | none => some x

/-- The wakes that have fired are recorded (R483). -/
def Dev.wakeRecord (d : Dev) : Dev :=
  match lowWake d.wakes with
  | none => d
  | some (c, i) =>
    let d := d.wakes.foldl (fun d x => d.setF PWR_WAKESTAT_SRC (d.f PWR_WAKESTAT_SRC ||| 2 ^ x.1)) d
    let d := if d.pw.woke then d else (d.setF PWR_WAKESTAT_FIRST c).setF PWR_WAKESTAT_INST i
    { d.setPw { d.pw with woke := true } with wakes := [] }

/-- A wake in DOZE, in NAP or during an entry (R480, R482). -/
def Dev.wakeUp (d : Dev) : Dev :=
  let d := d.wakeRecord
  if d.b PWR_STAT_BUSY then
    if 1 ≤ d.powerTo then d.setPw { d.pw with abandon := 2 } else d
  else
    match d.f PWR_STAT_STATE with
    | 1 => d.powerReached 0 true
    | 2 => if d.pw.wakeAt.isSome then d else d.setPw { d.pw with wakeAt := some d.wall }
    | _ => d

/-- A clock failure has ended NAP: the chip is in its origin state, on the RC oscillator (R482). -/
def Dev.napFailed (d : Dev) : Dev := (d.napMemories false).powerReached (d.f PWR_STAT_ORIGIN) false

/-- The PLLs have locked and memories are on after a NAP wake: 42 us (R484). -/
def Dev.napExit (d : Dev) : Dev :=
  match d.pw.wakeAt with
  | some t =>
    if d.f PWR_STAT_STATE = 2 && decide (t + 840000 ≤ d.wall) then
      ((d.setF CLK_STAT_LOCK 7).napMemories false).powerReached (d.f PWR_STAT_ORIGIN) true
    else d
  | none => d

/-- A clock failure, ending NAP where it meets it (R468, R482). -/
def Dev.clockFailure (d : Dev) (cause : Nat) : Dev :=
  let nap := d.f PWR_STAT_STATE == 2
  let was := d.b CLK_STAT_CLKFAIL
  let d := d.clockFail cause
  if nap && !was && d.b CLK_STAT_CLKFAIL then d.napFailed else d

/-- A monitor window, ending NAP on a failure. -/
def Dev.monitorWindow (d : Dev) (src : Nat) (dev : Int) : Dev :=
  let nap := d.f PWR_STAT_STATE == 2
  let was := d.b CLK_STAT_CLKFAIL
  let d := d.clockWindow src dev
  if nap && !was && d.b CLK_STAT_CLKFAIL then d.napFailed else d

/-- PWR_RTCALM (Table 15-9). -/
def Dev.rtcAlarmAt (d : Dev) : Nat := wide64 (d.rd PWR_RTCALM_LO) (d.rd PWR_RTCALM_HI)

/-- The alarm fires when the real-time clock has reached it. -/
def Dev.rtcAlarm (d : Dev) : Dev :=
  if d.b PWR_RTCALMCTL_EN && decide (d.rtcAlarmAt ≤ d.rtcNow) then
    ((d.setB PWR_RTCALMCTL_EN false).setB PWR_RTCALMCTL_HIT true).wake 5 0
  else d

/-- A write of PWR_RTCALMCTL: an alarm already passed fires at once. -/
def Dev.wRtcAlmCtl (d : Dev) (v : Word) : Dev :=
  let d := if v.getLsbD 1 then d.setB PWR_RTCALMCTL_HIT false else d
  (d.setB PWR_RTCALMCTL_EN (v.getLsbD 0)).rtcAlarm

/-- A supply passes its warning level, or is back inside it (R511); `s` 8: a monitor site above 110 degrees (R524). -/
def Dev.supplyWarn (d : Dev) (s : Nat) (past : Bool) : Dev :=
  let r := d.rd PWR_SUPSTAT
  let d := d.wr PWR_SUPSTAT (putBits r s 1 past.toNat)
  if past && !r.getLsbD (16 + s) then (d.wr PWR_SUPSTAT (putBits (d.rd PWR_SUPSTAT) (16 + s) 1 1)).raise 11 else d

end Sys2Proof.Machine
end

