-- ==== Sys2Proof/Machine/Ageing.lean ====
section
/-!
DEFINITION. Ageing monitors and the margin planner (chapter 16).
-/

namespace Sys2Proof.Machine

/-- AGE_CTL bit 1: voltage steps. -/
def AGE_CTL_AVSEN : RegFld := ⟨AGE_CTL, 1, 1⟩

/-- AGE_CTL bit 2: bin steps. -/
def AGE_CTL_BINEN : RegFld := ⟨AGE_CTL, 2, 1⟩

/-- AGE_CTL bit 3: model delays. -/
def AGE_CTL_DLYEN : RegFld := ⟨AGE_CTL, 3, 1⟩

/-- AGE_CTL bit 4: kerf changes. -/
def AGE_CTL_KERFEN : RegFld := ⟨AGE_CTL, 4, 1⟩

/-- Replace the planner's part. -/
def Dev.setAge (d : Dev) (a : AgeSt) : Dev := { d with age := a }

/-- A site's measured values, DEG, SLACK and TEMP, or none when an oscillator gives no count (R487). -/
def Dev.ageSite (d : Dev) (k : Nat) (x : Option (BitVec 16 × BitVec 12 × BitVec 12)) : Dev :=
  match x with
  | none => (d.setB AGE_MON_TEMP_FAULT true k).raise 109
  | some (deg, slack, temp) =>
    ((d.setF AGE_MON_DEG_DEG deg.toNat k).setF AGE_MON_SLACK_SLACK slack.toNat k).setF AGE_MON_TEMP_TEMP temp.toNat k

/-- A site reads above 110 degrees: more than 880 units of 0.125 degree (R524). -/
def Dev.siteHot (d : Dev) (k : Nat) : Bool :=
  decide (880 < d.f AGE_MON_TEMP_TEMP k) && decide (d.f AGE_MON_TEMP_TEMP k < 2048)

/-- The eight monitor sites are measured (R487). -/
def Dev.ageMeasure (d : Dev) (sites : List (Option (BitVec 16 × BitVec 12 × BitVec 12))) : Dev :=
  if 2 ≤ d.f PWR_STAT_STATE || !d.boot.released
    || decide (d.wall < d.age.measAt + max 1 (d.f AGE_MONCFG_MONPER) * 20000000) then d
  else
    let d := d.setAge { d.age with measAt := d.wall }
    let d := (List.range 8).foldl (fun d k => d.ageSite k (sites.getD k none)) d
    let d := if d.b AGE_MONCFG_MONEV then d.raise 109 else d
    d.supplyWarn 8 ((List.range 8).any d.siteHot)

/-! ### Voltage and clock bin (R490) -/

/-- AVSMIN or AVSMAX in mV: values outside 720 to 880 act as those limits. -/
def avsLimit (v : Nat) : Nat := max 720 (min 880 v)

/-- The least slack over sites 0 to 3 and 7. -/
def Dev.leastSlack (d : Dev) : Nat :=
  [1, 2, 3, 7].foldl (fun m k => min m (d.f AGE_MON_SLACK_SLACK k)) (d.f AGE_MON_SLACK_SLACK 0)

/-- An AGE_STAT flag sets: EV108 when it was clear (R494). -/
def Dev.ageFlag (d : Dev) (x : RegFld) : Dev := if d.b x then d else (d.setB x true).raise 108

/-- A Vout write goes out and waits for the regulator. -/
def Dev.avsWrite (d : Dev) (mv : Nat) : Dev := (d.setF AGE_AVS_VOUT mv).setAge { d.age with vout := some mv }

/-- The regulator answers a Vout write, or does not acknowledge it (R490). -/
def Dev.avsReadback (d : Dev) (ack : Bool) : Dev :=
  if d.age.vout.isNone then d
  else
    let d := d.setAge { d.age with vout := none }
    if ack then d else d.ageFlag AGE_STAT_AVSERR

/-- The planner's bin. -/
def Dev.planBin (d : Dev) : Nat := min 8 (d.f CLK_ENGPLL_BIN)

/-- One voltage step or one bin step (R490). -/
def Dev.planStep (d : Dev) (ahead : Nat) : Dev :=
  let avs := d.b AGE_CTL_AVSEN
  let binEn := d.b AGE_CTL_BINEN
  let s := d.leastSlack
  let v := d.f AGE_AVS_VOUT
  let top := avsLimit (d.f AGE_AVSLIM_AVSMAX)
  let low := avsLimit (d.f AGE_AVSLIM_AVSMIN)
  let bin := d.planBin
  if d.b AGE_STAT_AVSERR || d.age.vout.isSome then d
  else if s < d.f AGE_GUARD_LO then
    if v < top then (if avs then d.avsWrite (min (v + 10) top) else d)
    else if 0 < bin && binEn then (d.wEngPll (BitVec.ofNat 32 (bin - 1))).ageFlag AGE_STAT_AVSMAXED
    else d
  else if d.f AGE_GUARD_HI < s then
    if bin < min 8 (d.f AGE_GUARD_BINMAX) && binEn && decide (d.f AGE_GUARD_HI ≤ ahead) then d.wEngPll (BitVec.ofNat 32 (bin + 1))
    else if low < v && avs && (List.range 32).all (fun n => decide ((d.e n).bin ≤ bin)) then d.avsWrite (max (v - 5) low)
    else d
  else d

/-! ### Model delays (R491) -/

/-- One model delay of a lane: D0 re-fitted while the lane is LIVE, then D0 and the model's term. -/
def Dev.planDelay (d : Dev) (tx : Bool) (p : Nat) : Dev :=
  let site := if p < 16 then 5 else 6
  let t := Config.lmodTerm tx p (d.f AGE_MON_TEMP_TEMP site) (d.f AGE_MON_DEG_DEG site)
  let key := 2 * p + (!tx).toNat
  let d := if d.calState p = 1 then
      let m := if tx then d.rd TIME_CALTX p else d.rd TIME_CALRX p
      d.setAge { d.age with d0 := Tab.set d.age.d0 key (BitVec.ofInt 32 (m.toInt - t)) }
    else d
  let d0 := Tab.look d.age.d0 (if tx then Config.factoryLmodTx p else Config.factoryLmodRx p) key
  let v := BitVec.ofInt 32 (d0.toInt + t)
  if tx then d.wr TIME_LMODTX v p else d.wr TIME_LMODRX v p

/-! ### Kerfs (R492) -/

/-- The longest interval in ns between two consecutive sync slots of other nodes, the one across the round end included. -/
def Dev.syncGap (d : Dev) (n : Nat) : Nat :=
  let ss := (d.brgSlotList n).filter (fun s => d.b BRG_SLOT_SYNC n s && d.f BRG_SLOT_OWNER n s != d.brgMe n)
  let len := d.roundLen n / 20
  let at' := fun (s : Nat) => s * d.f BRG_SLOTNS_SLOTNS n
  match ss with
  | [] => len
  | a :: _ =>
    let gaps := ((ss.zip (ss.drop 1)).map (fun p => at' p.2 - at' p.1)) ++ [len + at' a - at' (ss.getLast?.getD a)]
    gaps.foldl max 0

/-- REQ in units of 1/(5 × 10^11) ns: 2 × (precision + guardian error + 20 ns + ageing allowance). The precision is given in ps
and the rate error in 10^-9. -/
def Dev.kerfNeed (d : Dev) (n prec rate : Nat) : Nat :=
  let gap := d.syncGap n
  let u := 500000000000
  2 * (prec * (u / 1000) + gap * (120000 + rate) * (u / 1000000000) + 20 * u
    + gap * d.f AGE_KAG_KAG * d.f AGE_MON_DEG_DEG 7 * (u / 100000000) / 1000)

/-- The kerf change of ring `n` (R492): `m` is the ring-wide maximum in ns. -/
def Dev.kerfChange (d : Dev) (n m : Nat) : Dev :=
  let k := (m + 49) / 50 * 50
  if k ≤ d.f BRG_KERF_KERF n then d
  else if d.brgSlotNs n < k * 20 + d.brgFmax n + (2 * d.brgN n - 2) * d.brgHop n || 65535 < k then d.ageFlag AGE_STAT_KERFBLK
  else
    let ten := 10000000000
    let t := (d.ns + 2000000000 + ten - 1) / ten * ten
    (d.stage BRG_KERF n 0 (BitVec.ofNat 32 k) d.wall).armTimed 1 (49 + n) t d.wall d.stamp

/-- The kerf of ring `n` (R492). The spec does not round REQ to whole ns (log 10). -/
def Dev.planKerf (d : Dev) (n prec rate : Nat) : Dev :=
  if !d.b BRG_CTL_EN n then d
  else
    let u := 500000000000
    let need := d.kerfNeed n prec rate
    let (x, d) := if need % u = 0 then (0, d) else d.take 1
    let d := d.setF AGE_KERF_REQ (min 0xFFFF (need / u + x)) n
    let src := (d.rd AGE_KERFSRC n).toNat
    if d.b AGE_CTL_KERFEN && src ≠ 0 then
      match d.combLoad .sv0 (src / 4 * 4) 4 with
      | (d, .done v) => d.kerfChange n v
      | (d, _) => d
    else d

/-! ### Margin (R493, R494) -/

/-- A week in units of 50 ps. -/
def wallWeek : Nat := 7 * 86400 * wallSecond

/-- A protected row of the planner is written; what it holds beside its place is not laid down (log 10). -/
def Dev.planRow (d : Dev) (r : Nat) : Dev :=
  let (code, d) := d.take 16
  let (data, d) := d.take 64
  let d := d.setJ { d.jrn with seq := (d.jrn.seq + 1) % 65536 }
  let rc : JRec := { cls := 3, origin := 257, code := code, data := data, src := false, time := d.jtime, last := d.jtime }
  (d.setJ { d.jrn with direct := d.jrn.direct ++ [(r, recWords rc d.jrn.seq)] }).kick

/-- One history row per 7 days, in a ring of 224 rows, with the fit accumulators in row 31 (Table 16-2). -/
def Dev.planHistory (d : Dev) : Dev :=
  if d.wall < d.age.histAt + wallWeek then d
  else
    let k := d.age.hist
    ((d.setAge { d.age with hist := k + 1, histAt := d.wall }).planRow (32 + k % 224)).planRow 31

/-- The remaining margin goes to AGE_MARGIN once 30 days of history exist. -/
def Dev.planMargin (d : Dev) (years : Nat) (site : BitVec 3) : Dev :=
  if d.age.hist * 7 < 30 then d
  else
    let old := d.f AGE_MARGIN_YEARS
    let y := min 9999 years
    let d := ((d.setF AGE_MARGIN_YEARS y).setF AGE_MARGIN_LIMSITE site.toNat).setB AGE_STAT_NOHIST false
    if y < d.f AGE_CTL_WARNY && decide (d.f AGE_CTL_WARNY ≤ old) then d.raise 108 else d

/-- A planner run (R488 to R493). -/
def Dev.planRun (d : Dev) (x : PlanFacts) : Dev :=
  if !d.b AGE_CTL_EN || 2 ≤ d.f PWR_STAT_STATE || d.sv0.run = .reset || d.sv0.run = .dead
    || decide (d.wall < d.age.planAt + max 1 (d.f AGE_CTL_PLANPER) * wallSecond) then d
  else
    let d := d.setAge { d.age with planAt := d.wall }
    if x.late then d.setB AGE_STAT_LATE true
    else
      let d := d.planStep x.ahead
      let d := if d.b AGE_CTL_DLYEN then
          (List.range 24).foldl (fun d p => (d.planDelay true p).planDelay false p) d
        else d
      let d := (List.range 8).foldl (fun d n =>
        let (prec, rate) := x.rings.getD n (0, 0)
        d.planKerf n prec rate) d
      d.planHistory.planMargin x.years x.site

end Sys2Proof.Machine
end

