-- ==== Sys2Proof/Machine/RegAcc.lean ====
section
/-!
DEFINITION. What the access types of a register's fields make of a read and a write (R5 to R7, R527, R528), and resetting
registers by scope (R9, R37).
-/

namespace Sys2Proof.Machine

/-- The bits of a field. -/
def Fld.mask (f : Fld) : Word := putBits 0 f.lo f.w (2 ^ f.w - 1)

/-- The bits of a register's fields that satisfy `p`. -/
def Reg.maskOf (r : Reg) (p : Fld → Bool) : Word := r.flds.foldl (fun m f => if p f then m ||| f.mask else m) 0

/-- The defined bits. -/
def Reg.defined (r : Reg) : Word := r.maskOf (fun _ => true)

/-- The SR bits. -/
def Reg.srBits (r : Reg) : Word := r.maskOf Fld.sr

/-- The LK bits. -/
def Reg.lkBits (r : Reg) : Word := r.maskOf Fld.lk

/-- The bits of fields of one access type. -/
def Reg.accBits (r : Reg) (a : Acc) : Word := r.maskOf (fun f => f.acc == a)

/-- Every field is SR: the register is refused whole to a non-secure master (R527). -/
def Reg.allSr (r : Reg) : Bool := !r.flds.isEmpty && r.flds.all Fld.sr

/-- How wide a scope is. -/
def Scope.rank : Scope → Nat
  | .engine => 0
  | .block => 1
  | .chip => 2
  | .sill => 3

/-- Set to their reset values the listed registers that satisfy `p`, LK fields excepted (R9, Table 1-7). -/
def Dev.resetRegs (d : Dev) (p : Nat → Reg → Bool) : Dev :=
  { d with regs := d.regs.filterMap (fun e =>
      match findReg e.1 with
      | some (r, i, j) =>
        if p e.1 r then
          let v := (e.2 &&& r.lkBits) ||| (r.rst i j &&& ~~~r.lkBits)
          if v = r.rst i j then none else some (e.1, v)
        else some e
      | none => some e) }

/-- The staged copies of a block take their reset values (R37). -/
def Dev.resetStaged (d : Dev) (k : Blk) : Dev :=
  { d with
    stg := d.stg.filter (fun e => blkOf e.1 != some k)
    hist := d.hist.filter (fun h => blkOf h.addr != some k) }

/-- A register in block `k` that a block reset resets. -/
def inBlock (k : Blk) (a : Nat) (r : Reg) : Bool := blkOf a == some k && decide (r.scope.rank ≤ 1)

/-- The commit instances a block alone owns (R37). -/
def instsOf : Blk → List Nat
  | .swc => (List.range 24).map (· + 1)
  | .stn => (List.range 16).map (· + 25) ++ (List.range 8).map (· + 73)
  | .pio => (List.range 8).map (· + 41)
  | .brg => (List.range 8).map (· + 49)
  | .mdb => (List.range 16).map (· + 57)
  | _ => []

end Sys2Proof.Machine
end

