-- ==== Sys2Proof/Machine/EngDrop.lean ====
section
/-!
DEFINITION. An engine's item: its verdict, dropping it, the engine's start state (R92 to R99, R106 to R110, R162, R187).
-/

namespace Sys2Proof.Machine

/-- The first address of engine `n`'s code memory. -/
def codeBase (n : Nat) : Nat := 0x30000000 + n * 0x20000

/-- The first address of engine `n`'s data memory. -/
def dataBase (n : Nat) : Nat := codeBase n + 0x10000

/-- The value of a general register. -/
def Cpu.r (c : Cpu) (k : Nat) : Word := Tab.look c.g 0 k

/-- Set a general register. -/
def Cpu.setR (c : Cpu) (k : Nat) (v : Word) : Cpu := { c with g := Tab.put c.g 0 k v }

/-- Set one flag of FL. -/
def Cpu.setFl (c : Cpu) (k : Nat) (v : Bool) : Cpu := { c with fl := putBits c.fl k 1 v.toNat }

/-- The item takes a software verdict (Table 3-3). -/
def Hand.isSoft (h : Hand) : Bool := h.item.vsrc == 3

/-- The verdict of the item in hand, when known (R93, R94). -/
def Dev.verdict (d : Dev) (h : Hand) : Option Bool :=
  if h.isSoft then h.soft
  else
    let f := d.fr h.item.frame
    if f.known then some f.good else none

/-- The end-of-frame stamp that orders the item's commit (R93, R102). -/
def Dev.eofStamp (d : Dev) (h : Hand) : Nat := if h.isSoft then h.stamp else (d.fr h.item.frame).eof

/-! ### Dropping (R95, R97, R99, R107, R110, R187) -/

/-- A relay of frame `k` turns bad (R99): not started, it is not sent; in transmission, it ends poisoned. -/
def Dev.relayBad (d : Dev) (k : Nat) : Dev :=
  let d := (List.range 192).foldl (fun d q =>
    let l := d.q q
    let mine := l.filter (fun e => e.fr == k && e.raw && e.mirror)
    if mine.isEmpty then d
    else
      mine.foldl (fun d e => (d.ethCount ETH_CNT_TXDISC (q / 8)).dropEnt e)
        ((d.credRun (q / 8)).setQ q (l.filter (fun e => !(e.fr == k && e.raw && e.mirror))))) d
  d.poisonTx k

/-- The item in hand leaves the engine: its frame is let go, the token passes on. -/
def Dev.leaveItem (d : Dev) (n : Nat) : Dev :=
  let g := d.e n
  match g.hand with
  | none => d
  | some h => ((d.setE n { g with hand := none, ck := none, cyc := 0 }).releaseItem h.item.frame).releaseToken n

/-- The item is dropped without an exception (R187): the checkpoint is restored, and the engine resumes at the WQNEXT that took
the item, outside dry-fit. -/
def Dev.dropItem (d : Dev) (n : Nat) : Dev :=
  let wq := match (d.e n).ck with
    | some c => c.wq
    | none => (d.e n).cpu.pc
  let d := (d.restore n).leaveItem n
  let g := d.e n
  d.setE n { g with cpu := { g.cpu.setFl flD false with pc := wq }, run := .run }

/-- A bad verdict or an abort (R95). -/
def Dev.badDrop (d : Dev) (n : Nat) : Dev :=
  match (d.e n).hand with
  | none => d
  | some h =>
    let d := (d.count ENG_CNT_BAD n).pm n 7
    (d.dropItem n).relayBad h.item.frame

/-- A drop that ENG_CNT_DROP counts, with its cause latched (R97, R110). -/
def Dev.causeDrop (d : Dev) (n cause : Nat) (a : Word) : Dev :=
  ((d.latchEng n cause a).count ENG_CNT_DROP n).dropItem n

/-- Engines whose item's frame was aborted at its lane drop it (R95, R368, R410, R430). -/
def Dev.abortBad (d : Dev) : Dev :=
  (List.range 32).foldl (fun d n =>
    match (d.e n).hand with
    | some h => if (d.fr h.item.frame).ended && !(d.fr h.item.frame).good && (d.e n).dry then d.badDrop n else d
    | none => d) d

/-! ### The start state (R162) -/

/-- Valid binding slots of engine `n`. -/
def Dev.bindCount (d : Dev) (n : Nat) : Nat := ((List.range 16).filter (fun k => d.b ENG_BIND_VALID n k)).length

/-- The entry points of engine `n`'s load. -/
def Dev.entry (d : Dev) (n : Nat) : LoadEntry := Tab.look d.boot.entries {} n

/-- The engine starts at INIT (R162, Table 4-12): `why` is G3. -/
def Dev.startCpu (d : Dev) (n why : Nat) : Cpu :=
  let x := d.entry n
  let c : Cpu := {
    pc := BitVec.ofNat 32 (codeBase n + x.init)
    vbase := BitVec.ofNat 32 (codeBase n + x.vbase)
    libbase := BitVec.ofNat 32 x.lib }
  let c := ((c.setR 0 (BitVec.ofNat 32 n)).setR 1 (BitVec.ofNat 32 (d.bindCount n))).setR 2 (BitVec.ofNat 32 (d.f ENG_LOAD_LOAD n))
  (c.setR 3 (BitVec.ofNat 32 why)).setR 15 (BitVec.ofNat 32 (dataBase n + x.stackTop))

/-- Start engine `n` at INIT. -/
def Dev.startEngine (d : Dev) (n why : Nat) : Dev := d.setE n { d.e n with cpu := d.startCpu n why, run := .run }

/-! ### Soft errors (R108) -/

/-- The bytes of a core's word are poisoned. -/
def Dev.poisonAt (d : Dev) (a : Nat) : Dev := d.poisonWord (a / 4 * 4)

/-- Enter the load's recovery entry point (R108, R163): the dropped item's descriptor in G0 to G3, free values where no item was in
hand (log 10), the failing address in G4. -/
def Dev.recover (d : Dev) (n : Nat) (a : Word) : Dev :=
  let g := d.e n
  let had := g.hand
  let d := if had.isSome then ((d.restore n).count ENG_CNT_DROP n).leaveItem n else d
  let (f0, d) := d.take 32
  let (f1, d) := d.take 32
  let (f2, d) := d.take 32
  let (f3, d) := d.take 32
  let (x0, x1, x2, x3) := match had with
    | some h => (h.item.lane + 256 * h.item.vsrc, h.item.ctx.getD 0xFFFFFFFF, h.item.frame, h.item.sof)
    | none => (f0, f1, f2, f3)
  let g := d.e n
  let c := (((g.cpu.setR 0 (BitVec.ofNat 32 x0)).setR 1 (BitVec.ofNat 32 x1)).setR 2 (BitVec.ofNat 32 x2)).setR 3 (BitVec.ofNat 32 x3)
  let c := (c.setR 4 a).setR 15 (BitVec.ofNat 32 (dataBase n + (d.entry n).stackTop))
  d.setE n { g with cpu := { c.setFl flD false with pc := BitVec.ofNat 32 (codeBase n + (d.entry n).recover) }, run := .run }

/-- The engine re-executes its item from the checkpoint with REEX set (R108, R109). -/
def Dev.softReexec (d : Dev) (n : Nat) : Dev :=
  match (d.e n).hand with
  | none => d
  | some h =>
    let d := ((d.restore n).count ENG_CNT_SOFT n).pm n 0xF
    let g := d.e n
    d.setE n { g with hand := some { h with soft := none, reex := true, exec := h.exec + 1 }, run := .run }

/-- A parity failure on a word engine `n` loads from data or comb memory (R108, R213). -/
def Dev.softError (d : Dev) (n x : Nat) : Dev :=
  let d := d.count MEM_CNT_PAR
  let first := match (d.e n).hand with
    | some h => (d.e n).dry && !h.reex
    | none => false
  if first then (d.latchInteg (n + 8) x 1).softReexec n
  else
    let d := (d.poisonAt x).latchInteg (n + 8) x 2
    let d := (d.latchEng n 5 (BitVec.ofNat 32 x)).raise 42 n
    d.recover n (BitVec.ofNat 32 x)

end Sys2Proof.Machine
end

