-- ==== Sys2Proof/Machine/Resets.lean ====
section
/-!
DEFINITION. The four reset scopes (R8, R9, R37, R43, R44, R116, R209, R234, R235): engine, block, chip and sill reset.
-/

namespace Sys2Proof.Machine

/-! ### Engine reset (R116) -/

/-- The item in hand is let go. -/
def Dev.dropHand (d : Dev) : Option Hand → Dev
  | some h => d.releaseItem h.item.frame
  | none => d

/-- Engine `n`, which stood at `g`, is cleared but for its work queue and the slots already sent; so are its registers. -/
def Dev.clearEngine (d : Dev) (n : Nat) (g : Eng) : Dev :=
  (d.setE n { wq := g.wq, slots := freeArmed g.slots, bin := g.bin }).resetRegs (fun a r =>
    decide (0x40100000 + n * 0x1000 ≤ a) && decide (a < 0x40100000 + (n + 1) * 0x1000) && r.scope == .engine)

/-- The item dropped is counted after that, and an engine that had been started starts again. -/
def Dev.restartEngine (d : Dev) (n why : Nat) (had : Bool) : Dev :=
  let d := if had then d.count ENG_CNT_DROP n else d
  if d.boot.started.contains n then d.startEngine n why else d

/-- An engine reset of engine `n` (R116, R44): `why` is what G3 will hold. During a drain it is put off to the drain's end. -/
def Dev.engineReset (d : Dev) (n why : Nat) : Dev :=
  let g := d.e n
  if g.draining then d.setE n { g with rstPend := true }
  else
    ((((d.mbxMasterReset (n + 8)).dropHand g.hand).clearEngine n g).releaseToken n).restartEngine n why g.hand.isSome

/-! ### Block reset (R37) -/

/-- The packet buffer, egress queues, contexts and tables are cleared (Table 1-7); items on its frames are gone. -/
def Dev.swcClear (d : Dev) : Dev :=
  let d := (List.range 24).foldl Dev.txCut d
  let d := (List.range 209).foldl (fun d q => (d.q q).foldl (fun d e => d.freeSrc e.src) (d.setQ q [])) d
  let onSw := fun (d : Dev) (k : Nat) => (d.fr k).port != 64
  let d := (List.range 32).foldl (fun d n =>
    let g := d.e n
    let d := d.setE n { g with wq := g.wq.filter (fun i => !onSw d i.frame) }
    match g.hand with
    | some h => if onSw d h.item.frame && g.dry then d.badDrop n else d
    | none => d) d
  { d.forget 0x40380000 0x403C0000 with swc := {}, frames := d.frames.filter (fun e => e.2.port == 64) }

/-- What a block reset does beside the block's registers. -/
def Dev.blockLogic (d : Dev) : Blk → Dev
  | .mbx => d.mbxBlockReset
  | .evt => { d with jq := [], regs := d.regs.filter (fun e => !(decide (0x40058000 ≤ e.1) && decide (e.1 < 0x4005A000))) }
  | .dma => d.dmaBlockStop
  | .eng => (List.range 32).foldl (fun d n => d.engineReset n 2) d
  | .eth => { (List.range 24).foldl Dev.linkDown d with mdio := [] }
  | .swc => d.swcClear
  | .mdb => ((List.range 16).foldl Dev.mbBlockStop d).abortBad
  | .sln => ((List.range 16).foldl Dev.slBlockStop d).abortBad
  | .brg => (List.range 8).foldl (fun d n => ((d.ring n).held.foldl Dev.freeArm d).brgStop n) d
  | .pio => ((List.range 8).foldl Dev.pioBlockStop d).abortBad
  | .stn => d.stnBlockStop
  | .age => d.setAge { d.age with vout := none }
  | .time => { d with tm := { rtc := d.tm.rtc, rtcAt := d.tm.rtcAt } }
  | _ => d

/-- A block reset of block `k` (R37, R39, Table 1-7): SYS, CLK and PWR have none. -/
def Dev.blockReset (d : Dev) (k : Blk) : Dev :=
  if k = .sys || k = .clk || k = .pwr then d
  else
    let d := d.blockLogic k
    let d := if k = .eng then d else (d.resetRegs (inBlock k)).resetStaged k
    let d := (instsOf k).foldl Dev.cancelReset d
    if k = .time then d.timeStep 0 else d

/-- A PCIe hot reset, link down or function-level reset (R234): a reset of master 3. -/
def Dev.hostReset (d : Dev) : Dev := d.mbxMasterReset 3

/-! ### Chip and sill reset (R8, R43) -/

/-- Comb banks in retention, with no transition in progress (R209). -/
def Dev.retained (d : Dev) : List Nat := (List.range 16).filter (fun b => d.pwr b == { cur := .retention })

/-- The address lies in a retained bank. -/
def Dev.inRetained (d : Dev) (a : Nat) : Bool := regionOf a == .comb && d.retained.contains (combBank a)

/-- A valid LMS row (R76): its sequence number and lms_next, held in the low half of its DATA (log 21). -/
def Dev.lmsRow (d : Dev) (r : Nat) : Option (Nat × Nat) :=
  let ws := Tab.look d.jrn.rows [] r
  if ws.length = 8 && rowGood ws then some (getBits (ws.getD 7 0) 0 16, (ws.getD 5 0).toNat) else none

/-- The next leaf as the journal names it: of two valid rows, the one with the higher sequence number, modulo 65,536 (R76). -/
def Dev.lmsNext (d : Dev) : Nat :=
  match d.lmsRow 16, d.lmsRow 17 with
  | some (s, q), some (s', q') => if (s' + 65536 - s) % 65536 < 32768 then q' else q
  | some (_, q), none => q
  | none, some (_, q) => q
  | none, none => 0

/-- SEC_LMS_STAT for the next leaf `q` (R77). -/
def lmsWord (q : Nat) : Word :=
  BitVec.ofNat 32 (min 1048576 q + (if 943718 ≤ q then 2 ^ 21 else 0) + (if 1048576 ≤ q then 2 ^ 22 else 0))

/-- The state a chip reset leaves, its clock and retained memory from before it, and nothing else of the chip domain (R43): `keep`
says which registers are kept. -/
def Dev.afterReset (d : Dev) (keep : Reg → Bool) : Dev :=
  {
    wall := d.wall
    free := d.free
    regs := d.regs.filter (fun e => match findReg e.1 with
      | some (r, _, _) => keep r
      | none => false)
    mem := d.mem.filter (fun e => decide (0x70000000 ≤ e.1))
    msix := d.msix
    jrn := d.jrn
    nextFr := d.nextFr
    tm := { rtc := d.tm.rtc, rtcAt := d.tm.rtcAt }
    age := { hist := d.age.hist, histAt := d.age.histAt, measAt := d.wall, planAt := d.wall, tickAt := d.wall }
    boot := { rowA := d.boot.rowA, rowB := d.boot.rowB }
    pw := { plumbAt := d.wall, rcAt := d.pw.rcAt, sillAt := d.pw.sillAt } }

/-- The boot ROM starts (R45, R46): BOOT_SEL is sampled; in FIELD 0b11 acts as 0b00. -/
def Dev.bootStart (d : Dev) (o : Otp) (sel : BitVec 2) : Dev :=
  let rej := sel = 3 && o.lifecycle = 2
  let d := d.wr BOOT_ARB o.arb
  let d := (d.wr SEC_LMS_STAT (lmsWord d.lmsNext)).setF BOOT_STAT_BOOTSEL sel.toNat
  let d := d.setB BOOT_STAT_SELREJ rej
  { d with boot := { d.boot with sel := if rej then 0 else sel.toNat } }

/-- A chip reset (R8, R43, R209, Table 10-3): `cause` is its bit of PWR_RSTCAUSE. -/
def Dev.chipReset (d0 : Dev) (o : Otp) (cause : Nat) (sel : BitVec 2) : Dev :=
  let d := d0.afterReset (fun r => r.scope == .sill)
  let kept := d0.retained
  let keepA := fun (a : Nat) => d0.inRetained a
  let d := { d with
    mem := d0.mem.filter (fun e => keepA e.1 || decide (0x70000000 ≤ e.1))
    poison := d0.poison.filter keepA
    badPar := d0.badPar.filter keepA
    power := kept.map (fun b => (b, { cur := .retention }))
    stn := d0.stnBlockStop.stn }
  let d := d.wr PWR_COMBPWR (BitVec.ofNat 32 (kept.foldl (fun x b => x + 4 ^ b) 0))
  let d := d.setF PWR_COMBSTAT_RETAINED (kept.foldl (fun x b => x + 2 ^ b) 0)
  let d := d.setB CLK_STAT_SILLRC (d0.b CLK_STAT_SILLRC)
  let d := d.wr PWR_RSTCAUSE (d.rd PWR_RSTCAUSE ||| (1 <<< cause))
  (d.bootStart o sel).loadRtc

/-- A sill reset (R8, R43, R507): power-on of the sill domain. Flash contents and the journal's rows are kept. -/
def Dev.sillReset (d0 : Dev) (o : Otp) (supply : Bool) (sel : BitVec 2) : Dev :=
  let d := d0.afterReset (fun _ => false)
  let d := { d with
    jrn := d0.jrnSill.jrn
    tm := { rtcAt := d0.wall }
    pw := { plumbAt := d0.wall }
    age := { d.age with histAt := d0.wall } }
  let d := d.setB PWR_RSTCAUSE_SUPPLY supply
  (d.bootStart o sel).loadRtc

end Sys2Proof.Machine
end

