-- ==== Sys2Proof/Machine/Image.lean ====
section
/-!
DEFINITION. The configuration image and its verification (R50 to R63, R71, R81, R119, R161, R226). The cryptographic functions
and the layout of a load package, which the spec does not lay down, are constants with no body.
-/

namespace Sys2Proof.Machine

/-- What a load package's header gives (R55, R161): identifier, load SVN, accepted lane kinds (bit 0 Ethernet, 1 MB, 2 SL, 3 PG),
entry offsets, whether it names the library load, the offset of a library's entry table in its code, the images, the header,
the hash of the signer's keys. -/
structure Pkg where
  ident : Nat
  svn : Nat
  kinds : BitVec 4
  init : Nat
  recover : Nat
  vbase : Nat
  stackTop : Nat
  usesLib : Bool
  table : Nat
  code : List Byte
  data : List Byte
  header : List Byte
  keys : BitVec 384
  deriving DecidableEq, Repr

end Sys2Proof.Machine

namespace Sys2Proof.Config

/-- SHA-384 (FIPS 180-4). -/
opaque sha384 : List Byte → BitVec 384

/-- An ECDSA P-384 signature verifies (R60): key in SEC1 form, message, r then s. -/
opaque ecdsaVerify : List Byte → List Byte → List Byte → Bool

/-- An HSS signature verifies, with the types of R61 at every level: public key, message, signature. -/
opaque hssVerify : List Byte → List Byte → List Byte → Bool

/-- The Frenath load root held in the boot ROM (R55). -/
opaque frenathRoot : BitVec 384

/-- A load package's header, whose layout the spec does not give. -/
opaque parsePkg : List Byte → Option Machine.Pkg

/-- Both signatures of a load package verify (R55). -/
opaque pkgSigned : List Byte → Bool

/-- A byte of the boot ROM, whose contents the spec does not give. -/
opaque romByte : Nat → Byte

/-- The CODE the boot ROM gives its alarms, by occasion: a wait for GO, a safe hold, the LMS warning. -/
opaque bootAlarmCode : Nat → BitVec 16

end Sys2Proof.Config

namespace Sys2Proof.Machine

/-- `n` bytes of an image from offset `a`. -/
def imgBytes (f : Nat → Byte) (a n : Nat) : List Byte := (List.range n).map (fun i => f (a + i))

/-- An image as read: its bytes by offset, whether they can be read at all, how far they may reach. -/
structure ImgSource where
  f : Nat → Byte
  ok : Bool
  reach : Nat

/-- A section table entry (R54). -/
structure Sect where
  ty : Nat
  index : Nat
  flags : Nat
  ofs : Nat
  size : Nat
  dest : Nat
  digest : BitVec 384
  deriving DecidableEq, Repr

/-- Section table entry `i`. -/
def sectAt (f : Nat → Byte) (i : Nat) : Sect :=
  let a := 0x1000 + 64 * i
  let n := fun (o k : Nat) => leNat (imgBytes f (a + o) k)
  ⟨n 0 1, n 1 1, n 2 2, n 4 4, n 8 4, n 12 4, BitVec.ofNat 384 (beNat (imgBytes f (a + 16) 48))⟩

/-- A header field (Table 2-3). -/
def hdr (f : Nat → Byte) (o k : Nat) : Nat := leNat (imgBytes f o k)

/-- SEQ. -/
def imgSeq (f : Nat → Byte) : Nat := hdr f 0x008 4

/-- IMG_SVN. -/
def imgSvn (f : Nat → Byte) : Nat := hdr f 0x00C 4

/-- IMG_SIZE. -/
def imgSize (f : Nat → Byte) : Nat := hdr f 0x010 4

/-- CONFIRM_S. -/
def imgConfirm (f : Nat → Byte) : Nat := hdr f 0x014 4

/-- The sections. -/
def imgSects (f : Nat → Byte) : List Sect := (List.range (min 64 (hdr f 0x018 4))).map (sectAt f)

/-- MAGIC and FORMAT are right: an image is present. -/
def imgMagic (f : Nat → Byte) : Bool := hdr f 0x000 4 == 0x4D495954 && hdr f 0x004 2 == 1

/-- Two ranges overlap. -/
def overlap (a n b m : Nat) : Bool := decide (0 < n) && decide (0 < m) && decide (a < b + m) && decide (b < a + n)

/-- A section's memory destination, when it has one. -/
def Sect.toMem (s : Sect) : Bool := s.ty == 1 || s.ty == 2 || s.ty == 7

/-- A section's destination lies where its type may lie (Table 2-4, R489). -/
def Sect.destOk (s : Sect) : Bool :=
  match s.ty with
  | 1 => decide (0x10000000 ≤ s.dest) && decide (s.dest + s.size ≤ 0x10070000)
  | 2 => decide (0x10100000 ≤ s.dest) && decide (s.dest + s.size ≤ 0x10180000)
  | 7 => decide (0x20000000 ≤ s.dest) && decide (s.dest + s.size ≤ 0x20400000)
  | _ => true

/-- No element conflicts with a later one. -/
def pairwiseOk {α : Type} (bad : α → α → Bool) : List α → Bool
  | [] => true
  | x :: l => !l.any (bad x) && pairwiseOk bad l

/-- All bytes of a list of ranges are 0. -/
def zeros (f : Nat → Byte) (l : List (Nat × Nat)) : Bool := l.all (fun r => (imgBytes f r.1 r.2).all (· == 0))

/-- The header and section table are well formed (R53, R54, R489; code 0x03 otherwise). -/
def imgFormed (f : Nat → Byte) : Bool :=
  let count := hdr f 0x018 4
  let sects := imgSects f
  let size := imgSize f
  let sig := hdr f 0x01C 4
  let sigLen := hdr f 0x020 4
  zeros f [(0x006, 2), (0x024, 0x1C), (0x0A1, 3), (0x0E0, 0xF20)]
  && decide (imgSvn f ≤ 127) && decide (1 ≤ imgConfirm f) && decide (imgConfirm f ≤ 600)
  && decide (1 ≤ count) && decide (count ≤ 64) && zeros f [(0x1000 + 64 * count, 4096 - 64 * count)]
  && sig % 4 == 0 && decide (0x2000 ≤ sig) && decide (sig + sigLen ≤ size)
  && sects.all (fun s => decide (1 ≤ s.ty) && decide (s.ty ≤ 7) && s.flags == 0 && s.destOk && decide (0x2000 ≤ s.ofs)
      && decide (s.ofs + s.size ≤ size) && (s.ty != 3 || decide (s.index ≤ 31)) && (s.ty != 5 || decide (s.index ≤ 15)))
  && pairwiseOk (fun s t => overlap s.ofs s.size t.ofs t.size) sects
  && pairwiseOk (fun s t => s.toMem && t.toMem && overlap s.dest s.size t.dest t.size) sects
  && pairwiseOk (fun s t => s.ty == 3 && t.ty == 3 && s.index == t.index) sects
  && pairwiseOk (fun s t => s.ty == t.ty && (s.ty == 4 || s.ty == 6)) sects

/-- The image's M. -/
def imgM (f : Nat → Byte) : List Byte := imgBytes f 0 0x2000

/-- A section's bytes. -/
def Sect.bytes (s : Sect) (f : Nat → Byte) : List Byte := imgBytes f s.ofs s.size

/-- Root slot `k`. -/
def Otp.root (o : Otp) (k : Nat) : BitVec 384 :=
  match k with
  | 0 => o.root0
  | 1 => o.root1
  | 2 => o.root2
  | _ => o.root3

/-- The root slot a key hash matches that is not revoked. -/
def Otp.slotOf (o : Otp) (h : BitVec 384) : Option Nat :=
  (List.range 4).find? (fun k => o.root k == h && !o.revoked.getLsbD k)

/-- The public keys of an image. -/
def imgEcdsa (f : Nat → Byte) : List Byte := imgBytes f 0x040 97

/-- The HSS public key. -/
def imgHss (f : Nat → Byte) : List Byte := imgBytes f 0x0A4 60

/-- The hash of the image's keys (R60). -/
def imgKeyHash (f : Nat → Byte) : BitVec 384 := Config.sha384 (imgEcdsa f ++ imgHss f)

/-- The HSS public key names 1 to 3 levels and types of R61, by RFC 8554's numbers. -/
def hssTypes (f : Nat → Byte) : Bool :=
  let n := fun (o : Nat) => beNat (imgBytes f (0x0A4 + o) 4)
  decide (1 ≤ n 0) && decide (n 0 ≤ 3) && decide (5 ≤ n 4) && decide (n 4 ≤ 9) && decide (1 ≤ n 8) && decide (n 8 ≤ 4)

/-- The result of the two signatures, both always computed (R60): 0, 0x06, 0x07 or 0x08. -/
def sigCode (f : Nat → Byte) : Nat :=
  let sig := imgBytes f (hdr f 0x01C 4) (hdr f 0x020 4)
  let e := Config.ecdsaVerify (imgEcdsa f) (imgM f) (sig.take 96)
  let h := hssTypes f && Config.hssVerify (imgHss f) (imgM f) (sig.drop 96)
  if e && h then 0 else if h then 6 else if e then 7 else 8

/-- The load packages by load number. -/
def imgPkgs (f : Nat → Byte) : List (Nat × Pkg) :=
  ((imgSects f).filter (fun s => s.ty == 3)).filterMap (fun s => (Config.parsePkg (s.bytes f)).map (fun p => (s.index, p)))

/-- A package passes R55 and R161. -/
def pkgGood (o : Otp) (b : List Byte) : Bool :=
  match Config.parsePkg b with
  | none => false
  | some p =>
    Config.pkgSigned b && (p.keys == Config.frenathRoot || (o.slotOf p.keys).isSome) && decide (p.svn ≤ 63)
    && decide (p.init < 0x10000) && decide (p.recover < 0x10000) && decide (p.vbase < 0x10000) && p.vbase % 256 == 0
    && p.stackTop % 8 == 0 && decide (8 ≤ p.stackTop) && decide (p.stackTop ≤ 0x8000)
    && decide (p.code.length ≤ 0x10000) && decide (p.data.length ≤ 0x8000)

/-- A lane binding entry (R56): engine, load, lane, reserved byte. -/
structure Bind where
  eng : Nat
  load : Nat
  lane : Nat
  rsvd : Nat
  deriving DecidableEq, Repr

/-- Cut a list into pieces of `k` bytes. -/
def pieces (k : Nat) : List Byte → Nat → List (List Byte)
  | _, 0 => []
  | b, n + 1 => if b.isEmpty then [] else b.take k :: pieces k (b.drop k) n

/-- The lane bindings of an image. -/
def imgBinds (f : Nat → Byte) : List Bind :=
  match (imgSects f).find? (fun s => s.ty == 4) with
  | none => []
  | some s => (pieces 4 (s.bytes f) s.size).map (fun b =>
      ⟨(b.getD 0 0).toNat, (b.getD 1 0).toNat, (b.getD 2 0).toNat, (b.getD 3 0).toNat⟩)

/-- The kind bit of a lane (R55). -/
def laneKind (l : Nat) : Nat := if l < 24 then 0 else if l < 40 then 1 else if l < 56 then 2 else 3

/-- The bindings pass R56, R81 and R119. -/
def bindsGood (f : Nat → Byte) : Bool :=
  let bs := imgBinds f
  let ps := imgPkgs f
  let pkg := fun (k : Nat) => (ps.find? (fun p => p.1 == k)).map (·.2)
  let lib := ps.any (fun p => p.2.ident == 0x000C)
  bs.all (fun b => decide (b.eng ≤ 31) && decide (b.lane ≤ 63) && b.rsvd == 0 && (match pkg b.load with
    | none => false
    | some p => p.kinds.getLsbD (laneKind b.lane) && p.ident != 0x000C
        && (!(b.lane < 24 && (p.ident == 1 || p.ident == 2 || p.ident == 3)) || lib) && (!p.usesLib || lib)))
  && pairwiseOk (fun b c => b.eng == c.eng && b.load != c.load) bs
  && pairwiseOk (fun b c => b.lane == c.lane && decide (24 ≤ b.lane)) bs
  && (List.range 32).all (fun n => decide ((bs.filter (fun b => b.eng == n)).length ≤ 16))

/-- A register initialiser (R57). -/
structure Init where
  addr : Nat
  value : Word
  mask : Word
  deriving DecidableEq, Repr

/-- The initialisers of one section, in order. -/
def sectInits (f : Nat → Byte) (s : Sect) : List Init :=
  (pieces 12 (s.bytes f) s.size).map (fun b =>
    ⟨leNat (b.take 4), BitVec.ofNat 32 (leNat ((b.drop 4).take 4)), BitVec.ofNat 32 (leNat ((b.drop 8).take 4))⟩)

/-- All initialisers, in INDEX order (Table 2-4). -/
def imgInits (f : Nat → Byte) : List Init :=
  (List.range 16).flatMap (fun i => ((imgSects f).filter (fun s => s.ty == 5 && s.index == i)).flatMap (sectInits f))

/-- The register of an initialiser may be initialised (R57). -/
def Init.addrOk (x : Init) : Bool :=
  x.addr % 4 == 0 && (match findReg x.addr with
    | some (r, _, _) => r.flds.any (fun y => y.lk || y.acc == .rw || y.acc == .wo || y.acc == .st)
    | none => false)

/-- MBX_CFG values after the initialisers, by address. -/
def initMbx (l : List Init) : Tab Word :=
  l.foldl (fun t x =>
    if 0x40040000 ≤ x.addr && x.addr < 0x40044000 && x.addr % 0x100 == 0 then
      Tab.set t x.addr ((Tab.look t 0 x.addr &&& ~~~x.mask) ||| (x.value &&& x.mask))
    else t) []

/-- A mailbox side names a master it may name (R226). -/
def sideOk (s : Nat) : Bool := s == 1 || s == 2 || s == 3 || (decide (8 ≤ s) && decide (s ≤ 39))

/-- The initialisers pass R57 and R226. -/
def initsGood (f : Nat → Byte) : Bool :=
  let l := imgInits f
  l.all Init.addrOk && ((imgSects f).filter (fun s => s.ty == 5)).all (fun s => s.size % 12 == 0)
  && (initMbx l).all (fun e =>
      let a := getBits e.2 0 6
      let b := getBits e.2 8 6
      !e.2.getLsbD 31 || (sideOk a && sideOk b && (decide (0x40041000 ≤ e.1) || (a == 1 && b == 1))))

/-- Every check of R60 in the order of the ROM's reading: a code of Table 2-6, 0 when the image is accepted. -/
def verifyImage (o : Otp) (s : ImgSource) : Nat :=
  let f := s.f
  if !s.ok then 0x01
  else if !imgMagic f then 0x02
  else if s.reach < imgSize f then 0x0F
  else if !imgFormed f then 0x03
  else
    match o.slotOf (imgKeyHash f) with
    | none => if (List.range 4).any (fun k => o.root k == imgKeyHash f) then 0x05 else 0x04
    | some _ =>
      let sc := sigCode f
      if sc ≠ 0 then sc
      else if imgSvn f < o.imgFloor then 0x09
      else if (imgSects f).any (fun x => Config.sha384 (x.bytes f) != x.digest) then 0x0A
      else if ((imgSects f).filter (fun x => x.ty == 3)).any (fun x => !pkgGood o (x.bytes f)) then 0x0B
      else if (imgPkgs f).any (fun p => decide (p.2.svn < o.loadFloor)) then 0x0C
      else if !bindsGood f then 0x0D
      else if !initsGood f then 0x0E
      else 0

/-- The lowest load SVN among the packages (R72). -/
def imgLoadSvn (f : Nat → Byte) : Nat := (imgPkgs f).foldl (fun m p => min m p.2.svn) 63

/-- The greatest image, 64 MiB (R52). -/
def imgMax : Nat := 0x4000000

/-- The image at offset 0 of a flash (R50 to R52): `answers` the device answers, `sfdp` it has a valid SFDP signature. -/
def Dev.flashImage (d : Dev) (b : Bool) (answers sfdp : Bool) : ImgSource :=
  let base := if b then 0x80000000 else 0x70000000
  ⟨fun a => d.byte (base + a), answers, if sfdp then imgMax else 0x1000000⟩

end Sys2Proof.Machine
end

