-- ==== Sys2Proof/Machine/Boot.lean ====
section
/-!
DEFINITION. The boot ROM's waits and the boot registers (R46 to R49, R64 to R72, R465, R466), all but loading an image.
-/

namespace Sys2Proof.Machine

/-- Replace the boot part. -/
def Dev.setBoot (d : Dev) (b : Boot) : Dev := { d with boot := b }

/-- One alarm of the boot ROM or the station firmware goes to the journal; its CODE is not given (Config.bootAlarmCode). -/
def Dev.bootAlarm (d : Dev) (what : Nat) : Dev :=
  let hdr : Word := BitVec.ofNat 32 ((Config.bootAlarmCode what).toNat * 65536)
  d.journal { origin := 257, time := d.jtime, cls := 0, row := some [0, 0, hdr, 0, 0, 0, 0, 0] }

/-- The boot-state row of flash A, or of flash B (R64). -/
def Dev.bootRow (d : Dev) (b : Bool) : BootRow := if b then d.boot.rowB else d.boot.rowA

/-- Replace a boot-state row. -/
def Dev.setBootRow (d : Dev) (b : Bool) (r : BootRow) : Dev :=
  d.setBoot (if b then { d.boot with rowB := r } else { d.boot with rowA := r })

/-- The ROM waits for GO (R47). -/
def Dev.bootWait (d : Dev) (p : BootPhase) : Dev :=
  ((d.setBoot { d.boot with phase := p }).setB BOOT_STAT_HELD true).bootAlarm 0

/-- The ROM waits again for GO after a host's attempt, or goes on in the safe hold it was made in (R48, R66). -/
def Dev.hostWait (d : Dev) : Dev :=
  if d.boot.sel = 1 then d.bootWait .waitGo else d.setBoot { d.boot with phase := .safeHold }

/-- The clock question is settled: under 0b01 the ROM waits for a host, else it looks for an image (Table 2-1). -/
def Dev.bootNext (d : Dev) : Dev :=
  if d.boot.sel = 1 then d.bootWait .waitGo else d.setBoot { d.boot with phase := .select }

/-- The 1 ms plumb check of the boot ROM ends with `ppm` (R49, R465, R466). -/
def Dev.plumbCheck (d : Dev) (ppm : Int) : Dev :=
  if d.boot.phase ≠ .plumb || decide (d.wall < d.pw.plumbAt + 20000000) then d
  else
    let d := (d.setPw { d.pw with plumbAt := d.wall }).plumbNote ppm
    let d := d.setF CLK_PLUMB_TRIES (d.f CLK_PLUMB_TRIES + 1)
    if d.plumbOk ppm then
      let d := ((d.setB CLK_STAT_MAINOK true).setB CLK_STAT_RCACT false).setF CLK_STAT_LOCK 7
      let d := if d.b CLK_STAT_SILLRC then d.setB BOOT_STAT_CLK_DEGRADED true else d
      d.bootNext
    else if 10 ≤ d.f CLK_PLUMB_TRIES then
      ((d.setB BOOT_STAT_CLK_DEGRADED true).setB TIME_STAT_CLKFAIL true).bootNext
    else d

/-! ### The host's path (R48) -/

/-- Cut a range into requests of at most 4 KiB. -/
def hostRanges (ofs size : Nat) : List (Nat × Nat) :=
  (List.range ((size + 4095) / 4096)).map (fun i => (ofs + 4096 * i, min 4096 (size - 4096 * i)))

/-- Ask for the next range, or go on to judge the image. -/
def Dev.hostNext (d : Dev) : Dev :=
  match d.boot.hostAsk with
  | [] => (d.setBoot { d.boot with phase := .hostJudge }).wr BOOT_HREQ_LEN 0
  | (o, l) :: _ => (d.wr BOOT_HREQ_OFS (BitVec.ofNat 32 o)).wr BOOT_HREQ_LEN (BitVec.ofNat 32 (l + 2 ^ 31))

/-- The bytes a host has pushed, by image offset. -/
def Dev.hostByte (d : Dev) (a : Nat) : Byte := Tab.look d.boot.hostImg 0 a

/-- A host image is rejected (R48): its code goes to BOOT_HSTAT, and the ROM waits for GO again. -/
def Dev.hostReject (d : Dev) (code : Nat) : Dev :=
  let d := ((d.setF BOOT_HSTAT_REJ code).setB BOOT_HSTAT_BUSY false).wr BOOT_HREQ_LEN 0
  (d.setBoot { d.boot with hostImg := [], hostAsk := [] }).hostWait

/-- GO starts the path a host has chosen (R48). -/
def Dev.hostGo (d : Dev) : Dev :=
  let start := fun (d : Dev) (p : BootPhase) =>
    ((d.setBoot { d.boot with phase := p }).setB BOOT_STAT_HELD false).setB BOOT_HSTAT_BUSY true
  match d.f BOOT_HCTL_MODE with
  | 1 => start d .hostPull
  | 2 =>
    let d := start d .hostPush
    (d.setBoot { d.boot with hostImg := [], hostAsk := [(0, 4096), (4096, 4096)] }).hostNext
  | _ => d

/-- A write of BOOT_CTL.GO (R47, R48, R66). -/
def Dev.bootGo (d : Dev) : Dev :=
  match d.boot.phase with
  | .holdGo => (d.setBoot { d.boot with phase := .ready }).setB BOOT_STAT_HELD false
  | .waitGo => d.hostGo
  | .safeHold => d.hostGo
  | _ => d

/-- The `n` bytes of BOOT_HBUF. -/
def Dev.hbuf (d : Dev) (n : Nat) : List Byte :=
  ((List.range ((n + 3) / 4)).flatMap (fun k => natLe 4 (d.rd BOOT_HBUF k).toNat)).take n

/-- A write of BOOT_HCTL.DONE (R48): the ROM takes the range and asks for the next; after 0x0000 to 0x1FFF come the signature block
and the sections. -/
def Dev.hostRange (d : Dev) : Dev :=
  if d.boot.phase ≠ .hostPush || !d.b BOOT_HREQ_LEN_REQ then d
  else
    match d.boot.hostAsk with
    | [] => d
    | (o, l) :: rest =>
      let bs := d.hbuf l
      let img := ((List.range l).zip bs).foldl (fun t e => Tab.put t 0 (o + e.1) e.2) d.boot.hostImg
      let d := d.setBoot { d.boot with hostImg := img, hostAsk := rest }
      if o = 4096 then
        let f := d.hostByte
        if !imgMagic f then d.hostReject 0x02
        else if imgMax < imgSize f then d.hostReject 0x0F
        else if !imgFormed f then d.hostReject 0x03
        else
          let asks := hostRanges (hdr f 0x01C 4) (hdr f 0x020 4) ++ (imgSects f).flatMap (fun s => hostRanges s.ofs s.size)
          (d.setBoot { d.boot with hostAsk := asks }).hostNext
      else d.hostNext

/-- A write of BOOT_HCTL.ABORT (R48). -/
def Dev.hostAbort (d : Dev) : Dev :=
  if d.boot.phase = .hostPush || d.boot.phase = .hostPull || d.boot.phase = .hostJudge then
    let d := (d.setB BOOT_HSTAT_BUSY false).wr BOOT_HREQ_LEN 0
    (d.setBoot { d.boot with hostImg := [], hostAsk := [] }).hostWait
  else d

/-- A write of BOOT_HCTL. -/
def Dev.wHctl (d : Dev) (v : Word) : Dev :=
  let d := d.setF BOOT_HCTL_MODE (getBits v 0 2)
  if v.getLsbD 3 then d.hostAbort else if v.getLsbD 2 then d.hostRange else d

/-! ### Confirmation and safe hold (R65 to R67) -/

/-- The flash the running image came from: `some true` for B. -/
def Dev.runningFlash (d : Dev) : Option Bool :=
  match d.boot.img with
  | some i => match i.src with
    | .flashA => some false
    | .flashB => some true
    | .host => none
  | none => none

/-- A write of BOOT_CTL.CONFIRM by a secure master (R67). -/
def Dev.bootConfirm (d : Dev) : Dev :=
  if d.boot.phase ≠ .running then d
  else
    let d := d.setB BOOT_STAT_CONFIRMED true
    match d.runningFlash with
    | some b => d.setBootRow b { d.bootRow b with count := 0 }
    | none => d

/-- The confirmation window has passed without a confirmation (R67). -/
def Dev.confirmDue (d : Dev) : Bool :=
  match d.boot.img with
  | some i => d.boot.phase == .running && !d.b BOOT_STAT_CONFIRMED && decide (d.boot.since + i.confirmS * wallSecond ≤ d.wall)
  | none => false

/-- The boot watchdog causes a chip reset (R67). -/
def Dev.confirmTimeout (d : Dev) (o : Otp) (sel : BitVec 2) : Dev := if d.confirmDue then d.chipReset o 2 sel else d

/-- Safe hold ends after 10 minutes (R65, step 4). -/
def Dev.safeHoldEnd (d : Dev) : Dev :=
  if d.boot.phase = .safeHold && decide (d.boot.since + 600 * wallSecond ≤ d.wall) then
    let d := d.setBootRow false { d.boot.rowA with mark := false }
    let d := d.setBootRow true { d.boot.rowB with mark := false }
    d.setBoot { d.boot with phase := .select }
  else d

/-- The floors ARB_ADV raises to (R72): `none` while the image is not confirmed. -/
def Dev.arbTarget (d : Dev) : Option (Nat × Nat) :=
  match d.boot.img with
  | some i => if d.b BOOT_STAT_CONFIRMED then some (i.svn, i.loadSvn) else none
  | none => none

/-- A write of BOOT_CTL.ARB_ADV seen by the chip: refused, it raises EV006 (R72). -/
def Dev.arbAdvance (d : Dev) : Dev := if d.arbTarget.isSome then d else d.raise 6

/-- The fuses after ARB_ADV: floors never decrease (R72). -/
def Otp.raise (o : Otp) (t : Option (Nat × Nat)) : Otp :=
  match t with
  | some (i, l) => { o with imgFloor := max o.imgFloor i, loadFloor := max o.loadFloor l }
  | none => o

/-- SEC_OTP_REVOKE of slot `k` is refused: it matches the running image, or it is the last one not revoked (R62). -/
def Dev.revokeRefused (d : Dev) (o : Otp) (k : Nat) : Bool :=
  (match d.boot.img with
    | some i => i.slot == k
    | none => false)
  || (!o.revoked.getLsbD k && ((List.range 4).filter (fun j => !o.revoked.getLsbD j)).length == 1)

/-- The fuses after a revocation (Table 2-5). -/
def Otp.revoke (o : Otp) (k : Nat) : Otp := { o with revoked := o.revoked ||| (1 <<< k) }

/-! ### Flash commands (R70, R71) -/

/-- The flash BOOT_FCMD acts on, `true` for B: the one whose image is not running. -/
def Dev.inactive (d : Dev) : Bool := d.runningFlash != some true

/-- Where the inactive flash's byte `a` stands in the system map. -/
def Dev.flashAddr (d : Dev) (a : Nat) : Nat := (if d.inactive then 0x80000000 else 0x70000000) + a

/-- A write of BOOT_FCMD (R70): while BUSY it is ignored with a bus error; an OP that is not one of the four starts nothing. -/
def Dev.wFcmd (d : Dev) (v : Word) : Dev × Bool :=
  if d.b BOOT_FCMD_BUSY then (d, true)
  else
    let op := getBits v 0 3
    if 1 ≤ op && op ≤ 4 then
      ((d.setBoot { d.boot with fcmd := some (op, getBits (d.rd BOOT_FADDR) 0 28) }).setB BOOT_FCMD_BUSY true, false)
    else (d, false)

/-- The 256 bytes of BOOT_FBUF. -/
def Dev.fbuf (d : Dev) : List Byte := (List.range 64).flatMap (fun k => natLe 4 (d.rd BOOT_FBUF k).toNat)

/-- Program bytes: a bit programmed to 0 stays 0 until its block is erased. -/
def Dev.program (d : Dev) (a : Nat) : List Byte → Dev
  | [] => d
  | b :: bs => (d.setByte a (d.byte a &&& b)).program (a + 1) bs

/-- What a flash command comes to: the state and RESULT (R70, R71). `bad`: the flash reports an error; `sfdp`: it has a valid SFDP
signature. -/
def Dev.flashDo (d : Dev) (o : Otp) (op a : Nat) (bad sfdp : Bool) : Dev × Nat :=
  match op with
  | 1 => if a % 65536 ≠ 0 then (d, 3) else if bad then (d, 1) else (d.forget (d.flashAddr a) (d.flashAddr a + 65536), 0)
  | 2 => if a % 256 ≠ 0 then (d, 3) else if bad then (d, 1) else (d.program (d.flashAddr a) d.fbuf, 0)
  | 3 =>
    if bad then (d, 1)
    else
      ((List.range 64).foldl (fun d k =>
        d.wr BOOT_FBUF (BitVec.ofNat 32 (leNat (d.bytesAt (d.flashAddr ((a + 4 * k) % 0x10000000)) 4))) k) d, 0)
  | _ => (d, 0x80 + verifyImage o (d.flashImage d.inactive (!bad) sfdp))

/-- A flash command completes: RESULT, BUSY clears, EV005. -/
def Dev.flashDone (d : Dev) (o : Otp) (bad sfdp : Bool) : Dev :=
  match d.boot.fcmd with
  | none => d
  | some (op, a) =>
    let (d, r) := d.flashDo o op a bad sfdp
    (((d.setBoot { d.boot with fcmd := none }).setB BOOT_FCMD_BUSY false).setF BOOT_FCMD_RESULT r).raise 5

end Sys2Proof.Machine
end

