-- ==== Sys2Proof/Machine/BusRd.lean ====
section
/-!
DEFINITION. Reading a register (R5 to R7, R15, R16, R526, R527): who may read it, and the reads that do more than return a
value.
-/

namespace Sys2Proof.Machine

/-- How an access ends: with data, with a bus error, stalled so that it is made again, or stalled on a block that reloads. -/
inductive BusAns where
  | done (data : Nat)
  | err
  | retry
  | reload (block : Nat)
  deriving DecidableEq, Repr

/-- Two registers are the same one of the manual. -/
def Reg.is (r x : Reg) : Bool := r.base == x.base

/-- The master is the one of Table 1-2. -/
def isSv0 : Master → Bool
  | .sv0 => true
  | _ => false

/-- A supervisor. -/
def isSv : Master → Bool
  | .sv0 => true
  | .sv1 => true
  | _ => false

/-- A supervisor or the host port. -/
def isSvHost : Master → Bool
  | .sv0 => true
  | .sv1 => true
  | .host => true
  | _ => false

/-- DMA or the station block. -/
def isDmaStn : Master → Bool
  | .dma _ => true
  | .stn => true
  | _ => false

/-- A register page the manual marks SR as a whole (R73, R225, R226, R240, R246, R431). -/
def Dev.srPage (d : Dev) (a : Nat) : Bool :=
  (decide (0x40030000 ≤ a) && decide (a < 0x40038000)) || (decide (0x40040000 ≤ a) && decide (a < 0x40041000))
  || (decide (0x40048000 ≤ a) && decide (a < 0x40048040))
  || (decide (0x40060000 ≤ a) && decide (a < 0x40061000) && (d.f BOOT_SECATTR_DMA_SEC).testBit ((a - 0x40060000) / 0x100))
  || (decide (0x40800000 ≤ a) && decide (a < 0x40840000) && d.b BOOT_SECATTR_STN_SEC)
  || (decide (0x40050400 ≤ a) && decide (a < 0x40050800) && d.evSecure ((a - 0x40050400) / 4))

/-- The mailbox and the side of a window address. -/
def windowAt (a : Nat) : Option (Nat × Nat) :=
  if 0x40040000 ≤ a && a < 0x40044000 && 0x20 ≤ a % 0x100 && a % 0x100 < 0x60 then
    some ((a - 0x40040000) / 0x100, (a % 0x100 - 0x20) / 0x20)
  else none

/-- The address lies in the flash programming registers (R70). -/
def isFlashReg (a : Nat) : Bool := a == 0x40038020 || a == 0x40038024 || (decide (0x40038100 ≤ a) && decide (a < 0x40038200))

/-- The address lies in the host-boot registers (R48). -/
def isHostReg (a : Nat) : Bool :=
  (decide (0x40038030 ≤ a) && decide (a < 0x4003804C)) || (decide (0x40039000 ≤ a) && decide (a < 0x4003A000))

/-- A master may access the register at `a` at all, its write rights apart: the rules that name the readers (R48, R70, R227, R240,
MBX_CFG, MBX_EPOCH, the engine pages). The station block reaches comb memory only (R210). -/
def Dev.mayRead (d : Dev) (m : Master) (a : Nat) : Bool :=
  match m with
  | .stn => false
  | _ =>
    if isFlashReg a then isSv m
    else if isHostReg a then (match m with
      | .sv0 => true
      | .host => true
      | _ => false)
    else
      match windowAt a with
      | some (b, s) => d.windowOpen m b s
      | none =>
        if 0x40040000 ≤ a && a < 0x40044000 then
          let b := (a - 0x40040000) / 0x100
          d.sideOf b 0 == m.num || d.sideOf b 1 == m.num || (a % 0x100 == 0 && isSv0 m)
        else if 0x40048000 ≤ a && a < 0x40048100 then !isDmaStn m
        else if 0x40100000 ≤ a && a < 0x40120000 then !isDmaStn m
        else true

/-- ENG_DFSTAT as a read returns it. -/
def Dev.dfstat (d : Dev) (n : Nat) : Word :=
  let g := d.e n
  let known := match g.hand with
    | some h => (d.verdict h).isSome
    | none => true
  let live := if !g.dry then 6 else if d.holdsToken n then 5 else 1
  let st := match g.run with
    | .reset => 0
    | .idle => 0
    | .atEnd => if known then 3 else 2
    | .early => if known then 3 else 2
    | .token => 3
    | .drain _ => 4
    | .halted => 7
    | .dead => 7
    | _ => live
  let conf := match g.hand with
    | some h => min 3 h.conf
    | none => 0
  let reex := match g.hand with
    | some h => h.reex
    | none => false
  let slots := g.slots.foldl (fun x e => if e.2.st = .free then x else x + 2 ^ e.1) 0
  BitVec.ofNat 32 (st + conf * 8 + (d.wantsToken n).toNat * 32 + (d.holdsToken n).toNat * 64 + reex.toNat * 128
    + g.cbuf.length * 256 + g.rset.length * 2 ^ 15 + slots * 2 ^ 21)

/-- The cycle counter of engine `n`: a read of LO latches HI (R120). -/
def Dev.readPmcyc (d : Dev) (n : Nat) : Dev × Word :=
  let c := wide64 (d.rd ENG_PMCYC_LO n) (d.rd ENG_PMCYC_HI n)
  (d.setE n { d.e n with cycHi := BitVec.ofNat 32 (c / 2 ^ 32) }, BitVec.ofNat 32 c)

/-- EVT_SUBs as master `m` sees it (R246). -/
def Dev.readSub (d : Dev) (m : Master) (k : Nat) : Word :=
  if d.secure m || !d.evSecure (40 + k) then d.rd EVT_SUB k else 0

/-- Reads that change nothing but return a value the block computes. -/
def Dev.view (d : Dev) (m : Master) (r : Reg) (i j : Nat) : Option Word :=
  match blkOf r.base with
  | some .sys =>
    if r.is SYS_CMT_STAT then some (d.cmtStat i)
    else if r.is SYS_CMT_TLO then some (Tab.look d.tbank 0 (2 * m.num))
    else if r.is SYS_CMT_THI then some (Tab.look d.tbank 0 (2 * m.num + 1))
    else none
  | some .pwr =>
    if r.is PWR_COMBSTAT then some (d.rd PWR_COMBSTAT ||| BitVec.ofNat 32 d.combBusy)
    else if r.is PWR_LMSTAT then some (BitVec.ofNat 32 d.lmBusy)
    else none
  | some .mbx =>
    if r.is MBX_RXHDR then some (d.rxhdr i j) else if r.is MBX_STAT then some (d.mbxStat i j) else none
  | some .evt =>
    if r.is EVT_PEND then some (d.rd EVT_PEND i &&& d.evVisible m i)
    else if r.is EVT_MASK then some (d.rd EVT_MASK i &&& d.evVisible m i)
    else if r.is EVT_SUB then some (d.readSub m i)
    else if r.is EVT_QSTAT then some (putBits (d.rd EVT_QSTAT) 0 9 d.jq.length)
    else none
  | some .eng =>
    if r.is ENG_DFSTAT then some (d.dfstat i)
    else if r.is ENG_WQSTAT then some (putBits (d.rd ENG_WQSTAT i) 0 7 (d.e i).wq.length)
    else if r.is ENG_PMCYC_HI then some (d.e i).cycHi
    else none
  | some .eth =>
    if r.is ETH_CNT_RXOCT_HI then some (d.octetsHi i false)
    else if r.is ETH_CNT_TXOCT_HI then some (d.octetsHi i true)
    else none
  | some .swc =>
    if r.is SWC_QLEVEL then
      let c := if i < 24 then d.qCells (8 * i + j) else if i < 26 then d.pool i else if i = 26 then d.qCells 208 else d.qCells (192 + j)
      some (putBits (d.rd SWC_QLEVEL i j) 0 16 c)
    else if r.is SWC_CBSCRED then some (if i < 24 then BitVec.ofInt 32 (d.credNow i j) else 0)
    else none
  | some .time =>
    if r.is TIME_RATE then some (if d.f TIME_STAT_STATE = 1 || d.f TIME_STAT_STATE = 2 then d.rateWord else d.rd TIME_RATE)
    else if r.is TIME_HOLDEST then some (BitVec.ofNat 32 (min 0xFFFFFFFF d.holdEst))
    else if r.is TIME_CALSTAT then some (BitVec.ofNat 32 (d.calState i + d.calAge i * 256))
    else if r.is TIME_CALTX then some (d.calTx i)
    else if r.is TIME_CALRX then some (d.calRx i)
    else if r.is TIME_TSQSTAT then some (putBits (d.rd TIME_TSQSTAT) 0 9 d.tm.tsq.length)
    else if r.is DC_DIFF then some (d.dcDiff i)
    else none
  | some .mdb => if r.is MDB_TXSTAT then some (d.mdbTxstat i) else none
  | some .sln => if r.is SLN_STAT then some (d.slnStat i) else none
  | some .pio =>
    if r.is PIO_STAT then some (d.pioStat i)
    else if r.is PIO_SM_QSTAT then some (d.qstat i j)
    else if r.is PIO_SM_TM_FRAC then some (d.tmFrac i j)
    else if r.is PIO_SM_PC then some (d.smPc i j)
    else if r.is PIO_SM_INSTR then some (d.pioM i j).instr
    else if r.is PIO_SM_SHR then some (d.pioM i j).shr
    else if r.is PIO_SM_CNT then some (d.smCnt i j)
    else if r.is PIO_SM_HLD then some (d.pioM i j).hld
    else none
  | some .stn =>
    if r.is LOOP_STAT then some (d.loopStat i)
    else if r.is STP_POS then some (d.stpPos i)
    else if r.is STP_VEL then some (d.stpVel i)
    else if r.is STP_STAT then some (d.stpStat i)
    else if r.is SENT_EVQ0 then some d.evq0
    else if r.is SENT_EVQ1 then some d.evq1
    else if r.is SENT_LGSTAT then some (putBits (d.rd SENT_LGSTAT) 1 4 d.gaspSent)
    else none
  | some .jrn =>
    if r.is JRN_STAT then some d.jrnStat
    else if r.is JRN_PART_FILL then some (d.jrnFill i)
    else if r.is JRN_PUSHHEAD then some d.pushHead
    else if r.is JRN_WEAR then some d.jrnWear
    else none
  | _ => none

/-- Reads that change state. -/
def Dev.take? (d : Dev) (m : Master) (r : Reg) (i j : Nat) : Option (Dev × Word × Bool) :=
  let ok := fun (x : Dev × Word) => some (x.1, x.2, false)
  match blkOf r.base with
  | some .mbx =>
    if r.is MBX_RX then ok (d.mbxRx i j) else if r.is MBX_PEG then ok (d.pegRead m.num i) else none
  | some .eng => if r.is ENG_PMCYC_LO then ok (d.readPmcyc i) else none
  | some .eth =>
    if r.is ETH_CNT_RXOCT_LO then ok (d.readOctets i false)
    else if r.is ETH_CNT_TXOCT_LO then ok (d.readOctets i true)
    else none
  | some .time =>
    if r.is TIME_NOW_LO then ok d.readNow
    else if r.is DC_NOW_LO then ok (d.readDcNow i)
    else if r.is TIME_RTC_LO then ok d.readRtc
    else if r.is TIME_PPSI_LO then ok d.readPpsi
    else if r.is TIME_EV_LO then ok (d.readEv i)
    else if r.is TIME_EV_FRAC then ok (d.readEvFrac i)
    else if r.is TIME_TSQ0 then ok d.readTsq0
    else if r.is TIME_TSQ3 then ok d.readTsq3
    else none
  | some .mdb => if r.is MDB_TMREF_LO then ok (d.readTmref i) else none
  | some .pio => if r.is PIO_SM_RXQ then some (d.readRxq m i j) else none
  | some .stn =>
    if r.is AFE_RES then ok (d.readAfe i) else if r.is SENT_EVQ2 then ok d.readEvq2 else none
  | _ => none

/-- The lane pages in which the MDIO registers do not exist (R268): they read 0. -/
def mdioAbsent (r : Reg) (i : Nat) : Bool :=
  ((r.is ETH_MDIOCMD || r.is ETH_MDIODATA) && decide (i < 16)) || (r.is ETH_MDIOCFG && i != 16)

/-- The value of a register as a plain read returns it: the staged copy of a staged one (R20), WO fields as 0. -/
def Dev.plainRead (d : Dev) (m : Master) (r : Reg) (i j : Nat) : Word :=
  let v := match d.view m r i j with
    | some v => v
    | none => if r.staged then d.rdStaged r i j else d.rd r i j
  v &&& ~~~(r.accBits .wo)

/-- A read of the register instance (i, j) by a master that may read it. -/
def Dev.readReg (d : Dev) (m : Master) (r : Reg) (i j : Nat) : Dev × BusAns :=
  if mdioAbsent r i then (d, .done 0)
  else
    match d.take? m r i j with
    | some (d, _, true) => (d, .err)
    | some (d, v, false) => (d, .done v.toNat)
    | none => (d, .done (d.plainRead m r i j &&& ~~~(if d.secure m then 0 else r.srBits)).toNat)

/-- The staged register whose mirror of the value in force lies at `a` (R21). -/
def mirrorOf (a : Nat) : Option (Reg × Nat × Nat) :=
  if a % 0x1000 < 0x800 then none
  else
    match findReg (a - 0x800) with
    | some (r, i, j) => if r.staged then some (r, i, j) else none
    | none => none

/-- The address of a word of the flow contexts. -/
def isCtx (a : Nat) : Bool := decide (0x40380000 ≤ a) && decide (a < 0x403C0000)

/-- The address of a word of the MSI-X table or its pending-bit array. -/
def isMsix (a : Nat) : Bool := decide (0x40058000 ≤ a) && decide (a < 0x40059020)

/-- A read of register instance (i, j) by a master, with the rights it needs (R5, R15, R527). -/
def Dev.regGet (d : Dev) (m : Master) (r : Reg) (i j : Nat) : Dev × BusAns :=
  let a := r.addr i j
  if !d.mayRead m a || (d.srPage a && !d.secure m) || (r.allSr && !d.secure m) then (d, .err) else d.readReg m r i j

/-- An aligned 32-bit read of a peripheral block by master `m` (R16, R526). -/
def Dev.regRead (d : Dev) (m : Master) (a : Nat) : Dev × BusAns :=
  if !d.mayRead m a || (d.srPage a && !d.secure m) then (d, .err)
  else if isCtx a then (d, .done (d.word a).toNat)
  else if isMsix a then (d, .done (d.msixWord a).toNat)
  else
    match findReg a with
    | some (r, i, j) => d.regGet m r i j
    | none =>
      match mirrorOf a with
      | some (r, i, j) => (d, .done (d.rd r i j).toNat)
      | none => (d, .err)

end Sys2Proof.Machine
end

