-- ==== Sys2Proof/Machine/BusWr.lean ====
section
/-!
DEFINITION. Writing a register (R5 to R7, R15, R16, R20, R21, R25, R526 to R528): who may write it, what SR and LK let through,
and the writes that do more than change a value.
-/

namespace Sys2Proof.Machine

/-- What a write brings with it: the writing master, the arrival time of a staged write or an arm (wall time), and the time base's
stamp then (R26, R29, R32). -/
structure Wr where
  m : Master
  arr : Nat
  stamp : Nat

/-- A write that arrives now. -/
def Dev.wrNow (d : Dev) (m : Master) : Wr := ⟨m, d.wall, d.stamp⟩

/-! ### Write rights -/

/-- Engine `n` may write the flow-context word at `a`: of an invalid context, or of one whose ENG names it (R283). -/
def Dev.ctxEngine (d : Dev) (n a : Nat) : Bool :=
  let i := (a - 0x40380000) / 64
  !d.ctxValid i || getBits (d.ctxW i 0x28) 3 5 == n

/-- The bits of a flow-context word that Table 9-3 and Table 9-4 define. -/
def ctxMask (a : Nat) : Word :=
  match a % 64 with
  | 0x00 => 0x01FFFFFF
  | 0x28 => 0x000FFFFF
  | 0x2C => 0x0FFFFFFF
  | 0x34 => 0x0003FFFF
  | _ => 0xFFFFFFFF

/-- An engine may write these registers of the station block (R431). -/
def stnEngine (r : Reg) : Bool := r.is LOOP_SP || r.is LOOP_MANOUT || r.is STP_TARGET || r.is STP_CTL

/-- The lane of a page of SLN or PIO (chapter 13). -/
def laneOfPage (a : Nat) : Nat := if a < 0x40700000 then 40 + (a - 0x40600000) / 0x1000 else 56 + (a - 0x40700000) / 0x1000

/-- The engine registers an engine may write, in its own page (chapter 03). -/
def engOwnReg (r : Reg) : Bool := r.is ENG_PMSEL || r.is ENG_PMCNT_LO || r.is ENG_PMCNT_HI || r.is ENG_TAGCTL

/-- A master's write reaches the register: the rules that name the writers (R69, R203, R208, R273, R310, R431, R475, R503, chapters 03
and 13, PWR_SUPSTAT). -/
def Dev.mayWrite (d : Dev) (m : Master) (r : Reg) (a : Nat) : Bool :=
  match blkOf a with
  | some .swc => isSvHost m
  | some .time => isSvHost m
  | some .stn => isSvHost m || ((engOf m).isSome && stnEngine r)
  | some .sln => isSvHost m || (match engOf m with
      | some n => (d.bindSlot n (laneOfPage a)).isSome
      | none => false)
  | some .pio => isSvHost m || (match engOf m with
      | some n => (d.bindSlot n (laneOfPage a)).isSome
      | none => false)
  | some .eng => isSvHost m || (match engOf m with
      | some n => a / 0x1000 == 0x40100 + n && engOwnReg r
      | none => false)
  | some .pwr => if r.is PWR_CTL || r.is PWR_LMPWR then isSv m else if r.is PWR_SUPSTAT then isSvHost m else true
  | some .jrn => if r.is JRN_ALMACK then isSv m else true
  | _ => true

/-! ### SR and LK -/

/-- The value a write presents once SR and LK have acted, and whether they answer a bus error (R527, R528): refused RW bits take the
present value `cur`, refused WO and W1C bits 0. -/
def Dev.srLk (d : Dev) (m : Master) (r : Reg) (cur v : Word) : Word × Bool :=
  let sr := if d.secure m then 0 else r.srBits
  let lk := if d.boot.locked then r.lkBits else 0
  let v1 := (v &&& ~~~sr) ||| (cur &&& sr &&& r.accBits .rw)
  ((v1 &&& ~~~lk) ||| (cur &&& lk), (v &&& sr) != 0 || ((v1 ^^^ cur) &&& lk) != 0)

/-- The write of a register without behaviour of its own (R5): RW bits take the value, a 1 clears a W1C bit, others stay. -/
def Dev.plainWrite (d : Dev) (r : Reg) (i j : Nat) (v : Word) : Dev :=
  let cur := d.rd r i j
  let rw := r.accBits .rw
  d.wr r (((cur &&& ~~~rw) ||| (v &&& rw)) &&& ~~~(v &&& r.accBits .w1c)) i j

/-! ### Registers with behaviour of their own -/

/-- A write of ENG_CTL (R116, R476, R208): an engine whose code memory is not on ignores it. -/
def Dev.wEngCtl (d : Dev) (n : Nat) (v : Word) : Dev :=
  if !d.memOn (16 + 2 * n) then d
  else
    let d := d.setB ENG_CTL_HALT (v.getLsbD 1) n
    let d := if v.getLsbD 1 then d.engHaltIdle else d.engResume
    if v.getLsbD 0 then d.engineReset n 1 else d

/-- A write of BOOT_CTL: GO (R47) by SV0 or the host port, CONFIRM (R67) and ARB_ADV (R72) by a secure master, whose bits SR has let
through. -/
def Dev.wBootCtl (d : Dev) (m : Master) (v : Word) : Dev × Bool :=
  let may := isSv0 m || m == .host
  let d := if v.getLsbD 0 then d.bootConfirm else d
  let d := if v.getLsbD 1 then
      (match d.arbTarget with
        | some (i, l) => { d with blow := d.blow ++ [.floors i l] }
        | none => d.arbAdvance)
    else d
  if v.getLsbD 2 then (if may then (d.bootGo, false) else (d, true)) else (d, false)

/-- A write of SEC_OTP_REVOKE (R62). The root slots' revoke bits are those BOOT_ARB.REVOKED shows. -/
def Dev.wRevoke (d : Dev) (v : Word) : Dev × Bool :=
  let k := getBits v 0 2
  let o : Otp := { revoked := BitVec.ofNat 4 (d.f BOOT_ARB_REVOKED) }
  if getBits v 16 16 ≠ 0x5256 then (d, false)
  else if d.revokeRefused o k then (d, true)
  else ({ d with blow := d.blow ++ [.revoke k] }, false)

/-- A W1C write of EVT_SUBs (R244, R246). -/
def Dev.wEvtSub (d : Dev) (m : Master) (k : Nat) (v : Word) : Dev :=
  if d.secure m || !d.evSecure (40 + k) then d.wr EVT_SUB (d.rd EVT_SUB k &&& ~~~v) k else d

/-- A write of DCk_ADJCTL (R313). -/
def Dev.wDcAdj (d : Dev) (k : Nat) (v : Word) : Dev :=
  let d := d.setB DC_ADJCTL_STEP (v.getLsbD 1) k
  if v.getLsbD 0 then d.dcAdjust k (v.getLsbD 1) else d

/-- A write of ENG_TAGCTL: a new interval starts when EN sets (R123). -/
def Dev.wTagCtl (d : Dev) (n : Nat) (v : Word) : Dev :=
  let on := v.getLsbD 16 && !d.b ENG_TAGCTL_EN n
  let d := d.wr ENG_TAGCTL (v &&& 0x1FFFF) n
  if on then d.setE n { d.e n with tagLeft := 0 } else d

/-- Clearing MEM_COLL.VALID also clears COUNT. -/
def Dev.wColl (d : Dev) (v : Word) : Dev := if v.getLsbD 31 then (d.setB MEM_COLL_VALID false).setF MEM_COLL_COUNT 0 else d

/-- Registers of SYS, CLK, PWR, SEC and BOOT. -/
def Dev.setCore (d : Dev) (w : Wr) (r : Reg) (i : Nat) (v : Word) : Option (Dev × Bool) :=
  let ok := fun (x : Dev) => some (x, false)
  let bank := fun (k : Nat) => ok { d with tbank := Tab.put d.tbank 0 (2 * w.m.num + k) v }
  if r.is SYS_CMT_ARM then ok (d.cmtArm w.m v w.arr w.stamp)
  else if r.is SYS_CMT_TLO then bank 0
  else if r.is SYS_CMT_THI then bank 1
  else if r.is CLK_CTL then ok (d.wClkCtl v)
  else if r.is CLK_ENGPLL then ok (d.wEngPll v)
  else if r.is PWR_CTL then ok (d.wPwrCtl v)
  else if r.is PWR_COMBPWR then some (d.wCombPwr w.m v)
  else if r.is PWR_LMPWR then some (d.wLmPwr w.m i v)
  else if r.is PWR_RTCALMCTL then ok (d.wRtcAlmCtl v)
  else if r.is SEC_OTP_REVOKE then some (d.wRevoke v)
  else if r.is BOOT_CTL then some (d.wBootCtl w.m v)
  else if r.is BOOT_FCMD then some (d.wFcmd v)
  else if r.is BOOT_HCTL then ok (d.wHctl v)
  else none

/-- Registers of MBX, EVT, DMA, MEM and ENG. -/
def Dev.setShared (d : Dev) (w : Wr) (r : Reg) (i j : Nat) (v : Word) : Option (Dev × Bool) :=
  let ok := fun (x : Dev) => some (x, false)
  if r.is MBX_TX then some (d.mbxTx i j v)
  else if r.is MBX_RING then some (d.mbxRing w.m.num i j v)
  else if r.is MBX_PEG then ok (d.pegWrite w.m.num i v)
  else if r.is MBX_PEGFREE then ok (d.pegFree w.m.num v)
  else if r.is EVT_PEND then ok (d.wEvtPend w.m i v)
  else if r.is EVT_MASK then ok (d.wEvtMask w.m i v)
  else if r.is EVT_RAISE then some (d.wEvtRaise w.m v)
  else if r.is EVT_SUB then ok (d.wEvtSub w.m i v)
  else if r.is EVT_MAP then ok (d.plainWrite r i j (v ||| (if fixedSecure i then 0x2000000 else 0)))
  else if r.is DMA_CTL then some (d.wDmaCtl i v)
  else if r.is DMA_GO then some (d.wDmaGo i v)
  else if r.is DMA_SRC_LO || r.is DMA_SRC_HI || r.is DMA_DST_LO || r.is DMA_DST_HI || r.is DMA_LEN then
    (if d.shadowShut i then some (d, true) else none)
  else if r.is DMA_TRIDX then ok (d.wTail i true v)
  else if r.is DMA_RRIDX then ok (d.wTail i false v)
  else if r.is MEM_BANKOWN then some (d.wBankOwn w.m i v)
  else if r.is MEM_COLL then ok (d.wColl v)
  else if r.is ENG_CTL then ok (d.wEngCtl i v)
  else if r.is ENG_TAGCTL then ok (d.wTagCtl i v)
  else none

/-- Registers of ETH, SWC and TIME. -/
def Dev.setNet (d : Dev) (r : Reg) (i : Nat) (v : Word) : Option (Dev × Bool) :=
  let ok := fun (x : Dev) => some (x, false)
  if mdioAbsent r i then some (d, true)
  else if r.is ETH_CTL then ok (d.wEthCtl i v)
  else if r.is ETH_ANADV then ok (d.wAnadv i v)
  else if r.is ETH_EEE then ok (d.wEee i v)
  else if r.is ETH_MMCTL then ok (d.wMmctl i v)
  else if r.is ETH_MDIOCMD then some (d.wMdio i v)
  else if r.is SWC_RED_CFG then ok (d.redJudge (d.plainWrite r i 0 v) [i])
  else if r.is SWC_FDBCMD then some (d.fdbCmd (getBits v 0 3))
  else if r.is SWC_SVTRIDX then ok (d.wTail 16 true v)
  else if r.is SWC_SVRRIDX then ok (d.wTail 16 false v)
  else if r.is TIME_CTL then ok (d.wTimeCtl v)
  else if r.is TIME_SETCMD then (if v.getLsbD 0 then some d.timeSet else ok d)
  else if r.is TIME_RATE then ok (d.wTimeRate v)
  else if r.is TIME_RTCTRIM then ok (d.wRtcTrim v)
  else if r.is TIME_TGTCTL then ok (d.wTgtCtl v)
  else if r.is DC_CFG then ok (d.wDcCfg i v)
  else if r.is DC_ADJCTL then ok (d.wDcAdj i v)
  else none

/-- The bank of a coefficient register of a loop (R452). -/
def loopBank (r : Reg) (j : Nat) : Option Nat :=
  if r.is LOOP_KP || r.is LOOP_KI || r.is LOOP_KD || r.is LOOP_ALPHA || r.is LOOP_BIAS || r.is LOOP_OMIN || r.is LOOP_OMAX
    || r.is LOOP_NBP then some j
  else if r.is LOOP_BP0 then some 0
  else if r.is LOOP_BP1 then some 1
  else none

/-- Registers of the lanes, the station block and the journal. -/
def Dev.setLanes (d : Dev) (w : Wr) (r : Reg) (i j : Nat) (v : Word) : Option (Dev × Bool) :=
  let ok := fun (x : Dev) => some (x, false)
  let shut := fun (c : Bool) => if c then some (d, true) else none
  if r.is MDB_CTL then ok (d.wMdbCtl i v)
  else if r.is MDB_NBT || r.is MDB_DBT || r.is MDB_TDC then shut (d.b MDB_CTL_EN i)
  else if r.is SLN_CTL then some (d.wSlnCtl i v)
  else if r.is SLN_CHAR || r.is SLN_RATE then shut (d.b SLN_CTL_EN i)
  else if r.is BRG_CTL then ok (d.wBrgCtl i v)
  else if r.is BRG_CFG || r.is BRG_HOP then shut (d.b BRG_CTL_EN i)
  else if r.is PIO_CTL then some (d.wPioCtl w.m i v)
  else if r.is PIO_FLAGS then ok (d.wFlags i 0xFF (BitVec.ofNat 8 v.toNat))
  else if r.is PIO_SM_QCFG then some (d.wQcfg i j v)
  else if r.is PIO_SM_TXQ then some (d.wTxq i j v)
  else if r.is PIO_SM_TM_LO then ok (d.loadTm i j v (d.f PIO_SM_TM_FRAC_FRAC i j))
  else if r.is SENT_CTL then ok (d.wSentCtl v)
  else if r.is SENT_CAP then ok (d.wSentCap v)
  else if r.is LOOP_CTL then ok (d.wLoopCtl i v)
  else if r.is STP_CTL then ok (d.wStpCtl i v)
  else if r.is STP_TARGET then ok (d.axTarget w.m.num i v)
  else if r.is STP_POS then some (d.wStpPos i v)
  else if r.is JRN_CTL then ok (d.wJrnCtl (d.secure w.m) v)
  else if r.is JRN_PUSHACK then ok (d.pushAck v)
  else if r.is JRN_ALMACK then ok (d.almAck v)
  else
    match loopBank r j with
    | some b => shut (d.bankShut i b)
    | none => none

/-- A write of register instance (i, j) whose value SR and LK have let through. -/
def Dev.writeReg (d : Dev) (w : Wr) (r : Reg) (i j : Nat) (v : Word) : Dev × Bool :=
  if r.staged then
    let d := d.stage r i j (v &&& r.defined) w.arr
    (if r.is PIO_PROG then d.progNow i j v else d, false)
  else
    let own := match blkOf r.base with
      | some .sys => d.setCore w r i v
      | some .clk => d.setCore w r i v
      | some .pwr => d.setCore w r i v
      | some .sec => d.setCore w r i v
      | some .boot => d.setCore w r i v
      | some .mbx => d.setShared w r i j v
      | some .evt => d.setShared w r i j v
      | some .dma => d.setShared w r i j v
      | some .mem => d.setShared w r i j v
      | some .eng => d.setShared w r i j v
      | some .eth => d.setNet r i v
      | some .swc => d.setNet r i v
      | some .time => d.setNet r i v
      | _ => d.setLanes w r i j v
    match own with
    | some x => x
    | none => (d.plainWrite r i j v, false)

/-- A write of a word of a flow context (R273, R283). -/
def Dev.ctxWrite (d : Dev) (m : Master) (a : Nat) (v : Word) : Dev × Bool :=
  let may := match engOf m with
    | some n => d.ctxEngine n a
    | none => isSvHost m
  if may then (d.setWord a (v &&& ctxMask a), false) else (d, true)

/-- A write of a word of the MSI-X table (R247; PCIe Base 3.0, log 13): unmasking a pending vector sends its message. The pending-bit
array is read only. -/
def Dev.wMsix (d : Dev) (a : Nat) (v : Word) : Dev :=
  if 0x40059000 ≤ a then d
  else
    let vec := (a - 0x40058000) / 16
    let p := 0x40059000 + 4 * (vec / 32)
    let bit : Word := 1 <<< (vec % 32)
    let d := d.setMsixWord a (if a % 16 = 12 then v &&& 1 else v)
    if a % 16 = 12 && !v.getLsbD 0 && (d.msixWord p &&& bit) != 0 then (d.setMsixWord p (d.msixWord p &&& ~~~bit)).sendVector vec
    else d

/-- A write of register instance (i, j) by a master, with the rights it needs (R5, R15, R527, R528); `true` is a bus error. -/
def Dev.regPut (d : Dev) (w : Wr) (r : Reg) (i j : Nat) (v : Word) : Dev × Bool :=
  let a := r.addr i j
  if !d.mayRead w.m a || (d.srPage a && !d.secure w.m) || !d.mayWrite w.m r a || (r.allSr && !d.secure w.m) then (d, true)
  else
    let p := d.srLk w.m r (d.rd r i j) v
    let q := d.writeReg w r i j p.1
    (q.1, p.2 || q.2)

/-- An aligned 32-bit write of a peripheral block (R16, R526); `true` is a bus error. -/
def Dev.regWrite (d : Dev) (w : Wr) (a : Nat) (v : Word) : Dev × Bool :=
  if !d.mayRead w.m a || (d.srPage a && !d.secure w.m) then (d, true)
  else if isCtx a then d.ctxWrite w.m a v
  else if isMsix a then (d.wMsix a v, false)
  else
    match findReg a with
    | none => (d, true)
    | some (r, i, j) => d.regPut w r i j v

end Sys2Proof.Machine
end

