-- ==== Sys2Proof/Machine/Bus.lean ====
section
/-!
DEFINITION. The system interconnect (R12 to R17, R69, R78, R210, R211, R495, R497, R498): routing an access to its region, and the
arbitration of requests made in one cycle.
-/

namespace Sys2Proof.Machine

/-- What an access of memory comes to, as an answer. -/
def busOf : Dev × MemRes → Dev × BusAns
  | (d, .done v) => (d, .done v)
  | (d, .err) => (d, .err)
  | (d, .stall b) => (d, .reload b)

/-- A load, or a store of a value, in a memory whose rights have been checked. -/
def Dev.memAcc (d : Dev) (num a w : Nat) (wr : Option Nat) : Dev × BusAns :=
  busOf (match wr with
    | none => d.memLoad num a w
    | some v => d.memStore num a w v)

/-- An access of comb memory: it waits while a drain or a token holder holds the line (R103, R106). -/
def Dev.combAcc (d : Dev) (m : Master) (a w : Nat) (wr : Option Nat) : Dev × BusAns :=
  if d.combWaits m a wr.isSome then (d, .retry)
  else
    busOf (match wr with
      | none => d.combLoad m a w
      | some v => d.combStore m a w v)

/-- A master reaches the local memories of engine `n` (R78, R210). -/
def localOk (m : Master) (n : Nat) : Bool :=
  match m with
  | .ce k => k.val == n
  | .stn => false
  | _ => true

/-- `w` bytes of a row from byte `o`. -/
def rowPart (ws : List Word) (o w : Nat) : Nat := leNat (((ws.flatMap (fun x => natLe 4 x.toNat)).drop o).take w)

/-- An access of the journal window (R495, R497, R498): a row being written stalls its reader; the window is written by words. -/
def Dev.jrnAcc (d : Dev) (m : Master) (a w : Nat) (wr : Option Nat) : Dev × BusAns :=
  let r := (a - 0x60000000) / 32
  let o := a % 32
  if (r < 256 && !isSv0 m) || m == .stn then (d, .err)
  else
    match wr with
    | none =>
      if d.rowBusy r then (d, .retry)
      else
        let (d, ws) := d.readRow r
        (d, .done (rowPart ws o w))
    | some v =>
      if w < 4 then (d, .err)
      else
        let (d, e) := d.windowWrite m.num r (o / 4) (BitVec.ofNat 32 v)
        let (d, e') := if w = 8 then d.windowWrite m.num r (o / 4 + 1) (BitVec.ofNat 32 (v / 2 ^ 32)) else (d, false)
        (d, if e || e' then .err else .done 0)

/-- An access of a peripheral block (R16). -/
def Dev.periAcc (d : Dev) (w : Wr) (a wd : Nat) (wr : Option Nat) : Dev × BusAns :=
  if wd ≠ 4 || a % 4 ≠ 0 then (d, .err)
  else
    match wr with
    | none => d.regRead w.m a
    | some v =>
      match d.regWrite w a (BitVec.ofNat 32 v) with
      | (d, true) => (d, .err)
      | (d, false) => (d, .done 0)

/-- An access of `wd` bytes at `a`, aligned to its width, by a master other than an engine in its own memories (R15). -/
def Dev.busOne (d : Dev) (w : Wr) (a wd : Nat) (wr : Option Nat) : Dev × BusAns :=
  match regionOf a with
  | .rom =>
    match wr with
    | none => (d, .done (leNat ((List.range wd).map (fun i => Config.romByte (a + i)))))
    | some _ => (d, .err)
  | .tcm0 => if d.secure w.m && w.m != .stn then d.memAcc w.m.num a wd wr else (d, .err)
  | .tcm1 => if w.m == .stn then (d, .err) else d.memAcc w.m.num a wd wr
  | .comb => d.combAcc w.m a wd wr
  | .code n =>
    if localOk w.m n && (wr.isNone || !d.boot.released || isSv0 w.m) then d.memAcc w.m.num a wd wr else (d, .err)
  | .data n => if localOk w.m n then d.memAcc w.m.num a wd wr else (d, .err)
  | .peri => d.periAcc w a wd wr
  | .journal => d.jrnAcc w.m a wd wr
  | .flashA => if wr.isNone && w.m != .stn then (d, .done (d.bytesNat a wd)) else (d, .err)
  | .flashB => if wr.isNone && w.m != .stn then (d, .done (d.bytesNat a wd)) else (d, .err)
  | .gap => (d, .err)

/-- An access that is not aligned to its width acts byte by byte, lowest address first, up to the first that fails or stalls. -/
def Dev.busBytes (d : Dev) (w : Wr) (a : Nat) (wr : Option Nat) : Nat → Dev × BusAns
  | 0 => (d, .done 0)
  | n + 1 =>
    match d.busOne w a 1 (wr.map (· % 256)) with
    | (d, .done x) =>
      match d.busBytes w (a + 1) (wr.map (· / 256)) n with
      | (d, .done y) => (d, .done (x + 256 * y))
      | r => r
    | r => r

/-- An access of `wd` bytes at `a`. -/
def Dev.bus (d : Dev) (w : Wr) (a wd : Nat) (wr : Option Nat) : Dev × BusAns :=
  if wd = 0 || a % wd = 0 then d.busOne w a wd wr else d.busBytes w a wr wd

/-! ### Requests of one cycle -/

/-- What a request contends for (R13, R210): a comb bank, or port B of a local memory; nothing on port A and in other regions. -/
def portOf (q : Req) : Option Nat :=
  let b := fun (mine : Bool) (k : Nat) => if mine then none else some k
  match regionOf q.addr.toNat with
  | .comb => some (combBank q.addr.toNat)
  | .code n => b (engOf q.m == some n) (100 + 2 * n)
  | .data n => b (engOf q.m == some n) (101 + 2 * n)
  | .tcm0 => b (q.m == .sv0) 200
  | .tcm1 => b (q.m == .sv1) 201
  | _ => none

/-- Request `x` is served ahead of `y` (R13, R14). -/
def ahead (x y : Waiting) : Bool :=
  if decide (15 ≤ x.lost) != decide (15 ≤ y.lost) then decide (15 ≤ x.lost) else decide (x.req.m.num < y.req.m.num)

/-- The request at position `i` loses the arbitration of its port. -/
def losesTo (l : List (Nat × Waiting)) (i : Nat) (x : Waiting) : Bool :=
  (portOf x.req).isSome && l.any (fun e => e.1 != i && portOf e.2.req == portOf x.req
    && (ahead e.2 x || (!ahead x e.2 && decide (e.1 < i))))

/-- Bytes of two writes at one address differ (R211). -/
def writesDiffer (p q : Req) : Bool :=
  match p.wr, q.wr with
  | some v, some u =>
    let a := p.addr.toNat
    let b := q.addr.toNat
    (List.range p.w.bytes).any (fun i =>
      decide (b ≤ a + i) && decide (a + i < b + q.w.bytes)
        && v.toNat / 256 ^ i % 256 != u.toNat / 256 ^ (a + i - b) % 256)
  | _, _ => false

/-- The port A write of the same cycle that discards a port B write (Table 6-3): on port A stands the owning core. -/
def colliding (l : List Waiting) (x : Waiting) : Option Waiting :=
  if decide (100 ≤ (portOf x.req).getD 0) then
    l.find? (fun y => (portOf y.req).isNone && regionOf y.req.addr.toNat == regionOf x.req.addr.toNat && writesDiffer y.req x.req)
  else none

/-- Latch a collision (MEM_COLL), counting it; EV017. -/
def Dev.noteColl (d : Dev) (a core portB : Nat) : Dev :=
  let d := if d.b MEM_COLL_VALID then d
    else ((((d.setF MEM_COLL_CORE core).setF MEM_COLL_PORTB portB).setB MEM_COLL_VALID true).wr MEM_COLL_ADDR (BitVec.ofNat 32 a))
  (d.countF MEM_COLL_COUNT).raise 17

/-- Add an answer. -/
def Dev.answer (d : Dev) (num : Nat) (v : Nat) (err : Bool) : Dev :=
  { d with resp := d.resp ++ [⟨num, BitVec.ofNat 64 v, err⟩] }

/-- Serve one request. -/
def Dev.serve (d : Dev) (x : Waiting) : Dev :=
  match d.bus (d.wrNow x.req.m) x.req.addr.toNat x.req.w.bytes (x.req.wr.map BitVec.toNat) with
  | (d, .done v) => d.answer x.req.m.num v false
  | (d, .err) => d.answer x.req.m.num 0 true
  | (d, _) => { d with waiting := d.waiting ++ [x] }

/-- Serve one of the requests `won` of a cycle: a port B write that meets the core's own is discarded (Table 6-3). -/
def Dev.serveIn (d : Dev) (won : List Waiting) (x : Waiting) : Dev :=
  match colliding won x with
  | some y => (d.noteColl x.req.addr.toNat y.req.m.num x.req.m.num).answer x.req.m.num 0 false
  | none => d.serve x

/-- Where a request stands in its cycle: a peg's release first (R239), then reads, which see the old data (Table 6-3), then
writes. -/
def cycleKey (x : Waiting) : Nat :=
  let peg := decide (0x40048000 ≤ x.req.addr.toNat) && decide (x.req.addr.toNat < 0x40048100)
  (if x.req.wr.isNone then 64 else if peg then 0 else 128) + x.req.m.num

/-- Insert by place in the cycle. -/
def insWaiting (x : Waiting) : List Waiting → List Waiting
  | [] => [x]
  | y :: l => if cycleKey x < cycleKey y then x :: y :: l else y :: insWaiting x l

/-- One cycle of the interconnect (SYSTEM_ACCESS): the requests `l` beside those that wait. -/
def Dev.cycle (d : Dev) (l : List Req) : Dev :=
  let all := d.waiting ++ l.map (fun q => { req := q, lost := 0 })
  let num := (List.range all.length).zip all
  let lost := (num.filter (fun e => losesTo num e.1 e.2)).map (fun e => { e.2 with lost := e.2.lost + 1 })
  let won := (num.filter (fun e => !losesTo num e.1 e.2)).map (·.2)
  let d := { d with waiting := lost, resp := [] }
  (won.foldl (fun acc x => insWaiting x acc) []).foldl (fun d x => d.serveIn won x) d

/-- One access by one master alone, answered at once unless it stalls. -/
def Dev.single (d : Dev) (m : Master) (a : Nat) (wr : Option Word) : Dev :=
  ({ d with resp := [] }).serve { req := ⟨m, BitVec.ofNat 32 a, .b4, wr.map (fun (x : Word) => x.setWidth 64)⟩, lost := 0 }

/-- A write of register instance (i, j) by one master alone: the answer is data 0 or a bus error. -/
def Dev.putReg (d : Dev) (m : Master) (r : Reg) (i j : Nat) (v : Word) : Dev :=
  let p := ({ d with resp := [] }).regPut (d.wrNow m) r i j v
  p.1.answer m.num 0 p.2

/-- A read of register instance (i, j) by one master alone: the answer is its data or a bus error. -/
def Dev.getReg (d : Dev) (m : Master) (r : Reg) (i j : Nat) : Dev :=
  match ({ d with resp := [] }).regGet m r i j with
  | (d, .done v) => d.answer m.num v false
  | (d, _) => d.answer m.num 0 true

end Sys2Proof.Machine
end

