-- ==== Sys2Proof/Machine/BootLoad.lean ====
section
/-!
DEFINITION. Loading an image, release (R45 to R66), integrity reloads (R214) and attestation (R75 to R77).
-/

namespace Sys2Proof.Config

/-- The 16-byte device identifier (Table 2-8). -/
opaque deviceId : BitVec 128

/-- The ECDSA P-384 signature of a message under the key a device secret derives. -/
opaque ecdsaSign : BitVec 256 → List Byte → BitVec 768

/-- The LMS signature of a message with one leaf under the key a device secret derives: 2,828 bytes. -/
opaque lmsSign : BitVec 256 → Nat → List Byte → BitVec 22624

/-- The two public keys a device secret derives, as an identity report gives them. -/
opaque devicePublic : BitVec 256 → List Byte

end Sys2Proof.Config

namespace Sys2Proof.Machine

/-! ### Loading (R56 to R59, R119, R161) -/

/-- Put loaded bytes into a memory, remembering them for reloads. -/
def Dev.loadBytes (d : Dev) (a : Nat) (bs : List Byte) : Dev :=
  let d := (d.setBytes a bs).cleanUnits a bs.length
  d.setBoot { d.boot with loaded := ((List.range bs.length).zip bs).foldl (fun t e => Tab.put t 0 (a + e.1) e.2) d.boot.loaded }

/-- Comb memory contents go into words of banks that are on only (R209). -/
def Dev.loadComb (d : Dev) (a : Nat) : List Byte → Dev
  | [] => d
  | b :: bs => (if d.memOn (combBank a) then (d.setByte a b).cleanUnits a 1 else d).loadComb (a + 1) bs

/-- The 4 KiB blocks of `n` bytes from `a`. -/
def blocksOf (a n : Nat) : List Nat := if n = 0 then [] else (List.range ((a + n - 1) / 4096 - a / 4096 + 1)).map (· + a / 4096)

/-- Add blocks to the block hash table. -/
def Dev.hash (d : Dev) (l : List Nat) : Dev :=
  { d with hashed := l.foldl (fun h b => if h.contains b then h else h ++ [b]) d.hashed }

/-- Load one section of a supervisor or of comb memory. -/
def Dev.loadSect (d : Dev) (f : Nat → Byte) (table : Bool) (s : Sect) : Dev :=
  match s.ty with
  | 1 => (d.loadBytes s.dest (s.bytes f)).hash (if table then blocksOf s.dest s.size else [])
  | 2 => (d.loadBytes s.dest (s.bytes f)).hash (if table then blocksOf s.dest s.size else [])
  | 7 => d.loadComb s.dest (s.bytes f)
  | _ => d

/-- The bytes of the library package that engine code memories take (R119). -/
def imgLib (f : Nat → Byte) : Option Pkg := ((imgPkgs f).find? (fun p => p.2.ident == 0x000C)).map (·.2)

/-- A load names the TCP/IP library: its package says so, or it is a TCP-based load bound to Ethernet (R119). -/
def namesLib (f : Nat → Byte) (n : Nat) (p : Pkg) : Bool :=
  p.usesLib || ((p.ident == 1 || p.ident == 2 || p.ident == 3) && (imgBinds f).any (fun b => b.eng == n && decide (b.lane < 24)))

/-- Load engine `n` with its package: code, data, library, entry points, ENG_LOAD. -/
def Dev.loadEngine (d : Dev) (f : Nat → Byte) (table : Bool) (n k : Nat) (p : Pkg) : Dev :=
  let lib := if namesLib f n p then imgLib f else none
  let libAt := match lib with
    | some l => codeBase n + (0x10000 - l.code.length)
    | none => 0
  let d := (d.loadBytes (codeBase n) p.code).loadBytes (dataBase n) p.data
  let d := match lib with
    | some l => d.loadBytes libAt l.code
    | none => d
  let blocks := blocksOf (codeBase n) p.code.length ++ (match lib with
    | some l => blocksOf libAt l.code.length
    | none => [])
  let d := d.hash (if table then blocks else [])
  let e : LoadEntry := {
    init := p.init
    recover := p.recover
    vbase := p.vbase
    stackTop := p.stackTop
    lib := match lib with
      | some l => libAt + l.table
      | none => 0 }
  let d := d.setBoot { d.boot with
    entries := Tab.set d.boot.entries n e
    bound := if d.boot.bound.contains n then d.boot.bound else d.boot.bound ++ [n] }
  (d.setF ENG_LOAD_LOAD k n).setF ENG_LOAD_LOADID p.ident n

/-- One lane binding: the next free slot of its engine (R56). -/
def Dev.bindLane (d : Dev) (b : Bind) : Dev :=
  match (List.range 16).find? (fun k => !d.b ENG_BIND_VALID b.eng k) with
  | some k => (d.setF ENG_BIND_LANE b.lane b.eng k).setB ENG_BIND_VALID true b.eng k
  | none => d

/-- One register initialiser: a read, then the masked write, by SV0 (R57). -/
def Dev.initReg (d : Dev) (x : Init) : Dev :=
  match d.regRead .sv0 x.addr with
  | (d, .done old) =>
    (d.regWrite (d.wrNow .sv0) x.addr ((BitVec.ofNat 32 old &&& ~~~x.mask) ||| (x.value &&& x.mask))).1
  | (d, _) => d

/-- The ROM loads an accepted image. -/
def Dev.loadImage (d : Dev) (f : Nat → Byte) : Dev :=
  let table := (imgSects f).any (fun s => s.ty == 6)
  let d := (imgSects f).foldl (fun d s => d.loadSect f table s) d
  let d := (List.range 32).foldl (fun d n =>
    match (imgBinds f).find? (fun b => b.eng == n) with
    | none => d
    | some b =>
      match (imgPkgs f).find? (fun p => p.1 == b.load) with
      | some p => d.loadEngine f table n p.1 p.2
      | none => d) d
  let d := (imgBinds f).foldl Dev.bindLane d
  (imgInits f).foldl Dev.initReg d

/-! ### Choosing an image (R63 to R66) -/

/-- A SEQ not seen before in a flash clears its mark and its count (R64). -/
def Dev.seeSeq (d : Dev) (b : Bool) (s : ImgSource) : Dev :=
  if s.ok && imgMagic s.f && imgSeq s.f != (d.bootRow b).seq then d.setBootRow b { seq := imgSeq s.f } else d

/-- A flash's image fails with a code (R63). -/
def Dev.rejectFlash (d : Dev) (b : Bool) (code : Nat) : Dev :=
  (d.setBootRow b { d.bootRow b with mark := true }).setF (if b then BOOT_STAT_REJ_B else BOOT_STAT_REJ_A) code

/-- The flash to try, `true` for B: not marked, as BOOT_NEXT prefers, else the higher SEQ (R65). -/
def Dev.bootChoice (d : Dev) (sa sb : ImgSource) : Option Bool :=
  let seq := fun (s : ImgSource) => if s.ok && imgMagic s.f then imgSeq s.f + 1 else 0
  match d.boot.rowA.mark, d.boot.rowB.mark with
  | true, true => none
  | true, false => some true
  | false, true => some false
  | false, false =>
    match d.f BOOT_NEXT_PREF with
    | 1 => some false
    | 2 => some true
    | _ => some (decide (seq sa < seq sb))

/-- What the running image is. -/
def imgInfo (o : Otp) (src : ImgSrc) (f : Nat → Byte) : ImgInfo := {
  src := src
  seq := imgSeq f
  svn := imgSvn f
  loadSvn := imgLoadSvn f
  slot := (o.slotOf (imgKeyHash f)).getD 0
  confirmS := imgConfirm f }

/-- An accepted image has been loaded: release follows, under 0b10 after GO (Table 2-1). -/
def Dev.bootReady (d : Dev) (i : ImgInfo) : Dev :=
  let d := d.setBoot { d.boot with img := some i }
  if d.boot.sel = 2 then d.bootWait .holdGo else d.setBoot { d.boot with phase := .ready }

/-- The ROM tries the flash it chooses (R65). -/
def Dev.flashAttempt (d : Dev) (o : Otp) (sa sb : ImgSource) : Dev :=
  let d := (d.seeSeq false sa).seeSeq true sb
  match d.bootChoice sa sb with
  | none => (d.setBoot { d.boot with phase := .safeHold, since := d.wall }).bootAlarm 1
  | some b =>
    let s := if b then sb else sa
    let row := d.bootRow b
    if 3 ≤ row.count then d.rejectFlash b 0x10
    else
      let code := verifyImage o s
      if code ≠ 0 then d.rejectFlash b code
      else
        let d := d.setBootRow b { row with count := row.count + 1 }
        let again := d.f BOOT_STAT_REJ_A != 0 || d.f BOOT_STAT_REJ_B != 0
        let d := ((d.setB BOOT_STAT_IMG b).setB BOOT_STAT_FALLBACK again).setF BOOT_STAT_TRIES (row.count + 1)
        (d.loadImage s.f).bootReady (imgInfo o (if b then .flashB else .flashA) s.f)

/-- The ROM judges a host's image (R48). -/
def Dev.hostAttempt (d : Dev) (o : Otp) (s : ImgSource) : Dev :=
  let code := verifyImage o s
  if code ≠ 0 then d.hostReject code
  else
    let d := d.setB BOOT_HSTAT_BUSY false
    let img := (List.range (imgSize s.f)).foldl (fun t a => Tab.put t 0 a (s.f a)) []
    let d := d.setBoot { d.boot with hostImg := img }
    (d.loadImage s.f).bootReady (imgInfo o .host s.f)

/-- An image the ROM reads over PCIe: `none` where a read fails or bus mastering is disabled. -/
def Dev.pullImage (d : Dev) (bytes : Option (List Byte)) : ImgSource :=
  let f := fun (a : Nat) => (bytes.getD []).getD a 0
  ⟨f, bytes.isSome && decide (imgSize f ≤ d.f BOOT_HSIZE_SIZE), imgMax⟩

/-- BOOT_IMAGE_ATTEMPT: what the flash devices and the host's memory answer are its operands. -/
def Dev.bootAttempt (d : Dev) (o : Otp) (okA okB sfdpA sfdpB : Bool) (pcie : Option (List Byte)) : Dev :=
  match d.boot.phase with
  | .select => d.flashAttempt o (d.flashImage false okA sfdpA) (d.flashImage true okB sfdpB)
  | .hostPull => d.hostAttempt o (d.pullImage pcie)
  | .hostJudge => d.hostAttempt o ⟨d.hostByte, true, imgMax⟩
  | _ => d

/-! ### Release (R58) -/

/-- A supervisor starts to run its code. Where it starts, and its registers, the spec does not say (log 10). -/
def Dev.startSv (d : Dev) (one : Bool) : Dev :=
  let (pc, d) := d.take 32
  let s : Sv := { cpu := { pc := BitVec.ofNat 32 pc }, run := .run }
  if one then { d with sv1 := s } else { d with sv0 := s }

/-- The ROM arms every commit instance for its next boundary; all are idle, so each applies (R58, R36). -/
def Dev.commitAll (d : Dev) : Dev := (List.range 81).foldl (fun d k => (d.armNext k d.wall).idleNext k) d

/-- The ROM locks the LK registers and releases SV1, the bound engines and the lanes (R58, R162). -/
def Dev.bootRelease (d : Dev) : Dev :=
  if d.boot.phase ≠ .ready then d
  else
    let d := d.commitAll
    let d := d.setBoot { d.boot with locked := true, released := true, started := d.boot.bound, since := d.wall, phase := .running }
    let d := (d.startSv false).startSv true
    let d := d.boot.bound.foldl (fun d n => d.startEngine n 0) d
    let d := if d.b BOOT_NEXT_ONCE then d.setF BOOT_NEXT_PREF 0 else d
    let d := d.raise 4
    if d.pw.report then (d.setPw { d.pw with report := false }).raise 10 else d

/-! ### Integrity reloads (R214) -/

/-- Stop a supervisor for good, with its lockup event (R155, R214). -/
def Dev.svLockup (d : Dev) (one : Bool) : Dev :=
  if one then { d with sv1 := { d.sv1 with run := .dead } }.raise 3 else { d with sv0 := { d.sv0 with run := .dead } }.raise 2

/-- The cores stalled on block `b` go on: an engine under dry-fit re-executes from its checkpoint (R109). -/
def Dev.unstall (d : Dev) (b : Nat) : Dev :=
  let d := (List.range 32).foldl (fun d n =>
    let g := d.e n
    if g.run = .reload b then
      let d := d.setE n { g with run := .run }
      if g.dry then d.softReexec n else d
    else d) d
  let d := if d.sv0.run = .reload b then { d with sv0 := { d.sv0 with run := .run } } else d
  if d.sv1.run = .reload b then { d with sv1 := { d.sv1 with run := .run } } else d

/-- A core stalled on a failed block halts; an engine's item is dropped. -/
def Dev.deadEngine (d : Dev) (n : Nat) : Dev :=
  let had := (d.e n).hand.isSome
  let d := if had then ((d.restore n).count ENG_CNT_DROP n).leaveItem n else d
  d.setE n { d.e n with run := .dead }

/-- Every core stalled on block `b` halts. -/
def Dev.haltOn (d : Dev) (b : Nat) : Dev :=
  let d := (List.range 32).foldl (fun d n => if (d.e n).run = .reload b then d.deadEngine n else d) d
  let d := if d.sv0.run = .reload b then d.svLockup false else d
  if d.sv1.run = .reload b then d.svLockup true else d

/-- What an attempt of reload `r` leaves in its block: the bytes as they were loaded, but for those of `diff`, by offset. -/
def Dev.reloadBytes (d : Dev) (diff : List (BitVec 12 × Byte)) (r : Reload) : Dev :=
  let a := r.block * 4096
  let d := d.forget a (a + 4096)
  let d := { d with
    poison := d.poison.filter (fun x => x / 4096 != r.block)
    badPar := d.badPar.filter (fun x => x / 4096 != r.block) }
  let d := (d.boot.loaded.filter (fun e => e.1 / 4096 == r.block)).foldl (fun d e => d.setByte e.1 e.2) d
  diff.foldl (fun d e => d.setByte (a + e.1.toNat) e.2) d

/-- One attempt of the reloader ends: `diff` lists the bytes, by offset, in which what the flash gave differs from the block as it was
loaded, so that the digest matches when there are none (R214). -/
def Dev.reloadTry (d : Dev) (diff : List (BitVec 12 × Byte)) : Dev :=
  match d.reloads with
  | [] => d
  | r :: rest =>
    let a := r.block * 4096
    let d := d.reloadBytes diff r
    if diff.all (fun e => Tab.look d.boot.loaded 0 (a + e.1.toNat) == e.2) then
      (({ d with reloads := rest }.count MEM_CNT_RELOAD).latchInteg r.num a 3).unstall r.block
    else if r.attempt = 1 then { d with reloads := { r with attempt := 2 } :: rest }
    else (({ d with reloads := rest }.failBlock a r.num).raise 18).haltOn r.block

/-! ### Attestation (R75 to R77) -/

/-- The protected row that takes the next LMS leaf state: the one that does not hold the present one. -/
def Dev.lmsTarget (d : Dev) : Nat × Nat :=
  match d.lmsRow 16, d.lmsRow 17 with
  | some (s, _), some (s', _) => if (s' + 65536 - s) % 65536 < 32768 then (16, (s' + 1) % 65536) else (17, (s + 1) % 65536)
  | some (s, _), none => (17, (s + 1) % 65536)
  | none, some (s, _) => (16, (s + 1) % 65536)
  | none, none => (16, 1)

/-- Write the LMS leaf state (R76, log 21). -/
def Dev.lmsWrite (d : Dev) (q : Nat) : Dev :=
  let (row, seq) := d.lmsTarget
  let rc : JRec := { cls := 3, origin := 257, code := 0, data := q, src := false, time := d.jtime, last := d.jtime }
  d.storeRow row (recWords rc seq)

/-- The 192 bytes of an attestation report (Table 2-8). -/
def Dev.attest (d : Dev) (o : Otp) (nonce : BitVec 256) (q : Nat) : List Byte :=
  let (src, seq, svn) : (Nat → Byte) × Nat × Nat := match d.boot.img with
    | some i =>
      (match i.src with
        | .flashA => (fun (a : Nat) => d.byte (0x70000000 + a))
        | .flashB => (fun (a : Nat) => d.byte (0x80000000 + a))
        | .host => (fun (a : Nat) => d.hostByte a), i.seq, i.svn)
    | none => (fun _ => 0, 0, 0)
  let headers := (imgBinds src).flatMap (fun b => match (imgPkgs src).find? (fun p => p.1 == b.load) with
    | some p => p.2.header
    | none => [])
  natLe 4 1 ++ natBe 16 Config.deviceId.toNat ++ natBe 48 (Config.sha384 (imgM src)).toNat ++ natLe 4 seq
    ++ [BitVec.ofNat 8 svn, BitVec.ofNat 8 o.imgFloor, BitVec.ofNat 8 o.loadFloor, BitVec.ofNat 8 o.lifecycle]
    ++ natLe 4 (d.rd BOOT_STAT).toNat ++ natBe 32 nonce.toNat ++ natLe 8 d.jtime ++ natLe 4 q
    ++ natLe 4 (d.f AGE_MARGIN_YEARS) ++ natBe 48 (Config.sha384 headers).toNat ++ List.replicate 16 0

/-- ATTESTATION_REQUEST: a leaf is reserved, then the report and its two signatures are given; `fail`: the row write failed. -/
def Dev.attestation (d : Dev) (o : Otp) (nonce : BitVec 256) (fail : Bool) : Dev :=
  let q := d.f SEC_LMS_STAT_NEXT_Q
  if 1048576 ≤ q || fail then d.setBoot { d.boot with report := [] }
  else
    let d := (d.lmsWrite (q + 1)).wr SEC_LMS_STAT (lmsWord (q + 1))
    let d := if q + 1 = 943718 then (d.bootAlarm 2).raise 7 else d
    let r := d.attest o nonce q
    let sigs := natBe 96 (Config.ecdsaSign o.secret r).toNat ++ natBe 2828 (Config.lmsSign o.secret q r).toNat
    d.setBoot { d.boot with report := r ++ sigs }

/-- IDENTITY_REPORT: the public keys, without a leaf (R77). -/
def Dev.identity (d : Dev) (o : Otp) : Dev := d.setBoot { d.boot with report := Config.devicePublic o.secret }

end Sys2Proof.Machine
end

