-- ==== Sys2Proof/Machine/DmaRun.lean ====
section
/-!
DEFINITION. The DMA channels at work (R219 to R224, R301) and the supervisor port's rings, which channel 16 stands for.
-/

namespace Sys2Proof.Machine

/-- What stands behind PCIe, by address, as one command finds it: `none` while a read or write there is a bus error (R219). -/
abbrev Pcie := Option (List (BitVec 64 × Byte))

/-- A byte behind PCIe; one that is not listed is 0. -/
def pcieByte (p : List (BitVec 64 × Byte)) (a : Nat) : Byte :=
  match p.find? (fun e => e.1.toNat == a) with
  | some e => e.2
  | none => 0

/-- A move of bytes in one space: done, at the address that failed, or stalled. -/
inductive Xfer where
  | ok (bytes : List Byte)
  | fail (a : Nat)
  | wait
  deriving DecidableEq, Repr

/-- The master a channel is; the supervisor port's rings take channel 0's security (log 17). -/
def dmaMaster (n : Nat) : Master := .dma (if h : n < 16 then ⟨n, h⟩ else ⟨0, by decide⟩)

/-- The width of the next access of a move of `n` bytes at `a`: registers and journal words take 4 bytes at most. -/
def beatWidth (a n : Nat) : Nat :=
  let words := regionOf a == .peri || regionOf a == .journal
  if a % 8 = 0 && 8 ≤ n && !words then 8 else if a % 4 = 0 && 4 ≤ n then 4 else 1

/-- Read `n` bytes of a space. -/
def Dev.dmaGet (d : Dev) (m : Master) (pci : Bool) (p : Pcie) (a n : Nat) : Nat → Dev × Xfer
  | 0 => (d, .ok [])
  | fuel + 1 =>
    if n = 0 then (d, .ok [])
    else if pci then
      match p with
      | none => (d, .fail a)
      | some h => (d, .ok ((List.range n).map (fun i => pcieByte h (a + i))))
    else
      let w := beatWidth a n
      match d.bus (d.wrNow m) a w none with
      | (d, .done v) =>
        match d.dmaGet m pci p (a + w) (n - w) fuel with
        | (d, .ok bs) => (d, .ok (natLe w v ++ bs))
        | r => r
      | (d, .err) => (d, .fail a)
      | (d, _) => (d, .wait)

/-- Write bytes to a space. -/
def Dev.dmaPut (d : Dev) (m : Master) (pci : Bool) (p : Pcie) (a : Nat) (bs : List Byte) : Nat → Dev × Xfer
  | 0 => (d, .ok [])
  | fuel + 1 =>
    if bs.isEmpty then (d, .ok [])
    else if pci then
      if p.isNone then (d, .fail a)
      else ({ d with pcieOut := d.pcieOut ++ ((List.range bs.length).zip bs).map (fun e => ((a + e.1) % 2 ^ 64, e.2)) }, .ok [])
    else
      let w := beatWidth a bs.length
      match d.bus (d.wrNow m) a w (some (leNat (bs.take w))) with
      | (d, .done _) => d.dmaPut m pci p (a + w) (bs.drop w) fuel
      | (d, .err) => (d, .fail a)
      | (d, _) => (d, .wait)

/-- A beat meets a bus error (R223): the channel halts and latches the address, its space and its direction. -/
def Dev.dmaError (d : Dev) (n a sp : Nat) (write : Bool) : Dev :=
  if 16 ≤ n then d
  else
    let d := (d.setB DMA_STAT_BUSY false n).setB DMA_STAT_HALTED true n
    let d := if d.b DMA_STAT_ERR n then d
      else
        let d := (d.wr DMA_ERRA_LO (BitVec.ofNat 32 a) n).wr DMA_ERRA_HI (BitVec.ofNat 32 (a / 2 ^ 32)) n
        ((d.setF DMA_STAT_ERR_SP sp n).setB DMA_STAT_ERR_DIR write n).setB DMA_STAT_ERR true n
    d.raise (24 + n)

/-! ### Copy transfers (R220) -/

/-- The channel's turn in the rotation of the busy ones (R218 and the text before it). -/
def Dev.dmaTurn (d : Dev) (n : Nat) : Bool :=
  ((List.range 16).map (fun i => (d.dmaLast + 1 + i) % 16)).find? (fun k => d.b DMA_STAT_BUSY k && !d.ringMode k) == some n

/-- One beat of channel `n`: bytes that lie in one aligned unit at either end are read and written (DMA_BEAT). -/
def Dev.dmaBeat (d : Dev) (n : Nat) (p : Pcie) : Dev :=
  let len := d.f DMA_ALEN_LEN n
  let done := d.f DMA_BYTES_BYTES n
  if !d.b DMA_STAT_BUSY n || d.ringMode n || !d.dmaTurn n || len ≤ done then d
  else
    let s := (wide64 (d.rd DMA_ASRC_LO n) (d.rd DMA_ASRC_HI n) + done) % 2 ^ 64
    let t := (wide64 (d.rd DMA_ADST_LO n) (d.rd DMA_ADST_HI n) + done) % 2 ^ 64
    let sp := d.f DMA_CTL_SRC_SP n
    let tp := d.f DMA_CTL_DST_SP n
    let ws := if sp = 1 then 8 else beatWidth s (len - done)
    let wt := if tp = 1 then 8 else beatWidth t (len - done)
    let w := min (min ws wt) (len - done)
    let w := if w = 8 || w = 4 then w else 1
    let m := dmaMaster n
    match ({ d with pcieOut := [] }).dmaGet m (sp == 1) p s w 8 with
    | (_, .wait) => d
    | (d, .fail a) => { d with dmaLast := n }.dmaError n a sp false
    | (d', .ok bs) =>
      match d'.dmaPut m (tp == 1) p t bs 8 with
      | (_, .wait) => d
      | (d, .fail a) => { d with dmaLast := n }.dmaError n a tp true
      | (d, .ok _) => { d with dmaLast := n }.setF DMA_BYTES_BYTES (done + w) n

/-- A copy transfer whose bytes have all been moved completes (DMA_TRANSFER_DONE). -/
def Dev.dmaFinish (d : Dev) (n : Nat) : Dev :=
  if d.b DMA_STAT_BUSY n && !d.ringMode n && d.f DMA_BYTES_BYTES n == d.f DMA_ALEN_LEN n then
    ((d.setB DMA_STAT_BUSY false n).dmaDone n).dmaPromote n
  else d

/-! ### Rings (R221, R222) -/

/-- A ring: its base, its length, the spaces of its descriptors and of its buffers, its TAIL and HEAD. -/
structure RingOf where
  base : Nat
  size : Nat
  rsp : Bool
  bsp : Bool
  tail : Nat
  head : Nat

/-- A ring of channel `n`, or of the supervisor port for 16, whose rings and buffers lie in the system map. -/
def Dev.ringOf (d : Dev) (n : Nat) (tx : Bool) : RingOf :=
  let k := fun (x : Nat) => 2 ^ (if 3 ≤ x && x ≤ 12 then x else 12)
  if n < 16 then
    if tx then
      ⟨wide64 (d.rd DMA_TRBASE_LO n) (d.rd DMA_TRBASE_HI n), k (d.f DMA_TRSIZE_K n), d.f DMA_CTL_RSP n == 1, d.f DMA_CTL_SRC_SP n == 1,
        d.f DMA_TRIDX_TAIL n, d.f DMA_TRIDX_HEAD n⟩
    else
      ⟨wide64 (d.rd DMA_RRBASE_LO n) (d.rd DMA_RRBASE_HI n), k (d.f DMA_RRSIZE_K n), d.f DMA_CTL_RSP n == 1, d.f DMA_CTL_DST_SP n == 1,
        d.f DMA_RRIDX_TAIL n, d.f DMA_RRIDX_HEAD n⟩
  else if tx then
    ⟨wide64 (d.rd SWC_SVTRBASE_LO) (d.rd SWC_SVTRBASE_HI), k (d.f SWC_SVTRSIZE_K), false, false, d.f SWC_SVTRIDX_TAIL, d.f SWC_SVTRIDX_HEAD⟩
  else
    ⟨wide64 (d.rd SWC_SVRRBASE_LO) (d.rd SWC_SVRRBASE_HI), k (d.f SWC_SVRRSIZE_K), false, false, d.f SWC_SVRRIDX_TAIL, d.f SWC_SVRRIDX_HEAD⟩

/-- HEAD of a ring moves on by one descriptor. -/
def Dev.ringAdvance (d : Dev) (n : Nat) (tx : Bool) (r : RingOf) : Dev :=
  let (x, i) := ringIdx n tx
  d.wr x (putBits (d.rd x i) 16 12 ((r.head + 1) % r.size)) i

/-- A ring of channel `n` may take its next descriptor. -/
def Dev.ringLive (d : Dev) (n : Nat) (tx : Bool) (r : RingOf) : Bool :=
  let on := 16 ≤ n || (d.b DMA_CTL_EN n && d.ringMode n && !d.b DMA_STAT_HALTED n)
  on && r.head % r.size != r.tail % r.size && !(if tx then (d.dch n).txStop else (d.dch n).rxStop)

/-- A transmit frame is complete: it enters the switch, or is discarded by its length (R222); `true`: discarded. -/
def Dev.sendFrame (d : Dev) (n : Nat) (b : List Byte) (sof : Word) : Dev × Bool :=
  if b.length < 60 || 9212 < b.length then (d, true)
  else
    let tc := getBits sof 3 3
    if 16 ≤ n && sof.getLsbD 9 then
      if getBits sof 10 5 < 24 then ((d.swDirect 26 (getBits sof 10 5) tc (b ++ [0, 0, 0, 0]) .none true).1, false) else (d, false)
    else (d.swInternal (if n < 16 then 27 else 26) tc b, false)

/-- A transmit descriptor with its buffer's bytes: the frame under way takes them; at EOF it is sent. The state and the flags written
back. -/
def Dev.txBuffer (d : Dev) (n : Nat) (flags : Word) (bs : List Byte) : Dev × Word :=
  let c := d.dch n
  let c := if flags.getLsbD 1 then { c with frame := bs, inFrame := true, sof := flags }
    else if c.inFrame then { c with frame := c.frame ++ bs } else c
  let back := flags &&& 0xFFFFFEFE
  if flags.getLsbD 2 && c.inFrame then
    let (d, bad) := (d.setDch n { c with frame := [], inFrame := false }).sendFrame n c.frame c.sof
    (d, if bad then back ||| 0x100 else back)
  else (d.setDch n c, back)

/-- The frame at the head of the queue that feeds a receive ring: its handle, its bytes without check sequence, whether it ended
well (R222, R301). -/
def Dev.rxFrame (d : Dev) (n : Nat) : Option (Nat × List Byte × Bool) :=
  match d.q (if n < 16 then 192 + n else 208) with
  | [] => none
  | e :: _ =>
    let f := d.fr e.fr
    if !f.ended then none else some (e.fr, if f.port < 24 then f.view.take (f.view.length - 4) else f.view, f.good)

/-- The receive frame in progress, taking one from the queue when none is. -/
def Dev.rxBegin (d : Dev) (n : Nat) : Option Dev :=
  if (d.dch n).rxBusy then some d
  else
    match d.rxFrame n with
    | none => none
    | some (k, bs, good) =>
      let q := if n < 16 then 192 + n else 208
      some (((d.setQ q ((d.q q).drop 1)).release k).setDch n { d.dch n with rx := bs, rxBad := !good, rxBusy := true, rxFirst := true })

/-- A frame cut short by an error is gone (R223). -/
def Dev.dropRing (d : Dev) (n : Nat) : Dev :=
  d.setDch n { d.dch n with frame := [], inFrame := false, rx := [], rxBusy := false }

/-- A ring's move fails. -/
def Dev.ringFail (d : Dev) (n a : Nat) (pci write : Bool) : Dev := (d.dropRing n).dmaError n a pci.toNat write

/-- A transmit descriptor: its buffer is read, it is written back with OWN = 0, HEAD advances (R221). -/
def Dev.txDescriptor (d : Dev) (n : Nat) (p : Pcie) (r : RingOf) (desc : List Byte) : Dev × Bool :=
  let m := dmaMaster n
  let at' := r.base + 16 * (r.head % r.size)
  let flags := BitVec.ofNat 32 (leNat (desc.drop 12))
  match d.dmaGet m r.bsp p (leNat (desc.take 8)) (leNat ((desc.drop 8).take 2)) 65536 with
  | (d, .wait) => (d, false)
  | (d, .fail a) => (d.ringFail n a r.bsp false, true)
  | (d, .ok bs) =>
    let (d, back) := d.txBuffer n flags bs
    match d.dmaPut m r.rsp p (at' + 12) (natLe 4 back.toNat) 8 with
    | (d, .wait) => (d, false)
    | (d, .fail a) => (d.ringFail n a r.rsp true, true)
    | (d, .ok _) => (d.ringAdvance n true r, true)

/-- A receive descriptor: it takes bytes of the frame in progress and is written back (R221, R222, R301). -/
def Dev.rxDescriptor (d : Dev) (n : Nat) (p : Pcie) (r : RingOf) (desc : List Byte) : Dev × Bool :=
  match d.rxBegin n with
  | none => (d, true)
  | some d =>
    let m := dmaMaster n
    let at' := r.base + 16 * (r.head % r.size)
    let c := d.dch n
    let size := leNat ((desc.drop 8).take 2)
    let bs := c.rx.take size
    let rest := c.rx.drop size
    match d.dmaPut m r.bsp p (leNat (desc.take 8)) bs 65536 with
    | (d, .wait) => (d, false)
    | (d, .fail a) => (d.ringFail n a r.bsp true, true)
    | (d, .ok _) =>
      let eof := rest.isEmpty
      let flags := (if c.rxFirst then 2 else 0) + (if eof then 4 else 0) + (if eof && c.rxBad then 0x100 else 0)
      match d.dmaPut m r.rsp p (at' + 10) (natLe 2 bs.length ++ natLe 4 flags) 8 with
      | (d, .wait) => (d, false)
      | (d, .fail a) => (d.ringFail n a r.rsp true, true)
      | (d, .ok _) =>
        let d := d.setDch n { d.dch n with rx := rest, rxBusy := !eof, rxFirst := eof }
        (d.ringAdvance n false r, true)

/-- One descriptor of a ring is processed (DMA_DESCRIPTOR); one found with OWN = 0 stops the ring. A move that stalls leaves the state as it
was: the descriptor is processed when the stall has ended. -/
def Dev.dmaDescriptor (d : Dev) (n : Nat) (tx : Bool) (p : Pcie) : Dev :=
  let r := d.ringOf n tx
  if !d.ringLive n tx r then d
  else
    match ({ d with pcieOut := [] }).dmaGet (dmaMaster n) r.rsp p (r.base + 16 * (r.head % r.size)) 16 8 with
    | (_, .wait) => d
    | (d, .fail a) => d.ringFail n a r.rsp false
    | (d', .ok desc) =>
      if !(BitVec.ofNat 32 (leNat (desc.drop 12))).getLsbD 0 then
        d'.setDch n (if tx then { d'.dch n with txStop := true } else { d'.dch n with rxStop := true })
      else
        match (if tx then d'.txDescriptor n p r desc else d'.rxDescriptor n p r desc) with
        | (d, true) => d
        | (_, false) => d

end Sys2Proof.Machine
end

