-- ==== Sys2Proof/Machine/EngineOps.lean ====
section
/-!
DEFINITION. The engines' work items, verdicts, commit arbitration and drains (R84, R85, R93 to R106, R110 to R114), lane signal bits
(R82, R367, R394, R411, R429) and what transmit arms and relays do at the lanes (R98, R99, R190).
-/

namespace Sys2Proof.Machine

/-! ### Lane signal bits -/

/-- A lane signal bit of an enabled ring instance (Table 12-7). -/
def Dev.ringBit (d : Dev) (n i : Nat) : Bool :=
  if i < 3 then (d.f BRG_STAT_STATE n).testBit i
  else if i = 3 then (d.ring n).syncOk
  else if i = 4 then d.b BRG_STAT_LBE n || d.b BRG_STAT_LBW n
  else if 8 ≤ i && i < 16 then
    match (d.brgOwned n)[i - 8]? with
    | some s => !((d.ring n).bufs.map (·.1)).contains s
    | none => false
  else false

/-- A read of lane signal bit `i` of binding slot `k` of engine `n` (R82, R367, R394, R411, R429); Ethernet lanes have none. -/
def Dev.laneBit (d : Dev) (n k i : Nat) : Bool :=
  let lane := d.f ENG_BIND_LANE n k
  if !d.b ENG_BIND_VALID n k || lane < 24 then false
  else if lane < 40 then d.mbBit (lane - 24) i
  else if lane < 56 then
    match d.ringOfLane lane with
    | some r => d.ringBit r i
    | none => d.slBitRead (lane - 40) i
  else d.pgBit (lane - 56) i

/-- A write of 1 to lane signal bit `i` of binding slot `k` of engine `n`. -/
def Dev.laneBitSet (d : Dev) (n k i : Nat) : Dev :=
  let lane := d.f ENG_BIND_LANE n k
  if !d.b ENG_BIND_VALID n k || lane < 24 then d
  else if lane < 40 then d.mbBitSet (lane - 24) i
  else if lane < 56 then
    match d.ringOfLane lane with
    | some r => if i = 32 then d.ringGoPassive r else if i = 33 then d.ringResume r else d
    | none => d.slBitSet (lane - 40) i
  else d.pgBitSet (lane - 56) i

/-- The writes of lane signal bits of one slot, lowest bit first: a 0 does nothing. -/
def Dev.laneBits (d : Dev) (n k : Nat) (mask vals : Long) : Dev :=
  (List.range 64).foldl (fun d i => if mask.getLsbD i && vals.getLsbD i then d.laneBitSet n k i else d) d

/-! ### Transmit slots, arms and relays -/

/-- Transmit slot `s` of engine `n`. -/
def Dev.slot (d : Dev) (n s : Nat) : Slot := Tab.look (d.e n).slots {} s

/-- Replace a transmit slot. -/
def Dev.setSlot (d : Dev) (n s : Nat) (x : Slot) : Dev := d.setE n { d.e n with slots := Tab.put (d.e n).slots {} s x }

/-- The largest frame of R189, or of R190 for TXMEM, on a lane at this moment (R257, R351, R382, R405, R419). -/
def Dev.maxFrame (d : Dev) (lane : Nat) (txmem : Bool) : Nat :=
  let own := if lane < 24 then min 9216 (d.f ETH_MAXFRM_LEN lane)
    else if lane < 40 then (if d.b MDB_CTL_FDEN (lane - 24) then 72 else 16)
    else if lane < 56 then
      match d.ringOfLane lane with
      | some r => 8 + d.f BRG_CFG_PAYMAX r
      | none => if txmem then 4096 else 2048
    else 2048
  if txmem then own else min 2048 own

/-- The first `len` bytes of a slot. -/
def Slot.read (x : Slot) (len : Nat) : List Byte := (List.range len).map (fun i => Tab.look x.bytes 0 i)

/-- Offer a frame to a lane: `true` when it has left the engine (sent, stored, discarded), `false` when it is queued or held. -/
def Dev.offer (d : Dev) (lane : Nat) (a : Arm) (src : Src) : Dev × Bool :=
  if lane < 24 then
    match d.swDirect (if a.eng < 16 then 24 else 25) lane a.tc a.bytes src false with
    | (d, ok) => (d, !ok)
  else if lane < 40 then d.mbArm (lane - 24) a
  else if lane < 56 then
    match d.ringOfLane lane with
    | some r => d.ringArm r a
    | none => d.slArm (lane - 40) a
  else d.pgArm (lane - 56) a

/-- A transmit arm takes effect (R98): the slot is queued to the lane, and free once the lane has its bytes. -/
def Dev.armLane (d : Dev) (n s k tc len : Nat) : Dev :=
  let x := d.slot n s
  let d := d.setSlot n s { x with st := .queued }
  match d.offer (d.f ENG_BIND_LANE n k) { eng := n, slot := some s, tc := tc, bytes := x.read len } (.slot n s) with
  | (d, true) => d.freeSrc (.slot n s)
  | (d, false) => d

/-- The relay of a frame leaves (R99): cut-through on a lane that is free, else through its queue. -/
def Dev.relaySend (d : Dev) (k p tc : Nat) : Dev :=
  let f := d.fr k
  let e : QEnt := { fr := k, cells := f.cells, raw := true, mirror := true }
  let l := d.lane p
  if d.txDead p then d.ethCount ETH_CNT_TXDISC p
  else if l.cur.isNone && l.held.isNone && !d.b ETH_STAT_LPI_TX p then
    let d := d.hold k f.cells
    d.setCur p (some {
      ent := e, cls := tc, express := d.isExpress p tc, ct := true, bytes := f.bytes.take (f.bytes.length - 4), start := d.wall })
  else (d.admitFrame k f.cells (8 * p + tc) e).1

/-- Relay frame `k` to lane `p`, at most once (R99): held while the lane is faster and the frame incomplete. -/
def Dev.relay (d : Dev) (k p tc : Nat) : Dev :=
  let f := d.fr k
  if f.relay.isSome then d
  else
    let wait := decide (d.kbps f.port < d.kbps p) && !f.fin
    let d := d.setFr k { f with relay := some p, relayHeld := wait, tc := tc, holders := f.holders + wait.toNat }
    if wait then d else d.relaySend k p tc

/-- The frame whose relay lane `p` holds. -/
def Dev.heldRelay (d : Dev) (p : Nat) : Option Nat :=
  (d.frames.find? (fun e => e.2.relay == some p && e.2.relayHeld)).map (·.1)

/-- The held relay of lane `p` is sent whole once the last byte has arrived, or discarded when its frame is bad (R99). -/
def Dev.heldRelayRelease (d : Dev) (p : Nat) : Dev :=
  match d.heldRelay p with
  | none => d
  | some k =>
    let f := d.fr k
    if !f.fin then d
    else
      let d := d.setFr k { f with relayHeld := false }
      (if f.ended && !f.good then d.ethCount ETH_CNT_TXDISC p else d.relaySend k p f.tc).release k

/-- A slot that an instruction waits for is free again (R98). -/
def Dev.slotFree (d : Dev) (n s : Nat) : Dev :=
  let g := d.e n
  if g.run = .slot s && (d.slot n s).st = .free then d.setE n { g with run := .run } else d

/-- An arm that a lane holds enters when there is room (R351, R382, R405, R419). -/
def Dev.heldEnter (d : Dev) (lane : Nat) : Dev :=
  if lane < 24 then d
  else if lane < 40 then d.mbHeldEnter (lane - 24)
  else if lane < 56 then
    match d.ringOfLane lane with
    | none => d.slHeldEnter (lane - 40)
    | some r =>
      match takeArm (fun a => match d.brgTarget r a with
        | some s => !((d.ring r).bufs.map (·.1)).contains s
        | none => true) (d.ring r).held with
      | some (a, rest) => ((d.setRing r { d.ring r with held := rest }).ringArm r a).1.freeArm a
      | none => d
  else (List.range 4).foldl (fun d k => d.pgFeed (lane - 56) k 1024) d

/-! ### Taking an item (R84, R88) -/

/-- The item's descriptor word G0 (R84). -/
def Item.g0 (i : Item) : Word := BitVec.ofNat 32 (i.lane % 64 + i.vsrc % 4 * 256)

/-- Engine `n`, at the WQNEXT at its PC, takes the oldest item: descriptor, FL.D and checkpoint (R84, R88, R187). An item whose
frame is already bad is dropped (R95). -/
def Dev.takeItem (d : Dev) (n : Nat) : Dev :=
  let g := d.e n
  match g.wq with
  | [] => d
  | i :: rest =>
    let wq := g.cpu.pc
    let c := ((g.cpu.setR 0 i.g0).setR 1 (BitVec.ofNat 32 (i.ctx.getD 0xFFFFFFFF))).setR 2 (BitVec.ofNat 32 i.frame)
    let c := (c.setR 3 (BitVec.ofNat 32 i.sof)).setFl flD true
    let c := { c with pc := wq + 1 }
    let d := d.setE n { g with
      cpu := c, wq := rest, hand := some { item := i }, cbuf := [], rset := [], cyc := 0, run := .run
      ck := some { g := c.g, pc := c.pc, fl := c.fl, bits := c.bits, wq := wq } }
    let f := d.fr i.frame
    if (i.vsrc != 3 && f.known && !f.good) || (i.vsrc == 3 && f.ended && !f.good) then d.badDrop n else d

/-- An engine that waits in WQNEXT takes a new item, unless HALT or a power state holds it (R84, R476). -/
def Dev.wqWake (d : Dev) (n : Nat) : Dev := if (d.e n).run = .idle && !d.engHold n then d.takeItem n else d

/-! ### The frame in hand (R85, R93, R95) -/

/-- One more byte of the frame in hand arrives at the frame port; a load that waits for it goes on (R85). -/
def Dev.frameByte (d : Dev) (n : Nat) : Dev :=
  let g := d.e n
  match g.hand with
  | none => d
  | some h =>
    let k := h.item.frame
    let f := d.fr k
    let a := min f.bytes.length (f.arrived + 1)
    let d := d.setFr k { f with arrived := a, fin := f.fin || (f.ended && a == f.bytes.length) }
    if g.run = .frameByte then d.setE n { g with run := .run } else d

/-- The hardware verdict of the item in hand becomes known (R93): a bad one drops the item, a good one lets an engine stalled at an
early commit ask for the token (R95, R96). -/
def Dev.itemVerdict (d : Dev) (n : Nat) : Dev :=
  let g := d.e n
  match g.hand with
  | none => d
  | some h =>
    let k := h.item.frame
    let f := d.fr k
    if h.isSoft || !f.ended || f.known then d
    else
      let d := d.setFr k { f with known := true, fin := true, arrived := f.bytes.length }
      if !f.good then (if g.dry then d.badDrop n else d)
      else
        let d := if g.run = .frameByte then d.setE n { g with run := .run } else d
        if g.run = .early then d.requestToken n else d

/-- The program sources of PIO group `g` that feed frame `k` give it up. -/
def Dev.pioGiveUp (d : Dev) (g k : Nat) : Dev :=
  (List.range 4).foldl (fun d j =>
    if (d.pioM g j).fr == some k then d.setPioM g j { d.pioM g j with fr := none, skip := true } else d) d

/-- A frame still arriving at its lane ends bad there (R95). -/
def Dev.arrivalAbort (d : Dev) (k lane : Nat) : Dev :=
  if (d.fr k).ended then d
  else if (d.fr k).port != 64 then (d.setFr k { d.fr k with good := false, late := none }).frameEnd k
  else if 40 ≤ lane && lane < 56 then d.slAbort (lane - 40) (d.slAfter (lane - 40))
  else (d.setFr k { d.fr k with good := false, ended := true, eof := d.stamp }).pioGiveUp (lane - 56) k

/-- The frame in hand aborts at its lane (R95): one still arriving ends bad there. -/
def Dev.frameAbort (d : Dev) (n : Nat) : Dev :=
  match (d.e n).hand with
  | none => d
  | some h =>
    let k := h.item.frame
    let d := d.arrivalAbort k h.item.lane
    if (d.fr k).good then d
    else
      let d := d.setFr k { d.fr k with known := true, fin := true }
      if (d.e n).dry then d.badDrop n else d

/-- An execution has exceeded HLIM cycles (R110). -/
def Dev.handlerLimit (d : Dev) (n : Nat) : Dev :=
  let g := d.e n
  if g.hand.isSome && !g.draining && d.f ENG_DFCTL_HLIM n != 0 && decide (d.f ENG_DFCTL_HLIM n < g.cyc) then
    d.causeDrop n 3 g.cpu.pc
  else d

/-! ### The arbiter (R102 to R106) -/

/-- Comb lines the buffer's words lie in. -/
def Eng.lines (g : Eng) : List Nat :=
  (g.cbuf.filterMap (fun e => match e with
    | .word a _ _ => if regionOf a = .comb then some (lineOf a) else none
    | _ => none)).eraseDups

/-- Engine `n` is ready to commit (R102): its handler has ended, or it is stalled at an early commit, and its verdict is good. -/
def Dev.ready (d : Dev) (n : Nat) : Bool :=
  let g := d.e n
  match g.hand, g.run with
  | some h, .atEnd => d.verdict h == some true
  | some h, .early => d.verdict h == some true
  | _, _ => false

/-- The order of commits: end-of-frame stamp, then engine number (R102). -/
def Dev.commitKey (d : Dev) (n : Nat) : Nat :=
  match (d.e n).hand with
  | some h => d.eofStamp h * 32 + n
  | none => n

/-- Engines that may drain in group `k`, in the order of R102: only a holder once the token is held; an early commit only under the
token (R96). -/
def Dev.candidates (d : Dev) (k : Nat) : List Nat :=
  let mine := (List.range 32).filter (fun n => d.cgrp n == k && d.ready n
    && (match (d.grp k).holder with
      | some h => h == n
      | none => (d.e n).run == .atEnd))
  mine.foldl (fun acc n => (acc.filter (fun m => d.commitKey m < d.commitKey n)) ++ [n]
    ++ acc.filter (fun m => !(d.commitKey m < d.commitKey n))) []

/-- A group has a drain in progress. -/
def Dev.grpDrains (d : Dev) (k : Nat) : Bool := (List.range 32).any (fun n => d.cgrp n == k && (d.e n).draining)

/-- What the posts of a buffer have put into a mailbox side so far: words in assembly, words posted. -/
structure PostSim where
  asm : Nat
  used : Nat
  deriving DecidableEq, Repr

/-- One entry of the buffer in the check of R104: `none` once a message does not fit. -/
def Dev.postStep (d : Dev) (t : Option (Tab PostSim)) (e : Entry) : Option (Tab PostSim) :=
  match t, e with
  | some t, .reg a v =>
    match windowAt a.toNat with
    | none => some t
    | some (m, s) =>
      let x := Tab.look t ⟨(d.mside m s).asm.length, 0⟩ (2 * m + s)
      match findReg a.toNat with
      | some (r, _, _) =>
        if r.is MBX_TX then some (Tab.set t (2 * m + s) { x with asm := min 8 (x.asm + 1) })
        else if r.is MBX_RING then
          if v.getLsbD 1 then some (Tab.set t (2 * m + s) { x with asm := 0 })
          else if !v.getLsbD 0 || x.asm = 0 || (d.mside m s).pend.isSome then some t
          else if d.outRoom m s < x.used + x.asm then none
          else some (Tab.set t (2 * m + s) ⟨0, x.used + x.asm⟩)
        else some t
      | none => some t
  | t, _ => t

/-- Every mailbox message of engine `n`'s buffer fits its queue (R104). -/
def Dev.postsFit (d : Dev) (n : Nat) : Bool := ((d.e n).cbuf.foldl d.postStep (some [])).isSome

/-- The token holders whose read set meets engine `n`'s lines: it waits for them (R106). -/
def Dev.blockers (d : Dev) (n : Nat) : List Nat :=
  (List.range 32).filter (fun h => h != n && d.holdsToken h && (d.e n).lines.any (d.reads h))

/-- Engine `n`'s drain waits for no token holder; of holders that block each other the first in order drains (R106). -/
def Dev.tokensLet (d : Dev) (n : Nat) : Bool :=
  let b := d.blockers n
  b.isEmpty || (d.holdsToken n && b.all (fun h => d.ready h && decide (d.commitKey n < d.commitKey h) && !(d.blockers h).isEmpty))

/-- The memory of every word in engine `n`'s buffer is on: a bank that has been told to leave that state takes no further drain, and rolls the
engine back (R206). -/
def Dev.wordsOn (d : Dev) (n : Nat) : Bool :=
  (d.e n).cbuf.all (fun e => match e with
    | .word a _ _ => d.onAt a
    | _ => true)

/-- Engine `n` may drain now (R103, R104, R106, R206). -/
def Dev.mayDrain (d : Dev) (n : Nat) : Bool :=
  d.postsFit n && !(d.e n).lines.any d.lineHeld && d.tokensLet n && d.wordsOn n

/-- Group `k`'s arbiter grants one drain (R102 to R106): it starts, and holds its lines. -/
def Dev.drainGrant (d : Dev) (k : Nat) : Dev :=
  if d.grpDrains k then d
  else
    match (d.candidates k).find? d.mayDrain with
    | none => d
    | some n =>
      let g := d.e n
      d.setE n { g with run := .drain (g.run == .early), held := g.lines, drainAt := d.wall, drainTs := d.stamp }

/-- Group `k`'s arbiter passes the token to the first engine that asked for it (R106). -/
def Dev.tokenGrant (d : Dev) (k : Nat) : Dev :=
  match (d.grp k).holder, (d.grp k).queue with
  | none, n :: rest =>
    let d := d.setGrp k { holder := some n, queue := rest }
    let g := d.e n
    if g.run = .token then (d.setE n { g with run := .run }).count ENG_CNT_SERIAL n else d
  | _, _ => d

/-! ### The drain (R90, R103, R111 to R114, R151) -/

/-- The aligned wordPieces a byte mask is written in: offset and width. -/
def wordPieces (mask : BitVec 8) : List (Nat × Nat) :=
  if mask = 0xFF then [(0, 8)]
  else
    [0, 4].flatMap (fun o =>
      if mask.toNat / 2 ^ o % 16 = 15 then [(o, 4)]
      else ((List.range 4).filter (fun i => mask.getLsbD (o + i))).map (fun i => (o + i, 1)))

/-- A piece would write part of a poisoned word (R216). -/
def Dev.piecePoisoned (d : Dev) (a w : Nat) : Bool :=
  (unitsOf a w (poisonUnit a)).any (fun x => d.poison.contains x && !unitFull a w x (poisonUnit a))

/-- A bus error met at the drain (R151). -/
def Dev.drainError (d : Dev) (n : Nat) (a : Word) : Dev :=
  let was := d.b ENG_ERR_VALID n
  let d := d.latchEng n 7 a
  if was then d.raise 41 n else d

/-- The memory word of an entry is written, or, with a poisoned word in part, nothing of it (R216). -/
def Dev.drainWord (d : Dev) (n a : Nat) (data : Long) (mask : BitVec 8) : Dev :=
  let ps := wordPieces mask
  if ps.any (fun p => d.piecePoisoned (a + p.1) p.2) then (d.latchAcc (n + 8) a 3 true).drainError n (BitVec.ofNat 32 a)
  else ps.foldl (fun d p => (d.memStore (n + 8) (a + p.1) p.2 (data.toNat / 256 ^ p.1 % 256 ^ p.2)).1) d

/-- One entry leaves the buffer (R90): staged writes and arms arrive when the drain started (R111). -/
def Dev.drainEntry (d : Dev) (n : Fin 32) (e : Entry) : Dev :=
  let g := d.e n.val
  let w : Wr := ⟨.ce n, g.drainAt, g.drainTs⟩
  match e with
  | .word a v m => d.drainWord n.val a v m
  | .reg a v =>
    match d.regWrite w a.toNat v with
    | (d, true) => d.drainError n.val a
    | (d, false) => d
  | .far a wd v =>
    match d.bus w a.toNat wd.bytes (some v.toNat) with
    | (d, .err) => d.drainError n.val a
    | (d, _) => d
  | .sig k m v => d.laneBits n.val k m v
  | .arm s k tc len => d.armLane n.val s k tc len
  | .event s => d.softRaise s
  | .record ws =>
    d.journal { origin := 264 + n.val, time := d.jtime, cls := getBits (ws.getD 2 0) 0 2, row := some ws }

/-- The drain has written everything (R103): conflicting engines roll back, the lines are released, and the item is committed, or its
early commit is done (R96, R106). -/
def Dev.drainEnd (d : Dev) (n : Nat) (early : Bool) : Dev :=
  let g := d.e n
  let d := d.setE n { g with held := [], cbuf := [] }
  let d := d.conflicts (some n) g.held
  let d := (((d.count ENG_CNT_COMMIT n).pm n 8).pm n 0xE g.cbuf.length).pmSettle n true
  let d := d.tagFate n 0
  let g := d.e n
  let d := d.setE n { g with
    cpu := g.cpu.setFl flD false, rset := [], run := .run
    hand := g.hand.map (fun h => { h with early := true }) }
  let d := if early then d else d.leaveItem n
  if g.rstPend then d.engineReset n 1 else d

/-- The drain of engine `n` ends after 12 fabric cycles and one for each entry (R101, R103). -/
def Dev.drainComplete (d : Dev) (n : Fin 32) : Dev :=
  let g := d.e n.val
  match g.run with
  | .drain early =>
    if d.wall < g.drainAt + (12 + g.cbuf.length) * d.fabCycle then d
    else (g.cbuf.foldl (fun d e => d.drainEntry n e) d).drainEnd n.val early
  | _ => d

/-! ### Cycles (R120 to R122) -/

/-- Engine cycles of engine `n` in the `u` units of 50 ps from now. -/
def Dev.engCycles (d : Dev) (n u : Nat) : Nat := (d.wall + u) * d.engMhz n / 20000 - d.wall * d.engMhz n / 20000

/-- Count `x` cycles in the cycle counter. -/
def Dev.pmCycles (d : Dev) (n x : Nat) : Dev :=
  let c := wide64 (d.rd ENG_PMCYC_LO n) (d.rd ENG_PMCYC_HI n) + x
  (d.wr ENG_PMCYC_LO (BitVec.ofNat 32 c) n).wr ENG_PMCYC_HI (BitVec.ofNat 32 (c / 2 ^ 32)) n

/-- The cycle events of Table 3-7 that hold for engine `n` while no instruction retires: its slot class or idle, the token, a verdict
awaited, the frame port. -/
def Dev.cycleEvents (d : Dev) (n : Nat) : List Nat :=
  let g := d.e n
  let cls := match g.run with
    | .idle => [0x10]
    | .run => [0x03]
    | .frameByte => [0x04, 0x0D]
    | .reset => []
    | .halted => []
    | .dead => []
    | _ => [0x04]
  let waitV := match g.run, g.hand with
    | .atEnd, some h => (d.verdict h).isNone
    | .early, some h => (d.verdict h).isNone
    | _, _ => false
  cls ++ (if d.holdsToken n then [0x09] else []) ++ (if d.wantsToken n then [0x0A] else []) ++ (if waitV then [0x0B] else [])

/-- `x` engine cycles pass for engine `n` with no instruction retired: a halted engine's clock counts none. -/
def Dev.engTick (d : Dev) (n x : Nat) : Dev :=
  let stopped := d.engStopped n
  if x = 0 || stopped then d
  else
    let ev := d.cycleEvents n
    let g := d.e n
    let d := d.setE n { g with cyc := if g.hand.isSome then g.cyc + x else g.cyc }
    ev.foldl (fun d c => d.pm n c x) (d.pmCycles n x)

/-- A counter that counts cycles, at its largest value, meets a cycle in which its condition holds (R122): it wraps. -/
def Dev.perfWrap (d : Dev) (n k : Nat) : Dev :=
  if d.pmOwn n k && (d.cycleEvents n).contains (d.f ENG_PMSEL_EVENT n k)
      && d.rd ENG_PMCNT_LO n k == 0xFFFFFFFF && getBits (d.rd ENG_PMCNT_HI n k) 0 16 == 0xFFFF then
    d.pmAdd n 8 k 1
  else d

end Sys2Proof.Machine
end

