-- ==== Sys2Proof/Machine/Flags.lean ====
section
/-!
DEFINITION. The flags FL and every flag computation of the Septari instructions (R128, R147, R167, R172, R173, R180 to R183).
-/

namespace Sys2Proof.Machine

/-! ### FL -/

/-- FL.Z, FL.N, FL.C, FL.V, FL.H and FL.T by bit number. -/
def flZ : Nat := 0
def flN : Nat := 1
def flC : Nat := 2
def flV : Nat := 3
def flH : Nat := 4
def flT : Nat := 6

/-- One flag. -/
def Cpu.flag (c : Cpu) (k : Nat) : Bool := c.fl.getLsbD k

/-- FL with its RW fields taken from `v`: FL.D and the reserved bits stay (R128). -/
def flWrite (fl v : Word) : Word := (fl &&& ~~~(0x5F : Word)) ||| (v &&& 0x5F)

/-- The flags an instruction writes; `none` for a flag it does not name (R167). -/
structure Flags where
  z : Option Bool := none
  n : Option Bool := none
  c : Option Bool := none
  v : Option Bool := none
  h : Option Bool := none
  deriving DecidableEq, Repr

/-- Set a flag that is named. -/
def Cpu.setOpt (c : Cpu) (k : Nat) : Option Bool → Cpu
  | some b => c.setFl k b
  | none => c

/-- Write the flags an instruction names. -/
def Cpu.flags (c : Cpu) (f : Flags) : Cpu :=
  ((((c.setOpt flZ f.z).setOpt flN f.n).setOpt flC f.c).setOpt flV f.v).setOpt flH f.h

/-! ### Arithmetic and logic (Table 5-3) -/

/-- Bit `w - 1` of a value of `w` bits. -/
def signOf (w x : Nat) : Bool := x.testBit (w - 1)

/-- A value of `w` bits as a signed number. -/
def signed (w x : Nat) : Int := if signOf w x then (x : Int) - 2 ^ w else x

/-- A signed number fits `w` bits. -/
def fits (w : Nat) (x : Int) : Bool := decide (-(2 ^ (w - 1) : Int) ≤ x) && decide (x < 2 ^ (w - 1))

/-- The sum of `a`, `b` and a carry in over `w` bits, and its flags. -/
def addOp (w a b : Nat) (cin : Bool) : Nat × Flags :=
  let s := a + b + cin.toNat
  let r := s % 2 ^ w
  (r, {
    z := some (r == 0)
    n := some (signOf w r)
    c := some (decide (2 ^ w ≤ s))
    v := some (!fits w (signed w a + signed w b + cin.toNat))
    h := some (decide (16 ≤ a % 16 + b % 16 + cin.toNat)) })

/-- The difference of `a` and `b` less a borrow in over `w` bits, and its flags. -/
def subOp (w a b : Nat) (bin : Bool) : Nat × Flags :=
  let r := (a + 2 * 2 ^ w - b - bin.toNat) % 2 ^ w
  (r, {
    z := some (r == 0)
    n := some (signOf w r)
    c := some (decide (a < b + bin.toNat))
    v := some (!fits w (signed w a - signed w b - bin.toNat))
    h := some (decide (a % 16 < b % 16 + bin.toNat)) })

/-- The flags of a logical result `r` of `w` bits: H is not written. -/
def logicFlags (w r : Nat) : Flags :=
  { z := some (r == 0), n := some (signOf w r), c := some false, v := some false }

/-- The operations of Table 5-5. -/
inductive Alu where
  | add | adc | sub | sbb | and | or | xor | cmp | test
  deriving DecidableEq, Repr

/-- CMP and TEST write flags only. -/
def Alu.flagsOnly : Alu → Bool
  | .cmp => true
  | .test => true
  | _ => false

/-- An operation of Table 5-5 on two values of `w` bits under carry `cin`. -/
def aluOp (o : Alu) (w a b : Nat) (cin : Bool) : Nat × Flags :=
  match o with
  | .add => addOp w a b false
  | .adc => addOp w a b cin
  | .sub => subOp w a b false
  | .sbb => subOp w a b cin
  | .cmp => subOp w a b false
  | .and => (a &&& b, logicFlags w (a &&& b))
  | .test => (a &&& b, logicFlags w (a &&& b))
  | .or => (a ||| b, logicFlags w (a ||| b))
  | .xor => (a ^^^ b, logicFlags w (a ^^^ b))

/-- The flags of MUL, with C and V when the product exceeds 32 bits, and of MULH, DIVU and REMU, which clear them (R172). -/
def mulFlags (r : Nat) (ovf : Bool) : Flags :=
  { z := some (r == 0), n := some (signOf 32 r), c := some ovf, v := some ovf }

/-! ### Shifts (R173) -/

/-- The shifts. -/
inductive Shift where
  | shl | shr | sar | rol
  deriving DecidableEq, Repr

/-- A shift or rotate of a 32-bit value by 1 to 31 and its flags. -/
def shiftOp (o : Shift) (a n : Nat) : Nat × Flags :=
  let (r, c) := match o with
    | .shl => (a * 2 ^ n % 2 ^ 32, a.testBit (32 - n))
    | .shr => (a / 2 ^ n, a.testBit (n - 1))
    | .sar => (a / 2 ^ n + (if signOf 32 a then 2 ^ 32 - 2 ^ (32 - n) else 0), a.testBit (n - 1))
    | .rol => ((a * 2 ^ n + a / 2 ^ (32 - n)) % 2 ^ 32, (a / 2 ^ (32 - n)).testBit 0)
  (r, { z := some (r == 0), n := some (signOf 32 r), c := some c, v := some false })

/-! ### Conditions (R147) -/

/-- Condition code `cc` holds for FL = `c.fl`. -/
def Cpu.cond (c : Cpu) (cc : BitVec 4) : Bool :=
  let z := c.flag flZ
  let n := c.flag flN
  let b := c.flag flC
  let v := c.flag flV
  match cc.toNat with
  | 0x0 => z
  | 0x1 => !z
  | 0x2 => b
  | 0x3 => !b
  | 0x4 => n
  | 0x5 => !n
  | 0x6 => v
  | 0x7 => !v
  | 0x8 => !b && !z
  | 0x9 => b || z
  | 0xA => n == v
  | 0xB => n != v
  | 0xC => !z && n == v
  | 0xD => z || n != v
  | 0xE => true
  | _ => c.flag flH

/-! ### Packed decimal (R180 to R183) -/

/-- The digits of `n` bytes of packed BCD, least significant first. -/
def digits (n x : Nat) : List Nat := (List.range (2 * n)).map (fun i => x / 16 ^ i % 16)

/-- A digit exceeds 9. -/
def badDigits (n x : Nat) : Bool := (digits n x).any (fun k => decide (9 < k))

/-- The value of decimal digits, least significant first. -/
def ofDigits : List Nat → Nat
  | [] => 0
  | k :: l => k + 10 * ofDigits l

/-- The low `n` bytes of a number in packed BCD. -/
def toBcd : Nat → Nat → Nat
  | 0, _ => 0
  | n + 1, v => v % 10 + v / 10 % 10 * 16 + 256 * toBcd n (v / 100)

/-- The flags of a malformed decimal operand (R182): C stays. -/
def bcdBad : Flags := { z := some false, n := some false, v := some true, h := some false }

/-- BCDADC over `n` bytes. -/
def bcdAdd (n a b : Nat) (cin : Bool) : Nat × Flags :=
  let s := ofDigits (digits n a) + ofDigits (digits n b) + cin.toNat
  let r := toBcd n (s % 10 ^ (2 * n))
  (r, { z := some (r == 0), n := some false, c := some (decide (10 ^ (2 * n) ≤ s)), v := some false
        h := some (decide (10 ≤ a % 16 + b % 16 + cin.toNat)) })

/-- BCDSBC over `n` bytes. -/
def bcdSub (n a b : Nat) (bin : Bool) : Nat × Flags :=
  let x := ofDigits (digits n a)
  let y := ofDigits (digits n b) + bin.toNat
  let r := toBcd n ((x + 10 ^ (2 * n) - y) % 10 ^ (2 * n))
  (r, { z := some (r == 0), n := some false, c := some (decide (x < y)), v := some false
        h := some (decide (a % 16 < b % 16 + bin.toNat)) })

/-- DAA of RA = `a` (R183): the adjusted byte and the flags. -/
def daaOp (a : Nat) (h : Bool) : Nat × Flags :=
  let s := a % 512
  let x := if 9 < a % 16 || h then s + 6 else s
  let c := decide (0x99 < s)
  let r := (if c then x + 0x60 else x) % 256
  (r, { z := some (r == 0), n := some false, c := some c, v := some false, h := some false })

/-- DAS of RA = `a` (R183): C is left unchanged. -/
def dasOp (a : Nat) (h c : Bool) : Nat × Flags :=
  let x := a % 256 + 512 - (if h then 6 else 0) - (if c then 0x60 else 0)
  let r := x % 256
  (r, { z := some (r == 0), n := some false, v := some false, h := some false })

end Sys2Proof.Machine
end

