-- ==== Sys2Proof/Machine/Operands.lean ====
section
/-!
DEFINITION. The operands of Septari instructions: registers and pairs, the protection unit, loads and stores with their treatment
under dry-fit, the frame port and the transmit slots (R89 to R92, R96, R97, R126, R133 to R135, R143, R151, R158 to R160, R184).
-/

namespace Sys2Proof.Machine

/-- How part of an instruction ends: with a value; with an exception (vector, detail, data address concerned); or the instruction has
stalled, or its item is gone, and the state says how it goes on. -/
inductive SRes (α : Type) where
  | ok (d : Dev) (v : α)
  | fault (d : Dev) (vec det : Nat) (addr : Option Word)
  | stop (d : Dev)

/-- Go on with the value. -/
def SRes.then {α β : Type} (r : SRes α) (f : Dev → α → SRes β) : SRes β :=
  match r with
  | .ok d v => f d v
  | .fault d vec det a => .fault d vec det a
  | .stop d => .stop d

/-! ### Core registers -/

/-- The engine a core is. -/
def coreEng : Core → Option Nat
  | .ce n => some n.val
  | _ => none

/-- A core runs Septari-S. -/
def isS (c : Core) : Bool := (coreEng c).isNone

/-- A core's registers. -/
def Dev.cpu (d : Dev) : Core → Cpu
  | .sv0 => d.sv0.cpu
  | .sv1 => d.sv1.cpu
  | .ce n => (d.e n.val).cpu

/-- Replace a core's registers. -/
def Dev.setCpu (d : Dev) (c : Core) (x : Cpu) : Dev :=
  match c with
  | .sv0 => { d with sv0 := { d.sv0 with cpu := x } }
  | .sv1 => { d with sv1 := { d.sv1 with cpu := x } }
  | .ce n => d.setE n.val { d.e n.val with cpu := x }

/-- User state of Septari-S (CR_PSR.PRIV = 0); an engine has one level. -/
def Cpu.user (c : Cpu) : Bool := !c.psr.getLsbD 0

/-- A general register as the program names it: G15 is banked (R157). -/
def Cpu.gr (c : Cpu) (k : Nat) : Word := if k = 15 && c.user then c.usp else c.r k

/-- Set a general register as the program names it. -/
def Cpu.setGr (c : Cpu) (k : Nat) (v : Word) : Cpu := if k = 15 && c.user then { c with usp := v } else c.setR k v

/-- The value of general register `k` of core `c`. -/
def Dev.g (d : Dev) (c : Core) (k : Nat) : Word := (d.cpu c).gr k

/-- Set general register `k` of core `c`. -/
def Dev.setG (d : Dev) (c : Core) (k : Nat) (v : Word) : Dev := d.setCpu c ((d.cpu c).setGr k v)

/-- Write flags of core `c`. -/
def Dev.setFlags (d : Dev) (c : Core) (f : Flags) : Dev := d.setCpu c ((d.cpu c).flags f)

/-- The engine executes under dry-fit. -/
def Dev.dryOn (d : Dev) (c : Core) : Bool :=
  match coreEng c with
  | some n => (d.e n).dry
  | none => false

/-- A prefix stands before the opcode. -/
def hasPfx (x : Sx) (p : Pfx) : Bool := x.pfx.contains p

/-- WIDE stands before the opcode. -/
def isWide (x : Sx) : Bool := hasPfx x .wide

/-- Operand width in bits: 64 under WIDE. -/
def opBits (x : Sx) : Nat := if isWide x then 64 else 32

/-- Operand width in bytes. -/
def opBytes (x : Sx) : Nat := if isWide x then 8 else 4

/-- A register operand, a pair under WIDE (R126), as a number. -/
def Dev.gv (d : Dev) (x : Sx) (k : Nat) : Nat :=
  (d.g x.core k).toNat + (if isWide x then 2 ^ 32 * (d.g x.core (k + 1)).toNat else 0)

/-- Set a register operand, a pair under WIDE. -/
def Dev.setGv (d : Dev) (x : Sx) (k v : Nat) : Dev :=
  let d := d.setG x.core k (BitVec.ofNat 32 v)
  if isWide x then d.setG x.core (k + 1) (BitVec.ofNat 32 (v / 2 ^ 32)) else d

/-- The registers named as pairs are even (R126). -/
def Dev.pairs (d : Dev) (on : Bool) (ks : List Nat) : SRes Unit :=
  if on && ks.any (fun k => k % 2 == 1) then .fault d 8 1 none else .ok d ()

/-- An immediate of 32 bits, sign-extended to 64 under WIDE (R138, R168). -/
def immVal (x : Sx) (v : Word) : Nat := if isWide x then (v.signExtend 64).toNat else v.toNat

/-- Base plus displacement, modulo 2^32 (R138). -/
def Dev.ea (d : Dev) (x : Sx) (rb : BitVec 4) (disp : Word) : Word := d.g x.core rb.toNat + disp

/-! ### The protection unit (R158 to R160) -/

/-- The region that decides an access: the highest-numbered enabled one that matches. -/
def mpuRegion (t : Tab Word) (a : Nat) : Option Word :=
  (List.range 16).reverse.findSome? (fun r =>
    let at' := Tab.look t 0 (4 * r + 2)
    let base := (Tab.look t 0 (4 * r)).toNat / 32 * 32
    let lim := (Tab.look t 0 (4 * r + 1)).toNat / 32 * 32
    if at'.getLsbD 0 && decide (base ≤ a) && decide (a ≤ lim + 31) then some at' else none)

/-- What the unit's settings allow: `kind` 0 for a read, 1 for a write, 2 for a fetch. -/
def mpuAllows (ctl : Word) (t : Tab Word) (user : Bool) (a kind : Nat) : Bool :=
  if !ctl.getLsbD 0 then true
  else
    match mpuRegion t a with
    | some at' => at'.getLsbD (1 + kind + (if user then 3 else 0))
    | none => !user && ctl.getLsbD 1

/-- A supervisor's access is allowed. While written settings wait for a FENCE or ERET and would decide otherwise than those before
them, which of the two decides is free (R160, log 10). -/
def Dev.mpuOk (d : Dev) (c : Core) (a kind : Nat) : Dev × Bool :=
  let x := d.cpu c
  let new := mpuAllows x.mpuctl x.mpu x.user a kind
  let old := mpuAllows x.mpuCtl0 x.mpu0 x.user a kind
  if new = old then (d, new)
  else
    let (b, d) := d.take 1
    (d, if b = 1 then new else old)

/-- FENCE and ERET put the written protection settings in force (R160). -/
def Cpu.mpuSync (c : Cpu) : Cpu := { c with mpuCtl0 := c.mpuctl, mpu0 := c.mpu }

/-! ### The commit buffer (R89 to R91, R96, R97) -/

/-- The byte the buffer holds for an address. -/
def Eng.fwd (g : Eng) (a : Nat) : Option Byte :=
  g.cbuf.findSome? (fun e => match e with
    | .word b v m => if b = a / 8 * 8 && m.getLsbD (a % 8) then some (BitVec.ofNat 8 (v.toNat / 256 ^ (a % 8))) else none
    | _ => none)

/-- The buffer holds every byte of an access. -/
def Eng.fwdAll (g : Eng) (a w : Nat) : Bool := (List.range w).all (fun i => (g.fwd (a + i)).isSome)

/-- A value read, with the bytes the buffer holds put in their places. -/
def Eng.overlay (g : Eng) (a w v : Nat) : Nat :=
  leNat ((List.range w).map (fun i => (g.fwd (a + i)).getD (BitVec.ofNat 8 (v / 256 ^ i))))

/-- An early-commit trigger (R96, R97): the engine stalls at the instruction until its verdict, grant and drain; a software-verdict
item before DFEND is dropped. -/
def Dev.trigger (d : Dev) (n : Nat) : Dev :=
  let g := d.e n
  match g.hand with
  | none => d
  | some h =>
    if h.isSoft && h.soft.isNone then d.causeDrop n 4 g.cpu.pc
    else
      let d := d.setE n { g with run := .early }
      if d.verdict h = some true then d.requestToken n else d

/-- Make an entry of its own in the buffer; the 65th triggers an early commit (R90, R96). -/
def Dev.bufEffect (d : Dev) (n : Nat) (e : Entry) : SRes Unit :=
  let g := d.e n
  if 64 ≤ g.cbuf.length then .stop (d.trigger n) else .ok (d.setE n { g with cbuf := g.cbuf ++ [e] }) ()

/-- Bytes of a word entry over those it held. -/
def mergeWord (v v' : Long) (m' : BitVec 8) : Long :=
  BitVec.ofNat 64 (leNat ((List.range 8).map (fun i =>
    BitVec.ofNat 8 ((if m'.getLsbD i then v' else v).toNat / 256 ^ i))))

/-- Merge a store into the entry of its word (R90). -/
def mergeEntry (b : Nat) (v : Long) (m : BitVec 8) (e : Entry) : Entry :=
  match e with
  | .word a v0 m0 => if a = b then .word a (mergeWord v0 v m) (m0 ||| m) else e
  | _ => e

/-- The buffer has an entry for the word at `b`. -/
def Eng.hasWord (g : Eng) (b : Nat) : Bool :=
  g.cbuf.any (fun e => match e with
    | .word a _ _ => a == b
    | _ => false)

/-- A store of `w` bytes to own data or comb memory enters the buffer (R90). -/
def Dev.bufStore (d : Dev) (n a w v : Nat) : SRes Unit :=
  let g := d.e n
  let b := a / 8 * 8
  let x : Long := BitVec.ofNat 64 (v % 256 ^ w * 256 ^ (a % 8))
  let m : BitVec 8 := BitVec.ofNat 8 ((2 ^ w - 1) * 2 ^ (a % 8))
  if g.hasWord b then .ok (d.setE n { g with cbuf := g.cbuf.map (mergeEntry b x m) }) ()
  else d.bufEffect n (.word b x m)

/-! ### Loads -/

/-- A load from MBX, the journal window or a flash window (Table 3-2). -/
def serialises (a : Nat) : Bool :=
  (decide (0x40040000 ≤ a) && decide (a < 0x40050000)) || regionOf a == .journal || regionOf a == .flashA || regionOf a == .flashB

/-- The core stalls on a block that reloads (R214). -/
def Dev.stallOn (d : Dev) (c : Core) (b : Nat) : Dev :=
  match c with
  | .sv0 => { d with sv0 := { d.sv0 with run := .reload b } }
  | .sv1 => { d with sv1 := { d.sv1 with run := .reload b } }
  | .ce n => d.setE n.val { d.e n.val with run := .reload b }

/-- How an access over the interconnect ends for the core that makes it. -/
def busRes (c : Core) (a : Word) : Dev × BusAns → SRes Nat
  | (d, .done v) => .ok d v
  | (d, .err) => .fault d 12 0 (some a)
  | (d, .retry) => .stop d
  | (d, .reload b) => .stop (d.stallOn c b)

/-- An access over the interconnect by a core. -/
def Dev.coreBus (d : Dev) (c : Core) (a : Word) (w : Nat) (wr : Option Nat) : SRes Nat :=
  busRes c a (d.bus (d.wrNow c.master) a.toNat w wr)

/-- A memory load of an engine at port A or in comb memory: a parity failure takes R108 or R109. -/
def Dev.engMem (d : Dev) (c : Core) (n : Nat) (a : Word) (w : Nat) : SRes Nat :=
  match d.hitsParity a.toNat w, regionOf a.toNat with
  | x :: _, .code _ =>
    match d.parityLoad (n + 8) a.toNat x with
    | (d, .stall b) => .stop (d.stallOn c b)
    | (d, _) => .stop (d.deadEngine n)
  | x :: _, _ => .stop (d.softError n x)
  | [], _ =>
    match d.memLoad (n + 8) a.toNat w with
    | (d, .done v) => .ok d v
    | (d, .err) => .fault d 12 0 (some a)
    | (d, .stall b) => .stop (d.stallOn c b)

/-- A comb load of engine `n` under dry-fit: checked, forwarded, its line in the read set (R91, R96, R103, R151). -/
def Dev.combDry (d : Dev) (c : Core) (n : Nat) (a : Word) (w : Nat) : SRes Nat :=
  match d.bankAdmits c.master a.toNat false with
  | (d, false) => .fault d 12 0 (some a)
  | (d, true) =>
    let g := d.e n
    let l := lineOf a.toNat
    if g.fwdAll a.toNat w then .ok d (g.overlay a.toNat w 0)
    else if d.combWaits c.master a.toNat false then .stop d
    else if !g.rset.contains l && 32 ≤ g.rset.length then .stop (d.trigger n)
    else
      (d.engMem c n a w).then (fun d v =>
        let g := d.e n
        .ok (d.setE n { g with rset := if g.rset.contains l then g.rset else g.rset ++ [l] }) (g.overlay a.toNat w v))

/-- A comb load of engine `n` made directly. -/
def Dev.combNow (d : Dev) (c : Core) (n : Nat) (a : Word) (w : Nat) : SRes Nat :=
  match d.bankAdmits c.master a.toNat false with
  | (d, false) => .fault d 12 0 (some a)
  | (d, true) => if d.combWaits c.master a.toNat false then .stop d else d.engMem c n a w

/-- A serialising load under dry-fit: refused at once, or an early commit first (R96, R151). -/
def Dev.serialLoad (d : Dev) (c : Core) (n : Nat) (a : Word) (w : Nat) : SRes Nat :=
  match d.coreBus c a w none with
  | .fault d' vec det x => .fault d' vec det x
  | _ => .stop (d.trigger n)

/-- A load by engine `n` (Table 3-2). -/
def Dev.engLoad (d : Dev) (c : Core) (n : Nat) (a : Word) (w : Nat) : SRes Nat :=
  let g := d.e n
  let own := fun (k : Nat) =>
    if k ≠ n then d.coreBus c a w none
    else if g.dry && g.fwdAll a.toNat w then .ok d (g.overlay a.toNat w 0)
    else (d.engMem c n a w).then (fun d v => .ok d (if g.dry then (d.e n).overlay a.toNat w v else v))
  if g.dry && serialises a.toNat then d.serialLoad c n a w
  else
    match regionOf a.toNat with
    | .code k => own k
    | .data k => own k
    | .comb => if g.dry then d.combDry c n a w else d.combNow c n a w
    | _ => d.coreBus c a w none

/-- A load of `w` bytes from system address `a` by a core (R133, R151, R158). -/
def Dev.sload (d : Dev) (c : Core) (a : Word) (w : Nat) : SRes Nat :=
  if a.toNat % w ≠ 0 then .fault d 10 0 (some a)
  else
    match coreEng c with
    | some n => d.engLoad c n a w
    | none =>
      match d.mpuOk c a.toNat 0 with
      | (d, false) => .fault d 11 1 (some a)
      | (d, true) => d.coreBus c a w none

/-! ### Stores -/

/-- The address lies in engine `n`'s own data memory. -/
def ownData (n a : Nat) : Bool := regionOf a == .data n

/-- A write of `v` to the register at `a` fails by a check that depends only on address, master and value (R151). -/
def Dev.regStatic (d : Dev) (m : Master) (a : Nat) (v : Word) : Bool :=
  if a % 4 ≠ 0 || !d.mayRead m a || (d.srPage a && !d.secure m) then true
  else if isCtx a then (d.ctxWrite m a v).2
  else if isMsix a then false
  else
    match findReg a with
    | none => true
    | some (r, i, j) =>
      !d.mayWrite m r a || (r.allSr && !d.secure m) || (d.srLk m r (d.rd r i j) v).2 || mdioAbsent r i
        || ((r.is EVT_RAISE || r.is MEM_BANKOWN || r.is PWR_COMBPWR || r.is PWR_LMPWR) && (d.regWrite (d.wrNow m) a v).2)

/-- A store by engine `n` under dry-fit (Table 3-2, R151). -/
def Dev.dryStore (d : Dev) (c : Core) (n : Nat) (a : Word) (w v : Nat) : SRes Unit :=
  match regionOf a.toNat with
  | .data k => if k = n then d.bufStore n a.toNat w v else .fault d 12 0 (some a)
  | .comb =>
    match d.bankAdmits c.master a.toNat true with
    | (d, false) => .fault d 12 0 (some a)
    | (d, true) =>
      if d.memOn (combBank a.toNat) then d.bufStore n a.toNat w v else .fault (d.latchAcc (n + 8) a.toNat 2 true) 12 0 (some a)
  | .peri =>
    if w ≠ 4 || d.regStatic c.master a.toNat (BitVec.ofNat 32 v) then .fault d 12 0 (some a)
    else d.bufEffect n (.reg a (BitVec.ofNat 32 v))
  | .journal =>
    if w < 4 || (a.toNat - 0x60000000) / 32 < 256 then .fault d 12 0 (some a)
    else d.bufEffect n (.far a (if w = 8 then .b8 else .b4) (BitVec.ofNat 64 v))
  | .tcm1 =>
    d.bufEffect n (.far a (if w = 8 then .b8 else if w = 4 then .b4 else if w = 2 then .b2 else .b1) (BitVec.ofNat 64 v))
  | _ => .fault d 12 0 (some a)

/-- A store made directly at an engine's own data memory (R92, R212, R216). -/
def Dev.ownStore (d : Dev) (c : Core) (n : Nat) (a : Word) (w v : Nat) : SRes Unit :=
  match d.memStore (n + 8) a.toNat w v with
  | (d, .done _) => .ok d ()
  | (d, .err) => .fault d 12 0 (some a)
  | (d, .stall b) => .stop (d.stallOn c b)

/-- A store of `w` bytes to system address `a` by a core; `nodry` stores directly (R92, R133, R151, R158). -/
def Dev.sstore (d : Dev) (c : Core) (nodry : Bool) (a : Word) (w v : Nat) : SRes Unit :=
  match coreEng c with
  | some n =>
    if nodry && !ownData n a.toNat then .fault d 5 0 (some a)
    else if a.toNat % w ≠ 0 then .fault d 10 0 (some a)
    else if ownData n a.toNat && (nodry || !(d.e n).dry) then d.ownStore c n a w v
    else if (d.e n).dry then d.dryStore c n a w v
    else (d.coreBus c a w (some v)).then (fun d _ => .ok d ())
  | none =>
    if a.toNat % w ≠ 0 then .fault d 10 0 (some a)
    else
      match d.mpuOk c a.toNat 1 with
      | (d, false) => .fault d 11 2 (some a)
      | (d, true) => (d.coreBus c a w (some v)).then (fun d _ => .ok d ())

/-! ### Frame port and transmit slots (R85, R135) -/

/-- The byte of the frame in hand at offset `o`; `none` while it has not arrived. -/
def Dev.portByte (d : Dev) (n o : Nat) : Option Byte :=
  match (d.e n).hand with
  | none => some 0
  | some h =>
    let f := d.fr h.item.frame
    if 9216 ≤ o then some 0
    else if o < f.arrived then some (f.bytes.getD o 0)
    else if f.fin then some 0
    else none

/-- A load from the frame port: the first byte is the most significant. A byte not yet arrived stalls the engine. -/
def Dev.portLoad (d : Dev) (n : Nat) (a : Word) (w : Nat) : SRes Nat :=
  let l := (List.range w).map (fun i => d.portByte n ((a.toNat + i) % 2 ^ 32))
  if l.all Option.isSome then .ok d (beNat (l.map (fun b => b.getD 0)))
  else .stop (d.setE n { d.e n with run := .frameByte })

/-- A store to a transmit slot, the most significant byte first; it waits for a slot that is armed and unsent (R98). -/
def Dev.slotStore (d : Dev) (n : Nat) (a : Word) (w v : Nat) : SRes Unit :=
  let o := a.toNat % 2048
  let s := a.toNat / 2048 % 4
  if 2 ^ 13 ≤ a.toNat || 2048 < o + w then .fault d 8 3 (some a)
  else
    let x := d.slot n s
    if x.st ≠ .free then .stop (d.setE n { d.e n with run := .slot s })
    else
      let bs := (List.range w).zip (natBe w v)
      .ok (d.setSlot n s { x with bytes := bs.foldl (fun t b => Tab.put t 0 (o + b.1) b.2) x.bytes }) ()

/-- The memory operand of a load: the frame port under LANE (R135). -/
def Dev.mload (d : Dev) (x : Sx) (a : Word) (w : Nat) : SRes Nat :=
  match coreEng x.core with
  | some n => if hasPfx x .lane then d.portLoad n a w else d.sload x.core a w
  | none => d.sload x.core a w

/-- NODRY names an address outside the engine's own data memory (R92, R140). -/
def Dev.nodryOk (d : Dev) (x : Sx) (a : Word) : SRes Unit :=
  match coreEng x.core with
  | some n => if hasPfx x .nodry && (hasPfx x .lane || !ownData n a.toNat) then .fault d 5 0 (some a) else .ok d ()
  | none => .ok d ()

/-- The memory operand of a store: a transmit slot under LANE (R135). -/
def Dev.mstore (d : Dev) (x : Sx) (a : Word) (w v : Nat) : SRes Unit :=
  (d.nodryOk x a).then (fun d _ =>
    match coreEng x.core with
    | some n => if hasPfx x .lane then d.slotStore n a w v else d.sstore x.core (hasPfx x .nodry) a w v
    | none => d.sstore x.core false a w v)

/-! ### Read-modify-write (R143, R171, R184) -/

/-- ATOM's address: comb memory, the core's own local memory or its own tightly coupled memory (R143). -/
def atomAt (c : Core) (a : Nat) : Bool :=
  match c, regionOf a with
  | _, .comb => true
  | .sv0, .tcm0 => true
  | .sv1, .tcm1 => true
  | .ce n, .code k => n.val == k
  | .ce n, .data k => n.val == k
  | _, _ => false

/-- What ATOM asks before the load: a permitted address; under dry-fit on own local memory without NODRY, an early commit (R184). -/
def Dev.atomOk (d : Dev) (x : Sx) (a : Word) (w : Nat) : SRes Unit :=
  if !hasPfx x .atom then .ok d ()
  else if !atomAt x.core a.toNat then .fault d 8 4 (some a)
  else
    match coreEng x.core with
    | some n =>
      if (d.e n).dry && regionOf a.toNat != .comb && !hasPfx x .nodry && a.toNat % w == 0 then .stop (d.trigger n) else .ok d ()
    | none => .ok d ()

/-- The load of a read-modify-write: an ATOM NODRY form reads memory itself (R184). -/
def Dev.rmwLoad (d : Dev) (x : Sx) (a : Word) (w : Nat) : SRes Nat :=
  match coreEng x.core with
  | some n =>
    if hasPfx x .atom && hasPfx x .nodry && a.toNat % w == 0 then d.engMem x.core n a w else d.sload x.core a w
  | none => d.sload x.core a w

/-- Load, change and store a memory operand: `f` gives the new value and what the instruction keeps of it. -/
def Dev.rmw {α : Type} (d : Dev) (x : Sx) (a : Word) (w : Nat) (f : Nat → Nat × α) : SRes α :=
  (d.nodryOk x a).then (fun d _ => (d.atomOk x a w).then (fun d _ => (d.rmwLoad x a w).then (fun d v =>
    (d.sstore x.core (hasPfx x .nodry) a w (f v).1).then (fun d _ => .ok d (f v).2))))

end Sys2Proof.Machine
end

