-- ==== Sys2Proof/Machine/BitVar.lean ====
section
/-!
DEFINITION. The bit variables of a Septari core (R82, R87, R130, R175, R176; Tables 3-1 and 4-2).
-/

namespace Sys2Proof.Machine

/-- The dry-fit status bits 0xC00 to 0xC07 of engine `n` (Table 3-1). -/
def Dev.dryBit (d : Dev) (n i : Nat) : Bool :=
  let g := d.e n
  match g.hand with
  | none => if i = 5 then d.holdsToken n else if i = 7 then !g.wq.isEmpty else false
  | some h =>
    match i with
    | 0 => (d.verdict h).isSome
    | 1 => d.verdict h == some true
    | 2 => (d.fr h.item.frame).fin
    | 3 => h.isSoft
    | 4 => h.reex
    | 5 => d.holdsToken n
    | 6 => h.relayed
    | 7 => !g.wq.isEmpty
    | _ => false

/-- The value the commit buffer holds for lane signal bit `i` of slot `k`. -/
def Eng.sigFwd (g : Eng) (k i : Nat) : Option Bool :=
  g.cbuf.findSome? (fun e => match e with
    | .sig s m v => if s = k && m.getLsbD i then some (v.getLsbD i) else none
    | _ => none)

/-- The bits of an engine alone: lane signals, dry-fit status, free slots. -/
def Dev.engBit (d : Dev) (n a : Nat) : Bool :=
  if a < 0xC00 then
    let k := (a - 0x800) / 64
    let i := a % 64
    if !d.b ENG_BIND_VALID n k then false
    else
      match (d.e n).sigFwd k i with
      | some v => v
      | none => d.laneBit n k i
  else if a < 0xC08 then d.dryBit n (a - 0xC00)
  else (d.slot n (a - 0xC08)).st == .free

/-- A read of bit variable `a` (R130); bits of secure sources, mailboxes and pegs read 0 for a non-secure core. -/
def Dev.bitRead (d : Dev) (c : Core) (a : Nat) : Bool :=
  let sec := d.secure c.master
  if a < 0x800 then Tab.look (d.cpu c).bits false a
  else if a < 0xC0C then
    match coreEng c with
    | some n => d.engBit n a
    | none => false
  else if a < 0xD00 then false
  else if a < 0xE00 then d.evPending (a - 0xD00) && (sec || !d.evSecure (a - 0xD00))
  else if a < 0xE40 then d.mbxReady c.master.num (a - 0xE00) && (sec || decide (0xE10 ≤ a))
  else if a < 0xE80 then d.f MBX_PEG_OWNER (a - 0xE40) != 0 && (sec || decide (0xE50 ≤ a))
  else false

/-- A write of lane signal bit `i` of slot `k` under dry-fit: one entry per slot (R90, R176). -/
def Dev.sigStore (d : Dev) (n k i : Nat) (v : Bool) : SRes Unit :=
  let g := d.e n
  let bit : Long := BitVec.ofNat 64 (2 ^ i)
  let has := g.cbuf.any (fun e => match e with
    | .sig s _ _ => s == k
    | _ => false)
  if has then
    .ok (d.setE n { g with cbuf := g.cbuf.map (fun e => match e with
      | .sig s m x => if s = k then .sig s (m ||| bit) (if v then x ||| bit else x &&& ~~~bit) else e
      | _ => e) }) ()
  else d.bufEffect n (.sig k bit (if v then bit else 0))

/-- A write of bit variable `a` (R130): general bits, and lane signal bits of a valid slot; others are ignored. -/
def Dev.bitWrite (d : Dev) (c : Core) (a : Nat) (v : Bool) : SRes Unit :=
  if a < 0x800 then .ok (d.setCpu c { d.cpu c with bits := Tab.put (d.cpu c).bits false a v }) ()
  else if a < 0xC00 then
    match coreEng c with
    | none => .ok d ()
    | some n =>
      let k := (a - 0x800) / 64
      let i := a % 64
      if !d.b ENG_BIND_VALID n k then .ok d ()
      else if (d.e n).dry then d.sigStore n k i v
      else .ok (if v then d.laneBitSet n k i else d) ()
  else .ok d ()

end Sys2Proof.Machine
end

