-- ==== Sys2Proof/Machine/SepRun.lean ====
section
/-!
DEFINITION. How a Septari instruction runs: fetch, prefixes and the checks before execution, completion, taking an exception and
returning from one, interrupts and NMI (R107, R125, R129, R134, R136 to R141, R152 to R157, R174, R196, R489).
-/

namespace Sys2Proof.Machine

/-! ### Exceptions -/

/-- Exception entry on core `c` (R153): `vec` and `det`, the address concerned, the PC saved. -/
def Dev.excEnter (d : Dev) (c : Core) (vec det : Nat) (addr : Option Word) (epc : Word) : Dev :=
  let x := d.cpu c
  let s := isS c
  let st := putBits x.estat 0 3 (1 + (if s then (x.psr.getLsbD 0).toNat * 2 + (x.psr.getLsbD 1).toNat * 4 else 0))
  let x := { x with
    epc := epc, efl := x.fl, ecause := BitVec.ofNat 32 (vec + det * 256), eaddr := addr.getD 0, estat := st
    fl := putBits x.fl flT 1 0, psr := if s then putBits x.psr 0 2 1 else x.psr
    pc := x.vbase + BitVec.ofNat 32 (16 * vec) }
  let d := d.setCpu c x
  match c with
  | .sv0 => { d with sv0 := { d.sv0 with run := .run } }
  | .sv1 => { d with sv1 := { d.sv1 with run := .run } }
  | .ce _ => d

/-- CR_ESTAT.EXL of core `c`. -/
def Dev.exl (d : Dev) (c : Core) : Bool := (d.cpu c).estat.getLsbD 0

/-- ENG_ERR.CAUSE of an exception by vector (Table 4-10); `none`: not latched. -/
def engCause (vec : Nat) (dry : Bool) : Option Nat :=
  match vec with
  | 5 => some 6
  | 6 => if dry then some 1 else none
  | 12 => some 7
  | 13 => none
  | _ => some (if dry then 1 else 2)

/-- The item in hand is dropped for an exception: the checkpoint state, FL.D = 0 (R107). -/
def Dev.dropForExc (d : Dev) (n : Nat) : Dev :=
  let d := ((d.restore n).count ENG_CNT_DROP n).leaveItem n
  let g := d.e n
  d.setE n { g with cpu := g.cpu.setFl flD false, run := .run }

/-- An engine halts until an engine reset (R155). -/
def Dev.engDouble (d : Dev) (n : Nat) (pc : Word) : Dev :=
  let d := d.latchEng n 2 pc
  d.setE n { d.e n with run := .dead }

/-- Core `c` takes an exception: under dry-fit the item is dropped first (R107), a second exception in a handler is a double fault
(R155), an engine latches its error (Table 4-10); under dry-fit the latch of R107 comes before the double fault's (log 5). -/
def Dev.excp (d : Dev) (c : Core) (vec det : Nat) (addr : Option Word) (epc : Word) : Dev :=
  match coreEng c with
  | some n =>
    let dry := (d.e n).dry
    let d := if dry then d.dropForExc n else d
    let again := d.exl c
    let d := match (if dry || !again then engCause vec dry else none) with
      | some k => d.latchEng n k (addr.getD epc)
      | none => d
    if again then d.engDouble n epc else d.excEnter c vec det addr epc
  | none => if d.exl c then d.svLockup (c == .sv1) else d.excEnter c vec det addr epc

/-! ### Interrupts (R156) -/

/-- Which supervisor line interrupts core `c` now: CR_PSR.IE = 1 and EXL = 0, lower line first. -/
def Dev.irqDue (d : Dev) (c : Core) : Option Nat :=
  let x := d.cpu c
  if isS c && x.psr.getLsbD 1 && !x.estat.getLsbD 0 && (List.range 8).any (fun k => d.rd EVT_PEND k != 0) then
    d.lowLine (if c == .sv1 then 2 else 1)
  else none

/-- A supervisor's state of execution. -/
def Dev.svRun (d : Dev) (c : Core) : SvRun := if c == .sv1 then d.sv1.run else d.sv0.run

/-- Set a supervisor's state of execution. -/
def Dev.setSvRun (d : Dev) (c : Core) (r : SvRun) : Dev :=
  if c == .sv1 then { d with sv1 := { d.sv1 with run := r } } else { d with sv0 := { d.sv0 with run := r } }

/-- An interrupt line of supervisor `c` is pending (INTERRUPT_LINE): WFI ends, and the interrupt is taken when enabled. -/
def Dev.irqLine (d : Dev) (one : Bool) : Dev :=
  let c : Core := if one then .sv1 else .sv0
  if (d.lowLine (if one then 2 else 1)).isNone || 2 ≤ d.f PWR_STAT_STATE then d
  else
    let d := if d.svRun c = .wfi then d.setSvRun c .run else d
    if d.svRun c ≠ .run then d
    else
      match d.irqDue c with
      | some l => d.excEnter c (16 + l) 0 none (d.cpu c).pc
      | none => d

/-- NMIP of SV0. -/
def Dev.nmip (d : Dev) : Bool := d.sv0.cpu.estat.getLsbD 3

/-- Set NMIP of SV0. -/
def Dev.setNmip (d : Dev) (v : Bool) : Dev :=
  { d with sv0 := { d.sv0 with cpu := { d.sv0.cpu with estat := putBits d.sv0.cpu.estat 3 1 v.toNat } } }

/-- The NMI of SV0 is raised (NMI_INPUT): it ends WFI and is taken, or held pending while EXL = 1. -/
def Dev.nmiIn (d : Dev) : Dev :=
  if !d.nmiRaised || 2 ≤ d.f PWR_STAT_STATE then d
  else
    let d := if d.sv0.run = .wfi then d.setSvRun .sv0 .run else d
    if d.sv0.run ≠ .run then d
    else if d.exl .sv0 then d.setNmip true
    else d.excEnter .sv0 14 0 none d.sv0.cpu.pc

/-- The planner's 10 ms tick enters line 31 of SV0, unless a user interrupt is due, or it waits (R489). -/
def Dev.plannerTick (d : Dev) : Dev :=
  let x := d.sv0.cpu
  let live := (d.sv0.run = .run || d.sv0.run = .wfi) && decide (d.f PWR_STAT_STATE < 2)
  if d.wall < d.age.tickAt + 200000000 || !live || !x.psr.getLsbD 1 || x.estat.getLsbD 0 || (d.lowLine 1).isSome then d
  else
    let d := d.setAge { d.age with tickAt := d.wall }
    (d.setSvRun .sv0 .run).excEnter .sv0 47 0 none x.pc

/-! ### Before execution -/

/-- What an instruction is, apart from its operation: the bytes after its prefixes, the prefixes it accepts (NODRY apart), the detail of
an undefined-instruction fault of its own (a field that must be 0, R137; a control register that is none; a reserved opcode), whether it is
absent from a profile, privileged, a store, a writer of G14 through RA. -/
structure Ins where
  len : Nat
  acc : List Pfx := []
  undef : Option Nat := none
  onE : Bool := true
  onS : Bool := true
  priv : Bool := false
  stores : Bool := false
  g14 : Bool := false
  deriving DecidableEq, Repr

/-- The detail of a field that must be 0 (R137). -/
def mustZero (x : BitVec 4) : Option Nat := if x = 0 then none else some 2

/-- What the prefix bytes come to: nothing wrong, a conflict at a byte, on Septari-S a byte that is no prefix. -/
inductive PfxScan where
  | fine
  | conflict (bytes det : Nat)
  | absent (bytes : Nat) (had : Bool)
  deriving DecidableEq, Repr

/-- Prefix predecode (R140, R196): `seen` are the bytes before, the latest first. -/
def scanPfx (s : Bool) (seen : List Pfx) : List Pfx → PfxScan
  | [] => .fine
  | p :: ps =>
    if s && (p == .lane || p == .nodry) then .absent (seen.length + 1) (!seen.isEmpty)
    else if seen.any (fun q => decide (p.byte ≤ q.byte)) then .conflict (seen.length + 1) 1
    else if p == .repz && seen.contains .rep then .conflict (seen.length + 1) 2
    else scanPfx s (p :: seen) ps

/-- The exception an instruction meets before its operands are looked at (Table 4-10): vector and detail, with the bytes examined. -/
def decodeFault (x : Sx) (i : Ins) : Nat × Option (Nat × Nat) :=
  let total := x.pfx.length + i.len
  match scanPfx (isS x.core) [] x.pfx with
  | .conflict n det => (n, some (2, det))
  | .absent n had => (n, some (if had then (2, 3) else (3, 3)))
  | .fine =>
    let other := x.pfx.filter (· != .nodry)
    let here := if isS x.core then i.onS else i.onE
    let rep := x.pfx.contains .rep || x.pfx.contains .repz
    if 15 < total then (15, some (2, 5))
    else if other.any (fun p => !i.acc.contains p) || (!here && !other.isEmpty) then (total, some (2, 3))
    else if rep && i.g14 then (total, some (2, 4))
    else if !here then (total, some (3, 3))
    else (total, i.undef.map (fun k => (3, k)))

/-- The core executes instructions: it runs, in RUN or DOZE, its clock not shed (R444, R476, R477). -/
def Dev.execs (d : Dev) (c : Core) : Bool :=
  (match coreEng c with
    | some n => (d.e n).run == .run && !d.stn.gasp.shed
    | none => d.svRun c == .run) && decide (d.f PWR_STAT_STATE < 2)

/-- A core may fetch the byte at an address (R134). -/
def fetchable (c : Core) (a : Nat) : Bool :=
  match c, regionOf a with
  | .sv0, .tcm0 => true
  | .sv1, .tcm1 => true
  | .ce n, .code k => n.val == k
  | .ce _, _ => false
  | _, .rom => true
  | _, _ => false

/-- The bytes of an instruction lie in the core's fetch regions. -/
def fetchOk (c : Core) (a n : Nat) : Bool := (List.range n).all (fun i => fetchable c (a + i))

/-- A fetched word fails parity, or its block reloads (R109, R214): the core stalls on the reload, or halts; supervisor memory
outside hashed blocks gives a bus-error fault and is poisoned. -/
def Dev.fetchGuard (d : Dev) (c : Core) (pc : Word) (n : Nat) : SRes Unit :=
  let a := pc.toNat
  if d.reloads.any (fun r => r.block == a / 4096 || r.block == (a + n - 1) / 4096) then
    .stop (d.stallOn c (if d.reloads.any (fun r => r.block == a / 4096) then a / 4096 else (a + n - 1) / 4096))
  else if d.hitsPoison a n then .fault (d.latchAcc c.master.num a 3 false) 12 0 (some pc)
  else
    match d.hitsParity a n with
    | [] => .ok d ()
    | x :: _ =>
      let dead := fun (d : Dev) => match coreEng c with
        | some k => d.deadEngine k
        | none => d.svLockup (c == .sv1)
      let failed := d.failed.contains (x / 4096)
      match d.parityLoad c.master.num a x with
      | (d, .stall b) => .stop (d.stallOn c b)
      | (d, _) => if failed || (coreEng c).isSome then .stop (dead d) else .fault d 12 0 (some pc)

/-- The protection unit lets a supervisor fetch an instruction (R158). -/
def Dev.fetchMpu (d : Dev) (c : Core) (pc : Word) (n : Nat) : SRes Unit :=
  if !isS c then .ok d ()
  else
    (List.range n).foldl (fun (r : SRes Unit) i => r.then (fun d _ =>
      if i != 0 && (pc.toNat + i) % 32 != 0 then .ok d ()
      else
        match d.mpuOk c (pc.toNat + i) 2 with
        | (d, true) => .ok d ()
        | (d, false) => .fault d 11 3 (some (pc + BitVec.ofNat 32 i)))) (.ok d ())

/-- The checks from the fetch to execution in the order of Table 4-10; `some (vec, det)` of a refused instruction is raised last. -/
def Dev.admitIns (d : Dev) (x : Sx) (i : Ins) (pc : Word) : SRes Unit :=
  let (n, bad) := decodeFault x i
  if !fetchOk x.core pc.toNat n then .fault d 1 0 (some pc)
  else
    (d.fetchMpu x.core pc n).then (fun d _ => (d.fetchGuard x.core pc n).then (fun d _ =>
      match bad with
      | some (vec, det) => .fault d vec det none
      | none =>
        if i.priv && isS x.core && (d.cpu x.core).user then .fault d 4 0 none
        else if hasPfx x .nodry && !i.stores then .fault d 5 0 none
        else .ok d ()))

/-! ### Completion -/

/-- One instruction retires on engine `n` (R120, R121, R123): it counts one cycle; `dry` is FL.D at its issue. -/
def Dev.retire (d : Dev) (n : Nat) (pc : Word) (dry : Bool) : Dev :=
  let g := d.e n
  let d := ((d.setE n { g with cyc := if g.hand.isSome then g.cyc + 1 else g.cyc }).pmCycles n 1).pmRetire n
  if !d.b ENG_TAGCTL_EN n || d.b ENG_TAGREC2_VALID n || (d.e n).tag.isSome then d
  else
    match (d.e n).tagLeft with
    | 0 =>
      let (k, d) := d.tagInterval n
      d.setE n { d.e n with tagLeft := max 1 k }
    | 1 =>
      let ex := match (d.e n).hand with
        | some h => h.exec
        | none => 1
      let d := d.setE n { d.e n with tagLeft := 0, tag := some ⟨pc, dry, ex⟩ }
      if dry then d else d.tagFate n 4
    | k + 2 => d.setE n { d.e n with tagLeft := k + 1 }

/-- What comes at the boundary after an instruction: trace (R129), an NMI held pending, a fetch outside the core's regions (R134,
R174). -/
def Dev.boundaryExc (d : Dev) (c : Core) (trace : Bool) : Dev :=
  let pc := (d.cpu c).pc
  if trace && !d.dryOn c then d.excp c 13 0 none pc
  else if c == .sv0 && d.nmip && !d.exl .sv0 then (d.setNmip false).excEnter .sv0 14 0 none pc
  else if !fetchable c pc.toNat then d.excp c 1 0 (some pc) pc
  else d

/-- An instruction retires: an engine counts it, a supervisor counts none. -/
def Dev.retireOn (d : Dev) (c : Core) (pc : Word) (dry : Bool) : Dev :=
  match coreEng c with
  | some n => d.retire n pc dry
  | none => d

/-- An instruction has completed; `to'` is where it goes on, if not at the next instruction. -/
def Dev.complete (d : Dev) (c : Core) (pc next : Word) (trace dry : Bool) (to' : Option Word) : Dev :=
  ((d.setCpu c { d.cpu c with pc := to'.getD next }).retireOn c pc dry).boundaryExc c trace

/-- The length of an instruction with its prefixes. -/
def insLen (x : Sx) (i : Ins) : Nat := x.pfx.length + i.len

/-- Core `x.core` meets an instruction at its PC: `body` is what it does once it may execute. A core that does not execute is left as
it is; an interrupt already due is taken first (R156, R195). -/
def Dev.issue (d : Dev) (x : Sx) (i : Ins) (body : Dev → SRes (Option Word)) : Dev :=
  if !d.execs x.core then d
  else
    let c := x.core
    let pc := (d.cpu c).pc
    match d.irqDue c with
    | some l => d.excEnter c (16 + l) 0 none pc
    | none =>
      let dry := d.dryOn c
      let trace := (d.cpu c).flag flT && !dry
      match (d.admitIns x i pc).then (fun d _ => body d) with
      | .ok d t => d.complete c pc (pc + BitVec.ofNat 32 (insLen x i)) trace dry t
      | .fault d vec det a => d.excp c vec det a pc
      | .stop d => d

/-- The value of a body that goes on at the next instruction. -/
def SRes.nxt {α : Type} (r : SRes α) : SRes (Option Word) := r.then (fun d _ => .ok d none)

end Sys2Proof.Machine
end

