-- ==== Sys2Proof/Machine/SepAlu.lean ====
section
/-!
DEFINITION. Septari integer arithmetic, logic, shifts and packed decimal (R146, R149, R167, R171 to R173, R180 to R183).
-/

namespace Sys2Proof.Machine

/-! ### The arithmetic and logical rows (Tables 4-8, 5-5) -/

/-- The layout of a form: its bytes, its RA, what it reads memory for (none, a load, a read-modify-write). -/
structure AluForm where
  len : Nat
  ra : BitVec 4
  rb : BitVec 4
  load : Bool := false
  rmw : Bool := false
  /-- Forms +1 and +2, whose RA CMP and TEST need 0. -/
  imm : Bool := false
  /-- Form +7, whose RA must be 0. -/
  memImm : Bool := false

/-- The form of an operand. -/
def aluForm : AluOp → AluForm
  | .rr a b => { len := 2, ra := a, rb := b }
  | .ri8 a b _ => { len := 3, ra := a, rb := b, imm := true }
  | .ri32 a b _ => { len := 6, ra := a, rb := b, imm := true }
  | .rm8 a b _ => { len := 3, ra := a, rb := b, load := true }
  | .rm32 a b _ => { len := 6, ra := a, rb := b, load := true }
  | .mr8 a b _ => { len := 3, ra := a, rb := b, rmw := true }
  | .mr32 a b _ => { len := 6, ra := a, rb := b, rmw := true }
  | .mi8 a b _ _ => { len := 4, ra := a, rb := b, rmw := true, memImm := true }

/-- What a row of Table 5-5 is in one form: CMP and TEST accept no ATOM and store nothing. -/
def aluIns (o : Alu) (p : AluOp) : Ins :=
  let f := aluForm p
  {
    len := f.len
    acc := [.wide] ++ (if f.load then [.lane] else []) ++ (if f.rmw && !o.flagsOnly then [.atom] else [])
    undef := if f.memImm || (f.imm && o.flagsOnly) then mustZero f.ra else none
    stores := f.rmw && !o.flagsOnly }

/-- Write the flags and, unless only flags are written, register `k`. -/
def Dev.aluPut (d : Dev) (x : Sx) (o : Alu) (k : Nat) (r : Nat × Flags) : SRes (Option Word) :=
  let d := d.setFlags x.core r.2
  .ok (if o.flagsOnly then d else d.setGv x k r.1) none

/-- Forms +5 to +7: the operand at `a` against `b`. -/
def Dev.aluMem (d : Dev) (x : Sx) (o : Alu) (a : Word) (b : Nat) : SRes (Option Word) :=
  let cin := (d.cpu x.core).flag flC
  if o.flagsOnly then
    (d.mload x a (opBytes x)).then (fun d v => .ok (d.setFlags x.core (aluOp o (opBits x) v b cin).2) none)
  else
    (d.rmw x a (opBytes x) (fun v => aluOp o (opBits x) v b cin)).then (fun d f => .ok (d.setFlags x.core f) none)

/-- The operation of a row in one form (Table 4-8). -/
def Dev.alu (d : Dev) (x : Sx) (o : Alu) (p : AluOp) : SRes (Option Word) :=
  let cin := (d.cpu x.core).flag flC
  let w := opBits x
  let pair := fun (ks : List (BitVec 4)) => d.pairs (isWide x) (ks.map BitVec.toNat)
  let ri := fun (ra rb : BitVec 4) (v : Word) =>
    (pair (if o.flagsOnly then [rb] else [ra, rb])).then (fun d _ =>
      d.aluPut x o ra.toNat (aluOp o w (d.gv x rb.toNat) (immVal x v) cin))
  let rm := fun (ra rb : BitVec 4) (v : Word) =>
    (pair [ra]).then (fun d _ => (d.mload x (d.ea x rb v) (opBytes x)).then (fun d m =>
      d.aluPut x o ra.toNat (aluOp o w (d.gv x ra.toNat) m cin)))
  let mr := fun (ra rb : BitVec 4) (v : Word) =>
    (d.nodryOk x (d.ea x rb v)).then (fun d _ => (d.pairs (isWide x) [ra.toNat]).then (fun d _ =>
      d.aluMem x o (d.ea x rb v) (d.gv x ra.toNat)))
  match p with
  | .rr ra rb =>
    (pair [ra, rb]).then (fun d _ => d.aluPut x o ra.toNat (aluOp o w (d.gv x ra.toNat) (d.gv x rb.toNat) cin))
  | .ri8 ra rb v => ri ra rb (v.signExtend 32)
  | .ri32 ra rb v => ri ra rb v
  | .rm8 ra rb v => rm ra rb (v.signExtend 32)
  | .rm32 ra rb v => rm ra rb v
  | .mr8 ra rb v => mr ra rb (v.signExtend 32)
  | .mr32 ra rb v => mr ra rb v
  | .mi8 _ rb v im => d.aluMem x o (d.ea x rb (v.signExtend 32)) (immVal x (im.signExtend 32))

/-- An instruction of a row of Table 5-5. -/
def Dev.runAlu (d : Dev) (x : Sx) (o : Alu) (p : AluOp) : Dev := d.issue x (aluIns o p) (fun d => d.alu x o p)

/-! ### One and two registers (Table 5-6) -/

/-- An instruction M on RA alone, of `len` bytes: RB must be 0. -/
def oneIns (len : Nat) (rb : BitVec 4) : Ins := { len := len, undef := mustZero rb }

/-- An instruction M on RA alone that writes RA and flags from RA and FL. -/
def Dev.runOne (d : Dev) (x : Sx) (len : Nat) (ra rb : BitVec 4) (f : Nat → Cpu → Nat × Flags) : Dev :=
  d.issue x (oneIns len rb) (fun d =>
    let r := f (d.g x.core ra.toNat).toNat (d.cpu x.core)
    .ok ((d.setG x.core ra.toNat (BitVec.ofNat 32 r.1)).setFlags x.core r.2) none)

/-- INC and DEC write Z, N, V and H. -/
def keepC (r : Nat × Flags) : Nat × Flags := (r.1, { r.2 with c := none })

/-- An instruction M on RA and RB that writes RA and flags. -/
def Dev.runTwo (d : Dev) (x : Sx) (ra rb : BitVec 4) (f : Nat → Nat → Nat × Flags) : Dev :=
  d.issue x { len := 2 } (fun d =>
    let r := f (d.g x.core ra.toNat).toNat (d.g x.core rb.toNat).toNat
    .ok ((d.setG x.core ra.toNat (BitVec.ofNat 32 r.1)).setFlags x.core r.2) none)

/-- MUL: the low 32 bits of the product (R172). -/
def mulLow (a b : Nat) : Nat × Flags := (a * b % 2 ^ 32, mulFlags (a * b % 2 ^ 32) (decide (2 ^ 32 ≤ a * b)))

/-- MULH: the high 32 bits. -/
def mulHigh (a b : Nat) : Nat × Flags := (a * b / 2 ^ 32, mulFlags (a * b / 2 ^ 32) false)

/-- DIVU and REMU: a divisor of 0 raises the divide-by-zero fault (R172). -/
def Dev.runDiv (d : Dev) (x : Sx) (ra rb : BitVec 4) (f : Nat → Nat → Nat) : Dev :=
  d.issue x { len := 2 } (fun d =>
    let b := (d.g x.core rb.toNat).toNat
    if b = 0 then .fault d 9 0 none
    else
      let r := f (d.g x.core ra.toNat).toNat b
      .ok ((d.setG x.core ra.toNat (BitVec.ofNat 32 r)).setFlags x.core (mulFlags r false)) none)

/-! ### Shifts (R173) -/

/-- A shift of RA by `n` modulo 32; 0 changes nothing. -/
def Dev.shift (d : Dev) (x : Sx) (o : Shift) (ra : BitVec 4) (n : Nat) : SRes (Option Word) :=
  if n % 32 = 0 then .ok d none
  else
    let r := shiftOp o (d.g x.core ra.toNat).toNat (n % 32)
    .ok ((d.setG x.core ra.toNat (BitVec.ofNat 32 r.1)).setFlags x.core r.2) none

/-- A shift instruction in either form. -/
def Dev.runShift (d : Dev) (x : Sx) (o : Shift) (p : ShiftOp) : Dev :=
  match p with
  | .reg ra rb => d.issue x { len := 2 } (fun d => d.shift x o ra (d.g x.core rb.toNat).toNat)
  | .imm ra rb n => d.issue x { len := 3, undef := mustZero rb } (fun d => d.shift x o ra n.toNat)

/-! ### Packed decimal -/

/-- A register operand, a pair when `two`, as a number. -/
def Dev.gPair (d : Dev) (c : Core) (two : Bool) (k : Nat) : Nat :=
  (d.g c k).toNat + (if two then 2 ^ 32 * (d.g c (k + 1)).toNat else 0)

/-- Set a register operand, a pair when `two`. -/
def Dev.setGPair (d : Dev) (c : Core) (two : Bool) (k v : Nat) : Dev :=
  let d := d.setG c k (BitVec.ofNat 32 v)
  if two then d.setG c (k + 1) (BitVec.ofNat 32 (v / 2 ^ 32)) else d

/-- A decimal instruction M I8 (R149, R181, R182): `f` gives the result and flags, or `none` for a malformed operand. -/
def Dev.runBcd (d : Dev) (x : Sx) (ra rb : BitVec 4) (n : BitVec 8) (f : Nat → Nat → Nat → Bool → Option (Nat × Flags)) : Dev :=
  d.issue x { len := 4 } (fun d =>
    let k := n.toNat
    if k = 0 || 8 < k then .fault d 8 2 none
    else
      let two := decide (4 < k)
      (d.pairs two [ra.toNat, rb.toNat]).then (fun d _ =>
        match f k (d.gPair x.core two ra.toNat) (d.gPair x.core two rb.toNat) ((d.cpu x.core).flag flC) with
        | none => .ok (d.setFlags x.core bcdBad) none
        | some (r, fl) => .ok ((d.setGPair x.core two ra.toNat r).setFlags x.core fl) none))

/-- BCDADC and BCDSBC read the low `n` bytes of both operands. -/
def bcdTwo (g : Nat → Nat → Nat → Bool → Nat × Flags) (n a b : Nat) (c : Bool) : Option (Nat × Flags) :=
  if badDigits n a || badDigits n b then none else some (g n (a % 256 ^ n) (b % 256 ^ n) c)

/-- BCD2BIN of the low `n` bytes of RB. -/
def bcdToBin (n _ b : Nat) (_ : Bool) : Option (Nat × Flags) :=
  if badDigits n b then none
  else
    let r := ofDigits (digits n b)
    some (r, { z := some (r == 0), n := some false, c := some false, v := some false, h := some false })

/-- BIN2BCD of RB. -/
def binToBcd (n _ b : Nat) (_ : Bool) : Option (Nat × Flags) :=
  let r := toBcd n (b % 10 ^ (2 * n))
  some (r, { z := some (r == 0), n := some false, c := some (decide (10 ^ (2 * n) ≤ b)), v := some false, h := some false })

end Sys2Proof.Machine
end

