-- ==== Sys2Proof/Machine/SepMove.lean ====
section
/-!
DEFINITION. Septari data movement, the stack and control transfer (R127, R135, R144, R147, R168 to R171, R174).
-/

namespace Sys2Proof.Machine

/-! ### MOV, loads and stores (Table 5-4) -/

/-- MOV in its three forms. -/
def Dev.mov (d : Dev) (x : Sx) (p : MovOp) : Dev :=
  let put := fun (d : Dev) (ra : BitVec 4) (v : Nat) =>
    (d.pairs (isWide x) [ra.toNat]).then (fun d _ => .ok (d.setGv x ra.toNat v) none)
  match p with
  | .rr ra rb =>
    d.issue x { len := 2, acc := [.wide] } (fun d =>
      (d.pairs (isWide x) [ra.toNat, rb.toNat]).then (fun d _ => put d ra (d.gv x rb.toNat)))
  | .ri8 ra rb v => d.issue x { len := 3, acc := [.wide], undef := mustZero rb } (fun d => put d ra (immVal x (v.signExtend 32)))
  | .ri32 ra rb v => d.issue x { len := 6, acc := [.wide], undef := mustZero rb } (fun d => put d ra (immVal x v))

/-- LD. -/
def Dev.ld (d : Dev) (x : Sx) (ra rb : BitVec 4) (p : Disp) : Dev :=
  d.issue x { len := 2 + p.len, acc := [.lane, .wide] } (fun d =>
    (d.pairs (isWide x) [ra.toNat]).then (fun d _ => (d.mload x (d.ea x rb p.ext) (opBytes x)).then (fun d v =>
      .ok (d.setGv x ra.toNat v) none)))

/-- A store of `w` bytes whose value is a register operand. -/
def Dev.storeReg (d : Dev) (x : Sx) (i : Ins) (pair : Bool) (ra rb : BitVec 4) (disp : Word) (w : Nat) : Dev :=
  d.issue x i (fun d =>
    (d.nodryOk x (d.ea x rb disp)).then (fun d _ => (d.pairs pair [ra.toNat]).then (fun d _ =>
      (d.mstore x (d.ea x rb disp) w (d.gv x ra.toNat)).nxt)))

/-- ST. -/
def Dev.st (d : Dev) (x : Sx) (ra rb : BitVec 4) (p : Disp) : Dev :=
  d.storeReg x { len := 2 + p.len, acc := [.lane, .wide], stores := true } (isWide x) ra rb p.ext (opBytes x)

/-- STB and STH: `w` bytes of RA. -/
def Dev.stPart (d : Dev) (x : Sx) (ra rb : BitVec 4) (v : BitVec 8) (w : Nat) : Dev :=
  d.storeReg x { len := 3, acc := [.lane], stores := true } false ra rb (v.signExtend 32) w

/-- STI: the immediate, 8 bytes under WIDE. -/
def Dev.sti (d : Dev) (x : Sx) (ra rb : BitVec 4) (p : Disp) (imm : Word) : Dev :=
  d.issue x { len := 7 + p.len, acc := [.lane, .wide], undef := mustZero ra, stores := true } (fun d =>
    (d.mstore x (d.ea x rb p.ext) (opBytes x) (immVal x imm)).nxt)

/-- LEA. -/
def Dev.lea (d : Dev) (x : Sx) (ra rb : BitVec 4) (disp : Word) : Dev :=
  d.issue x { len := 6 } (fun d => .ok (d.setG x.core ra.toNat (d.ea x rb disp)) none)

/-- LDB, LDBS, LDH, LDHS: `w` bytes, extended with zeros or the sign. -/
def Dev.ldPart (d : Dev) (x : Sx) (ra rb : BitVec 4) (v : BitVec 8) (w : Nat) (sx : Bool) : Dev :=
  d.issue x { len := 3, acc := [.lane] } (fun d =>
    (d.mload x (d.ea x rb (v.signExtend 32)) w).then (fun d m =>
      let r := if sx && signOf (8 * w) m then m + (2 ^ 32 - 2 ^ (8 * w)) else m
      .ok (d.setG x.core ra.toNat (BitVec.ofNat 32 r)) none))

/-- XCHG. -/
def Dev.xchg (d : Dev) (x : Sx) (p : XchgOp) : Dev :=
  match p with
  | .reg ra rb =>
    d.issue x { len := 2, acc := [.wide] } (fun d =>
      (d.pairs (isWide x) [ra.toNat, rb.toNat]).then (fun d _ =>
        let a := d.gv x ra.toNat
        let b := d.gv x rb.toNat
        .ok ((d.setGv x ra.toNat b).setGv x rb.toNat a) none))
  | .mem ra rb v =>
    d.issue x { len := 3, acc := [.wide, .atom], stores := true } (fun d =>
      let a := d.ea x rb (v.signExtend 32)
      (d.nodryOk x a).then (fun d _ => (d.pairs (isWide x) [ra.toNat]).then (fun d _ =>
        (d.rmw x a (opBytes x) (fun m => (d.gv x ra.toNat, m))).then (fun d m => .ok (d.setGv x ra.toNat m) none))))

/-! ### The stack (R127, R144, R170) -/

/-- A stack store of a word: direct in the engine's own data memory (R144). -/
def Dev.stackStore (d : Dev) (x : Sx) (a v : Word) : SRes Unit :=
  (d.nodryOk x a).then (fun d _ =>
    let own := match coreEng x.core with
      | some n => ownData n a.toNat
      | none => false
    d.sstore x.core own a 4 v.toNat)

/-- Push a word. -/
def Dev.push (d : Dev) (x : Sx) (v : Word) : SRes Unit :=
  let a := d.g x.core 15 - 4
  (d.stackStore x a v).then (fun d _ => .ok (d.setG x.core 15 a) ())

/-- Pop a word. -/
def Dev.pop (d : Dev) (x : Sx) : SRes Word :=
  let a := d.g x.core 15
  (d.sload x.core a 4).then (fun d v => .ok (d.setG x.core 15 (a + 4)) (BitVec.ofNat 32 v))

/-- Store registers downwards from `a`; G15 changes when all are stored. -/
def Dev.pushAll (d : Dev) (x : Sx) (a : Word) : List Nat → SRes Word
  | [] => .ok d a
  | k :: ks => (d.stackStore x (a - 4) (d.g x.core k)).then (fun d _ => d.pushAll x (a - 4) ks)

/-- Load words upwards from `a`. -/
def Dev.popAll (d : Dev) (x : Sx) (a : Word) : List Nat → SRes (List (Nat × Word))
  | [] => .ok d []
  | k :: ks =>
    (d.sload x.core a 4).then (fun d v => (d.popAll x (a + 4) ks).then (fun d l => .ok d ((k, BitVec.ofNat 32 v) :: l)))

/-- The registers of a mask, lowest first. -/
def maskRegs (m : BitVec 16) : List Nat := (List.range 15).filter m.getLsbD

/-- PUSHM. -/
def Dev.pushm (d : Dev) (x : Sx) (m : BitVec 16) : Dev :=
  d.issue x { len := 3, stores := true } (fun d =>
    if m.getLsbD 15 then .fault d 8 9 none
    else (d.pushAll x (d.g x.core 15) (maskRegs m).reverse).then (fun d a => .ok (d.setG x.core 15 a) none))

/-- POPM. -/
def Dev.popm (d : Dev) (x : Sx) (m : BitVec 16) : Dev :=
  d.issue x { len := 3 } (fun d =>
    if m.getLsbD 15 then .fault d 8 9 none
    else
      let a := d.g x.core 15
      (d.popAll x a (maskRegs m)).then (fun d l =>
        let d := l.foldl (fun d e => d.setG x.core e.1 e.2) d
        .ok (d.setG x.core 15 (a + BitVec.ofNat 32 (4 * l.length))) none))

/-! ### Control transfer (Table 5-7) -/

/-- The address after an instruction. -/
def Dev.nextPc (d : Dev) (x : Sx) (i : Ins) : Word := (d.cpu x.core).pc + BitVec.ofNat 32 (insLen x i)

/-- Bcc. -/
def Dev.bcc (d : Dev) (x : Sx) (cc : BitVec 4) (p : Disp) : Dev :=
  let i : Ins := { len := 1 + p.len }
  d.issue x i (fun d => .ok d (if (d.cpu x.core).cond cc then some (d.nextPc x i + p.ext) else none))

/-- CALL. -/
def Dev.call (d : Dev) (x : Sx) (p : CallOp) : Dev :=
  match p with
  | .rel v =>
    let i : Ins := { len := 5, stores := true }
    d.issue x i (fun d =>
      let nx := d.nextPc x i
      (d.push x nx).then (fun d _ => .ok d (some (nx + v))))
  | .reg ra rb =>
    let i : Ins := { len := 2, undef := mustZero ra, stores := true }
    d.issue x i (fun d =>
      let to' := d.g x.core rb.toNat
      (d.push x (d.nextPc x i)).then (fun d _ => .ok d (some to')))

/-- JMP. -/
def Dev.jmp (d : Dev) (x : Sx) (ra rb : BitVec 4) : Dev :=
  d.issue x { len := 2, undef := mustZero ra } (fun d => .ok d (some (d.g x.core rb.toNat)))

/-- RET. -/
def Dev.ret (d : Dev) (x : Sx) : Dev := d.issue x { len := 1 } (fun d => (d.pop x).then (fun d v => .ok d (some v)))

end Sys2Proof.Machine
end

