-- ==== Sys2Proof/Machine/SepBit.lean ====
section
/-!
DEFINITION. Septari bit variables, strings and bit blocks (R130, R131, R138, R142, R175 to R179).
-/

namespace Sys2Proof.Machine

/-! ### Bit instructions (Table 5-8) -/

/-- The detail of a bit-address immediate whose bits [15:12] are not 0 (R137, R138). -/
def bitImm (v : BitVec 16) : Option Nat := if v.toNat < 4096 then none else some 2

/-- The detail of a pair of bit addresses with reserved bits set. -/
def bitImm2 (v : BitVec 32) : Option Nat :=
  if v.toNat % 2 ^ 16 < 4096 && v.toNat / 2 ^ 16 < 4096 then none else some 2

/-- BSET, BCLR, BCPL: `f` of the bit. -/
def Dev.bitOne (d : Dev) (x : Sx) (v : BitVec 16) (f : Bool → Bool) : Dev :=
  d.issue x { len := 3, undef := bitImm v } (fun d => (d.bitWrite x.core v.toNat (f (d.bitRead x.core v.toNat))).nxt)

/-- BMOV, BAND, BOR, BXOR, BANDN: BA becomes `f` of BA and BB. -/
def Dev.bitTwo (d : Dev) (x : Sx) (v : BitVec 32) (f : Bool → Bool → Bool) : Dev :=
  d.issue x { len := 5, undef := bitImm2 v } (fun d =>
    let ba := v.toNat % 4096
    let bb := v.toNat / 2 ^ 16 % 4096
    (d.bitWrite x.core ba (f (d.bitRead x.core ba) (d.bitRead x.core bb))).nxt)

/-- A bit in a register. -/
def bitWord (b : Bool) : Word := BitVec.ofNat 32 b.toNat

/-- The address a bit instruction takes from a register (R131). -/
def Dev.bitAt (d : Dev) (c : Core) (k : Nat) : Nat := (d.g c k).toNat % 4096

/-- BLD. -/
def Dev.bld (d : Dev) (x : Sx) (ra rb : BitVec 4) (v : BitVec 16) : Dev :=
  d.issue x { len := 4, undef := if rb = 0 then bitImm v else some 2 } (fun d =>
    .ok (d.setG x.core ra.toNat (bitWord (d.bitRead x.core v.toNat))) none)

/-- BST. -/
def Dev.bst (d : Dev) (x : Sx) (ra rb : BitVec 4) (v : BitVec 16) : Dev :=
  d.issue x { len := 4, undef := if rb = 0 then bitImm v else some 2 } (fun d =>
    (d.bitWrite x.core v.toNat ((d.g x.core ra.toNat).getLsbD 0)).nxt)

/-- BLDI. -/
def Dev.bldi (d : Dev) (x : Sx) (ra rb : BitVec 4) : Dev :=
  d.issue x { len := 2 } (fun d => .ok (d.setG x.core ra.toNat (bitWord (d.bitRead x.core (d.bitAt x.core rb.toNat)))) none)

/-- BSTI. -/
def Dev.bsti (d : Dev) (x : Sx) (ra rb : BitVec 4) : Dev :=
  d.issue x { len := 2 } (fun d => (d.bitWrite x.core (d.bitAt x.core rb.toNat) ((d.g x.core ra.toNat).getLsbD 0)).nxt)

/-- BTST. -/
def Dev.btst (d : Dev) (x : Sx) (v : BitVec 16) : Dev :=
  d.issue x { len := 3, undef := bitImm v } (fun d =>
    .ok (d.setFlags x.core { z := some (!d.bitRead x.core v.toNat) }) none)

/-- BRB and BRNB: branch when the bit is `on`. -/
def Dev.brb (d : Dev) (x : Sx) (p : BitVec 8) (v : BitVec 16) (on : Bool) : Dev :=
  let i : Ins := { len := 4, undef := bitImm v }
  d.issue x i (fun d => .ok d (if d.bitRead x.core v.toNat == on then some (d.nextPc x i + p.signExtend 32) else none))

/-- BRBC: branch when the bit is set, and clear it (R175). -/
def Dev.brbc (d : Dev) (x : Sx) (p : BitVec 8) (v : BitVec 16) : Dev :=
  let i : Ins := { len := 4, undef := bitImm v }
  d.issue x i (fun d =>
    if d.bitRead x.core v.toNat then
      (d.bitWrite x.core v.toNat false).then (fun d _ => .ok d (some (d.nextPc x i + p.signExtend 32)))
    else .ok d none)

/-! ### Repetition (R142, R177, R179) -/

/-- Elements while the count lasts: G12 to G14 always describe those completed. -/
def repLoop (x : Sx) (elem : Dev → SRes Unit) : Nat → Dev → SRes Unit
  | 0, d => .ok d ()
  | k + 1, d =>
    (elem d).then (fun d _ =>
      let d := d.setG x.core 14 (d.g x.core 14 - 1)
      if hasPfx x .repz && !(d.cpu x.core).flag flZ then .ok d () else repLoop x elem k d)

/-- One element, or under REP or REPZ as many as G14 says. -/
def Dev.repeated (d : Dev) (x : Sx) (elem : Dev → SRes Unit) : SRes (Option Word) :=
  (if hasPfx x .rep || hasPfx x .repz then repLoop x elem (d.g x.core 14).toNat d else elem d).nxt

/-- Advance a pointer register. -/
def Dev.step (d : Dev) (x : Sx) (k w : Nat) : Dev := d.setG x.core k (d.g x.core k + BitVec.ofNat 32 w)

/-! ### Strings (Table 5-9) -/

/-- MOVSB, MOVSW, MOVSD: elements of `w` bytes. -/
def Dev.movs (d : Dev) (x : Sx) (w : Nat) : Dev :=
  d.issue x { len := 2, acc := [.lane, .rep], stores := true } (fun d => d.repeated x (fun d =>
    (d.nodryOk x (d.g x.core 13)).then (fun d _ => (d.mload x (d.g x.core 12) w).then (fun d v =>
      (d.mstore x (d.g x.core 13) w v).then (fun d _ => .ok ((d.step x 12 w).step x 13 w) ())))))

/-- CMPSB, CMPSW. -/
def Dev.cmps (d : Dev) (x : Sx) (w : Nat) : Dev :=
  d.issue x { len := 2, acc := [.lane, .rep, .repz] } (fun d => d.repeated x (fun d =>
    (d.mload x (d.g x.core 12) w).then (fun d a => (d.sload x.core (d.g x.core 13) w).then (fun d b =>
      .ok (((d.setFlags x.core (subOp (8 * w) a b false).2).step x 12 w).step x 13 w) ()))))

/-- SCASB. -/
def Dev.scasb (d : Dev) (x : Sx) (ra rb : BitVec 4) : Dev :=
  d.issue x { len := 3, acc := [.lane, .rep, .repz], undef := mustZero rb } (fun d => d.repeated x (fun d =>
    (d.mload x (d.g x.core 12) 1).then (fun d b =>
      .ok ((d.setFlags x.core (subOp 8 ((d.g x.core ra.toNat).toNat % 256) b false).2).step x 12 1) ())))

/-- STOSB, STOSW: `w` bytes of RA. -/
def Dev.stos (d : Dev) (x : Sx) (ra rb : BitVec 4) (w : Nat) : Dev :=
  d.issue x { len := 3, acc := [.lane, .rep], undef := mustZero rb, stores := true } (fun d => d.repeated x (fun d =>
    (d.mstore x (d.g x.core 13) w (d.g x.core ra.toNat).toNat).then (fun d _ => .ok (d.step x 13 w) ())))

/-! ### Bit blocks (Table 5-10) -/

/-- BBMOV. -/
def Dev.bbmov (d : Dev) (x : Sx) : Dev :=
  d.issue x { len := 2, acc := [.rep] } (fun d => d.repeated x (fun d =>
    (d.bitWrite x.core (d.bitAt x.core 13) (d.bitRead x.core (d.bitAt x.core 12))).then (fun d _ =>
      .ok ((d.step x 12 1).step x 13 1) ())))

/-- BBCLR and BBSET. -/
def Dev.bbfill (d : Dev) (x : Sx) (v : Bool) : Dev :=
  d.issue x { len := 2, acc := [.rep] } (fun d => d.repeated x (fun d =>
    (d.bitWrite x.core (d.bitAt x.core 13) v).then (fun d _ => .ok (d.step x 13 1) ())))

/-- BBCMP. -/
def Dev.bbcmp (d : Dev) (x : Sx) : Dev :=
  d.issue x { len := 2, acc := [.rep, .repz] } (fun d => d.repeated x (fun d =>
    let same := d.bitRead x.core (d.bitAt x.core 12) == d.bitRead x.core (d.bitAt x.core 13)
    .ok (((d.setFlags x.core { z := some same }).step x 12 1).step x 13 1) ()))

/-- BBCNT. -/
def Dev.bbcnt (d : Dev) (x : Sx) (ra rb : BitVec 4) : Dev :=
  d.issue x { len := 3, acc := [.rep], undef := mustZero rb, g14 := ra == 14 } (fun d => d.repeated x (fun d =>
    let b := bitWord (d.bitRead x.core (d.bitAt x.core 12))
    .ok ((d.setG x.core ra.toNat (d.g x.core ra.toNat + b)).step x 12 1) ()))

/-- BBSCAN. -/
def Dev.bbscan (d : Dev) (x : Sx) (ra rb : BitVec 4) : Dev :=
  d.issue x { len := 3, acc := [.rep, .repz], undef := mustZero rb, g14 := ra == 14 } (fun d => d.repeated x (fun d =>
    let b := d.bitRead x.core (d.bitAt x.core 12)
    let d' := d.setG x.core ra.toNat (d.g x.core 12)
    .ok ((d'.setFlags x.core { z := some (!b) }).step x 12 1) ()))

end Sys2Proof.Machine
end

