-- ==== Sys2Proof/Machine/SepSys.lean ====
section
/-!
DEFINITION. Septari engine and system instructions (R84, R86, R94, R98, R99, R150, R154 to R160, R186 to R195, R197; Tables 4-11, 5-15
to 5-20).
-/

namespace Sys2Proof.Machine

/-- An instruction of Septari-E alone. -/
def engIns (len : Nat) (undef : Option Nat := none) : Ins := { len := len, onS := false, undef := undef }

/-- Run a body that names its engine. -/
def Dev.issueE (d : Dev) (x : Sx) (i : Ins) (body : Dev → Nat → SRes (Option Word)) : Dev :=
  d.issue x i (fun d =>
    match coreEng x.core with
    | some n => body d n
    | none => .ok d none)

/-! ### WQNEXT and DFEND (R186 to R188) -/

/-- With no handler under dry-fit: the item of an early commit is done; the engine halts, waits, or takes the next item. -/
def Dev.wqTake (d : Dev) (n : Nat) : SRes (Option Word) :=
  let d := d.leaveItem n
  let g := d.e n
  if d.engHold n then .stop (d.setE n { g with run := .halted })
  else
    let g := { g with bin := min 8 (d.f CLK_ENGPLL_BIN) }
    if g.wq.isEmpty then .stop (d.setE n { g with run := .idle })
    else
      let d := (d.setE n g).takeItem n
      .ok d (some (d.e n).cpu.pc)

/-- WQNEXT: a handler under dry-fit ends; without a software verdict its item is dropped (R94). -/
def Dev.wqnext (d : Dev) (x : Sx) : Dev :=
  d.issueE x (engIns 1) (fun d n =>
    match (d.e n).hand with
    | some h =>
      if !(d.e n).dry then d.wqTake n
      else if h.isSoft && h.soft.isNone then .stop (d.badDrop n)
      else .stop (d.setE n { d.e n with run := .atEnd })
    | none => d.wqTake n)

/-- The detail of a reserved bit of DFEND's operand. -/
def dfendUndef (hi : BitVec 7) : Option Nat := if hi = 0 then none else some 2

/-- DFEND pass: the verdict of a software-verdict item. -/
def Dev.dfendPass (d : Dev) (x : Sx) (hi : BitVec 7) : Dev :=
  d.issueE x (engIns 3 (dfendUndef hi)) (fun d n =>
    let g := d.e n
    match g.hand with
    | some h =>
      if g.dry && h.isSoft && h.soft.isNone then
        .ok (d.setE n { g with hand := some { h with soft := some true, stamp := d.stamp } }) none
      else .ok d none
    | none => .ok d none)

/-- DFEND fail: the item is dropped at once. -/
def Dev.dfendFail (d : Dev) (x : Sx) (hi : BitVec 7) : Dev :=
  d.issueE x (engIns 3 (dfendUndef hi)) (fun d n =>
    if (d.e n).hand.isSome && (d.e n).dry then .stop (d.badDrop n) else .ok d none)

/-! ### TXARM and TXMEM (R189, R190) -/

/-- The checks of binding slot and class, for a lane of any kind. -/
def Dev.bindOk (d : Dev) (n k tc : Nat) : Bool :=
  d.b ENG_BIND_VALID n k && (decide (d.f ENG_BIND_LANE n k < 24) || tc == 0)

/-- TXARM of a slot. -/
def Dev.txarm (d : Dev) (x : Sx) (ra : BitVec 4) (slot : BitVec 2) (bslot : BitVec 4) (tc : BitVec 3) (hi : BitVec 6) : Dev :=
  d.issueE x (engIns 5 (if hi = 0 then none else some 2)) (fun d n =>
    let k := bslot.toNat
    let s := slot.toNat
    let len := (d.g x.core ra.toNat).toNat
    if !d.bindOk n k tc.toNat then .fault d 8 7 none
    else if len = 0 || d.maxFrame (d.f ENG_BIND_LANE n k) false < len then .fault d 8 6 none
    else if (d.slot n s).st ≠ .free then .stop (d.setE n { d.e n with run := .slot s })
    else if (d.e n).dry then
      (d.bufEffect n (.arm s k tc.toNat len)).then (fun d _ => .ok (d.setSlot n s { d.slot n s with st := .armed }) none)
    else .ok (d.armLane n s k tc.toNat len) none)

/-- TXARM with RELAY = 1: the arriving frame to an Ethernet lane, at most once for an item (R99). -/
def Dev.txarmRelay (d : Dev) (x : Sx) (bslot : BitVec 4) (tc : BitVec 3) (hi : BitVec 6) : Dev :=
  d.issueE x (engIns 5 (if hi = 0 then none else some 2)) (fun d n =>
    let lane := d.f ENG_BIND_LANE n bslot.toNat
    match (d.e n).hand with
    | none => .fault d 8 7 none
    | some h =>
      let k := h.item.frame
      if !d.b ENG_BIND_VALID n bslot.toNat || 24 ≤ lane || 24 ≤ (d.fr k).port then .fault d 8 7 none
      else
        let d := d.relay k lane tc.toNat
        .ok (d.setE n { d.e n with hand := some { h with relayed := true } }) none)

/-- The bytes of `k` 64-bit words of comb memory from `a`. -/
def Dev.combRead (d : Dev) (c : Core) (n : Nat) (a : Word) : Nat → SRes (List Byte)
  | 0 => .ok d []
  | k + 1 =>
    if regionOf a.toNat != .comb then .fault d 12 0 (some a)
    else (d.combNow c n a 8).then (fun d v => (d.combRead c n (a + 8) k).then (fun d l => .ok d (natLe 8 v ++ l)))

/-- TXMEM: it serialises under dry-fit, and stalls while the lane has no room. -/
def Dev.txmem (d : Dev) (x : Sx) (ra rb : BitVec 4) (low : BitVec 2) (bslot : BitVec 4) (tc : BitVec 3) (hi : BitVec 7) : Dev :=
  d.issueE x (engIns 5 (if hi = 0 && low = 0 then none else some 2)) (fun d n =>
    let k := bslot.toNat
    let lane := d.f ENG_BIND_LANE n k
    let len := (d.g x.core ra.toNat).toNat
    let a := d.g x.core rb.toNat
    if !d.bindOk n k tc.toNat then .fault d 8 7 none
    else if a.toNat % 8 ≠ 0 || regionOf a.toNat != .comb then .fault d 8 8 (some a)
    else if len = 0 || d.maxFrame lane true < len then .fault d 8 6 none
    else if (d.e n).dry then .stop (d.trigger n)
    else
      (d.combRead x.core n a ((len + 7) / 8)).then (fun d l =>
        match d.offer lane { eng := n, slot := none, tc := tc.toNat, bytes := l.take len } (.mem n) with
        | (d', done) => if done || lane < 24 || 56 ≤ lane then .ok d' none else .stop d))

/-! ### EVRAISE, JWRITE, FPLEN (R150, R191, R192) -/

/-- EVRAISE. -/
def Dev.evraise (d : Dev) (x : Sx) (v : BitVec 16) : Dev :=
  d.issueE x (engIns 4 (if v.toNat < 256 then none else some 2)) (fun d n =>
    if !d.mayRaise x.core.master v.toNat then .fault d 8 5 none
    else if (d.e n).dry then (d.bufEffect n (.event v.toNat)).nxt
    else .ok (d.softRaise v.toNat) none)

/-- Words of 8 bytes from `a`. -/
def Dev.loads (d : Dev) (c : Core) (a : Word) : Nat → SRes (List Byte)
  | 0 => .ok d []
  | k + 1 => (d.sload c a 8).then (fun d v => (d.loads c (a + 8) k).then (fun d l => .ok d (natLe 8 v ++ l)))

/-- The 32-bit words of bytes. -/
def wordsOf : Nat → List Byte → List Word
  | 0, _ => []
  | k + 1, l => BitVec.ofNat 32 (leNat (l.take 4)) :: wordsOf k (l.drop 4)

/-- JWRITE. -/
def Dev.jwrite (d : Dev) (x : Sx) (ra rb : BitVec 4) : Dev :=
  d.issueE x (engIns 3 (mustZero ra)) (fun d n =>
    let a := d.g x.core rb.toNat
    if !ownData n a.toNat && regionOf a.toNat != .comb then .fault d 8 10 (some a)
    else if a.toNat % 32 ≠ 0 then .fault d 10 0 (some a)
    else
      (d.loads x.core a 4).then (fun d l =>
        let ws := wordsOf 8 l
        let cls := getBits (ws.getD 2 0) 0 2
        if cls = 3 then .fault d 8 10 none
        else if (d.e n).dry then (d.bufEffect n (.record ws)).nxt
        else .ok (d.journal { origin := 264 + n, time := d.jtime, cls := cls, row := some ws }) none))

/-- FPLEN. -/
def Dev.fplen (d : Dev) (x : Sx) (ra rb : BitVec 4) : Dev :=
  d.issueE x (engIns 3 (mustZero rb)) (fun d n =>
    let v := match (d.e n).hand with
      | some h =>
        let f := d.fr h.item.frame
        f.arrived % 2 ^ 14 + f.fin.toNat * 2 ^ 31
      | none => 0
    .ok (d.setG x.core ra.toNat (BitVec.ofNat 32 v)) none)

/-! ### Exceptions by instruction, ERET (R154, R195) -/

/-- BRK: the PC saved is the next one, under dry-fit BRK's own (R107). -/
def Dev.brk (d : Dev) (x : Sx) : Dev :=
  let i : Ins := { len := 1 }
  d.issue x i (fun d =>
    let pc := (d.cpu x.core).pc
    .stop (d.excp x.core 6 0 none (if d.dryOn x.core then pc else d.nextPc x i)))

/-- SVC. -/
def Dev.svc (d : Dev) (x : Sx) (_ : BitVec 8) : Dev :=
  let i : Ins := { len := 3, onE := false }
  d.issue x i (fun d => .stop (d.excp x.core 7 0 none (d.nextPc x i)))

/-- A reserved opcode, of one byte or after the escape (R145, R148). -/
def Dev.reservedOp (d : Dev) (x : Sx) (two : Bool) : Dev :=
  d.issue x { len := if two then 2 else 1, undef := some 1 } (fun d => .ok d none)

/-- ERET. -/
def Dev.eret (d : Dev) (x : Sx) : Dev :=
  d.issue x { len := 2, priv := true } (fun d =>
    let c := d.cpu x.core
    let c' := { c with fl := flWrite c.fl c.efl, estat := putBits c.estat 0 1 0 }
    let c' := if isS x.core then
        { c'.mpuSync with psr := putBits c.psr 0 2 ((c.estat.getLsbD 1).toNat + (c.estat.getLsbD 2).toNat * 2) }
      else c'
    .ok (d.setCpu x.core c') (some c.epc))

/-! ### Control registers (R194, Table 4-11) -/

/-- The profile has the control register. -/
def crThere (s : Bool) (k : Nat) : Bool :=
  k ≤ 8 || (!s && k == 9) || (s && (k == 0x10 || k == 0x11 || (0x18 ≤ k && k ≤ 0x1C)))

/-- The value of control register `k`. -/
def crRead (c : Core) (x : Cpu) (k : Nat) : Word :=
  match k with
  | 0x00 => x.vbase
  | 0x01 => x.epc
  | 0x02 => x.efl
  | 0x03 => x.ecause
  | 0x04 => x.eaddr
  | 0x05 => x.estat
  | 0x06 => x.scr0
  | 0x07 => x.scr1
  | 0x08 => BitVec.ofNat 32 (c.master.num + (isS c).toNat * 256)
  | 0x09 => x.libbase
  | 0x10 => putBits x.psr 2 1 (c == .sv0).toNat
  | 0x11 => x.usp
  | 0x18 => x.mpuctl
  | 0x19 => x.mpusel
  | _ => Tab.look x.mpu 0 (4 * (x.mpusel.toNat % 16) + (k - 0x1A))

/-- A write of control register `k`: RO fields keep their values. -/
def crWrite (c : Core) (x : Cpu) (k : Nat) (v : Word) : Cpu :=
  let reg := fun (m : Word) => { x with mpu := Tab.put x.mpu 0 (4 * (x.mpusel.toNat % 16) + (k - 0x1A)) (v &&& m) }
  match k with
  | 0x00 => { x with vbase := v &&& 0xFFFFFF00 }
  | 0x01 => { x with epc := v }
  | 0x02 => { x with efl := v }
  | 0x05 => { x with estat := putBits x.estat 0 3 (v.toNat % (if isS c then 8 else 2)) }
  | 0x06 => { x with scr0 := v }
  | 0x07 => { x with scr1 := v }
  | 0x10 => { x with psr := putBits x.psr 1 1 (getBits v 1 1) }
  | 0x11 => { x with usp := v }
  | 0x18 => { x with mpuctl := v &&& 3 }
  | 0x19 => { x with mpusel := v &&& 15 }
  | 0x1A => reg 0xFFFFFFE0
  | 0x1B => reg 0xFFFFFFE0
  | 0x1C => reg 0x7F
  | _ => x

/-- What a MOVC is: RB must be 0, the number must be one of the profile's; user state may only read CR_CORE (R157). -/
def movcIns (c : Core) (rb : BitVec 4) (cr : BitVec 8) (write : Bool) : Ins :=
  {
    len := 4
    undef := if rb ≠ 0 then some 2 else if crThere (isS c) cr.toNat then none else some 4
    priv := write || cr != 8 }

/-- MOVC RA, cr. -/
def Dev.movcRead (d : Dev) (x : Sx) (ra rb : BitVec 4) (cr : BitVec 8) : Dev :=
  d.issue x (movcIns x.core rb cr false) (fun d =>
    .ok (d.setG x.core ra.toNat (crRead x.core (d.cpu x.core) cr.toNat)) none)

/-- MOVC cr, RA. -/
def Dev.movcWrite (d : Dev) (x : Sx) (ra rb : BitVec 4) (cr : BitVec 8) : Dev :=
  d.issue x (movcIns x.core rb cr true) (fun d =>
    .ok (d.setCpu x.core (crWrite x.core (d.cpu x.core) cr.toNat (d.g x.core ra.toNat))) none)

/-! ### WFI, INTOFF, INTON, FENCE, NOP (R156, R193, R195) -/

/-- A privileged instruction of Septari-S alone, two bytes long. -/
def svIns : Ins := { len := 2, onE := false, priv := true }

/-- An interrupt line or NMI is pending at a supervisor, whatever IE says. -/
def Dev.svPending (d : Dev) (c : Core) : Bool :=
  (d.lowLine (if c == .sv1 then 2 else 1)).isSome || (c == .sv0 && (d.nmiRaised || d.nmip))

/-- WFI. -/
def Dev.wfi (d : Dev) (x : Sx) : Dev :=
  d.issue x svIns (fun d => .ok (if d.svPending x.core then d else d.setSvRun x.core .wfi) none)

/-- INTON and INTOFF: CR_PSR.IE. -/
def Dev.intSet (d : Dev) (x : Sx) (on : Bool) : Dev :=
  d.issue x svIns (fun d =>
    let c := d.cpu x.core
    .ok (d.setCpu x.core { c with psr := putBits c.psr 1 1 on.toNat }) none)

/-- FENCE: earlier stores have completed in this model; a supervisor's protection changes apply (R160, R193). -/
def Dev.fence (d : Dev) (x : Sx) : Dev :=
  d.issue x { len := 2 } (fun d => .ok (if isS x.core then d.setCpu x.core (d.cpu x.core).mpuSync else d) none)

/-- NOP. -/
def Dev.nop (d : Dev) (x : Sx) : Dev := d.issue x { len := 1 } (fun d => .ok d none)

end Sys2Proof.Machine
end

