-- ==== Sys2Proof/Machine/State.lean ====
section
/-!
DEFINITION. The machine's state, how a step can stop, and the state after reset.
-/

namespace Sys2Proof.Machine

/-- Why a step stops with a fault. No command of the part does: an access to an address that does not exist ends in a bus error
(R526), and a core that meets a second exception halts while the part runs on (R155). -/
inductive Fault where
  deriving DecidableEq, Repr

/-- Why a step has no meaning. -/
inductive Refusal where
  /-- Raised by no arm of Machine/Dispatch.lean: every command has its meaning. Safe: a refusal claims nothing of the hardware. -/
  | notModelled (mnemonic : String)
  deriving DecidableEq, Repr

/-- The part: everything but its fuses, the fuses, and the commands that wait, first in, first out. -/
structure State where
  dev : Dev
  otp : Otp
  pending : List Instr
  deriving DecidableEq, Repr

/-- The state after power-on (a sill reset, R8) with unprogrammed fuses (log 2, log 30) and BOOT_SEL = 0b00: the boot ROM has started.
Unlisted registers and memory hold their reset values. BOOT_ARB shows the fuses (LIFECYCLE = 1); loading the time base from the
real-time clock has set TIME_STAT.STEPPED and raised EV084 (R319). -/
def State.reset : State :=
  { dev := { regs := [(0x40038010, 0x00004000), (0x40050008, 0x00100000), (0x40400004, 0x00000060)] }, otp := {}, pending := [] }

end Sys2Proof.Machine
end

