-- ==== Sys2Proof/Machine/CmdBase.lean ====
section
/-!
DEFINITION. What the commands' meanings share: the next state from the part after the command, fuses programmed, and register
writes that set one bit.
-/

namespace Sys2Proof.Machine

/-- The fuses after one programming (Table 2-5). -/
def Otp.burn (o : Otp) : Fuse → Otp
  | .revoke k => o.revoke k
  | .floors i l => o.raise (some (i, l))

/-- The next state: the part is as the command left it; fuses it programmed are blown and BOOT_ARB shows them (R62, R72). -/
def act (s : State) (d : Dev) : Host.Outcome State Fault Refusal :=
  match d.blow with
  | [] => .next { s with dev := d }
  | l =>
    let o := l.foldl Otp.burn s.otp
    .next { s with dev := { d with blow := [] }.wr BOOT_ARB o.arb, otp := o }

/-- Master `m` writes a register with its RW bits as they stand and `bits` set: a write made for one bit. -/
def Dev.poke (d : Dev) (m : Master) (r : Reg) (i j : Nat) (bits : Word) : Dev :=
  d.putReg m r i j ((d.rd r i j &&& r.accBits .rw) ||| bits)

end Sys2Proof.Machine
end

