-- ==== Sys2Proof/Machine/CmdBus.lean ====
section
/-!
DEFINITION. Commands of the multi-drop buses, the braced ring and the serial lanes (chapters 11 to 13).
-/

namespace Sys2Proof.Machine

/-- MB_ENABLE (R345): MDB_CTL with EN = 1 and its other fields from `v`. -/
def execMbEnable (m : Master) (n : Fin 16) (v : Word) (s : State) : Host.Outcome State Fault Refusal :=
  act s (s.dev.putReg m MDB_CTL n 0 (v ||| 1))

/-- MB_RX_FRAME (R348). -/
def execMbRxFrame (n : Fin 16) (f : MbFrame) (how : MbEnd) (s : State) : Host.Outcome State Fault Refusal :=
  act s (s.dev.mbRx n f how)

/-- HELD_ARM_ENTRY (R351, R382, R405, R419): on a lane. -/
def execHeldArmEntry (lane : Fin 64) (s : State) : Host.Outcome State Fault Refusal := act s (s.dev.heldEnter lane)

/-- MB_TX_OPPORTUNITY (R353): what becomes of the frame offered or under way. -/
def execMbTxOpportunity (n : Fin 16) (out : MbTx) (s : State) : Host.Outcome State Fault Refusal :=
  act s (s.dev.mbOpportunity n out)

/-- MB_TX_COMPLETE (R353): the transmitter delay measured, if one is. -/
def execMbTxComplete (n : Fin 16) (tdcv : BitVec 7) (s : State) : Host.Outcome State Fault Refusal :=
  act s (s.dev.mbSent n tdcv.toNat)

/-- MB_FLUSH (R356). -/
def execMbFlush (m : Master) (n : Fin 16) (s : State) : Host.Outcome State Fault Refusal :=
  act s (s.dev.poke m MDB_CTL n 0 0x100)

/-- MB_RECOVER (R357). -/
def execMbRecover (m : Master) (n : Fin 16) (s : State) : Host.Outcome State Fault Refusal :=
  act s (s.dev.poke m MDB_CTL n 0 0x200)

/-- MB_RECOVERY_COMPLETE (R357). -/
def execMbRecoveryComplete (n : Fin 16) (s : State) : Host.Outcome State Fault Refusal := act s (s.dev.mbRecovered n)

/-- MB_MODE_CHANGE (R358). -/
def execMbModeChange (n : Fin 16) (s : State) : Host.Outcome State Fault Refusal := act s (s.dev.mbModeChange n)

/-- MB_SLEEP_REQUEST (R359). -/
def execMbSleepRequest (m : Master) (n : Fin 16) (s : State) : Host.Outcome State Fault Refusal :=
  act s (s.dev.poke m MDB_CTL n 0 0x400)

/-- MB_SLEEP_ENTRY (R359). -/
def execMbSleepEntry (n : Fin 16) (s : State) : Host.Outcome State Fault Refusal := act s (s.dev.mbSleep n)

/-- MB_WAKE_DOMINANT (R360): longer than FILT, or a shorter pulse. -/
def execMbWakeDominant (n : Fin 16) (long : Bool) (s : State) : Host.Outcome State Fault Refusal :=
  act s (s.dev.mbDominant n long)

/-- MB_QUARANTINE_END (R360). -/
def execMbQuarantineEnd (n : Fin 16) (s : State) : Host.Outcome State Fault Refusal := act s (s.dev.mbQuiet n)

/-- MB_STUCK (R360). -/
def execMbStuck (n : Fin 16) (s : State) : Host.Outcome State Fault Refusal := act s (s.dev.mbStuck n)

/-- MB_WAKE_FRAME (R361): `crc`: its CRC is right. -/
def execMbWakeFrame (n : Fin 16) (f : MbFrame) (crc : Bool) (s : State) : Host.Outcome State Fault Refusal :=
  act s (s.dev.mbWakeFrame n f crc)

/-- MB_DECODER_IDLE (R361). -/
def execMbDecoderIdle (n : Fin 16) (s : State) : Host.Outcome State Fault Refusal := act s (s.dev.mbDecIdle n)

/-- MB_DECODER_TRIM (R361). -/
def execMbDecoderTrim (n : Fin 16) (s : State) : Host.Outcome State Fault Refusal := act s (s.dev.mbTrim n)

/-- MB_WAKE_REQUEST (R362). -/
def execMbWakeRequest (m : Master) (n : Fin 16) (s : State) : Host.Outcome State Fault Refusal :=
  act s (s.dev.poke m MDB_CTL n 0 0x800)

/-- MB_INTEGRATION_DONE (R362). -/
def execMbIntegrationDone (n : Fin 16) (s : State) : Host.Outcome State Fault Refusal := act s (s.dev.mbIntegrated n)

/-- MB_REF_DUE (R363). -/
def execMbRefDue (n : Fin 16) (s : State) : Host.Outcome State Fault Refusal := act s (s.dev.refDue n)

/-- MB_REFERENCE_MESSAGE (R366): the bus-cycle boundary it forms. -/
def execMbReferenceMessage (n : Fin 16) (s : State) : Host.Outcome State Fault Refusal := act s (s.dev.refBoundary n)

/-- MB_SYNC_TIMEOUT (R365). -/
def execMbSyncTimeout (n : Fin 16) (s : State) : Host.Outcome State Fault Refusal := act s (s.dev.syncTimeout n)

/-- MB_TMREF_READ (R363). -/
def execMbTmrefRead (m : Master) (n : Fin 16) (s : State) : Host.Outcome State Fault Refusal :=
  act s (s.dev.getReg m MDB_TMREF_LO n 0)

/-- RING_ENABLE (R371): BRG_CTL with EN = 1 and its other fields from `v`. -/
def execRingEnable (m : Master) (n : Fin 8) (v : Word) (s : State) : Host.Outcome State Fault Refusal :=
  act s (s.dev.putReg m BRG_CTL n 0 (v ||| 1))

/-- RING_ROUND_START (R375). -/
def execRingRoundStart (n : Fin 8) (s : State) : Host.Outcome State Fault Refusal := act s (s.dev.ringRound n)

/-- RING_SLOT_SEND (R382). -/
def execRingSlotSend (n : Fin 8) (slot : Fin 64) (s : State) : Host.Outcome State Fault Refusal :=
  act s (s.dev.ringSend n slot)

/-- RING_COPY_RECEIVE (R381): the port, whether its check and its end delimiter are right, header and payload. -/
def execRingCopyReceive (n : Fin 8) (east crc delim : Bool) (b : List Byte) (s : State) : Host.Outcome State Fault Refusal :=
  act s (s.dev.ringCopy n east crc delim b)

/-- GUARDIAN_CUT (R384). -/
def execGuardianCut (n : Fin 8) (s : State) : Host.Outcome State Fault Refusal := act s (s.dev.ringCut n)

/-- GUARDIAN_TRIM (R383). -/
def execGuardianTrim (n : Fin 8) (s : State) : Host.Outcome State Fault Refusal := act s (s.dev.ringTrim n)

/-- RING_COLD_START (R388). -/
def execRingColdStart (n : Fin 8) (s : State) : Host.Outcome State Fault Refusal := act s (s.dev.ringColdStart n)

/-- RING_GO_PASSIVE (R394). -/
def execRingGoPassive (n : Fin 8) (s : State) : Host.Outcome State Fault Refusal := act s (s.dev.ringGoPassive n)

/-- RING_RESUME (R394). -/
def execRingResume (n : Fin 8) (s : State) : Host.Outcome State Fault Refusal := act s (s.dev.ringResume n)

/-- SL_ENABLE (R397): SLN_CTL with EN = 1 and its other fields from `v`. -/
def execSlEnable (m : Master) (n : Fin 16) (v : Word) (s : State) : Host.Outcome State Fault Refusal :=
  act s (s.dev.putReg m SLN_CTL n 0 (v ||| 1))

/-- SL_RX_FRAME (R400): characters that arrive together, and how they end. -/
def execSlRxFrame (n : Fin 16) (cs : List Byte) (how : SlEnd) (s : State) : Host.Outcome State Fault Refusal :=
  act s (s.dev.slReceive n cs how)

/-- SL_IDLE_GAP (R400). -/
def execSlIdleGap (n : Fin 16) (s : State) : Host.Outcome State Fault Refusal := act s (s.dev.slIdle n)

/-- SL_LOCK_LOSS (R399). -/
def execSlLockLoss (n : Fin 16) (s : State) : Host.Outcome State Fault Refusal := act s (s.dev.slLockLoss n)

/-- SL_TX_START (R406): `echo`: a bit comes back different. -/
def execSlTxStart (n : Fin 16) (echo : Bool) (s : State) : Host.Outcome State Fault Refusal := act s (s.dev.slTxStart n echo)

/-- SL_TX_END (R406). -/
def execSlTxEnd (n : Fin 16) (s : State) : Host.Outcome State Fault Refusal := act s (s.dev.slTxEnd n)

/-- SL_DE_TAIL (R406). -/
def execSlDeTail (n : Fin 16) (s : State) : Host.Outcome State Fault Refusal := act s (s.dev.slTail n)

/-- SL_FLUSH (R408). -/
def execSlFlush (m : Master) (n : Fin 16) (s : State) : Host.Outcome State Fault Refusal :=
  act s (s.dev.poke m SLN_CTL n 0 0x10000)

/-- SL_SLEEP_REQUEST (R409). -/
def execSlSleepRequest (m : Master) (n : Fin 16) (s : State) : Host.Outcome State Fault Refusal :=
  act s (s.dev.poke m SLN_CTL n 0 0x20000)

/-- SL_SLEEP_ENTRY (R409). -/
def execSlSleepEntry (n : Fin 16) (s : State) : Host.Outcome State Fault Refusal := act s (s.dev.slSleep n)

/-- SL_WAKE_EDGE (R409): longer than FILT, or a shorter pulse. -/
def execSlWakeEdge (n : Fin 16) (long : Bool) (s : State) : Host.Outcome State Fault Refusal := act s (s.dev.slEdge n long)

/-- SL_WAKE_REQUEST (R409). -/
def execSlWakeRequest (m : Master) (n : Fin 16) (s : State) : Host.Outcome State Fault Refusal :=
  act s (s.dev.poke m SLN_CTL n 0 0x40000)

/-- SL_PLL_LOCK (R399). -/
def execSlPllLock (n : Fin 16) (s : State) : Host.Outcome State Fault Refusal := act s (s.dev.slLock n)

/-- SL_WAKE_STUCK (R409). -/
def execSlWakeStuck (n : Fin 16) (s : State) : Host.Outcome State Fault Refusal := act s (s.dev.slStuck n)

/-- SL_WAKE_QUARANTINE_END (R409). -/
def execSlWakeQuarantineEnd (n : Fin 16) (s : State) : Host.Outcome State Fault Refusal := act s (s.dev.slQuiet n)

end Sys2Proof.Machine
end

