-- ==== Sys2Proof/Machine/CmdCore.lean ====
section
/-!
DEFINITION. Commands of resets, accesses, commits, boot, fuses and flash (chapters 00 to 02).
-/

namespace Sys2Proof.Machine

/-- SILL_RESET (R8, R511): `supply`: the VSB supply caused it; `sel`: the BOOT_SEL pins as it ends. -/
def execSillReset (supply : Bool) (sel : BitVec 2) (s : State) : Host.Outcome State Fault Refusal :=
  act s (s.dev.sillReset s.otp supply sel)

/-- CHIP_RESET (R43). -/
def execChipReset (cause : RstCause) (sel : BitVec 2) (s : State) : Host.Outcome State Fault Refusal :=
  act s (s.dev.chipReset s.otp cause.bit sel)

/-- BLOCK_RESET (R37). -/
def execBlockReset (k : Blk) (s : State) : Host.Outcome State Fault Refusal := act s (s.dev.blockReset k)

/-- ENGINE_RESET (R116): a write of ENG_CTL.RST. -/
def execEngineReset (m : Master) (n : Fin 32) (s : State) : Host.Outcome State Fault Refusal :=
  act s (s.dev.poke m ENG_CTL n 0 1)

/-- HOST_PORT_RESET (R234). -/
def execHostPortReset (s : State) : Host.Outcome State Fault Refusal := act s s.dev.hostReset

/-- ENGINE_HALT (R476): a write of ENG_CTL.HALT. -/
def execEngineHalt (m : Master) (n : Fin 32) (s : State) : Host.Outcome State Fault Refusal :=
  act s (s.dev.poke m ENG_CTL n 0 2)

/-- REGISTER_WRITE (R5). -/
def execRegisterWrite (m : Master) (a v : Word) (s : State) : Host.Outcome State Fault Refusal :=
  act s (s.dev.single m a.toNat (some v))

/-- SYSTEM_ACCESS (R13 to R16): the requests made in one cycle. -/
def execSystemAccess (l : List Req) (s : State) : Host.Outcome State Fault Refusal := act s (s.dev.cycle l)

/-- STAGED_WRITE (R20): a write of a staged register. -/
def execStagedWrite (m : Master) (a v : Word) (s : State) : Host.Outcome State Fault Refusal :=
  act s (s.dev.single m a.toNat (some v))

/-- ARM_NEXT_BOUNDARY (R24): SYS_CMT_ARM with OP = 0x0. -/
def execArmNextBoundary (m : Master) (inst : BitVec 7) (s : State) : Host.Outcome State Fault Refusal :=
  act s (s.dev.putReg m SYS_CMT_ARM 0 0 (inst.setWidth 32))

/-- ARM_TIMED (R30): SYS_CMT_ARM with OP = 0x1. -/
def execArmTimed (m : Master) (inst : BitVec 7) (s : State) : Host.Outcome State Fault Refusal :=
  act s (s.dev.putReg m SYS_CMT_ARM 0 0 (inst.setWidth 32 ||| 0x100))

/-- CANCEL_COMMITS (R34): SYS_CMT_ARM with OP = 0x2. -/
def execCancelCommits (m : Master) (inst : BitVec 7) (s : State) : Host.Outcome State Fault Refusal :=
  act s (s.dev.putReg m SYS_CMT_ARM 0 0 (inst.setWidth 32 ||| 0x200))

/-- ARM_INVALID_OP (R33): SYS_CMT_ARM with OP = 0x3. An INST above 80 under another OP is rejected by that row's command. -/
def execArmInvalidOp (m : Master) (inst : BitVec 7) (s : State) : Host.Outcome State Fault Refusal :=
  act s (s.dev.putReg m SYS_CMT_ARM 0 0 (inst.setWidth 32 ||| 0x300))

/-- The station-cycle boundary (R19, R286, R432): instance 0, the stream gates, the synchronised converter scans. -/
def Dev.stationCycle (d : Dev) : Dev :=
  let per := d.scycNs
  if !d.releasedB || !seriesHits 0 per (d.inst 0).last d.ns then d
  else ((d.boundary 0).sgateStart (d.ns / per * per)).afeSync

/-- STATION_CYCLE_BOUNDARY (R19). -/
def execStationCycleBoundary (s : State) : Host.Outcome State Fault Refusal := act s s.dev.stationCycle

/-- IDLE_INSTANCE_COMMIT (R36). -/
def execIdleInstanceCommit (k : Fin 81) (s : State) : Host.Outcome State Fault Refusal := act s (s.dev.idleNext k)

/-- IDLE_TIMED_COMMIT (R36). -/
def execIdleTimedCommit (k : Fin 81) (s : State) : Host.Outcome State Fault Refusal := act s (s.dev.idleTimed k)

/-- BOOT_IMAGE_ATTEMPT (R65): whether each flash answers without error and has a valid SFDP signature, and what reads of the host's
memory give. -/
def execBootImageAttempt (okA okB sfdpA sfdpB : Bool) (pcie : Option (List Byte)) (s : State) :
    Host.Outcome State Fault Refusal := act s (s.dev.bootAttempt s.otp okA okB sfdpA sfdpB pcie)

/-- PLUMB_CHECK (R465): the deviation measured, in ppm. -/
def execPlumbCheck (ppm : Int) (s : State) : Host.Outcome State Fault Refusal := act s (s.dev.plumbCheck ppm)

/-- BOOT_RELEASE (R58). -/
def execBootRelease (s : State) : Host.Outcome State Fault Refusal := act s s.dev.bootRelease

/-- BOOT_GO (R47). -/
def execBootGo (m : Master) (s : State) : Host.Outcome State Fault Refusal := act s (s.dev.putReg m BOOT_CTL 0 0 4)

/-- HOST_RANGE_DONE (R48). -/
def execHostRangeDone (m : Master) (s : State) : Host.Outcome State Fault Refusal := act s (s.dev.poke m BOOT_HCTL 0 0 4)

/-- HOST_BOOT_ABORT (R48). -/
def execHostBootAbort (m : Master) (s : State) : Host.Outcome State Fault Refusal := act s (s.dev.poke m BOOT_HCTL 0 0 8)

/-- BOOT_CONFIRM (R67). -/
def execBootConfirm (m : Master) (s : State) : Host.Outcome State Fault Refusal := act s (s.dev.putReg m BOOT_CTL 0 0 1)

/-- ARB_ADVANCE (R72). -/
def execArbAdvance (m : Master) (s : State) : Host.Outcome State Fault Refusal := act s (s.dev.putReg m BOOT_CTL 0 0 2)

/-- CONFIRM_TIMEOUT (R67). -/
def execConfirmTimeout (sel : BitVec 2) (s : State) : Host.Outcome State Fault Refusal :=
  act s (s.dev.confirmTimeout s.otp sel)

/-- SAFE_HOLD_EXPIRY (R65). -/
def execSafeHoldExpiry (s : State) : Host.Outcome State Fault Refusal := act s s.dev.safeHoldEnd

/-- OTP_REVOKE (R62): SEC_OTP_REVOKE with its key. -/
def execOtpRevoke (m : Master) (slot : BitVec 2) (s : State) : Host.Outcome State Fault Refusal :=
  act s (s.dev.putReg m SEC_OTP_REVOKE 0 0 (slot.setWidth 32 ||| 0x52560000))

/-- FLASH_ERASE (R70). -/
def execFlashErase (m : Master) (s : State) : Host.Outcome State Fault Refusal := act s (s.dev.putReg m BOOT_FCMD 0 0 1)

/-- FLASH_PROGRAM (R70). -/
def execFlashProgram (m : Master) (s : State) : Host.Outcome State Fault Refusal := act s (s.dev.putReg m BOOT_FCMD 0 0 2)

/-- FLASH_READ (R70). -/
def execFlashRead (m : Master) (s : State) : Host.Outcome State Fault Refusal := act s (s.dev.putReg m BOOT_FCMD 0 0 3)

/-- FLASH_VERIFY (R71). -/
def execFlashVerify (m : Master) (s : State) : Host.Outcome State Fault Refusal := act s (s.dev.putReg m BOOT_FCMD 0 0 4)

/-- FLASH_COMMAND_DONE (R70): `bad`: the flash reports an error; `sfdp`: it has a valid SFDP signature. -/
def execFlashCommandDone (bad sfdp : Bool) (s : State) : Host.Outcome State Fault Refusal :=
  act s (s.dev.flashDone s.otp bad sfdp)

/-- ATTESTATION_REQUEST (R76): `fail`: the row of the leaf state could not be written. -/
def execAttestationRequest (nonce : BitVec 256) (fail : Bool) (s : State) : Host.Outcome State Fault Refusal :=
  act s (s.dev.attestation s.otp nonce fail)

/-- IDENTITY_REPORT (R77). -/
def execIdentityReport (s : State) : Host.Outcome State Fault Refusal := act s (s.dev.identity s.otp)

end Sys2Proof.Machine
end

