-- ==== Sys2Proof/Machine/CmdEng.lean ====
section
/-!
DEFINITION. Commands of the engines and of the supervisors' inputs (chapters 03 and 04).
-/

namespace Sys2Proof.Machine

/-- WQNEXT_WAKE (R84). -/
def execWqnextWake (n : Fin 32) (s : State) : Host.Outcome State Fault Refusal := act s (s.dev.wqWake n)

/-- FRAME_BYTE_ARRIVAL (R85). -/
def execFrameByteArrival (n : Fin 32) (s : State) : Host.Outcome State Fault Refusal := act s (s.dev.frameByte n)

/-- ITEM_VERDICT (R93). -/
def execItemVerdict (n : Fin 32) (s : State) : Host.Outcome State Fault Refusal := act s (s.dev.itemVerdict n)

/-- FRAME_ABORT (R95). -/
def execFrameAbort (n : Fin 32) (s : State) : Host.Outcome State Fault Refusal := act s (s.dev.frameAbort n)

/-- DRAIN_GRANT (R102): by the arbiter of a commit group. -/
def execDrainGrant (k : Fin 8) (s : State) : Host.Outcome State Fault Refusal := act s (s.dev.drainGrant k)

/-- DRAIN_COMPLETE (R103). -/
def execDrainComplete (n : Fin 32) (s : State) : Host.Outcome State Fault Refusal := act s (s.dev.drainComplete n)

/-- TOKEN_GRANT (R106): the token of a commit group. -/
def execTokenGrant (k : Fin 8) (s : State) : Host.Outcome State Fault Refusal := act s (s.dev.tokenGrant k)

/-- HANDLER_LIMIT (R110). -/
def execHandlerLimit (n : Fin 32) (s : State) : Host.Outcome State Fault Refusal := act s (s.dev.handlerLimit n)

/-- TRANSMIT_SLOT_FREE (R98). -/
def execTransmitSlotFree (n : Fin 32) (slot : Fin 4) (s : State) : Host.Outcome State Fault Refusal :=
  act s (s.dev.slotFree n slot)

/-- HELD_RELAY_RELEASE (R99): at a faster egress lane. -/
def execHeldRelayRelease (p : Fin 24) (s : State) : Host.Outcome State Fault Refusal := act s (s.dev.heldRelayRelease p)

/-- INTEGRITY_RELOAD_ATTEMPT (R214): the bytes, by offset, in which the flash's block differs from the block as it was loaded. -/
def execIntegrityReloadAttempt (diff : List (BitVec 12 × Byte)) (s : State) : Host.Outcome State Fault Refusal :=
  act s (s.dev.reloadTry diff)

/-- INTERRUPT_LINE (R156): of SV1, else of SV0. -/
def execInterruptLine (one : Bool) (s : State) : Host.Outcome State Fault Refusal := act s (s.dev.irqLine one)

/-- NMI_INPUT (R156). -/
def execNmiInput (s : State) : Host.Outcome State Fault Refusal := act s s.dev.nmiIn

/-- PMCYC_READ (R120). -/
def execPmcycRead (m : Master) (n : Fin 32) (s : State) : Host.Outcome State Fault Refusal :=
  act s (s.dev.getReg m ENG_PMCYC_LO n 0)

/-- PERFORMANCE_COUNTER_WRAP (R122). -/
def execPerformanceCounterWrap (n : Fin 32) (k : Fin 8) (s : State) : Host.Outcome State Fault Refusal :=
  act s (s.dev.perfWrap n k)

end Sys2Proof.Machine
end

