-- ==== Sys2Proof/Machine/CmdJrn.lean ====
section
/-!
DEFINITION. Commands of the journal (chapter 16).
-/

namespace Sys2Proof.Machine

/-- JOURNAL_ENTRY_PROCESS (R499). -/
def execJournalEntryProcess (s : State) : Host.Outcome State Fault Refusal := act s s.dev.jrnProcess

/-- JOURNAL_ROW_WRITE_DONE (R498). -/
def execJournalRowWriteDone (s : State) : Host.Outcome State Fault Refusal := act s s.dev.rowWriteDone

/-- COALESCE_REWRITE (R500): of a journal row. -/
def execCoalesceRewrite (row : Nat) (s : State) : Host.Outcome State Fault Refusal := act s (s.dev.coalRewrite row)

/-- COALESCE_WINDOW_CLOSE (R500): of the entry of a journal row. -/
def execCoalesceWindowClose (row : Nat) (s : State) : Host.Outcome State Fault Refusal := act s (s.dev.coalClose row)

/-- SUMMARY_RECORD (R505). -/
def execSummaryRecord (s : State) : Host.Outcome State Fault Refusal := act s s.dev.jrnSummary

/-- JOURNAL_FORMAT (R495). -/
def execJournalFormat (m : Master) (s : State) : Host.Outcome State Fault Refusal := act s (s.dev.poke m JRN_CTL 0 0 1)

/-- FORMAT_DONE (R495). -/
def execFormatDone (s : State) : Host.Outcome State Fault Refusal := act s s.dev.formatDone

/-- ALARM_ACK (R503): the row named. -/
def execAlarmAck (m : Master) (v : Word) (s : State) : Host.Outcome State Fault Refusal :=
  act s (s.dev.putReg m JRN_ALMACK 0 0 v)

/-- PUSH_ACK (R504): the row named. -/
def execPushAck (m : Master) (v : Word) (s : State) : Host.Outcome State Fault Refusal :=
  act s (s.dev.putReg m JRN_PUSHACK 0 0 v)

/-- JOURNAL_WINDOW_SUBMIT (R497): word +0x1C at a row of the window. -/
def execJournalWindowSubmit (m : Master) (row : BitVec 15) (v : Word) (s : State) : Host.Outcome State Fault Refusal :=
  act s (s.dev.single m (0x60000000 + 32 * row.toNat + 0x1C) (some v))

/-- PROTECTED_ROW_WRITE (R497): word +0x1C at a protected row, by SV0. -/
def execProtectedRowWrite (row : BitVec 8) (v : Word) (s : State) : Host.Outcome State Fault Refusal :=
  act s (s.dev.single .sv0 (0x60000000 + 32 * row.toNat + 0x1C) (some v))

/-- JOURNAL_WINDOW_READ (R498): word i of a row of the window. -/
def execJournalWindowRead (m : Master) (row : BitVec 15) (i : Fin 8) (s : State) : Host.Outcome State Fault Refusal :=
  act s (s.dev.single m (0x60000000 + 32 * row.toNat + 4 * i) none)

end Sys2Proof.Machine
end

