-- ==== Sys2Proof/Machine/CmdMem.lean ====
section
/-!
DEFINITION. Commands of memory, DMA, mailboxes, pegs and events (chapters 06 and 07).
-/

namespace Sys2Proof.Machine

/-- BANK_OWNER_WRITE (R203). -/
def execBankOwnerWrite (m : Master) (b : Fin 16) (code : BitVec 6) (s : State) : Host.Outcome State Fault Refusal :=
  act s (s.dev.putReg m MEM_BANKOWN b 0 (code.setWidth 32))

/-- BANK_OWNER_APPLY (R203). -/
def execBankOwnerApply (b : Fin 16) (s : State) : Host.Outcome State Fault Refusal := act s (s.dev.bankOwnApply b)

/-- BANK_POWER_WRITE (R207). -/
def execBankPowerWrite (m : Master) (v : Word) (s : State) : Host.Outcome State Fault Refusal :=
  act s (s.dev.putReg m PWR_COMBPWR 0 0 v)

/-- LOCAL_MEMORY_POWER_WRITE (R208). -/
def execLocalMemoryPowerWrite (m : Master) (k : Fin 4) (v : Word) (s : State) : Host.Outcome State Fault Refusal :=
  act s (s.dev.putReg m PWR_LMPWR k 0 v)

/-- MEMORY_POWER_DONE (R205): of comb bank k, else of code memory (k - 16) / 2 for even k, data memory for odd k. -/
def execMemoryPowerDone (k : Fin 80) (s : State) : Host.Outcome State Fault Refusal := act s (s.dev.pwrDone k)

/-- DMA_GO (R218). -/
def execDmaGo (m : Master) (n : Fin 16) (s : State) : Host.Outcome State Fault Refusal := act s (s.dev.putReg m DMA_GO n 0 1)

/-- DMA_ENABLE (R219): DMA_CTL with its other fields from `v`. -/
def execDmaEnable (m : Master) (n : Fin 16) (v : Word) (s : State) : Host.Outcome State Fault Refusal :=
  act s (s.dev.putReg m DMA_CTL n 0 (v ||| 1))

/-- DMA_DISABLE (R224): the other fields as they stand. -/
def execDmaDisable (m : Master) (n : Fin 16) (s : State) : Host.Outcome State Fault Refusal :=
  act s (s.dev.putReg m DMA_CTL n 0 (s.dev.rd DMA_CTL n &&& 0x3FE))

/-- DMA_BEAT (R220): what PCIe memory holds, by address. -/
def execDmaBeat (n : Fin 16) (pcie : Option (List (BitVec 64 × Byte))) (s : State) : Host.Outcome State Fault Refusal :=
  act s (s.dev.dmaBeat n pcie)

/-- DMA_TRANSFER_DONE (R220). -/
def execDmaTransferDone (n : Fin 16) (s : State) : Host.Outcome State Fault Refusal := act s (s.dev.dmaFinish n)

/-- DMA_RING_TAIL_WRITE (R221): of channel n, of the supervisor port for n = 16. -/
def execDmaRingTailWrite (m : Master) (n : Fin 17) (tx : Bool) (tail : BitVec 12) (s : State) :
    Host.Outcome State Fault Refusal :=
  act s (s.dev.putReg m (ringIdx n tx).1 (ringIdx n tx).2 0 (tail.setWidth 32))

/-- DMA_DESCRIPTOR (R221): what PCIe memory holds, by address. -/
def execDmaDescriptor (n : Fin 17) (tx : Bool) (pcie : Option (List (BitVec 64 × Byte))) (s : State) :
    Host.Outcome State Fault Refusal :=
  act s (s.dev.dmaDescriptor n tx pcie)

/-- MBX_TX_WRITE (R228). -/
def execMbxTxWrite (m : Master) (box : Fin 64) (side : Fin 2) (v : Word) (s : State) : Host.Outcome State Fault Refusal :=
  act s (s.dev.putReg m MBX_TX box side v)

/-- MAILBOX_RING (R228). -/
def execMailboxRing (m : Master) (box : Fin 64) (side : Fin 2) (s : State) : Host.Outcome State Fault Refusal :=
  act s (s.dev.putReg m MBX_RING box side 1)

/-- MAILBOX_ABORT (R228). -/
def execMailboxAbort (m : Master) (box : Fin 64) (side : Fin 2) (s : State) : Host.Outcome State Fault Refusal :=
  act s (s.dev.putReg m MBX_RING box side 2)

/-- PENDING_MESSAGE_ENTRY (R229). -/
def execPendingMessageEntry (box : Fin 64) (side : Fin 2) (s : State) : Host.Outcome State Fault Refusal :=
  act s (s.dev.pendEntry box side)

/-- MAILBOX_DELIVERY (R237). -/
def execMailboxDelivery (s : State) : Host.Outcome State Fault Refusal := act s s.dev.mbxDeliver

/-- MBX_RX_READ (R231). -/
def execMbxRxRead (m : Master) (box : Fin 64) (side : Fin 2) (s : State) : Host.Outcome State Fault Refusal :=
  act s (s.dev.getReg m MBX_RX box side)

/-- PEG_READ (R238). -/
def execPegRead (m : Master) (p : Fin 64) (s : State) : Host.Outcome State Fault Refusal := act s (s.dev.getReg m MBX_PEG p 0)

/-- PEG_WRITE (R239). -/
def execPegWrite (m : Master) (p : Fin 64) (v : BitVec 6) (s : State) : Host.Outcome State Fault Refusal :=
  act s (s.dev.putReg m MBX_PEG p 0 (v.setWidth 32))

/-- PEG_FORCE_FREE (R241): MBX_PEGFREE with its key. -/
def execPegForceFree (m : Master) (p : Fin 64) (s : State) : Host.Outcome State Fault Refusal :=
  act s (s.dev.putReg m MBX_PEGFREE 0 0 (BitVec.ofNat 32 (p + 0x50460000)))

/-- SOFTWARE_RAISE (R245). -/
def execSoftwareRaise (m : Master) (n : BitVec 8) (s : State) : Host.Outcome State Fault Refusal :=
  act s (s.dev.putReg m EVT_RAISE 0 0 (n.setWidth 32))

/-- EVENT_PENDING_CLEAR (R244). -/
def execEventPendingClear (m : Master) (k : Fin 8) (v : Word) (s : State) : Host.Outcome State Fault Refusal :=
  act s (s.dev.putReg m EVT_PEND k 0 v)

/-- EVENT_MASK_WRITE (R247). -/
def execEventMaskWrite (m : Master) (k : Fin 8) (v : Word) (s : State) : Host.Outcome State Fault Refusal :=
  act s (s.dev.putReg m EVT_MASK k 0 v)

end Sys2Proof.Machine
end

