-- ==== Sys2Proof/Machine/CmdNet.lean ====
section
/-!
DEFINITION. Commands of the Ethernet lanes and the switch (chapters 08 and 09).
-/

namespace Sys2Proof.Machine

/-- ETH_RX_FRAME (R255): the frame with its check sequence, how it ends, and the fragments it came in (0: the express MAC). -/
def execEthRxFrame (p : Fin 24) (b : List Byte) (how : RxEnd) (frags : Nat) (s : State) : Host.Outcome State Fault Refusal :=
  act s (s.dev.ethRx p b how frags)

/-- MAXSDU_LATE_FAIL (R285): of the frame with handle k. -/
def execMaxsduLateFail (k : Nat) (s : State) : Host.Outcome State Fault Refusal := act s (s.dev.maxsduFail k)

/-- TRANSMISSION_SELECTION (R291): `crcFail`: the cells of the frame it starts fail their CRC. -/
def execTransmissionSelection (p : Fin 24) (crcFail : Bool) (s : State) : Host.Outcome State Fault Refusal :=
  act s (s.dev.txSelect p crcFail)

/-- TX_FRAME_END (R272): `crcFail`: cells sent failed their CRC. -/
def execTxFrameEnd (p : Fin 24) (crcFail : Bool) (s : State) : Host.Outcome State Fault Refusal :=
  act s (s.dev.txEnd p crcFail)

/-- LINK_UP (R254). -/
def execLinkUp (p : Fin 24) (i : LinkInfo) (s : State) : Host.Outcome State Fault Refusal := act s (s.dev.linkUp p i)

/-- LINK_DOWN (R258). -/
def execLinkDown (p : Fin 24) (s : State) : Host.Outcome State Fault Refusal := act s (s.dev.linkDown p)

/-- ETH_CTL_WRITE (R254): of ETH_ANADV when `anadv`, else of ETH_CTL. -/
def execEthCtlWrite (m : Master) (p : Fin 24) (anadv : Bool) (v : Word) (s : State) : Host.Outcome State Fault Refusal :=
  act s (s.dev.putReg m (if anadv then ETH_ANADV else ETH_CTL) p 0 v)

/-- AN_RESTART (R254). -/
def execAnRestart (m : Master) (p : Fin 24) (s : State) : Host.Outcome State Fault Refusal :=
  act s (s.dev.poke m ETH_CTL p 0 0x10)

/-- ENERGY_DETECT (R261). -/
def execEnergyDetect (p : Fin 24) (s : State) : Host.Outcome State Fault Refusal := act s (s.dev.energyDetect p)

/-- RATE_WINDOW (R260). -/
def execRateWindow (p : Fin 24) (s : State) : Host.Outcome State Fault Refusal := act s (s.dev.rateWindow p)

/-- LPI_ENTRY (R263). -/
def execLpiEntry (p : Fin 24) (s : State) : Host.Outcome State Fault Refusal := act s (s.dev.lpiEntry p)

/-- LPI_EXIT (R264). -/
def execLpiExit (p : Fin 24) (s : State) : Host.Outcome State Fault Refusal := act s (s.dev.lpiExit p)

/-- LPI_GATE_WAKE (R263). -/
def execLpiGateWake (p : Fin 24) (s : State) : Host.Outcome State Fault Refusal := act s (s.dev.lpiGateWake p)

/-- LPI_RX_ENTRY (R264). -/
def execLpiRxEntry (p : Fin 24) (s : State) : Host.Outcome State Fault Refusal := act s (s.dev.lpiRxEntry p)

/-- LLDP_EEE_TLV (R264): the wake time it asks for in us. -/
def execLldpEeeTlv (p : Fin 24) (tw : BitVec 16) (s : State) : Host.Outcome State Fault Refusal :=
  act s (s.dev.lldpTlv p tw.toNat)

/-- LLDP_TLV_TIMEOUT (R264). -/
def execLldpTlvTimeout (p : Fin 24) (s : State) : Host.Outcome State Fault Refusal := act s (s.dev.lldpTimeout p)

/-- MM_VERIFY_TIMER (R267). -/
def execMmVerifyTimer (p : Fin 24) (s : State) : Host.Outcome State Fault Refusal := act s (s.dev.mmTimer p)

/-- MM_VERIFY_RESPONSE (R267). -/
def execMmVerifyResponse (p : Fin 24) (s : State) : Host.Outcome State Fault Refusal := act s (s.dev.mmResponse p)

/-- MDIO_READ (R268): PRTAD, REGAD, C45. -/
def execMdioRead (m : Master) (p : Fin 24) (prtad regad : BitVec 5) (c45 : Bool) (s : State) :
    Host.Outcome State Fault Refusal :=
  act s (s.dev.putReg m ETH_MDIOCMD p 0 (BitVec.ofNat 32 (prtad.toNat + regad.toNat * 32 + c45.toNat * 1024 + 0x1000)))

/-- MDIO_WRITE (R268): PRTAD, REGAD, C45; the data stand in ETH_MDIODATA. -/
def execMdioWrite (m : Master) (p : Fin 24) (prtad regad : BitVec 5) (c45 : Bool) (s : State) :
    Host.Outcome State Fault Refusal :=
  act s (s.dev.putReg m ETH_MDIOCMD p 0 (BitVec.ofNat 32 (prtad.toNat + regad.toNat * 32 + c45.toNat * 1024 + 0x1800)))

/-- MDIO_DONE (R268): what a PHY drove on a read, if any. -/
def execMdioDone (reply : Option (BitVec 16)) (s : State) : Host.Outcome State Fault Refusal := act s (s.dev.mdioDone reply)

/-- ETH_OCTET_READ (R269). -/
def execEthOctetRead (m : Master) (p : Fin 24) (tx : Bool) (s : State) : Host.Outcome State Fault Refusal :=
  act s (s.dev.getReg m (if tx then ETH_CNT_TXOCT_LO else ETH_CNT_RXOCT_LO) p 0)

/-- STREAM_GATE_ENTRY (R286). -/
def execStreamGateEntry (g : Fin 32) (s : State) : Host.Outcome State Fault Refusal := act s (s.dev.sgateEntry g)

/-- GATE_CYCLE_START (R295). -/
def execGateCycleStart (p : Fin 24) (s : State) : Host.Outcome State Fault Refusal := act s (s.dev.gateCycle p)

/-- GCL_ENTRY (R295). -/
def execGclEntry (p : Fin 24) (s : State) : Host.Outcome State Fault Refusal := act s (s.dev.gclEntry p)

/-- FDB_ADD_STATIC (R284). -/
def execFdbAddStatic (m : Master) (s : State) : Host.Outcome State Fault Refusal := act s (s.dev.putReg m SWC_FDBCMD 0 0 1)

/-- FDB_DELETE (R284). -/
def execFdbDelete (m : Master) (s : State) : Host.Outcome State Fault Refusal := act s (s.dev.putReg m SWC_FDBCMD 0 0 2)

/-- FDB_LOOKUP (R284). -/
def execFdbLookup (m : Master) (s : State) : Host.Outcome State Fault Refusal := act s (s.dev.putReg m SWC_FDBCMD 0 0 3)

/-- FDB_FLUSH_DYNAMIC (R284). -/
def execFdbFlushDynamic (m : Master) (s : State) : Host.Outcome State Fault Refusal := act s (s.dev.putReg m SWC_FDBCMD 0 0 4)

/-- FDB_COMMAND_DONE (R284). -/
def execFdbCommandDone (s : State) : Host.Outcome State Fault Refusal := act s s.dev.fdbDone

/-- FDB_AGE_OUT (R284). -/
def execFdbAgeOut (vid : BitVec 12) (mac : BitVec 48) (s : State) : Host.Outcome State Fault Refusal :=
  act s (s.dev.fdbAge vid.toNat mac.toNat)

/-- SEQ_RECOVERY_RESET (R288). -/
def execSeqRecoveryReset (n : Fin 256) (s : State) : Host.Outcome State Fault Refusal := act s (s.dev.srecReset n)

/-- DUP_ENTRY_EXPIRE (R289): of pair k, a source address and a number. -/
def execDupEntryExpire (k : Fin 4) (src : BitVec 48) (seq : BitVec 16) (s : State) : Host.Outcome State Fault Refusal :=
  act s (s.dev.dupExpire k src.toNat seq.toNat)

/-- LPI_RX_EXIT (R264). -/
def execLpiRxExit (p : Fin 24) (s : State) : Host.Outcome State Fault Refusal := act s (s.dev.lpiRxExit p)

end Sys2Proof.Machine
end

