-- ==== Sys2Proof/Machine/CmdPio.lean ====
section
/-!
DEFINITION. Commands of the programmable pin groups (chapter 13).
-/

namespace Sys2Proof.Machine

/-- PINS (R415): machine k of group g. -/
def execPins (g : Fin 8) (k : Fin 4) (s : State) : Host.Outcome State Fault Refusal := act s (s.dev.pioExec g k 0)

/-- HOLD (R415): machine k of group g. -/
def execHold (g : Fin 8) (k : Fin 4) (s : State) : Host.Outcome State Fault Refusal := act s (s.dev.pioExec g k 1)

/-- AWAIT (R415): machine k of group g. -/
def execAwait (g : Fin 8) (k : Fin 4) (s : State) : Host.Outcome State Fault Refusal := act s (s.dev.pioExec g k 2)

/-- SHOUT (R415): machine k of group g. -/
def execShout (g : Fin 8) (k : Fin 4) (s : State) : Host.Outcome State Fault Refusal := act s (s.dev.pioExec g k 3)

/-- SHIN (R415): machine k of group g. -/
def execShin (g : Fin 8) (k : Fin 4) (s : State) : Host.Outcome State Fault Refusal := act s (s.dev.pioExec g k 4)

/-- XFER (R415): machine k of group g. -/
def execXfer (g : Fin 8) (k : Fin 4) (s : State) : Host.Outcome State Fault Refusal := act s (s.dev.pioExec g k 5)

/-- BR (R415): machine k of group g. -/
def execBr (g : Fin 8) (k : Fin 4) (s : State) : Host.Outcome State Fault Refusal := act s (s.dev.pioExec g k 6)

/-- MARK (R415): machine k of group g. -/
def execMark (g : Fin 8) (k : Fin 4) (s : State) : Host.Outcome State Fault Refusal := act s (s.dev.pioExec g k 7)

/-- LDT (R415): machine k of group g. -/
def execLdt (g : Fin 8) (k : Fin 4) (s : State) : Host.Outcome State Fault Refusal := act s (s.dev.pioExec g k 8)

/-- SNAP (R415): machine k of group g. -/
def execSnap (g : Fin 8) (k : Fin 4) (s : State) : Host.Outcome State Fault Refusal := act s (s.dev.pioExec g k 9)

/-- PIO_RESERVED_INSTR (R415). -/
def execPioReservedInstr (g : Fin 8) (k : Fin 4) (s : State) : Host.Outcome State Fault Refusal :=
  act s (s.dev.pioReserved g k)

/-- PIO_STALL_RELEASE (R413). -/
def execPioStallRelease (g : Fin 8) (k : Fin 4) (s : State) : Host.Outcome State Fault Refusal := act s (s.dev.pioRelease g k)

/-- PIO_ENABLE (R425): the EN bits; BMACH as it stands. -/
def execPioEnable (m : Master) (g : Fin 8) (en : BitVec 4) (s : State) : Host.Outcome State Fault Refusal :=
  act s (s.dev.putReg m PIO_CTL g 0 (en.setWidth 32 ||| (s.dev.rd PIO_CTL g &&& 0x300)))

/-- PIO_FORCE (R426). -/
def execPioForce (m : Master) (g : Fin 8) (s : State) : Host.Outcome State Fault Refusal :=
  act s (s.dev.poke m PIO_CTL g 0 0x10)

/-- PIO_TXQ_WRITE (R417). -/
def execPioTxqWrite (m : Master) (g : Fin 8) (k : Fin 4) (v : Word) (s : State) : Host.Outcome State Fault Refusal :=
  act s (s.dev.putReg m PIO_SM_TXQ g k v)

/-- PIO_RXQ_READ (R417). -/
def execPioRxqRead (m : Master) (g : Fin 8) (k : Fin 4) (s : State) : Host.Outcome State Fault Refusal :=
  act s (s.dev.getReg m PIO_SM_RXQ g k)

/-- PIO_QCFG_WRITE (R417). -/
def execPioQcfgWrite (m : Master) (g : Fin 8) (k : Fin 4) (v : Word) (s : State) : Host.Outcome State Fault Refusal :=
  act s (s.dev.putReg m PIO_SM_QCFG g k v)

/-- PIO_TM_WRITE (R420). -/
def execPioTmWrite (m : Master) (g : Fin 8) (k : Fin 4) (v : Word) (s : State) : Host.Outcome State Fault Refusal :=
  act s (s.dev.putReg m PIO_SM_TM_LO g k v)

/-- PIO_PROGRAM_WRITE (R423). -/
def execPioProgramWrite (m : Master) (g : Fin 8) (a : Fin 64) (v : Word) (s : State) : Host.Outcome State Fault Refusal :=
  act s (s.dev.putReg m PIO_PROG g a v)

/-- PIO_FLAG_SET (R429): lane signal bit SETj (Table 13-6). -/
def execPioFlagSet (g j : Fin 8) (s : State) : Host.Outcome State Fault Refusal := act s (s.dev.pgBitSet g (32 + j))

/-- PIO_FLAG_CLEAR (R429): lane signal bit CLRj. -/
def execPioFlagClear (g j : Fin 8) (s : State) : Host.Outcome State Fault Refusal := act s (s.dev.pgBitSet g (40 + j))

/-- PG_FRAME_FEED (R419). -/
def execPgFrameFeed (g : Fin 8) (k : Fin 4) (s : State) : Host.Outcome State Fault Refusal := act s (s.dev.pgFeed g k 1024)

/-- PG_PIN_EDGE (R421). -/
def execPgPinEdge (g x : Fin 8) (level : Bool) (s : State) : Host.Outcome State Fault Refusal :=
  act s (s.dev.pinEdge g x level)

end Sys2Proof.Machine
end

