-- ==== Sys2Proof/Machine/CmdPower.lean ====
section
/-!
DEFINITION. Commands of clocks, power and ageing (chapters 15 to 17).
-/

namespace Sys2Proof.Machine

/-- A wake (R479, R482): HIBERNATE ends by a chip reset with cause HIBWAKE, its wake reported at release (R483). -/
def Dev.wakeAll (d : Dev) (o : Otp) (sel : BitVec 2) : Dev :=
  if d.wakes.isEmpty then d
  else if d.f PWR_STAT_STATE = 3 && !d.b PWR_STAT_BUSY then
    let d := d.wakeRecord.chipReset o 4 sel
    d.setPw { d.pw with report := true }
  else d.wakeUp

/-- CLOCK_FAILURE (R468). -/
def execClockFailure (cause : ClkCause) (s : State) : Host.Outcome State Fault Refusal :=
  act s (s.dev.clockFailure cause.code)

/-- CLOCK_MONITOR_WINDOW (R467): the source (main, supervisor or engine PLL, fabric PLL, time PLL) and its deviation in 10 ppm. -/
def execClockMonitorWindow (src : Fin 4) (dev : Int) (s : State) : Host.Outcome State Fault Refusal :=
  act s (s.dev.monitorWindow src dev)

/-- CLOCK_RESTORE_CHECK (R469): the deviation in ppm. -/
def execClockRestoreCheck (ppm : Int) (s : State) : Host.Outcome State Fault Refusal := act s (s.dev.clockRestore ppm)

/-- CLOCK_RESTORE_REQUEST (R469). -/
def execClockRestoreRequest (m : Master) (s : State) : Host.Outcome State Fault Refusal := act s (s.dev.poke m CLK_CTL 0 0 2)

/-- RC_OSC_TRIM (R467). -/
def execRcOscTrim (s : State) : Host.Outcome State Fault Refusal := act s s.dev.rcTrim

/-- SILL_CRYSTAL_LOSS (R470). -/
def execSillCrystalLoss (s : State) : Host.Outcome State Fault Refusal := act s s.dev.sillLoss

/-- SILL_CRYSTAL_RETURN (R470). -/
def execSillCrystalReturn (s : State) : Host.Outcome State Fault Refusal := act s s.dev.sillBack

/-- ENGINE_BIN_WRITE (R473). -/
def execEngineBinWrite (m : Master) (bin : BitVec 4) (s : State) : Host.Outcome State Fault Refusal :=
  act s (s.dev.putReg m CLK_ENGPLL 0 0 (bin.setWidth 32))

/-- POWER_REQUEST_RUN (R475). -/
def execPowerRequestRun (m : Master) (s : State) : Host.Outcome State Fault Refusal := act s (s.dev.poke m PWR_CTL 0 0 0x10)

/-- POWER_REQUEST_DOZE (R476). -/
def execPowerRequestDoze (m : Master) (s : State) : Host.Outcome State Fault Refusal := act s (s.dev.poke m PWR_CTL 0 0 0x11)

/-- POWER_REQUEST_NAP (R477). -/
def execPowerRequestNap (m : Master) (s : State) : Host.Outcome State Fault Refusal := act s (s.dev.poke m PWR_CTL 0 0 0x12)

/-- POWER_REQUEST_HIBERNATE (R478). -/
def execPowerRequestHibernate (m : Master) (s : State) : Host.Outcome State Fault Refusal :=
  act s (s.dev.poke m PWR_CTL 0 0 0x13)

/-- NAP_DRAIN_EXPIRY (R477). -/
def execNapDrainExpiry (s : State) : Host.Outcome State Fault Refusal := act s s.dev.napDrain

/-- POWER_TRANSITION_DONE (R475). -/
def execPowerTransitionDone (s : State) : Host.Outcome State Fault Refusal := act s s.dev.powerDone

/-- WAKE (R479, R482): `sel`: the BOOT_SEL pins, sampled when HIBERNATE ends. -/
def execWake (sel : BitVec 2) (s : State) : Host.Outcome State Fault Refusal := act s (s.dev.wakeAll s.otp sel)

/-- NAP_EXIT_LOCKED (R484). -/
def execNapExitLocked (s : State) : Host.Outcome State Fault Refusal := act s s.dev.napExit

/-- RTC_ALARM (R482). -/
def execRtcAlarm (s : State) : Host.Outcome State Fault Refusal := act s s.dev.rtcAlarm

/-- RTC_ALARM_ARM (R482). -/
def execRtcAlarmArm (m : Master) (s : State) : Host.Outcome State Fault Refusal := act s (s.dev.poke m PWR_RTCALMCTL 0 0 1)

/-- HOST_SPI_SELECT (R482). -/
def execHostSpiSelect (s : State) : Host.Outcome State Fault Refusal := act s (s.dev.wake 7 0)

/-- SUPPLY_WARNING (R511, R524): supply i, or for 8 the junction temperature; past its level, or back inside it. -/
def execSupplyWarning (i : Fin 9) (past : Bool) (s : State) : Host.Outcome State Fault Refusal :=
  act s (s.dev.supplyWarn i past)

/-- AGE_MEASUREMENT (R487): DEG, SLACK and TEMP of each site, none when an oscillator gives no count. -/
def execAgeMeasurement (sites : List (Option (BitVec 16 × BitVec 12 × BitVec 12))) (s : State) :
    Host.Outcome State Fault Refusal :=
  act s (s.dev.ageMeasure sites)

/-- PLANNER_TICK (R489). -/
def execPlannerTick (s : State) : Host.Outcome State Fault Refusal := act s s.dev.plannerTick

/-- PLANNER_RUN (R490). -/
def execPlannerRun (x : PlanFacts) (s : State) : Host.Outcome State Fault Refusal := act s (s.dev.planRun x)

/-- AVS_READBACK (R490): the regulator acknowledges. -/
def execAvsReadback (ack : Bool) (s : State) : Host.Outcome State Fault Refusal := act s (s.dev.avsReadback ack)

end Sys2Proof.Machine
end

