-- ==== Sys2Proof/Machine/CmdSep.lean ====
section
/-!
DEFINITION. The Septari instructions (chapters 04 and 05): each is a command that names its core and its prefixes (log 31).
-/

namespace Sys2Proof.Machine

/-- PUSH RA: the value RA held before the decrement (R170). -/
def Dev.push1 (d : Dev) (x : Sx) (ra rb : BitVec 4) : Dev :=
  d.issue x { len := 2, undef := mustZero rb, stores := true } (fun d => (d.push x (d.g x.core ra.toNat)).nxt)

/-- POP RA: POP G15 leaves the loaded word (R170). -/
def Dev.pop1 (d : Dev) (x : Sx) (ra rb : BitVec 4) : Dev :=
  d.issue x (oneIns 2 rb) (fun d => (d.pop x).then (fun d v => .ok (d.setG x.core ra.toNat v) none))

/-- MOVTOFL RA: the RW fields of FL (R128). -/
def Dev.moveFl (d : Dev) (x : Sx) (ra rb : BitVec 4) : Dev :=
  d.issue x (oneIns 2 rb) (fun d =>
    let c := d.cpu x.core
    .ok (d.setCpu x.core { c with fl := flWrite c.fl (d.g x.core ra.toNat) }) none)

/-- CLC and STC. -/
def Dev.setC (d : Dev) (x : Sx) (v : Bool) : Dev :=
  d.issue x { len := 1 } (fun d => .ok (d.setFlags x.core { c := some v }) none)

/-- RESERVED_OPCODE (R145, R148): a reserved opcode of one byte, or of two after the escape 0x0F. -/
def execReservedOpcode (x : Sx) (two : Bool) (s : State) : Host.Outcome State Fault Refusal :=
  act s (s.dev.reservedOp x two)

/-- NOP (0x08). -/
def execNop (x : Sx) (s : State) : Host.Outcome State Fault Refusal :=
  act s (s.dev.nop x)

/-- BRK (R152). -/
def execBrk (x : Sx) (s : State) : Host.Outcome State Fault Refusal :=
  act s (s.dev.brk x)

/-- ADD (R146, Table 5-5). -/
def execAdd (x : Sx) (p : AluOp) (s : State) : Host.Outcome State Fault Refusal :=
  act s (s.dev.runAlu x .add p)

/-- ADC (R146, Table 5-5). -/
def execAdc (x : Sx) (p : AluOp) (s : State) : Host.Outcome State Fault Refusal :=
  act s (s.dev.runAlu x .adc p)

/-- SUB (R146, Table 5-5). -/
def execSub (x : Sx) (p : AluOp) (s : State) : Host.Outcome State Fault Refusal :=
  act s (s.dev.runAlu x .sub p)

/-- SBB (R146, Table 5-5). -/
def execSbb (x : Sx) (p : AluOp) (s : State) : Host.Outcome State Fault Refusal :=
  act s (s.dev.runAlu x .sbb p)

/-- AND (R146, Table 5-5). -/
def execAnd (x : Sx) (p : AluOp) (s : State) : Host.Outcome State Fault Refusal :=
  act s (s.dev.runAlu x .and p)

/-- OR (R146, Table 5-5). -/
def execOr (x : Sx) (p : AluOp) (s : State) : Host.Outcome State Fault Refusal :=
  act s (s.dev.runAlu x .or p)

/-- XOR (R146, Table 5-5). -/
def execXor (x : Sx) (p : AluOp) (s : State) : Host.Outcome State Fault Refusal :=
  act s (s.dev.runAlu x .xor p)

/-- CMP (R146, Table 5-5). -/
def execCmp (x : Sx) (p : AluOp) (s : State) : Host.Outcome State Fault Refusal :=
  act s (s.dev.runAlu x .cmp p)

/-- TEST (R146, Table 5-5). -/
def execTest (x : Sx) (p : AluOp) (s : State) : Host.Outcome State Fault Refusal :=
  act s (s.dev.runAlu x .test p)

/-- MOV (0x58 to 0x5A, R168). -/
def execMov (x : Sx) (p : MovOp) (s : State) : Host.Outcome State Fault Refusal :=
  act s (s.dev.mov x p)

/-- LD (R133, R168). -/
def execLd (x : Sx) (ra rb : BitVec 4) (p : Disp) (s : State) : Host.Outcome State Fault Refusal :=
  act s (s.dev.ld x ra rb p)

/-- ST (R133, R168). -/
def execSt (x : Sx) (ra rb : BitVec 4) (p : Disp) (s : State) : Host.Outcome State Fault Refusal :=
  act s (s.dev.st x ra rb p)

/-- STI (R168). -/
def execSti (x : Sx) (ra rb : BitVec 4) (p : Disp) (imm : Word) (s : State) : Host.Outcome State Fault Refusal :=
  act s (s.dev.sti x ra rb p imm)

/-- LEA (R138). -/
def execLea (x : Sx) (ra rb : BitVec 4) (v : Word) (s : State) : Host.Outcome State Fault Refusal :=
  act s (s.dev.lea x ra rb v)

/-- LDB (R133). -/
def execLdb (x : Sx) (ra rb : BitVec 4) (v : BitVec 8) (s : State) : Host.Outcome State Fault Refusal :=
  act s (s.dev.ldPart x ra rb v 1 false)

/-- LDBS (R133). -/
def execLdbs (x : Sx) (ra rb : BitVec 4) (v : BitVec 8) (s : State) : Host.Outcome State Fault Refusal :=
  act s (s.dev.ldPart x ra rb v 1 true)

/-- LDH (R133). -/
def execLdh (x : Sx) (ra rb : BitVec 4) (v : BitVec 8) (s : State) : Host.Outcome State Fault Refusal :=
  act s (s.dev.ldPart x ra rb v 2 false)

/-- LDHS (R133). -/
def execLdhs (x : Sx) (ra rb : BitVec 4) (v : BitVec 8) (s : State) : Host.Outcome State Fault Refusal :=
  act s (s.dev.ldPart x ra rb v 2 true)

/-- STB (R133). -/
def execStb (x : Sx) (ra rb : BitVec 4) (v : BitVec 8) (s : State) : Host.Outcome State Fault Refusal :=
  act s (s.dev.stPart x ra rb v 1)

/-- STH (R133). -/
def execSth (x : Sx) (ra rb : BitVec 4) (v : BitVec 8) (s : State) : Host.Outcome State Fault Refusal :=
  act s (s.dev.stPart x ra rb v 2)

/-- XCHG (R171). -/
def execXchg (x : Sx) (p : XchgOp) (s : State) : Host.Outcome State Fault Refusal :=
  act s (s.dev.xchg x p)

/-- SHL (R173). -/
def execShl (x : Sx) (p : ShiftOp) (s : State) : Host.Outcome State Fault Refusal :=
  act s (s.dev.runShift x .shl p)

/-- SHR (R173). -/
def execShr (x : Sx) (p : ShiftOp) (s : State) : Host.Outcome State Fault Refusal :=
  act s (s.dev.runShift x .shr p)

/-- SAR (R173). -/
def execSar (x : Sx) (p : ShiftOp) (s : State) : Host.Outcome State Fault Refusal :=
  act s (s.dev.runShift x .sar p)

/-- ROL (R173). -/
def execRol (x : Sx) (p : ShiftOp) (s : State) : Host.Outcome State Fault Refusal :=
  act s (s.dev.runShift x .rol p)

/-- Bcc (R147). -/
def execBcc (x : Sx) (cc : BitVec 4) (p : Disp) (s : State) : Host.Outcome State Fault Refusal :=
  act s (s.dev.bcc x cc p)

/-- NEG: 0 - RA. -/
def execNeg (x : Sx) (ra rb : BitVec 4) (s : State) : Host.Outcome State Fault Refusal :=
  act s (s.dev.runOne x 2 ra rb (fun a _ => subOp 32 0 a false))

/-- NOT. -/
def execNot (x : Sx) (ra rb : BitVec 4) (s : State) : Host.Outcome State Fault Refusal :=
  act s (s.dev.runOne x 2 ra rb (fun a _ => (2 ^ 32 - 1 - a, {})))

/-- INC: RA + 1, C kept (R167). -/
def execInc (x : Sx) (ra rb : BitVec 4) (s : State) : Host.Outcome State Fault Refusal :=
  act s (s.dev.runOne x 2 ra rb (fun a _ => keepC (addOp 32 a 1 false)))

/-- DEC: RA - 1, C kept (R167). -/
def execDec (x : Sx) (ra rb : BitVec 4) (s : State) : Host.Outcome State Fault Refusal :=
  act s (s.dev.runOne x 2 ra rb (fun a _ => keepC (subOp 32 a 1 false)))

/-- MUL (R172). -/
def execMul (x : Sx) (ra rb : BitVec 4) (s : State) : Host.Outcome State Fault Refusal :=
  act s (s.dev.runTwo x ra rb mulLow)

/-- MULH (R172). -/
def execMulh (x : Sx) (ra rb : BitVec 4) (s : State) : Host.Outcome State Fault Refusal :=
  act s (s.dev.runTwo x ra rb mulHigh)

/-- DIVU (R172). -/
def execDivu (x : Sx) (ra rb : BitVec 4) (s : State) : Host.Outcome State Fault Refusal :=
  act s (s.dev.runDiv x ra rb (· / ·))

/-- REMU (R172). -/
def execRemu (x : Sx) (ra rb : BitVec 4) (s : State) : Host.Outcome State Fault Refusal :=
  act s (s.dev.runDiv x ra rb (· % ·))

/-- CALL (R174). -/
def execCall (x : Sx) (p : CallOp) (s : State) : Host.Outcome State Fault Refusal :=
  act s (s.dev.call x p)

/-- JMP (R174). -/
def execJmp (x : Sx) (ra rb : BitVec 4) (s : State) : Host.Outcome State Fault Refusal :=
  act s (s.dev.jmp x ra rb)

/-- RET (R174). -/
def execRet (x : Sx) (s : State) : Host.Outcome State Fault Refusal :=
  act s (s.dev.ret x)

/-- PUSH (R170). -/
def execPush (x : Sx) (ra rb : BitVec 4) (s : State) : Host.Outcome State Fault Refusal :=
  act s (s.dev.push1 x ra rb)

/-- POP (R170). -/
def execPop (x : Sx) (ra rb : BitVec 4) (s : State) : Host.Outcome State Fault Refusal :=
  act s (s.dev.pop1 x ra rb)

/-- PUSHM (R170). -/
def execPushm (x : Sx) (mask : BitVec 16) (s : State) : Host.Outcome State Fault Refusal :=
  act s (s.dev.pushm x mask)

/-- POPM (R170). -/
def execPopm (x : Sx) (mask : BitVec 16) (s : State) : Host.Outcome State Fault Refusal :=
  act s (s.dev.popm x mask)

/-- BSET (R130). -/
def execBset (x : Sx) (v : BitVec 16) (s : State) : Host.Outcome State Fault Refusal :=
  act s (s.dev.bitOne x v (fun _ => true))

/-- BCLR (R130). -/
def execBclr (x : Sx) (v : BitVec 16) (s : State) : Host.Outcome State Fault Refusal :=
  act s (s.dev.bitOne x v (fun _ => false))

/-- BCPL (R130). -/
def execBcpl (x : Sx) (v : BitVec 16) (s : State) : Host.Outcome State Fault Refusal :=
  act s (s.dev.bitOne x v (fun b => !b))

/-- BMOV (R130). -/
def execBmov (x : Sx) (v : BitVec 32) (s : State) : Host.Outcome State Fault Refusal :=
  act s (s.dev.bitTwo x v (fun _ b => b))

/-- BAND (R130). -/
def execBand (x : Sx) (v : BitVec 32) (s : State) : Host.Outcome State Fault Refusal :=
  act s (s.dev.bitTwo x v (fun a b => a && b))

/-- BOR (R130). -/
def execBor (x : Sx) (v : BitVec 32) (s : State) : Host.Outcome State Fault Refusal :=
  act s (s.dev.bitTwo x v (fun a b => a || b))

/-- BXOR (R130). -/
def execBxor (x : Sx) (v : BitVec 32) (s : State) : Host.Outcome State Fault Refusal :=
  act s (s.dev.bitTwo x v (fun a b => a != b))

/-- BANDN (R130). -/
def execBandn (x : Sx) (v : BitVec 32) (s : State) : Host.Outcome State Fault Refusal :=
  act s (s.dev.bitTwo x v (fun a b => a && !b))

/-- BLD (R130). -/
def execBld (x : Sx) (ra rb : BitVec 4) (v : BitVec 16) (s : State) : Host.Outcome State Fault Refusal :=
  act s (s.dev.bld x ra rb v)

/-- BST (R130). -/
def execBst (x : Sx) (ra rb : BitVec 4) (v : BitVec 16) (s : State) : Host.Outcome State Fault Refusal :=
  act s (s.dev.bst x ra rb v)

/-- BLDI (R131). -/
def execBldi (x : Sx) (ra rb : BitVec 4) (s : State) : Host.Outcome State Fault Refusal :=
  act s (s.dev.bldi x ra rb)

/-- BSTI (R131). -/
def execBsti (x : Sx) (ra rb : BitVec 4) (s : State) : Host.Outcome State Fault Refusal :=
  act s (s.dev.bsti x ra rb)

/-- BTST (R130). -/
def execBtst (x : Sx) (v : BitVec 16) (s : State) : Host.Outcome State Fault Refusal :=
  act s (s.dev.btst x v)

/-- BRB (R130). -/
def execBrb (x : Sx) (p : BitVec 8) (v : BitVec 16) (s : State) : Host.Outcome State Fault Refusal :=
  act s (s.dev.brb x p v true)

/-- BRNB (R130). -/
def execBrnb (x : Sx) (p : BitVec 8) (v : BitVec 16) (s : State) : Host.Outcome State Fault Refusal :=
  act s (s.dev.brb x p v false)

/-- BRBC (R175). -/
def execBrbc (x : Sx) (p : BitVec 8) (v : BitVec 16) (s : State) : Host.Outcome State Fault Refusal :=
  act s (s.dev.brbc x p v)

/-- WQNEXT (R186). -/
def execWqnext (x : Sx) (s : State) : Host.Outcome State Fault Refusal :=
  act s (s.dev.wqnext x)

/-- MOVFL (R128). -/
def execMovfl (x : Sx) (ra rb : BitVec 4) (s : State) : Host.Outcome State Fault Refusal :=
  act s (s.dev.runOne x 2 ra rb (fun _ c => (c.fl.toNat, {})))

/-- MOVTOFL (R128). -/
def execMovtofl (x : Sx) (ra rb : BitVec 4) (s : State) : Host.Outcome State Fault Refusal :=
  act s (s.dev.moveFl x ra rb)

/-- SEXTB. -/
def execSextb (x : Sx) (ra rb : BitVec 4) (s : State) : Host.Outcome State Fault Refusal :=
  act s (s.dev.runOne x 2 ra rb (fun a _ => (((BitVec.ofNat 8 a).signExtend 32).toNat, {})))

/-- SEXTH. -/
def execSexth (x : Sx) (ra rb : BitVec 4) (s : State) : Host.Outcome State Fault Refusal :=
  act s (s.dev.runOne x 2 ra rb (fun a _ => (((BitVec.ofNat 16 a).signExtend 32).toNat, {})))

/-- BSWAP. -/
def execBswap (x : Sx) (ra rb : BitVec 4) (s : State) : Host.Outcome State Fault Refusal :=
  act s (s.dev.runOne x 2 ra rb (fun a _ => (beNat (natLe 4 a), {})))

/-- CLC. -/
def execClc (x : Sx) (s : State) : Host.Outcome State Fault Refusal :=
  act s (s.dev.setC x false)

/-- STC. -/
def execStc (x : Sx) (s : State) : Host.Outcome State Fault Refusal :=
  act s (s.dev.setC x true)

/-- MOVSB (R177). -/
def execMovsb (x : Sx) (s : State) : Host.Outcome State Fault Refusal :=
  act s (s.dev.movs x 1)

/-- MOVSW (R177). -/
def execMovsw (x : Sx) (s : State) : Host.Outcome State Fault Refusal :=
  act s (s.dev.movs x 4)

/-- MOVSD (R177). -/
def execMovsd (x : Sx) (s : State) : Host.Outcome State Fault Refusal :=
  act s (s.dev.movs x 8)

/-- CMPSB (R177). -/
def execCmpsb (x : Sx) (s : State) : Host.Outcome State Fault Refusal :=
  act s (s.dev.cmps x 1)

/-- CMPSW (R177). -/
def execCmpsw (x : Sx) (s : State) : Host.Outcome State Fault Refusal :=
  act s (s.dev.cmps x 4)

/-- SCASB (R177). -/
def execScasb (x : Sx) (ra rb : BitVec 4) (s : State) : Host.Outcome State Fault Refusal :=
  act s (s.dev.scasb x ra rb)

/-- STOSB (R142). -/
def execStosb (x : Sx) (ra rb : BitVec 4) (s : State) : Host.Outcome State Fault Refusal :=
  act s (s.dev.stos x ra rb 1)

/-- STOSW (R142). -/
def execStosw (x : Sx) (ra rb : BitVec 4) (s : State) : Host.Outcome State Fault Refusal :=
  act s (s.dev.stos x ra rb 4)

/-- BBMOV (R177). -/
def execBbmov (x : Sx) (s : State) : Host.Outcome State Fault Refusal :=
  act s (s.dev.bbmov x)

/-- BBCLR (R177). -/
def execBbclr (x : Sx) (s : State) : Host.Outcome State Fault Refusal :=
  act s (s.dev.bbfill x false)

/-- BBSET (R177). -/
def execBbset (x : Sx) (s : State) : Host.Outcome State Fault Refusal :=
  act s (s.dev.bbfill x true)

/-- BBCMP (R177). -/
def execBbcmp (x : Sx) (s : State) : Host.Outcome State Fault Refusal :=
  act s (s.dev.bbcmp x)

/-- BBCNT (R177). -/
def execBbcnt (x : Sx) (ra rb : BitVec 4) (s : State) : Host.Outcome State Fault Refusal :=
  act s (s.dev.bbcnt x ra rb)

/-- BBSCAN (R177). -/
def execBbscan (x : Sx) (ra rb : BitVec 4) (s : State) : Host.Outcome State Fault Refusal :=
  act s (s.dev.bbscan x ra rb)

/-- DAA (R183). -/
def execDaa (x : Sx) (ra rb : BitVec 4) (s : State) : Host.Outcome State Fault Refusal :=
  act s (s.dev.runOne x 3 ra rb (fun a c => daaOp a (c.flag flH)))

/-- DAS (R183). -/
def execDas (x : Sx) (ra rb : BitVec 4) (s : State) : Host.Outcome State Fault Refusal :=
  act s (s.dev.runOne x 3 ra rb (fun a c => dasOp a (c.flag flH) (c.flag flC)))

/-- BCDADC (R181, R182). -/
def execBcdadc (x : Sx) (ra rb : BitVec 4) (n : BitVec 8) (s : State) : Host.Outcome State Fault Refusal :=
  act s (s.dev.runBcd x ra rb n (bcdTwo bcdAdd))

/-- BCDSBC (R181, R182). -/
def execBcdsbc (x : Sx) (ra rb : BitVec 4) (n : BitVec 8) (s : State) : Host.Outcome State Fault Refusal :=
  act s (s.dev.runBcd x ra rb n (bcdTwo bcdSub))

/-- BCD2BIN (R181, R182). -/
def execBcd2bin (x : Sx) (ra rb : BitVec 4) (n : BitVec 8) (s : State) : Host.Outcome State Fault Refusal :=
  act s (s.dev.runBcd x ra rb n bcdToBin)

/-- BIN2BCD (R181, R182). -/
def execBin2bcd (x : Sx) (ra rb : BitVec 4) (n : BitVec 8) (s : State) : Host.Outcome State Fault Refusal :=
  act s (s.dev.runBcd x ra rb n binToBcd)

/-- DFEND 0x00 (R188): `hi` are bits [7:1] of the immediate. -/
def execDfendPass (x : Sx) (hi : BitVec 7) (s : State) : Host.Outcome State Fault Refusal :=
  act s (s.dev.dfendPass x hi)

/-- DFEND 0x01 (R188). -/
def execDfendFail (x : Sx) (hi : BitVec 7) (s : State) : Host.Outcome State Fault Refusal :=
  act s (s.dev.dfendFail x hi)

/-- TXARM with RELAY = 0 (R98, R189). -/
def execTxarm (x : Sx) (ra : BitVec 4) (slot : BitVec 2) (bslot : BitVec 4) (tc : BitVec 3) (hi : BitVec 6) (s : State) :
    Host.Outcome State Fault Refusal :=
  act s (s.dev.txarm x ra slot bslot tc hi)

/-- TXARM with RELAY = 1 (R99). -/
def execTxarmRelay (x : Sx) (bslot : BitVec 4) (tc : BitVec 3) (hi : BitVec 6) (s : State) : Host.Outcome State Fault Refusal :=
  act s (s.dev.txarmRelay x bslot tc hi)

/-- TXMEM (R190). -/
def execTxmem (x : Sx) (ra rb : BitVec 4) (low : BitVec 2) (bslot : BitVec 4) (tc : BitVec 3) (hi : BitVec 7) (s : State) :
    Host.Outcome State Fault Refusal :=
  act s (s.dev.txmem x ra rb low bslot tc hi)

/-- EVRAISE (R150). -/
def execEvraise (x : Sx) (v : BitVec 16) (s : State) : Host.Outcome State Fault Refusal :=
  act s (s.dev.evraise x v)

/-- JWRITE (R191). -/
def execJwrite (x : Sx) (ra rb : BitVec 4) (s : State) : Host.Outcome State Fault Refusal :=
  act s (s.dev.jwrite x ra rb)

/-- FPLEN (R192). -/
def execFplen (x : Sx) (ra rb : BitVec 4) (s : State) : Host.Outcome State Fault Refusal :=
  act s (s.dev.fplen x ra rb)

/-- ERET (R154). -/
def execEret (x : Sx) (s : State) : Host.Outcome State Fault Refusal :=
  act s (s.dev.eret x)

/-- MOVC RA, cr (R194). -/
def execMovcRead (x : Sx) (ra rb : BitVec 4) (cr : BitVec 8) (s : State) : Host.Outcome State Fault Refusal :=
  act s (s.dev.movcRead x ra rb cr)

/-- MOVC cr, RA (R194). -/
def execMovcWrite (x : Sx) (ra rb : BitVec 4) (cr : BitVec 8) (s : State) : Host.Outcome State Fault Refusal :=
  act s (s.dev.movcWrite x ra rb cr)

/-- SVC (R195). -/
def execSvc (x : Sx) (imm : BitVec 8) (s : State) : Host.Outcome State Fault Refusal :=
  act s (s.dev.svc x imm)

/-- WFI (R156). -/
def execWfi (x : Sx) (s : State) : Host.Outcome State Fault Refusal :=
  act s (s.dev.wfi x)

/-- INTOFF (R195). -/
def execIntoff (x : Sx) (s : State) : Host.Outcome State Fault Refusal :=
  act s (s.dev.intSet x false)

/-- INTON (R195). -/
def execInton (x : Sx) (s : State) : Host.Outcome State Fault Refusal :=
  act s (s.dev.intSet x true)

/-- FENCE (R193). -/
def execFence (x : Sx) (s : State) : Host.Outcome State Fault Refusal :=
  act s (s.dev.fence x)

end Sys2Proof.Machine
end

