-- ==== Sys2Proof/Machine/CmdStn.lean ====
section
/-!
DEFINITION. Commands of station control (chapter 14).
-/

namespace Sys2Proof.Machine

/-- AFE_RESULT (R433): the codes averaged. -/
def execAfeResult (n : Fin 24) (codes : List (BitVec 16)) (s : State) : Host.Outcome State Fault Refusal :=
  act s (s.dev.afeResult n codes)

/-- AFE_RESULT_READ (R433). -/
def execAfeResultRead (m : Master) (n : Fin 24) (s : State) : Host.Outcome State Fault Refusal :=
  act s (s.dev.getReg m AFE_RES n 0)

/-- DI_TRANSITION (R435): the raw level. -/
def execDiTransition (i : Fin 32) (level : Bool) (s : State) : Host.Outcome State Fault Refusal :=
  act s (s.dev.diEdge i level)

/-- DI_CHANGE_ACCEPT (R435). -/
def execDiChangeAccept (i : Fin 32) (s : State) : Host.Outcome State Fault Refusal := act s (s.dev.diAccept i)

/-- DI_CHATTER_WINDOW (R436). -/
def execDiChatterWindow (s : State) : Host.Outcome State Fault Refusal := act s s.dev.diWindow

/-- DI_QUARANTINE_END (R436). -/
def execDiQuarantineEnd (i : Fin 32) (s : State) : Host.Outcome State Fault Refusal := act s (s.dev.diQuiet i)

/-- DI_STUCK_TIMER (R437). -/
def execDiStuckTimer (i : Fin 32) (s : State) : Host.Outcome State Fault Refusal := act s (s.dev.diStuck i)

/-- SENT_CROSSING (R439): comparator k above HI (0), below LO (1), back inside (2). -/
def execSentCrossing (k : Fin 2) (pos : Fin 3) (s : State) : Host.Outcome State Fault Refusal := act s (s.dev.sentCross k pos)

/-- SENT_HALF_CYCLE (R440): the RMS of the half-cycle. -/
def execSentHalfCycle (k : Fin 2) (rms : BitVec 16) (s : State) : Host.Outcome State Fault Refusal :=
  act s (s.dev.halfCycle k rms.toNat)

/-- SENT_ZERO_TIMEOUT (R440). -/
def execSentZeroTimeout (k : Fin 2) (s : State) : Host.Outcome State Fault Refusal := act s (s.dev.zeroTimeout k)

/-- SENT_CAPTURE_ARM (R441). -/
def execSentCaptureArm (m : Master) (s : State) : Host.Outcome State Fault Refusal :=
  act s (s.dev.poke m SENT_CAP 0 0 0x1000000)

/-- SENT_SOFTWARE_TRIGGER (R441). -/
def execSentSoftwareTrigger (m : Master) (s : State) : Host.Outcome State Fault Refusal :=
  act s (s.dev.poke m SENT_CAP 0 0 0x2000000)

/-- SENT_CAPTURE_DONE (R441): the samples taken since ARM, code in [11:0] and input in [12]. -/
def execSentCaptureDone (samples : List (BitVec 13)) (s : State) : Host.Outcome State Fault Refusal :=
  act s (s.dev.capDone samples)

/-- SENT_EVQ_READ (R442). -/
def execSentEvqRead (m : Master) (s : State) : Host.Outcome State Fault Refusal := act s (s.dev.getReg m SENT_EVQ2 0 0)

/-- LAST_GASP_FIRE (R443): source b of SENT_LGCTL.SRC. -/
def execLastGaspFire (b : Fin 4) (s : State) : Host.Outcome State Fault Refusal := act s (s.dev.gaspFire b)

/-- LAST_GASP_RECORD (R445). -/
def execLastGaspRecord (s : State) : Host.Outcome State Fault Refusal := act s s.dev.gaspFinal

/-- LAST_GASP_RECOVERY (R445). -/
def execLastGaspRecovery (s : State) : Host.Outcome State Fault Refusal := act s s.dev.gaspRecover

/-- LOOP_SAMPLE (R447). -/
def execLoopSample (n : Fin 16) (s : State) : Host.Outcome State Fault Refusal := act s (s.dev.loopSample n)

/-- LOOP_EVALUATION (R450). -/
def execLoopEvaluation (s : State) : Host.Outcome State Fault Refusal := act s s.dev.loopEval

/-- LOOP_OUTPUT (R454). -/
def execLoopOutput (s : State) : Host.Outcome State Fault Refusal := act s s.dev.loopOutput

/-- LOOP_MANUAL (R455). -/
def execLoopManual (m : Master) (n : Fin 16) (s : State) : Host.Outcome State Fault Refusal :=
  act s (s.dev.putReg m LOOP_CTL n 0 1)

/-- LOOP_AUTOMATIC (R455). -/
def execLoopAutomatic (m : Master) (n : Fin 16) (s : State) : Host.Outcome State Fault Refusal :=
  act s (s.dev.putReg m LOOP_CTL n 0 0)

/-- LOOP_RESUME (R456). -/
def execLoopResume (m : Master) (n : Fin 16) (s : State) : Host.Outcome State Fault Refusal :=
  act s (s.dev.poke m LOOP_CTL n 0 2)

/-- LOOP_IRESET (R450). -/
def execLoopIreset (m : Master) (n : Fin 16) (s : State) : Host.Outcome State Fault Refusal :=
  act s (s.dev.poke m LOOP_CTL n 0 4)

/-- STEP_GO (R459). -/
def execStepGo (m : Master) (k : Fin 8) (s : State) : Host.Outcome State Fault Refusal := act s (s.dev.putReg m STP_CTL k 0 1)

/-- STEP_STOP (R461). -/
def execStepStop (m : Master) (k : Fin 8) (s : State) : Host.Outcome State Fault Refusal :=
  act s (s.dev.putReg m STP_CTL k 0 2)

/-- STEP_HALT (R461). -/
def execStepHalt (m : Master) (k : Fin 8) (s : State) : Host.Outcome State Fault Refusal :=
  act s (s.dev.putReg m STP_CTL k 0 4)

/-- STEP_CLRSTALL (R461). -/
def execStepClrstall (m : Master) (k : Fin 8) (s : State) : Host.Outcome State Fault Refusal :=
  act s (s.dev.putReg m STP_CTL k 0 8)

/-- STEP_TARGET_WRITE (R460). -/
def execStepTargetWrite (m : Master) (k : Fin 8) (v : Word) (s : State) : Host.Outcome State Fault Refusal :=
  act s (s.dev.putReg m STP_TARGET k 0 v)

/-- STEP_SEGMENT_BOUNDARY (R459). -/
def execStepSegmentBoundary (k : Fin 8) (s : State) : Host.Outcome State Fault Refusal := act s (s.dev.axBoundary k)

/-- STEP_ZCW_SAMPLE (R462): the coil voltage. -/
def execStepZcwSample (k : Fin 8) (volt : BitVec 16) (s : State) : Host.Outcome State Fault Refusal :=
  act s (s.dev.axWindow k volt)

/-- STEP_STANDSTILL (R461). -/
def execStepStandstill (k : Fin 8) (s : State) : Host.Outcome State Fault Refusal := act s (s.dev.axStandstill k)

/-- PWR_FAIL_N_TRIGGER (R441). -/
def execPwrFailNTrigger (s : State) : Host.Outcome State Fault Refusal := act s s.dev.failLow

end Sys2Proof.Machine
end

