-- ==== Sys2Proof/Machine/CmdTime.lean ====
section
/-!
DEFINITION. Commands of time (chapter 10).
-/

namespace Sys2Proof.Machine

/-- TIME_CTL_WRITE (R314). -/
def execTimeCtlWrite (m : Master) (v : Word) (s : State) : Host.Outcome State Fault Refusal :=
  act s (s.dev.putReg m TIME_CTL 0 0 v)

/-- DC_CFG_WRITE (R312). -/
def execDcCfgWrite (m : Master) (k : Fin 2) (v : Word) (s : State) : Host.Outcome State Fault Refusal :=
  act s (s.dev.putReg m DC_CFG k 0 v)

/-- DC_ADJUST_STEP (R313). -/
def execDcAdjustStep (m : Master) (k : Fin 2) (s : State) : Host.Outcome State Fault Refusal :=
  act s (s.dev.putReg m DC_ADJCTL k 0 3)

/-- DC_ADJUST_SLEW (R313). -/
def execDcAdjustSlew (m : Master) (k : Fin 2) (s : State) : Host.Outcome State Fault Refusal :=
  act s (s.dev.putReg m DC_ADJCTL k 0 1)

/-- DC_SLEW_DONE (R313). -/
def execDcSlewDone (k : Fin 2) (s : State) : Host.Outcome State Fault Refusal := act s (s.dev.dcSlewDone k)

/-- TIME_SLEW_DONE (R316). -/
def execTimeSlewDone (s : State) : Host.Outcome State Fault Refusal := act s s.dev.slewDone

/-- TIME_REVERT (R314). -/
def execTimeRevert (s : State) : Host.Outcome State Fault Refusal := act s s.dev.timeRevert

/-- TIME_SET_LOAD (R318). -/
def execTimeSetLoad (m : Master) (s : State) : Host.Outcome State Fault Refusal := act s (s.dev.putReg m TIME_SETCMD 0 0 1)

/-- TIME_RATE_WRITE (R317). -/
def execTimeRateWrite (m : Master) (v : Word) (s : State) : Host.Outcome State Fault Refusal :=
  act s (s.dev.putReg m TIME_RATE 0 0 v)

/-- HOLDOVER_LIMIT (R320). -/
def execHoldoverLimit (s : State) : Host.Outcome State Fault Refusal := act s s.dev.holdLimit

/-- TIME_NOW_READ (R308). -/
def execTimeNowRead (m : Master) (s : State) : Host.Outcome State Fault Refusal := act s (s.dev.getReg m TIME_NOW_LO 0 0)

/-- DC_NOW_READ (R311). -/
def execDcNowRead (m : Master) (k : Fin 2) (s : State) : Host.Outcome State Fault Refusal :=
  act s (s.dev.getReg m DC_NOW_LO k 0)

/-- RTC_READ (R322). -/
def execRtcRead (m : Master) (s : State) : Host.Outcome State Fault Refusal := act s (s.dev.getReg m TIME_RTC_LO 0 0)

/-- RTC_REALIGN (R322): the trim the block works out. -/
def execRtcRealign (trim : BitVec 24) (s : State) : Host.Outcome State Fault Refusal := act s (s.dev.rtcRealign trim)

/-- CAL_REFRESH (R329): the delays measured. -/
def execCalRefresh (p : Fin 24) (tx rx : Word) (s : State) : Host.Outcome State Fault Refusal :=
  act s (s.dev.calRefresh p tx rx)

/-- CAL_AGED (R330). -/
def execCalAged (p : Fin 24) (s : State) : Host.Outcome State Fault Refusal := act s (s.dev.calAged p)

/-- TSQ_LATCH_READ (R332). -/
def execTsqLatchRead (m : Master) (s : State) : Host.Outcome State Fault Refusal := act s (s.dev.getReg m TIME_TSQ0 0 0)

/-- TSQ_REMOVE_READ (R332). -/
def execTsqRemoveRead (m : Master) (s : State) : Host.Outcome State Fault Refusal := act s (s.dev.getReg m TIME_TSQ3 0 0)

/-- PPS_OUT_RISE (R337). -/
def execPpsOutRise (s : State) : Host.Outcome State Fault Refusal := act s s.dev.ppsRise

/-- PPS_OUT_FALL (R337). -/
def execPpsOutFall (s : State) : Host.Outcome State Fault Refusal := act s s.dev.ppsFall

/-- PPS_IN_EDGE (R338). -/
def execPpsInEdge (rising : Bool) (s : State) : Host.Outcome State Fault Refusal := act s (s.dev.ppsEdge rising)

/-- PPSI_READ (R338). -/
def execPpsiRead (m : Master) (s : State) : Host.Outcome State Fault Refusal := act s (s.dev.getReg m TIME_PPSI_LO 0 0)

/-- EVENT_INPUT_EDGE (R339). -/
def execEventInputEdge (k : Fin 2) (rising : Bool) (s : State) : Host.Outcome State Fault Refusal :=
  act s (s.dev.evEdge k rising)

/-- EVIN_LATCH_READ (R339). -/
def execEvinLatchRead (m : Master) (k : Fin 2) (s : State) : Host.Outcome State Fault Refusal :=
  act s (s.dev.getReg m TIME_EV_LO k 0)

/-- EVIN_REMOVE_READ (R339). -/
def execEvinRemoveRead (m : Master) (k : Fin 2) (s : State) : Host.Outcome State Fault Refusal :=
  act s (s.dev.getReg m TIME_EV_FRAC k 0)

/-- TARGET_ARM (R340). -/
def execTargetArm (m : Master) (k : Fin 4) (s : State) : Host.Outcome State Fault Refusal :=
  act s (s.dev.poke m TIME_TGTCTL 0 0 (1 <<< k.val))

/-- TARGET_TIME_FIRE (R340). -/
def execTargetTimeFire (k : Fin 4) (s : State) : Host.Outcome State Fault Refusal := act s (s.dev.fireTarget k)

end Sys2Proof.Machine
end

