-- ==== Sys2Proof/Machine/Dispatch.lean ====
section
/-!
DEFINITION. From a command to its meaning: one arm per constructor.
-/

namespace Sys2Proof.Machine

/-- The effect of a command on everything but the queue. -/
def exec (i : Instr) (s : State) : Host.Outcome State Fault Refusal :=
  match i with
  | .sillReset supply sel => Sys2Proof.Machine.execSillReset supply sel s
  | .chipReset cause sel => Sys2Proof.Machine.execChipReset cause sel s
  | .blockReset k => Sys2Proof.Machine.execBlockReset k s
  | .engineReset m n => Sys2Proof.Machine.execEngineReset m n s
  | .hostPortReset => Sys2Proof.Machine.execHostPortReset s
  | .engineHalt m n => Sys2Proof.Machine.execEngineHalt m n s
  | .registerWrite m a v => Sys2Proof.Machine.execRegisterWrite m a v s
  | .systemAccess l => Sys2Proof.Machine.execSystemAccess l s
  | .stagedWrite m a v => Sys2Proof.Machine.execStagedWrite m a v s
  | .armNextBoundary m inst => Sys2Proof.Machine.execArmNextBoundary m inst s
  | .armTimed m inst => Sys2Proof.Machine.execArmTimed m inst s
  | .cancelCommits m inst => Sys2Proof.Machine.execCancelCommits m inst s
  | .armInvalidOp m inst => Sys2Proof.Machine.execArmInvalidOp m inst s
  | .stationCycleBoundary => Sys2Proof.Machine.execStationCycleBoundary s
  | .idleInstanceCommit k => Sys2Proof.Machine.execIdleInstanceCommit k s
  | .idleTimedCommit k => Sys2Proof.Machine.execIdleTimedCommit k s
  | .bootImageAttempt okA okB sfdpA sfdpB pcie => Sys2Proof.Machine.execBootImageAttempt okA okB sfdpA sfdpB pcie s
  | .plumbCheck ppm => Sys2Proof.Machine.execPlumbCheck ppm s
  | .bootRelease => Sys2Proof.Machine.execBootRelease s
  | .bootGo m => Sys2Proof.Machine.execBootGo m s
  | .hostRangeDone m => Sys2Proof.Machine.execHostRangeDone m s
  | .hostBootAbort m => Sys2Proof.Machine.execHostBootAbort m s
  | .bootConfirm m => Sys2Proof.Machine.execBootConfirm m s
  | .arbAdvance m => Sys2Proof.Machine.execArbAdvance m s
  | .confirmTimeout sel => Sys2Proof.Machine.execConfirmTimeout sel s
  | .safeHoldExpiry => Sys2Proof.Machine.execSafeHoldExpiry s
  | .otpRevoke m slot => Sys2Proof.Machine.execOtpRevoke m slot s
  | .flashErase m => Sys2Proof.Machine.execFlashErase m s
  | .flashProgram m => Sys2Proof.Machine.execFlashProgram m s
  | .flashRead m => Sys2Proof.Machine.execFlashRead m s
  | .flashVerify m => Sys2Proof.Machine.execFlashVerify m s
  | .flashCommandDone bad sfdp => Sys2Proof.Machine.execFlashCommandDone bad sfdp s
  | .attestationRequest nonce fail => Sys2Proof.Machine.execAttestationRequest nonce fail s
  | .identityReport => Sys2Proof.Machine.execIdentityReport s
  | .wqnextWake n => Sys2Proof.Machine.execWqnextWake n s
  | .frameByteArrival n => Sys2Proof.Machine.execFrameByteArrival n s
  | .itemVerdict n => Sys2Proof.Machine.execItemVerdict n s
  | .frameAbort n => Sys2Proof.Machine.execFrameAbort n s
  | .drainGrant k => Sys2Proof.Machine.execDrainGrant k s
  | .drainComplete n => Sys2Proof.Machine.execDrainComplete n s
  | .tokenGrant k => Sys2Proof.Machine.execTokenGrant k s
  | .handlerLimit n => Sys2Proof.Machine.execHandlerLimit n s
  | .transmitSlotFree n slot => Sys2Proof.Machine.execTransmitSlotFree n slot s
  | .heldRelayRelease p => Sys2Proof.Machine.execHeldRelayRelease p s
  | .integrityReloadAttempt diff => Sys2Proof.Machine.execIntegrityReloadAttempt diff s
  | .interruptLine one => Sys2Proof.Machine.execInterruptLine one s
  | .nmiInput => Sys2Proof.Machine.execNmiInput s
  | .reservedOpcode x two => Sys2Proof.Machine.execReservedOpcode x two s
  | .nop x => Sys2Proof.Machine.execNop x s
  | .brk x => Sys2Proof.Machine.execBrk x s
  | .add x p => Sys2Proof.Machine.execAdd x p s
  | .adc x p => Sys2Proof.Machine.execAdc x p s
  | .sub x p => Sys2Proof.Machine.execSub x p s
  | .sbb x p => Sys2Proof.Machine.execSbb x p s
  | .and x p => Sys2Proof.Machine.execAnd x p s
  | .or x p => Sys2Proof.Machine.execOr x p s
  | .xor x p => Sys2Proof.Machine.execXor x p s
  | .cmp x p => Sys2Proof.Machine.execCmp x p s
  | .test x p => Sys2Proof.Machine.execTest x p s
  | .mov x p => Sys2Proof.Machine.execMov x p s
  | .ld x ra rb p => Sys2Proof.Machine.execLd x ra rb p s
  | .st x ra rb p => Sys2Proof.Machine.execSt x ra rb p s
  | .sti x ra rb p imm => Sys2Proof.Machine.execSti x ra rb p imm s
  | .lea x ra rb v => Sys2Proof.Machine.execLea x ra rb v s
  | .ldb x ra rb v => Sys2Proof.Machine.execLdb x ra rb v s
  | .ldbs x ra rb v => Sys2Proof.Machine.execLdbs x ra rb v s
  | .ldh x ra rb v => Sys2Proof.Machine.execLdh x ra rb v s
  | .ldhs x ra rb v => Sys2Proof.Machine.execLdhs x ra rb v s
  | .stb x ra rb v => Sys2Proof.Machine.execStb x ra rb v s
  | .sth x ra rb v => Sys2Proof.Machine.execSth x ra rb v s
  | .xchg x p => Sys2Proof.Machine.execXchg x p s
  | .shl x p => Sys2Proof.Machine.execShl x p s
  | .shr x p => Sys2Proof.Machine.execShr x p s
  | .sar x p => Sys2Proof.Machine.execSar x p s
  | .rol x p => Sys2Proof.Machine.execRol x p s
  | .bcc x cc p => Sys2Proof.Machine.execBcc x cc p s
  | .neg x ra rb => Sys2Proof.Machine.execNeg x ra rb s
  | .not x ra rb => Sys2Proof.Machine.execNot x ra rb s
  | .inc x ra rb => Sys2Proof.Machine.execInc x ra rb s
  | .dec x ra rb => Sys2Proof.Machine.execDec x ra rb s
  | .mul x ra rb => Sys2Proof.Machine.execMul x ra rb s
  | .mulh x ra rb => Sys2Proof.Machine.execMulh x ra rb s
  | .divu x ra rb => Sys2Proof.Machine.execDivu x ra rb s
  | .remu x ra rb => Sys2Proof.Machine.execRemu x ra rb s
  | .call x p => Sys2Proof.Machine.execCall x p s
  | .jmp x ra rb => Sys2Proof.Machine.execJmp x ra rb s
  | .ret x => Sys2Proof.Machine.execRet x s
  | .push x ra rb => Sys2Proof.Machine.execPush x ra rb s
  | .pop x ra rb => Sys2Proof.Machine.execPop x ra rb s
  | .pushm x mask => Sys2Proof.Machine.execPushm x mask s
  | .popm x mask => Sys2Proof.Machine.execPopm x mask s
  | .bset x v => Sys2Proof.Machine.execBset x v s
  | .bclr x v => Sys2Proof.Machine.execBclr x v s
  | .bcpl x v => Sys2Proof.Machine.execBcpl x v s
  | .bmov x v => Sys2Proof.Machine.execBmov x v s
  | .band x v => Sys2Proof.Machine.execBand x v s
  | .bor x v => Sys2Proof.Machine.execBor x v s
  | .bxor x v => Sys2Proof.Machine.execBxor x v s
  | .bandn x v => Sys2Proof.Machine.execBandn x v s
  | .bld x ra rb v => Sys2Proof.Machine.execBld x ra rb v s
  | .bst x ra rb v => Sys2Proof.Machine.execBst x ra rb v s
  | .bldi x ra rb => Sys2Proof.Machine.execBldi x ra rb s
  | .bsti x ra rb => Sys2Proof.Machine.execBsti x ra rb s
  | .btst x v => Sys2Proof.Machine.execBtst x v s
  | .brb x p v => Sys2Proof.Machine.execBrb x p v s
  | .brnb x p v => Sys2Proof.Machine.execBrnb x p v s
  | .brbc x p v => Sys2Proof.Machine.execBrbc x p v s
  | .wqnext x => Sys2Proof.Machine.execWqnext x s
  | .movfl x ra rb => Sys2Proof.Machine.execMovfl x ra rb s
  | .movtofl x ra rb => Sys2Proof.Machine.execMovtofl x ra rb s
  | .sextb x ra rb => Sys2Proof.Machine.execSextb x ra rb s
  | .sexth x ra rb => Sys2Proof.Machine.execSexth x ra rb s
  | .bswap x ra rb => Sys2Proof.Machine.execBswap x ra rb s
  | .clc x => Sys2Proof.Machine.execClc x s
  | .stc x => Sys2Proof.Machine.execStc x s
  | .movsb x => Sys2Proof.Machine.execMovsb x s
  | .movsw x => Sys2Proof.Machine.execMovsw x s
  | .movsd x => Sys2Proof.Machine.execMovsd x s
  | .cmpsb x => Sys2Proof.Machine.execCmpsb x s
  | .cmpsw x => Sys2Proof.Machine.execCmpsw x s
  | .scasb x ra rb => Sys2Proof.Machine.execScasb x ra rb s
  | .stosb x ra rb => Sys2Proof.Machine.execStosb x ra rb s
  | .stosw x ra rb => Sys2Proof.Machine.execStosw x ra rb s
  | .bbmov x => Sys2Proof.Machine.execBbmov x s
  | .bbclr x => Sys2Proof.Machine.execBbclr x s
  | .bbset x => Sys2Proof.Machine.execBbset x s
  | .bbcmp x => Sys2Proof.Machine.execBbcmp x s
  | .bbcnt x ra rb => Sys2Proof.Machine.execBbcnt x ra rb s
  | .bbscan x ra rb => Sys2Proof.Machine.execBbscan x ra rb s
  | .daa x ra rb => Sys2Proof.Machine.execDaa x ra rb s
  | .das x ra rb => Sys2Proof.Machine.execDas x ra rb s
  | .bcdadc x ra rb n => Sys2Proof.Machine.execBcdadc x ra rb n s
  | .bcdsbc x ra rb n => Sys2Proof.Machine.execBcdsbc x ra rb n s
  | .bcd2bin x ra rb n => Sys2Proof.Machine.execBcd2bin x ra rb n s
  | .bin2bcd x ra rb n => Sys2Proof.Machine.execBin2bcd x ra rb n s
  | .dfendPass x hi => Sys2Proof.Machine.execDfendPass x hi s
  | .dfendFail x hi => Sys2Proof.Machine.execDfendFail x hi s
  | .txarm x ra slot bslot tc hi => Sys2Proof.Machine.execTxarm x ra slot bslot tc hi s
  | .txarmRelay x bslot tc hi => Sys2Proof.Machine.execTxarmRelay x bslot tc hi s
  | .txmem x ra rb low bslot tc hi => Sys2Proof.Machine.execTxmem x ra rb low bslot tc hi s
  | .evraise x v => Sys2Proof.Machine.execEvraise x v s
  | .jwrite x ra rb => Sys2Proof.Machine.execJwrite x ra rb s
  | .fplen x ra rb => Sys2Proof.Machine.execFplen x ra rb s
  | .eret x => Sys2Proof.Machine.execEret x s
  | .movcRead x ra rb cr => Sys2Proof.Machine.execMovcRead x ra rb cr s
  | .movcWrite x ra rb cr => Sys2Proof.Machine.execMovcWrite x ra rb cr s
  | .svc x imm => Sys2Proof.Machine.execSvc x imm s
  | .wfi x => Sys2Proof.Machine.execWfi x s
  | .intoff x => Sys2Proof.Machine.execIntoff x s
  | .inton x => Sys2Proof.Machine.execInton x s
  | .fence x => Sys2Proof.Machine.execFence x s
  | .bankOwnerWrite m b code => Sys2Proof.Machine.execBankOwnerWrite m b code s
  | .bankOwnerApply b => Sys2Proof.Machine.execBankOwnerApply b s
  | .bankPowerWrite m v => Sys2Proof.Machine.execBankPowerWrite m v s
  | .localMemoryPowerWrite m k v => Sys2Proof.Machine.execLocalMemoryPowerWrite m k v s
  | .memoryPowerDone k => Sys2Proof.Machine.execMemoryPowerDone k s
  | .dmaGo m n => Sys2Proof.Machine.execDmaGo m n s
  | .dmaEnable m n v => Sys2Proof.Machine.execDmaEnable m n v s
  | .dmaDisable m n => Sys2Proof.Machine.execDmaDisable m n s
  | .dmaBeat n pcie => Sys2Proof.Machine.execDmaBeat n pcie s
  | .dmaTransferDone n => Sys2Proof.Machine.execDmaTransferDone n s
  | .dmaRingTailWrite m n tx tail => Sys2Proof.Machine.execDmaRingTailWrite m n tx tail s
  | .dmaDescriptor n tx pcie => Sys2Proof.Machine.execDmaDescriptor n tx pcie s
  | .mbxTxWrite m box side v => Sys2Proof.Machine.execMbxTxWrite m box side v s
  | .mailboxRing m box side => Sys2Proof.Machine.execMailboxRing m box side s
  | .mailboxAbort m box side => Sys2Proof.Machine.execMailboxAbort m box side s
  | .pendingMessageEntry box side => Sys2Proof.Machine.execPendingMessageEntry box side s
  | .mailboxDelivery => Sys2Proof.Machine.execMailboxDelivery s
  | .mbxRxRead m box side => Sys2Proof.Machine.execMbxRxRead m box side s
  | .pegRead m p => Sys2Proof.Machine.execPegRead m p s
  | .pegWrite m p v => Sys2Proof.Machine.execPegWrite m p v s
  | .pegForceFree m p => Sys2Proof.Machine.execPegForceFree m p s
  | .softwareRaise m n => Sys2Proof.Machine.execSoftwareRaise m n s
  | .eventPendingClear m k v => Sys2Proof.Machine.execEventPendingClear m k v s
  | .eventMaskWrite m k v => Sys2Proof.Machine.execEventMaskWrite m k v s
  | .ethRxFrame p b how frags => Sys2Proof.Machine.execEthRxFrame p b how frags s
  | .maxsduLateFail k => Sys2Proof.Machine.execMaxsduLateFail k s
  | .transmissionSelection p crcFail => Sys2Proof.Machine.execTransmissionSelection p crcFail s
  | .txFrameEnd p crcFail => Sys2Proof.Machine.execTxFrameEnd p crcFail s
  | .linkUp p info => Sys2Proof.Machine.execLinkUp p info s
  | .linkDown p => Sys2Proof.Machine.execLinkDown p s
  | .ethCtlWrite m p anadv v => Sys2Proof.Machine.execEthCtlWrite m p anadv v s
  | .anRestart m p => Sys2Proof.Machine.execAnRestart m p s
  | .energyDetect p => Sys2Proof.Machine.execEnergyDetect p s
  | .rateWindow p => Sys2Proof.Machine.execRateWindow p s
  | .lpiEntry p => Sys2Proof.Machine.execLpiEntry p s
  | .lpiExit p => Sys2Proof.Machine.execLpiExit p s
  | .lpiGateWake p => Sys2Proof.Machine.execLpiGateWake p s
  | .lpiRxEntry p => Sys2Proof.Machine.execLpiRxEntry p s
  | .lldpEeeTlv p tw => Sys2Proof.Machine.execLldpEeeTlv p tw s
  | .lldpTlvTimeout p => Sys2Proof.Machine.execLldpTlvTimeout p s
  | .mmVerifyTimer p => Sys2Proof.Machine.execMmVerifyTimer p s
  | .mmVerifyResponse p => Sys2Proof.Machine.execMmVerifyResponse p s
  | .mdioRead m p prtad regad c45 => Sys2Proof.Machine.execMdioRead m p prtad regad c45 s
  | .mdioWrite m p prtad regad c45 => Sys2Proof.Machine.execMdioWrite m p prtad regad c45 s
  | .mdioDone reply => Sys2Proof.Machine.execMdioDone reply s
  | .ethOctetRead m p tx => Sys2Proof.Machine.execEthOctetRead m p tx s
  | .streamGateEntry g => Sys2Proof.Machine.execStreamGateEntry g s
  | .gateCycleStart p => Sys2Proof.Machine.execGateCycleStart p s
  | .gclEntry p => Sys2Proof.Machine.execGclEntry p s
  | .fdbAddStatic m => Sys2Proof.Machine.execFdbAddStatic m s
  | .fdbDelete m => Sys2Proof.Machine.execFdbDelete m s
  | .fdbLookup m => Sys2Proof.Machine.execFdbLookup m s
  | .fdbFlushDynamic m => Sys2Proof.Machine.execFdbFlushDynamic m s
  | .fdbCommandDone => Sys2Proof.Machine.execFdbCommandDone s
  | .fdbAgeOut vid mac => Sys2Proof.Machine.execFdbAgeOut vid mac s
  | .seqRecoveryReset n => Sys2Proof.Machine.execSeqRecoveryReset n s
  | .dupEntryExpire k src seq => Sys2Proof.Machine.execDupEntryExpire k src seq s
  | .timeCtlWrite m v => Sys2Proof.Machine.execTimeCtlWrite m v s
  | .dcCfgWrite m k v => Sys2Proof.Machine.execDcCfgWrite m k v s
  | .dcAdjustStep m k => Sys2Proof.Machine.execDcAdjustStep m k s
  | .dcAdjustSlew m k => Sys2Proof.Machine.execDcAdjustSlew m k s
  | .dcSlewDone k => Sys2Proof.Machine.execDcSlewDone k s
  | .timeSlewDone => Sys2Proof.Machine.execTimeSlewDone s
  | .timeRevert => Sys2Proof.Machine.execTimeRevert s
  | .timeSetLoad m => Sys2Proof.Machine.execTimeSetLoad m s
  | .timeRateWrite m v => Sys2Proof.Machine.execTimeRateWrite m v s
  | .holdoverLimit => Sys2Proof.Machine.execHoldoverLimit s
  | .timeNowRead m => Sys2Proof.Machine.execTimeNowRead m s
  | .dcNowRead m k => Sys2Proof.Machine.execDcNowRead m k s
  | .rtcRead m => Sys2Proof.Machine.execRtcRead m s
  | .rtcRealign trim => Sys2Proof.Machine.execRtcRealign trim s
  | .calRefresh p tx rx => Sys2Proof.Machine.execCalRefresh p tx rx s
  | .calAged p => Sys2Proof.Machine.execCalAged p s
  | .tsqLatchRead m => Sys2Proof.Machine.execTsqLatchRead m s
  | .tsqRemoveRead m => Sys2Proof.Machine.execTsqRemoveRead m s
  | .ppsOutRise => Sys2Proof.Machine.execPpsOutRise s
  | .ppsOutFall => Sys2Proof.Machine.execPpsOutFall s
  | .ppsInEdge rising => Sys2Proof.Machine.execPpsInEdge rising s
  | .ppsiRead m => Sys2Proof.Machine.execPpsiRead m s
  | .eventInputEdge k rising => Sys2Proof.Machine.execEventInputEdge k rising s
  | .evinLatchRead m k => Sys2Proof.Machine.execEvinLatchRead m k s
  | .evinRemoveRead m k => Sys2Proof.Machine.execEvinRemoveRead m k s
  | .targetArm m k => Sys2Proof.Machine.execTargetArm m k s
  | .targetTimeFire k => Sys2Proof.Machine.execTargetTimeFire k s
  | .mbEnable m n v => Sys2Proof.Machine.execMbEnable m n v s
  | .mbRxFrame n f how => Sys2Proof.Machine.execMbRxFrame n f how s
  | .heldArmEntry lane => Sys2Proof.Machine.execHeldArmEntry lane s
  | .mbTxOpportunity n out => Sys2Proof.Machine.execMbTxOpportunity n out s
  | .mbTxComplete n tdcv => Sys2Proof.Machine.execMbTxComplete n tdcv s
  | .mbFlush m n => Sys2Proof.Machine.execMbFlush m n s
  | .mbRecover m n => Sys2Proof.Machine.execMbRecover m n s
  | .mbRecoveryComplete n => Sys2Proof.Machine.execMbRecoveryComplete n s
  | .mbModeChange n => Sys2Proof.Machine.execMbModeChange n s
  | .mbSleepRequest m n => Sys2Proof.Machine.execMbSleepRequest m n s
  | .mbSleepEntry n => Sys2Proof.Machine.execMbSleepEntry n s
  | .mbWakeDominant n long => Sys2Proof.Machine.execMbWakeDominant n long s
  | .mbQuarantineEnd n => Sys2Proof.Machine.execMbQuarantineEnd n s
  | .mbStuck n => Sys2Proof.Machine.execMbStuck n s
  | .mbWakeFrame n f crc => Sys2Proof.Machine.execMbWakeFrame n f crc s
  | .mbDecoderIdle n => Sys2Proof.Machine.execMbDecoderIdle n s
  | .mbDecoderTrim n => Sys2Proof.Machine.execMbDecoderTrim n s
  | .mbWakeRequest m n => Sys2Proof.Machine.execMbWakeRequest m n s
  | .mbIntegrationDone n => Sys2Proof.Machine.execMbIntegrationDone n s
  | .mbRefDue n => Sys2Proof.Machine.execMbRefDue n s
  | .mbReferenceMessage n => Sys2Proof.Machine.execMbReferenceMessage n s
  | .mbSyncTimeout n => Sys2Proof.Machine.execMbSyncTimeout n s
  | .mbTmrefRead m n => Sys2Proof.Machine.execMbTmrefRead m n s
  | .ringEnable m n v => Sys2Proof.Machine.execRingEnable m n v s
  | .ringRoundStart n => Sys2Proof.Machine.execRingRoundStart n s
  | .ringSlotSend n slot => Sys2Proof.Machine.execRingSlotSend n slot s
  | .ringCopyReceive n east crc delim b => Sys2Proof.Machine.execRingCopyReceive n east crc delim b s
  | .guardianCut n => Sys2Proof.Machine.execGuardianCut n s
  | .guardianTrim n => Sys2Proof.Machine.execGuardianTrim n s
  | .ringColdStart n => Sys2Proof.Machine.execRingColdStart n s
  | .ringGoPassive n => Sys2Proof.Machine.execRingGoPassive n s
  | .ringResume n => Sys2Proof.Machine.execRingResume n s
  | .slEnable m n v => Sys2Proof.Machine.execSlEnable m n v s
  | .slRxFrame n cs how => Sys2Proof.Machine.execSlRxFrame n cs how s
  | .slIdleGap n => Sys2Proof.Machine.execSlIdleGap n s
  | .slLockLoss n => Sys2Proof.Machine.execSlLockLoss n s
  | .slTxStart n echo => Sys2Proof.Machine.execSlTxStart n echo s
  | .slTxEnd n => Sys2Proof.Machine.execSlTxEnd n s
  | .slDeTail n => Sys2Proof.Machine.execSlDeTail n s
  | .slFlush m n => Sys2Proof.Machine.execSlFlush m n s
  | .slSleepRequest m n => Sys2Proof.Machine.execSlSleepRequest m n s
  | .slSleepEntry n => Sys2Proof.Machine.execSlSleepEntry n s
  | .slWakeEdge n long => Sys2Proof.Machine.execSlWakeEdge n long s
  | .slWakeRequest m n => Sys2Proof.Machine.execSlWakeRequest m n s
  | .pins g k => Sys2Proof.Machine.execPins g k s
  | .hold g k => Sys2Proof.Machine.execHold g k s
  | .await g k => Sys2Proof.Machine.execAwait g k s
  | .shout g k => Sys2Proof.Machine.execShout g k s
  | .shin g k => Sys2Proof.Machine.execShin g k s
  | .xfer g k => Sys2Proof.Machine.execXfer g k s
  | .br g k => Sys2Proof.Machine.execBr g k s
  | .mark g k => Sys2Proof.Machine.execMark g k s
  | .ldt g k => Sys2Proof.Machine.execLdt g k s
  | .snap g k => Sys2Proof.Machine.execSnap g k s
  | .pioReservedInstr g k => Sys2Proof.Machine.execPioReservedInstr g k s
  | .pioStallRelease g k => Sys2Proof.Machine.execPioStallRelease g k s
  | .pioEnable m g en => Sys2Proof.Machine.execPioEnable m g en s
  | .pioForce m g => Sys2Proof.Machine.execPioForce m g s
  | .pioTxqWrite m g k v => Sys2Proof.Machine.execPioTxqWrite m g k v s
  | .pioRxqRead m g k => Sys2Proof.Machine.execPioRxqRead m g k s
  | .pioQcfgWrite m g k v => Sys2Proof.Machine.execPioQcfgWrite m g k v s
  | .pioTmWrite m g k v => Sys2Proof.Machine.execPioTmWrite m g k v s
  | .pioProgramWrite m g a v => Sys2Proof.Machine.execPioProgramWrite m g a v s
  | .pioFlagSet g j => Sys2Proof.Machine.execPioFlagSet g j s
  | .pioFlagClear g j => Sys2Proof.Machine.execPioFlagClear g j s
  | .pgFrameFeed g k => Sys2Proof.Machine.execPgFrameFeed g k s
  | .afeResult n codes => Sys2Proof.Machine.execAfeResult n codes s
  | .afeResultRead m n => Sys2Proof.Machine.execAfeResultRead m n s
  | .diTransition pin level => Sys2Proof.Machine.execDiTransition pin level s
  | .diChangeAccept pin => Sys2Proof.Machine.execDiChangeAccept pin s
  | .diChatterWindow => Sys2Proof.Machine.execDiChatterWindow s
  | .diQuarantineEnd pin => Sys2Proof.Machine.execDiQuarantineEnd pin s
  | .diStuckTimer pin => Sys2Proof.Machine.execDiStuckTimer pin s
  | .sentCrossing k pos => Sys2Proof.Machine.execSentCrossing k pos s
  | .sentHalfCycle k rms => Sys2Proof.Machine.execSentHalfCycle k rms s
  | .sentZeroTimeout k => Sys2Proof.Machine.execSentZeroTimeout k s
  | .sentCaptureArm m => Sys2Proof.Machine.execSentCaptureArm m s
  | .sentSoftwareTrigger m => Sys2Proof.Machine.execSentSoftwareTrigger m s
  | .sentCaptureDone samples => Sys2Proof.Machine.execSentCaptureDone samples s
  | .sentEvqRead m => Sys2Proof.Machine.execSentEvqRead m s
  | .lastGaspFire b => Sys2Proof.Machine.execLastGaspFire b s
  | .lastGaspRecord => Sys2Proof.Machine.execLastGaspRecord s
  | .lastGaspRecovery => Sys2Proof.Machine.execLastGaspRecovery s
  | .loopSample n => Sys2Proof.Machine.execLoopSample n s
  | .loopEvaluation => Sys2Proof.Machine.execLoopEvaluation s
  | .loopOutput => Sys2Proof.Machine.execLoopOutput s
  | .loopManual m n => Sys2Proof.Machine.execLoopManual m n s
  | .loopAutomatic m n => Sys2Proof.Machine.execLoopAutomatic m n s
  | .loopResume m n => Sys2Proof.Machine.execLoopResume m n s
  | .loopIreset m n => Sys2Proof.Machine.execLoopIreset m n s
  | .stepGo m k => Sys2Proof.Machine.execStepGo m k s
  | .stepStop m k => Sys2Proof.Machine.execStepStop m k s
  | .stepHalt m k => Sys2Proof.Machine.execStepHalt m k s
  | .stepClrstall m k => Sys2Proof.Machine.execStepClrstall m k s
  | .stepTargetWrite m k v => Sys2Proof.Machine.execStepTargetWrite m k v s
  | .stepSegmentBoundary k => Sys2Proof.Machine.execStepSegmentBoundary k s
  | .stepZcwSample k volt => Sys2Proof.Machine.execStepZcwSample k volt s
  | .stepStandstill k => Sys2Proof.Machine.execStepStandstill k s
  | .clockFailure cause => Sys2Proof.Machine.execClockFailure cause s
  | .clockMonitorWindow src dev => Sys2Proof.Machine.execClockMonitorWindow src dev s
  | .clockRestoreCheck ppm => Sys2Proof.Machine.execClockRestoreCheck ppm s
  | .clockRestoreRequest m => Sys2Proof.Machine.execClockRestoreRequest m s
  | .rcOscTrim => Sys2Proof.Machine.execRcOscTrim s
  | .sillCrystalLoss => Sys2Proof.Machine.execSillCrystalLoss s
  | .sillCrystalReturn => Sys2Proof.Machine.execSillCrystalReturn s
  | .engineBinWrite m bin => Sys2Proof.Machine.execEngineBinWrite m bin s
  | .powerRequestRun m => Sys2Proof.Machine.execPowerRequestRun m s
  | .powerRequestDoze m => Sys2Proof.Machine.execPowerRequestDoze m s
  | .powerRequestNap m => Sys2Proof.Machine.execPowerRequestNap m s
  | .powerRequestHibernate m => Sys2Proof.Machine.execPowerRequestHibernate m s
  | .napDrainExpiry => Sys2Proof.Machine.execNapDrainExpiry s
  | .powerTransitionDone => Sys2Proof.Machine.execPowerTransitionDone s
  | .wake sel => Sys2Proof.Machine.execWake sel s
  | .napExitLocked => Sys2Proof.Machine.execNapExitLocked s
  | .rtcAlarm => Sys2Proof.Machine.execRtcAlarm s
  | .rtcAlarmArm m => Sys2Proof.Machine.execRtcAlarmArm m s
  | .hostSpiSelect => Sys2Proof.Machine.execHostSpiSelect s
  | .supplyWarning rail past => Sys2Proof.Machine.execSupplyWarning rail past s
  | .ageMeasurement sites => Sys2Proof.Machine.execAgeMeasurement sites s
  | .plannerTick => Sys2Proof.Machine.execPlannerTick s
  | .plannerRun x => Sys2Proof.Machine.execPlannerRun x s
  | .avsReadback ack => Sys2Proof.Machine.execAvsReadback ack s
  | .journalEntryProcess => Sys2Proof.Machine.execJournalEntryProcess s
  | .journalRowWriteDone => Sys2Proof.Machine.execJournalRowWriteDone s
  | .coalesceRewrite row => Sys2Proof.Machine.execCoalesceRewrite row s
  | .coalesceWindowClose row => Sys2Proof.Machine.execCoalesceWindowClose row s
  | .summaryRecord => Sys2Proof.Machine.execSummaryRecord s
  | .journalFormat m => Sys2Proof.Machine.execJournalFormat m s
  | .formatDone => Sys2Proof.Machine.execFormatDone s
  | .alarmAck m v => Sys2Proof.Machine.execAlarmAck m v s
  | .pushAck m v => Sys2Proof.Machine.execPushAck m v s
  | .journalWindowSubmit m row v => Sys2Proof.Machine.execJournalWindowSubmit m row v s
  | .protectedRowWrite row v => Sys2Proof.Machine.execProtectedRowWrite row v s
  | .journalWindowRead m row idx => Sys2Proof.Machine.execJournalWindowRead m row idx s
  | .pmcycRead m n => Sys2Proof.Machine.execPmcycRead m n s
  | .slPllLock n => Sys2Proof.Machine.execSlPllLock n s
  | .slWakeStuck n => Sys2Proof.Machine.execSlWakeStuck n s
  | .slWakeQuarantineEnd n => Sys2Proof.Machine.execSlWakeQuarantineEnd n s
  | .lpiRxExit p => Sys2Proof.Machine.execLpiRxExit p s
  | .performanceCounterWrap n k => Sys2Proof.Machine.execPerformanceCounterWrap n k s
  | .pgPinEdge g x level => Sys2Proof.Machine.execPgPinEdge g x level s
  | .pwrFailNTrigger => Sys2Proof.Machine.execPwrFailNTrigger s

end Sys2Proof.Machine
end

