-- ==== Sys2Proof/Machine/Tick.lean ====
section
/-!
DEFINITION. Time passing: what one tick of the part's clocks does whatever is commanded (log 4).
-/

namespace Sys2Proof.Machine

/-- The length of a tick in units of 50 ps: one time-base cycle (R308), one cycle of the RC oscillator after a clock failure (R468), one
of the main source in NAP (R475). -/
def Dev.tickLen (d : Dev) : Nat := if d.f PWR_STAT_STATE = 2 then 800 else if d.b CLK_STAT_RCACT then 200 else 16

/-- One tick: the time base and the domain clocks advance, the engines' cycles are counted (R120, R121), and words leave the RX queues for
frame memory (R418). -/
def Dev.tick (d : Dev) : Dev :=
  let u := d.tickLen
  let cyc := (List.range 32).map (fun n => d.engCycles n u)
  let d := ((List.range 32).zip cyc).foldl (fun d e => d.engTick e.1 e.2) (d.clocksRun u)
  (List.range 8).foldl (fun d g => (List.range 4).foldl (fun d k => d.pgMove g k 40) d) d

end Sys2Proof.Machine
end

