-- ==== Sys2Proof/Machine/Step.lean ====
section
/-!
DEFINITION. One step: the command at the front of the queue, or time passing on an empty queue.
-/

namespace Sys2Proof.Machine

/-- Take the command at the front of the queue and run it on the state with the queue's rest; on an empty queue a tick passes (log 4).
-/
def step (s : State) : Host.Outcome State Fault Refusal :=
  match s.pending with
  | [] => act s s.dev.tick
  | i :: rest => exec i { s with pending := rest }

/-- The command that a word spells is put at the front of the queue; no row of the table has bits, so no word spells one. -/
def State.withFetchWord (s : State) (nbits w : Nat) : State :=
  match decodeTableWord nbits w with
  | some i => { s with pending := i :: s.pending }
  | none => s

end Sys2Proof.Machine
end

