-- ==== Sys2Proof/Safety.lean ====
section
/-!
DEFINITION. The terms in which claims are stated: a command that runs, the rights a register access needs, what a step may never
undo.
-/

namespace Sys2Proof.Machine

/-! ### Commands that run -/

/-- Command `i` answers a next state in state `s`, and `p` holds of it. -/
def Runs (i : Instr) (s : State) (p : State → Prop) : Prop := ∃ t, exec i s = .next t ∧ p t

/-- The one answer the command gave: to master `m`, data `v`, or a bus error. -/
def answers (t : State) (m : Master) (v : Nat) (err : Bool) : Prop := t.dev.resp = [⟨m.num, BitVec.ofNat 64 v, err⟩]

/-! ### Rights (R5, R15, R527, R528) -/

/-- Master `m` may read register instance (i, j). -/
def Dev.mayGet (d : Dev) (m : Master) (r : Reg) (i j : Nat) : Bool :=
  d.mayRead m (r.addr i j) && !(d.srPage (r.addr i j) && !d.secure m) && !(r.allSr && !d.secure m)

/-- Master `m` may write register instance (i, j). -/
def Dev.mayPut (d : Dev) (m : Master) (r : Reg) (i j : Nat) : Bool :=
  d.mayGet m r i j && d.mayWrite m r (r.addr i j)

/-- Master `m` may write register instance (i, j), and no bit of `v` meets SR or LK. -/
def Dev.accepts (d : Dev) (m : Master) (r : Reg) (i j : Nat) (v : Word) : Bool :=
  d.mayPut m r i j && d.srLk m r (d.rd r i j) v == (v, false)

/-- The registers whose write does more than change their bits, or depends on more than rights (chapters 01 to 16). -/
def actingRegs : List Reg :=
  [SYS_CMT_ARM, SYS_CMT_TLO, SYS_CMT_THI, CLK_CTL, CLK_ENGPLL, PWR_CTL, PWR_COMBPWR, PWR_LMPWR, PWR_RTCALMCTL, SEC_OTP_REVOKE,
    BOOT_CTL, BOOT_FCMD, BOOT_HCTL, MBX_TX, MBX_RING, MBX_PEG, MBX_PEGFREE, EVT_PEND, EVT_MASK, EVT_RAISE, EVT_SUB, EVT_MAP,
    DMA_CTL, DMA_GO, DMA_SRC_LO, DMA_SRC_HI, DMA_DST_LO, DMA_DST_HI, DMA_LEN, DMA_TRIDX, DMA_RRIDX, MEM_BANKOWN, MEM_COLL,
    ENG_CTL, ENG_TAGCTL]
  ++ [ETH_CTL, ETH_ANADV, ETH_EEE, ETH_MMCTL, ETH_MDIOCMD, ETH_MDIODATA, ETH_MDIOCFG, SWC_FDBCMD, SWC_RED_CFG, SWC_SVTRIDX, SWC_SVRRIDX,
    TIME_CTL, TIME_SETCMD, TIME_RATE, TIME_RTCTRIM, TIME_TGTCTL, DC_CFG, DC_ADJCTL]
  ++ [MDB_CTL, MDB_NBT, MDB_DBT, MDB_TDC, SLN_CTL, SLN_CHAR, SLN_RATE, BRG_CTL, BRG_CFG, BRG_HOP, PIO_CTL, PIO_FLAGS,
    PIO_SM_QCFG, PIO_SM_TXQ, PIO_SM_TM_LO, SENT_CTL, SENT_CAP, LOOP_CTL, STP_CTL, STP_TARGET, STP_POS, JRN_CTL, JRN_PUSHACK,
    JRN_ALMACK, LOOP_KP, LOOP_KI, LOOP_KD, LOOP_ALPHA, LOOP_BIAS, LOOP_OMIN, LOOP_OMAX, LOOP_NBP, LOOP_BP0, LOOP_BP1]

/-- A write of the register changes its bits as their access types say, and nothing else (R5). -/
def Reg.plain (r : Reg) : Bool := !r.staged && !actingRegs.any (fun x => r.is x)

/-! ### Accesses of memory that nothing stops (chapter 06) -/

/-- The memory of `w` bytes at `a` is on, reloads nothing, and holds no poison and no failing parity there (R204, R214, R216). -/
def Dev.memFree (d : Dev) (a w : Nat) : Bool :=
  d.onAt a && !d.reloads.any (fun r => r.block == a / 4096) && !d.hitsPoison a w && (d.hitsParity a w).isEmpty

/-- Master `m` may access `w` bytes of comb memory at `a` now (R103, R106, R201). -/
def Dev.combFree (d : Dev) (m : Master) (a w : Nat) (write : Bool) : Bool :=
  regionOf a == .comb && a % w == 0 && d.ownerIncl (d.f MEM_BANKOWN_OWNER (combBank a)) m && d.memFree a w
    && !d.combWaits m a write

/-! ### A Septari instruction that executes and retires (Table 4-10) -/

/-- The protection unit lets core `c` access the byte at `a` (`kind` 0 read, 1 write, 2 fetch), with the settings as written and with
those in force (R158, R160). -/
def Dev.mpuFree (d : Dev) (c : Core) (a kind : Nat) : Bool :=
  !isS c || (mpuAllows (d.cpu c).mpuctl (d.cpu c).mpu (d.cpu c).user a kind
    && mpuAllows (d.cpu c).mpuCtl0 (d.cpu c).mpu0 (d.cpu c).user a kind)

/-- No byte of `n` at `a` reloads, is poisoned or fails parity (R214, R216). -/
def Dev.soundAt (d : Dev) (a n : Nat) : Bool :=
  !d.reloads.any (fun r => r.block == a / 4096 || r.block == (a + n - 1) / 4096) && !d.hitsPoison a n && (d.hitsParity a n).isEmpty

/-- Instruction `i` after its prefixes is at the PC of its core, which executes, no interrupt is due, and nothing refuses the
instruction before its operands are looked at: prefixes, encoding, profile, fetch region, protection, privilege. -/
def Dev.goes (d : Dev) (x : Sx) (i : Ins) : Bool :=
  let a := (d.cpu x.core).pc.toNat
  d.execs x.core && (d.irqDue x.core).isNone && (decodeFault x i).2.isNone && fetchOk x.core a (insLen x i)
    && (List.range (insLen x i)).all (fun k => d.mpuFree x.core (a + k) 2) && d.soundAt a (insLen x i)
    && !(i.priv && isS x.core && (d.cpu x.core).user) && (!hasPfx x .nodry || i.stores)

/-- The core executes, no interrupt is due, and the bytes examined of the instruction are fetched without a fault (R134, R156, R158). -/
def Dev.fetches (d : Dev) (x : Sx) (i : Ins) : Bool :=
  let n := (decodeFault x i).1
  let pc := (d.cpu x.core).pc
  d.execs x.core && (d.irqDue x.core).isNone && fetchOk x.core pc.toNat n
    && (List.range n).all (fun k => d.mpuFree x.core (pc.toNat + k) 2) && d.soundAt pc.toNat n

/-- The registers `k` are what exception entry makes of the registers `c` (R153): on a supervisor (`sv`) the status goes to PPRIV and PIE,
the core is privileged with interrupts off. -/
def Entered (c : Cpu) (sv : Bool) (vec det : Nat) (addr epc : Word) (k : Cpu) : Prop :=
  k.pc = c.vbase + BitVec.ofNat 32 (16 * vec) ∧ k.epc = epc ∧ k.efl = c.fl ∧ k.ecause = BitVec.ofNat 32 (vec + 256 * det) ∧
  k.eaddr = addr ∧ k.fl = c.fl &&& ~~~0x40 ∧ k.g = c.g ∧ k.vbase = c.vbase ∧ k.estat.getLsbD 0 = true ∧
  (sv = true → k.estat.getLsbD 1 = c.psr.getLsbD 0 ∧ k.estat.getLsbD 2 = c.psr.getLsbD 1 ∧
    k.psr.getLsbD 0 = true ∧ k.psr.getLsbD 1 = false)

/-- Nothing comes at the boundary before the instruction at `next`: no trace, no NMI held pending, no fetch fault (R129, R134, R156). -/
def Dev.calm (d : Dev) (x : Sx) (next : Word) : Bool :=
  !((d.cpu x.core).flag flT && !d.dryOn x.core) && !(x.core == .sv0 && d.nmip && !d.exl .sv0) && fetchable x.core next.toNat

/-- The address after an instruction of `len` bytes and its prefixes. -/
def Dev.after (d : Dev) (x : Sx) (len : Nat) : Word := (d.cpu x.core).pc + BitVec.ofNat 32 (x.pfx.length + len)

/-! ### The encodings of the Septari instructions (Tables 4-5, 4-8, 5-4 to 5-18) -/

/-- The encoding of a shift's form. -/
def shiftIns : ShiftOp → Ins
  | .reg _ _ => { len := 2 }
  | .imm _ rb _ => { len := 3, undef := mustZero rb }

/-- What a command that is a Septari instruction is, apart from its operation: its core and prefixes, and of its encoding the length, the
prefixes accepted, the fields that must be 0, the profile and the privilege it needs, whether it stores. -/
def sepOf : Instr → Option (Sx × Ins)
  | .reservedOpcode x two => some (x, { len := if two then 2 else 1, undef := some 1 })
  | .nop x | .brk x | .clc x | .stc x | .ret x => some (x, { len := 1 })
  | .add x p => some (x, aluIns .add p)
  | .adc x p => some (x, aluIns .adc p)
  | .sub x p => some (x, aluIns .sub p)
  | .sbb x p => some (x, aluIns .sbb p)
  | .and x p => some (x, aluIns .and p)
  | .or x p => some (x, aluIns .or p)
  | .xor x p => some (x, aluIns .xor p)
  | .cmp x p => some (x, aluIns .cmp p)
  | .test x p => some (x, aluIns .test p)
  | .mov x (.rr _ _) => some (x, { len := 2, acc := [.wide] })
  | .mov x (.ri8 _ rb _) => some (x, { len := 3, acc := [.wide], undef := mustZero rb })
  | .mov x (.ri32 _ rb _) => some (x, { len := 6, acc := [.wide], undef := mustZero rb })
  | .ld x _ _ p => some (x, { len := 2 + p.len, acc := [.lane, .wide] })
  | .st x _ _ p => some (x, { len := 2 + p.len, acc := [.lane, .wide], stores := true })
  | .sti x ra _ p _ => some (x, { len := 7 + p.len, acc := [.lane, .wide], undef := mustZero ra, stores := true })
  | .lea x _ _ _ => some (x, { len := 6 })
  | .ldb x _ _ _ | .ldbs x _ _ _ | .ldh x _ _ _ | .ldhs x _ _ _ => some (x, { len := 3, acc := [.lane] })
  | .stb x _ _ _ | .sth x _ _ _ => some (x, { len := 3, acc := [.lane], stores := true })
  | .xchg x (.reg _ _) => some (x, { len := 2, acc := [.wide] })
  | .xchg x (.mem _ _ _) => some (x, { len := 3, acc := [.wide, .atom], stores := true })
  | .shl x p | .shr x p | .sar x p | .rol x p => some (x, shiftIns p)
  | .bcc x _ p => some (x, { len := 1 + p.len })
  | .neg x _ rb | .not x _ rb | .inc x _ rb | .dec x _ rb | .movfl x _ rb | .movtofl x _ rb | .sextb x _ rb | .sexth x _ rb
  | .bswap x _ rb | .pop x _ rb => some (x, oneIns 2 rb)
  | .mul x _ _ | .mulh x _ _ | .divu x _ _ | .remu x _ _ => some (x, { len := 2 })
  | .call x (.rel _) => some (x, { len := 5, stores := true })
  | .call x (.reg ra _) => some (x, { len := 2, undef := mustZero ra, stores := true })
  | .jmp x ra _ => some (x, { len := 2, undef := mustZero ra })
  | .push x _ rb => some (x, { len := 2, undef := mustZero rb, stores := true })
  | .pushm x _ => some (x, { len := 3, stores := true })
  | .popm x _ => some (x, { len := 3 })
  | .bset x v | .bclr x v | .bcpl x v | .btst x v => some (x, { len := 3, undef := bitImm v })
  | .bmov x v | .band x v | .bor x v | .bxor x v | .bandn x v => some (x, { len := 5, undef := bitImm2 v })
  | .bld x _ rb v | .bst x _ rb v => some (x, { len := 4, undef := if rb = 0 then bitImm v else some 2 })
  | .bldi x _ _ | .bsti x _ _ => some (x, { len := 2 })
  | .brb x _ v | .brnb x _ v | .brbc x _ v => some (x, { len := 4, undef := bitImm v })
  | .movsb x | .movsw x | .movsd x => some (x, { len := 2, acc := [.lane, .rep], stores := true })
  | .cmpsb x | .cmpsw x => some (x, { len := 2, acc := [.lane, .rep, .repz] })
  | .scasb x _ rb => some (x, { len := 3, acc := [.lane, .rep, .repz], undef := mustZero rb })
  | .stosb x _ rb | .stosw x _ rb => some (x, { len := 3, acc := [.lane, .rep], undef := mustZero rb, stores := true })
  | .bbmov x | .bbclr x | .bbset x => some (x, { len := 2, acc := [.rep] })
  | .bbcmp x => some (x, { len := 2, acc := [.rep, .repz] })
  | .bbcnt x ra rb => some (x, { len := 3, acc := [.rep], undef := mustZero rb, g14 := ra == 14 })
  | .bbscan x ra rb => some (x, { len := 3, acc := [.rep, .repz], undef := mustZero rb, g14 := ra == 14 })
  | .daa x _ rb | .das x _ rb => some (x, oneIns 3 rb)
  | .bcdadc x _ _ _ | .bcdsbc x _ _ _ | .bcd2bin x _ _ _ | .bin2bcd x _ _ _ => some (x, { len := 4 })
  | .wqnext x => some (x, engIns 1)
  | .dfendPass x hi | .dfendFail x hi => some (x, engIns 3 (dfendUndef hi))
  | .txarm x _ _ _ _ hi | .txarmRelay x _ _ hi => some (x, engIns 5 (if hi = 0 then none else some 2))
  | .txmem x _ _ low _ _ hi => some (x, engIns 5 (if hi = 0 && low = 0 then none else some 2))
  | .evraise x v => some (x, engIns 4 (if v.toNat < 256 then none else some 2))
  | .jwrite x ra _ => some (x, engIns 3 (mustZero ra))
  | .fplen x _ rb => some (x, engIns 3 (mustZero rb))
  | .eret x => some (x, { len := 2, priv := true })
  | .movcRead x _ rb cr => some (x, movcIns x.core rb cr false)
  | .movcWrite x _ rb cr => some (x, movcIns x.core rb cr true)
  | .svc x _ => some (x, { len := 3, onE := false })
  | .wfi x | .intoff x | .inton x => some (x, svIns)
  | .fence x => some (x, { len := 2 })
  | _ => none

/-- Instruction `i` goes: it meets nothing before its operands are looked at (Table 4-10). -/
def State.goes (s : State) (i : Instr) : Bool :=
  match sepOf i with
  | some (x, l) => s.dev.goes x l
  | none => false

/-- The address after instruction `i`. -/
def State.past (s : State) (i : Instr) : Word :=
  match sepOf i with
  | some (x, l) => s.dev.after x l.len
  | none => 0

/-- After instruction `i`, the next one is executed: no exception comes at its boundary. -/
def State.falls (s : State) (i : Instr) : Bool :=
  match sepOf i with
  | some (x, _) => s.dev.calm x (s.past i)
  | none => false

/-- State `t` is `d` once the instruction has retired with the PC at `next`: apart from `d`'s contents only the counts, the tag and
the events of the retirement differ. -/
def Leaves (d : Dev) (x : Sx) (next : Word) (t : State) : Prop :=
  t.dev.cpu x.core = { d.cpu x.core with pc := next } ∧ (∀ c, c ≠ x.core → t.dev.cpu c = d.cpu c) ∧
  t.dev.mem = d.mem ∧ t.dev.frames = d.frames ∧ t.dev.sv0.run = d.sv0.run ∧ t.dev.sv1.run = d.sv1.run ∧
  (∀ n, (t.dev.e n).run = (d.e n).run ∧ (t.dev.e n).hand = (d.e n).hand ∧ (t.dev.e n).ck = (d.e n).ck ∧
    (t.dev.e n).cbuf = (d.e n).cbuf ∧ (t.dev.e n).rset = (d.e n).rset ∧ (t.dev.e n).slots = (d.e n).slots ∧
    (t.dev.e n).wq = (d.e n).wq) ∧
  ∀ r i j, (r.addr i j < 0x40050000 ∨ 0x40060000 ≤ r.addr i j) → (r.addr i j < 0x40100000 ∨ 0x40120000 ≤ r.addr i j) →
    t.dev.rd r i j = d.rd r i j

/-- A memory operand of `w` bytes in the core's own data or tightly coupled memory, aligned, that nothing stops: no prefix sends it
elsewhere, an engine is outside dry-fit (R92, R133, R158). -/
def Dev.ownFree (d : Dev) (x : Sx) (a w : Nat) (write : Bool) : Bool :=
  a % w == 0 && !hasPfx x .lane && !d.dryOn x.core && d.memFree a w && d.mpuFree x.core a write.toNat
    && (match x.core with
      | .sv0 => regionOf a == .tcm0
      | .sv1 => regionOf a == .tcm1
      | .ce n => regionOf a == .data n.val)

/-- A core's registers once an instruction has written register `k`, a pair when `wide`, and the flags it names. -/
def Cpu.wrote (c : Cpu) (wide : Bool) (k v : Nat) (f : Flags) : Cpu :=
  ((if wide then (c.setGr k (BitVec.ofNat 32 v)).setGr (k + 1) (BitVec.ofNat 32 (v / 2 ^ 32)) else c.setGr k (BitVec.ofNat 32 v))).flags f

/-- The registers of an operand that may be a pair are even (R126). -/
def evenIf (wide : Bool) (ks : List (BitVec 4)) : Bool := !wide || ks.all (fun k => k.toNat % 2 == 0)

/-! ### What a drain writes (R90, R103) -/

/-- The byte at `b` after buffer entry `e` has been written, `old` before it: a word's byte where its mask covers `b`. -/
def Entry.byteAt (e : Entry) (b : Nat) (old : Byte) : Byte :=
  match e with
  | .word a v m => if a ≤ b && b < a + 8 && m.getLsbD (b - a) then BitVec.ofNat 8 (v.toNat / 256 ^ (b - a)) else old
  | _ => old

/-! ### What no step undoes -/

/-- The fuses `o'` come of `o` by programming alone (Table 2-5): nothing revoked is allowed again, no floor sinks, the roots, the
device secret and the lifecycle stay. -/
def FusesKept (o o' : Otp) : Prop :=
  o'.root0 = o.root0 ∧ o'.root1 = o.root1 ∧ o'.root2 = o.root2 ∧ o'.root3 = o.root3 ∧ o'.secret = o.secret
    ∧ o'.lifecycle = o.lifecycle ∧ (∀ k : Nat, o.revoked.getLsbD k = true → o'.revoked.getLsbD k = true)
    ∧ o.imgFloor ≤ o'.imgFloor ∧ o.loadFloor ≤ o'.loadFloor

/-- Engine `n` has dropped its item, as from checkpoint `c` of the engine `g` before (R187). -/
def Dropped (g : Eng) (c : Ckpt) (t : Dev) (n : Nat) : Prop :=
  (t.e n).hand = none ∧ (t.e n).ck = none ∧ (t.e n).cbuf = [] ∧ (t.e n).rset = [] ∧ (t.e n).run = .run ∧ (t.e n).dry = false ∧
  (t.e n).cpu.pc = c.wq ∧ (t.e n).cpu.g = c.g ∧ (t.e n).wq = g.wq

/-! ### What a command leaves as it was -/

/-- From `d` to `d'` no register changes but those of the blocks `bs`. -/
def RegsKept (bs : List Blk) (d d' : Dev) : Prop :=
  ∀ r i j, (∀ b ∈ bs, blkOf (r.addr i j) ≠ some b) → d'.rd r i j = d.rd r i j

/-- From `d` to `d'` nothing changes but registers at the addresses of `S` and the answers given; no event is raised. -/
def Quiet (S : List Nat) (d d' : Dev) : Prop :=
  ∃ regs resp, d' = { d with regs := regs, resp := resp } ∧ ∀ (x : Word) (a : Nat), a ∉ S → Tab.look regs x a = Tab.look d.regs x a

/-- From `d` to `d'` nothing changes but registers at the addresses of `S`, the answers given, and what raising events changes: the
registers of the EVT block, the journal queue and the host messages sent. -/
def Touches (S : List Nat) (d d' : Dev) : Prop :=
  ∃ regs resp jq msix, d' = { d with regs := regs, resp := resp, jq := jq, msix := msix } ∧
    ∀ (x : Word) (a : Nat), a ∉ S → (a < 0x40050000 ∨ 0x40060000 ≤ a) → Tab.look regs x a = Tab.look d.regs x a

end Sys2Proof.Machine
end

