-- ==== Sys2Proof/WellFormed.lean ====
section
/-!
DEFINITION. The commands that can occur: relations between a command's operands that their types do not say. The meanings are total
and do not ask for them.
-/

namespace Sys2Proof

/-- No value occurs twice. -/
def distinct {α : Type} [DecidableEq α] : List α → Bool
  | [] => true
  | x :: l => !l.contains x && distinct l

/-- What a request writes fits its width. -/
def Req.wf (q : Req) : Bool :=
  match q.wr with
  | none => true
  | some v => decide (v.toNat < 256 ^ q.w.bytes)

/-- A frame of a multi-drop bus (Table 11-3): an 11-bit identifier without IDE; no remote frame in the flexible format; BRS and ESI only
there; no more data than its DLC says. -/
def MbFrame.wf (f : MbFrame) : Bool :=
  (f.ide || decide (f.id.toNat < 2048)) && !(f.rtr && f.fdf) && (f.fdf || (!f.brs && !f.esi)) && decide (f.data.length ≤ 64)
    && (f.fdf || decide (f.data.length ≤ 8))

/-- What PCIe memory holds names no address twice. -/
def pcieWf (p : Option (List (BitVec 64 × Byte))) : Bool :=
  match p with
  | none => true
  | some l => distinct (l.map (·.1))

/-- The operands of a command belong together. -/
def Instr.wf : Instr → Bool
  | .systemAccess l => distinct (l.map (fun q => q.m.num)) && l.all Req.wf
  | .dmaBeat _ p => pcieWf p
  | .dmaDescriptor _ _ p => pcieWf p
  | .ethRxFrame _ b _ _ => decide (1 ≤ b.length)
  | .mbRxFrame _ f _ => f.wf
  | .mbWakeFrame _ f _ => f.wf
  | .ringCopyReceive _ _ _ _ b => decide (8 ≤ b.length)
  | .slRxFrame _ cs _ => decide (1 ≤ cs.length)
  | .afeResult _ codes => [1, 2, 4, 8, 16, 32, 64, 128].contains codes.length
  | .ageMeasurement sites => decide (sites.length = 8)
  | .plannerRun x => decide (x.rings.length = 8)
  | .integrityReloadAttempt diff => distinct (diff.map (·.1))
  | _ => true

end Sys2Proof
end

