-- ==== Sys2Proof/Certificates/Slice0/Obligations.lean ====
section
/-!
DEFINITION. The statements for the provers, family by family. `Runs i s p`: command `i` answers a next state in `s`, and `p` holds of it.
-/

section

open Sys2Proof Sys2Proof.Machine

/-! ### The queue, the fuses, reset -/

/-- A step runs the command at the front of the queue on the state with the queue's rest (the queue is the model's form of what comes to
the part, log 4); with no command waiting it lets time pass by one tick and takes nothing. -/
def Obligations.StepRunsTheFrontCommand : Prop :=
  (∀ (c : Instr) (s : State), step { s with pending := c :: s.pending } = exec c s) ∧
  (∀ s : State, s.pending = [] → s.dev.blow = [] → step s = .next { s with dev := s.dev.tick })

/-- Every command answers a next state in every state, whatever its operands (no command of the part stops it: R15, R155, R526 end a
refused access or a second exception inside the part). It leaves the queue's rest and no fuse half programmed (the list `blow` is the
model's own), and every fuse as it was or programmed further. -/
def Obligations.EveryCommandAnswersANextState : Prop :=
  ∀ (c : Instr) (s : State),
    Runs c s (fun t => t.pending = s.pending ∧ t.dev.blow = [] ∧ FusesKept s.otp t.otp)

/-- The fuses only ever go forward, over any step from any state: root slots, device secret and lifecycle stay, a revoked slot stays
revoked, neither version floor sinks (Table 2-5: OTP bits are programmed once). In a state whose fuses come of `o` by programming alone and that has
no fuse half programmed, both hold after the step. -/
def Obligations.NoStepUndoesAFuse : Prop :=
  ∀ (o : Otp) (s : State), s.dev.blow = [] → FusesKept o s.otp →
    ∃ t, step s = .next t ∧ t.dev.blow = [] ∧ FusesKept o t.otp

/-- At State.reset no fuse is programmed (log 30), no command waits, memory is in its canonical form with every byte 0, in the flash
windows 0xFF (log 3), every register but BOOT_ARB, EVT_PEND2 and TIME_STAT reads its reset value (R8), the
engines are held in reset, and the boot ROM is at its first step. -/
def Obligations.ResetHoldsTheResetValues : Prop :=
  let d := State.reset.dev
  State.reset.pending = [] ∧ d.blow = [] ∧ d.memWf = true ∧ (∀ a, d.byte a = memDefault a) ∧
  (∀ r i j, r.addr i j ≠ BOOT_ARB.base → r.addr i j ≠ EVT_PEND.addr 2 0 → r.addr i j ≠ TIME_STAT.base → d.rd r i j = r.rst i j) ∧
  (∀ n, (d.e n).run = .reset) ∧ d.sv0.run = .reset ∧ d.sv1.run = .reset ∧ d.boot.phase = .plumb ∧
  d.f BOOT_ARB_LIFECYCLE = 1 ∧ d.b TIME_STAT_STEPPED = true ∧ d.evPending 84 = true ∧ FusesKept {} State.reset.otp

/-! ### Accesses (chapters 01 and 06) -/

/-- R13, R201: an aligned access of comb memory that nothing stops reads the bytes there, or writes its own and no other byte; a master
that the bank's owner code does not include gets a bus error, latched in MEM_ACCERR with its cause, and changes nothing else; of two
reads of one bank in one cycle the lower master number is served, the other waits. SYSTEM_ACCESS. -/
def Obligations.SystemAccessServesCombMemory : Prop :=
  ∀ (s : State) (m : Master) (a : Word) (w : Width), s.dev.waiting = [] → s.dev.blow = [] →
    (s.dev.combFree m a.toNat w.bytes false = true →
      Runs (.systemAccess [⟨m, a, w, none⟩]) s (fun t =>
        t = { s with dev := { s.dev with resp := [⟨m.num, BitVec.ofNat 64 (s.dev.bytesNat a.toNat w.bytes), false⟩] } })) ∧
    (∀ v : Long, s.dev.combFree m a.toNat w.bytes true = true →
      Runs (.systemAccess [⟨m, a, w, some v⟩]) s (fun t =>
        t.dev.bytesNat a.toNat w.bytes = v.toNat % 256 ^ w.bytes ∧
        (∀ b, b < a.toNat ∨ a.toNat + w.bytes ≤ b → t.dev.byte b = s.dev.byte b) ∧ RegsKept [.eng, .evt] s.dev t.dev ∧
        answers t m 0 false)) ∧
    (∀ q : Option Long, regionOf a.toNat = .comb → a.toNat % w.bytes = 0 → s.dev.combWaits m a.toNat q.isSome = false →
      s.dev.ownerIncl (s.dev.f MEM_BANKOWN_OWNER (combBank a.toNat)) m = false → s.dev.b MEM_ACCERR_VALID = false →
      Runs (.systemAccess [⟨m, a, w, q⟩]) s (fun t =>
        t.dev.rd MEM_ACCERR = BitVec.ofNat 32 (m.num + 256 + q.isSome.toNat * 1024 + 0x80000000) ∧
        t.dev.rd MEM_ACCERR_ADDR = a ∧ t.dev.evPending 16 = true ∧ (∀ b, t.dev.byte b = s.dev.byte b) ∧
        Touches [MEM_ACCERR.base, MEM_ACCERR_ADDR.base] s.dev t.dev ∧ answers t m 0 true)) ∧
    (∀ (m' : Master) (a' : Word) (w' : Width), m.num < m'.num → s.dev.combFree m a.toNat w.bytes false = true →
      regionOf a'.toNat = .comb → combBank a'.toNat = combBank a.toNat →
      Runs (.systemAccess [⟨m', a', w', none⟩, ⟨m, a, w, none⟩]) s (fun t =>
        t = { s with dev := { s.dev with
          resp := [⟨m.num, BitVec.ofNat 64 (s.dev.bytesNat a.toNat w.bytes), false⟩]
          waiting := [⟨⟨m', a', w', none⟩, 1⟩] } }))

/-! ### Registers (chapters 00 and 01) -/

/-- R5, R7: an accepted write of a plain register changes its RW and W1C bits as Table 0-3 says and nothing else; a refused write, and a
write where no register stands (R526), changes nothing and answers a bus error. REGISTER_WRITE.
R20: a write of a staged register updates the staged copy; the value in force stays. STAGED_WRITE (PIO_PROG, which the program
store takes at once while its group is held, is PIO_PROGRAM_WRITE's). -/
def Obligations.RegisterWritesAndStagedWrites : Prop :=
  (∀ (s : State) (m : Master) (a v : Word), regionOf a.toNat = .peri → a.toNat % 4 = 0 → isCtx a.toNat = false →
    isMsix a.toNat = false → s.dev.blow = [] →
    (∀ (r : Reg) (i j : Nat), findReg a.toNat = some (r, i, j) → r.addr i j = a.toNat → r.plain = true →
      s.dev.accepts m r i j v = true →
      Runs (.registerWrite m a v) s (fun t =>
        t.dev.rd r i j = ((s.dev.rd r i j &&& ~~~r.accBits .rw) ||| (v &&& r.accBits .rw)) &&& ~~~(v &&& r.accBits .w1c) ∧
        (∀ (r' : Reg) (i' j' : Nat), r'.addr i' j' ≠ a.toNat → t.dev.rd r' i' j' = s.dev.rd r' i' j') ∧
        (∀ b, t.dev.byte b = s.dev.byte b) ∧ answers t m 0 false)) ∧
    (∀ (r : Reg) (i j : Nat), findReg a.toNat = some (r, i, j) → s.dev.mayPut m r i j = false → r.addr i j = a.toNat →
      Runs (.registerWrite m a v) s (fun t => t = { s with dev := { s.dev with resp := [⟨m.num, 0, true⟩] } })) ∧
    (findReg a.toNat = none →
      Runs (.registerWrite m a v) s (fun t => t = { s with dev := { s.dev with resp := [⟨m.num, 0, true⟩] } }))) ∧
  (∀ (s : State) (m : Master) (a v : Word) (r : Reg) (i j : Nat), regionOf a.toNat = .peri → a.toNat % 4 = 0 →
    isCtx a.toNat = false → isMsix a.toNat = false → findReg a.toNat = some (r, i, j) → r.addr i j = a.toNat →
    r.staged = true → r.is PIO_PROG = false → s.dev.accepts m r i j v = true → s.dev.blow = [] →
    Runs (.stagedWrite m a v) s (fun t =>
      t.dev.rdStaged r i j = v &&& r.defined ∧
      (∀ (r' : Reg) (i' j' : Nat), r'.addr i' j' ≠ a.toNat → t.dev.rdStaged r' i' j' = s.dev.rdStaged r' i' j') ∧
      (∀ (r' : Reg) (i' j' : Nat), t.dev.rd r' i' j' = s.dev.rd r' i' j') ∧ answers t m 0 false))

/-! ### Boundary commit (chapter 01) -/

/-- R24, R25, R30, R32, R33, R34: a next-boundary arm is added to its instance, a timed arm with T not past, outside the freeze window, on
an instance without one while the chip holds fewer than 32 becomes pending at the banked T, a cancellation empties both; a timed arm whose T
is past counts as missed with cause 0x1 and raises EV001; OP = 0x3, an INST above 80 and an arm without write access are latched in
SYS_CMT_ERR with their codes and raise EV000. ARM_NEXT_BOUNDARY, ARM_TIMED, CANCEL_COMMITS, ARM_INVALID_OP. -/
def Obligations.ArmsArmCancelOrAreRejected : Prop :=
  ∀ (s : State) (m : Master) (inst : BitVec 7), m ≠ .stn → s.dev.blow = [] →
    let k := inst.toNat
    let c := s.dev.inst k
    let t0 := s.dev.bankT m.num
    let win := match if s.dev.instIdle k then none else s.dev.nextBoundary k t0 with
      | some b => b < s.dev.stamp + s.dev.freezeWin
      | none => False
    (k ≤ 80 → s.dev.mayArm m k = true →
      Runs (.armNextBoundary m inst) s (fun t => t.dev.inst k = { c with next := c.next ++ [s.dev.wall] } ∧
        (∀ k', k' ≠ k → t.dev.inst k' = s.dev.inst k') ∧ Quiet [] { s.dev with cmt := t.dev.cmt } t.dev ∧ answers t m 0 false) ∧
      Runs (.cancelCommits m inst) s (fun t => t.dev.inst k = { c with next := [], timed := none } ∧
        (∀ k', k' ≠ k → t.dev.inst k' = s.dev.inst k') ∧ Quiet [] { s.dev with cmt := t.dev.cmt } t.dev ∧ answers t m 0 false) ∧
      (s.dev.stamp ≤ t0 * 20 → ¬win → c.timed = none → s.dev.timedCount < 32 →
        Runs (.armTimed m inst) s (fun t => t.dev.inst k = { c with timed := some (t0, s.dev.wall) } ∧
          (∀ k', k' ≠ k → t.dev.inst k' = s.dev.inst k') ∧ Quiet [] { s.dev with cmt := t.dev.cmt } t.dev ∧ answers t m 0 false)) ∧
      (t0 * 20 < s.dev.stamp →
        Runs (.armTimed m inst) s (fun t => t.dev.inst k = { c with missed := (c.missed + 1) % 256, cause := 1 } ∧
          (∀ k', k' ≠ k → t.dev.inst k' = s.dev.inst k') ∧ t.dev.evPending 1 = true ∧
          Touches [] { s.dev with cmt := t.dev.cmt } t.dev ∧ answers t m 0 false))) ∧
    (∀ i code, (i = .armInvalidOp m inst ∧ code = 4) ∨ (80 < k ∧ code = 4 ∧ (i = .armNextBoundary m inst ∨ i = .armTimed m inst ∨
        i = .cancelCommits m inst)) ∨ (k ≤ 80 ∧ s.dev.mayArm m k = false ∧ code = 1 ∧ (i = .armNextBoundary m inst ∨ i = .armTimed m inst ∨
        i = .cancelCommits m inst)) →
      s.dev.b SYS_CMT_ERR_VALID = false →
      Runs i s (fun t => t.dev.rd SYS_CMT_ERR = BitVec.ofNat 32 (k + m.num * 256 + code * 65536 + 2 ^ 31) ∧ t.dev.evPending 0 = true ∧
        Touches [SYS_CMT_ERR.base] s.dev t.dev ∧ answers t m 0 false))

/-- R19, R23, R24, R28: when a multiple of the station-cycle period has come since the last boundary of a released chip, every staged
register of instance 0 takes the value staged before the freeze window if an arm came before it, and none does if no arm is pending; other
registers keep their values. STATION_CYCLE_BOUNDARY.
R36: on an idle instance a pending next-boundary arm applies at once, and a timed commit applies when the time base has reached T: every
staged register of the instance takes its staged copy, APPLIED counts, the arm is gone; other registers and instances stay.
IDLE_INSTANCE_COMMIT, IDLE_TIMED_COMMIT. -/
def Obligations.BoundariesAndIdleInstancesApplyCommits : Prop :=
  (∀ (s : State) (n : Nat), s.dev.blow = [] → s.dev.boot.released = true → 0 < s.dev.scycNs → (s.dev.inst 0).last < n * s.dev.scycNs →
    n * s.dev.scycNs ≤ s.dev.ns →
    let c := s.dev.inst 0
    (c.timed = none → (∃ a ∈ c.next, a + s.dev.freezeWin ≤ s.dev.wall) →
      Runs .stationCycleBoundary s (fun t =>
        (∀ (r : Reg) (i j : Nat), findReg (r.addr i j) = some (r, i, j) → t.dev.rd r i j = if r.staged = true ∧ r.instOf i = some 0 then
          commitFix (r.addr i j) (s.dev.toCommit r i j (r.addr i j)) else s.dev.rd r i j) ∧
        t.dev.inst 0 = { c with
          next := c.next.filter (fun a => decide (s.dev.wall < a + s.dev.freezeWin))
          applied := (c.applied + 1) % 256
          last := s.dev.ns } ∧ (∀ k, k ≠ 0 → t.dev.inst k = s.dev.inst k) ∧ t.dev.stg = s.dev.stg ∧ t.dev.mem = s.dev.mem ∧
        t.dev.eng = s.dev.eng ∧ t.dev.jq = s.dev.jq)) ∧
    (c.timed = none → c.next = [] →
      Runs .stationCycleBoundary s (fun t => (∀ (r : Reg) (i j : Nat), t.dev.rd r i j = s.dev.rd r i j) ∧
        t.dev.inst 0 = { c with last := s.dev.ns } ∧ (∀ k, k ≠ 0 → t.dev.inst k = s.dev.inst k) ∧ t.dev.stg = s.dev.stg))) ∧
  (∀ (s : State) (k : Fin 81), s.dev.blow = [] → s.dev.instIdle k = true →
    let c := s.dev.inst k
    let took := fun (t : State) =>
      (∀ (r : Reg) (i j : Nat), findReg (r.addr i j) = some (r, i, j) → t.dev.rd r i j = if r.staged = true ∧ r.instOf i = some k.val then
        commitFix (r.addr i j) (s.dev.rdStaged r i j) else s.dev.rd r i j) ∧
      (∀ k', k' ≠ k.val → t.dev.inst k' = s.dev.inst k') ∧ t.dev = { s.dev with regs := t.dev.regs, cmt := t.dev.cmt }
    (c.next ≠ [] → Runs (.idleInstanceCommit k) s (fun t => took t ∧
      t.dev.inst k = { c with next := [], last := s.dev.ns - 1, applied := (c.applied + 1) % 256 })) ∧
    (∀ T arr, c.timed = some (T, arr) → T ≤ s.dev.ns → Runs (.idleTimedCommit k) s (fun t => took t ∧
      t.dev.inst k = { c with timed := none, last := s.dev.ns - 1, applied := (c.applied + 1) % 256 })))

/-! ### Resets (chapters 00 to 03 and 07) -/

/-- R8, R43, R209: a sill reset sets the registers from 0x4000_0000 to 0x403F_FFFF to their reset values (SEC, BOOT and EVT, which the
boot ROM's start and the load of the time base write, and PWR_RSTCAUSE apart); a chip reset, or the boot watchdog's expiry (R67, not due: nothing), sets those that the sill domain does
not hold, keeps those it holds and adds its cause to PWR_RSTCAUSE. Both keep the flash and the journal's rows (a row being written when power is lost apart), empty every other memory
(a chip reset keeps retained comb banks), drop engines, frames, mailbox messages and the switch's contents, and start the boot ROM with
BOOT_SEL sampled. SILL_RESET, CHIP_RESET, CONFIRM_TIMEOUT. -/
def Obligations.ResetsClearTheirScope : Prop :=
  ∀ s : State, s.dev.blow = [] →
    let fresh := fun (sel : BitVec 2) (t : State) => t.dev.eng = [] ∧ t.dev.mbx = [] ∧ t.dev.frames = [] ∧ t.dev.swc = {} ∧
      t.dev.boot.released = false ∧ t.dev.boot.phase = .plumb ∧ t.dev.f BOOT_STAT_BOOTSEL = sel.toNat ∧
      t.dev.b BOOT_STAT_SELREJ = decide (sel = 3 ∧ s.otp.lifecycle = 2) ∧ t.otp = s.otp
    let shown := fun (a : Nat) => (a < 0x40030000 ∨ 0x40040000 ≤ a) ∧ (a < 0x40050000 ∨ 0x40060000 ≤ a) ∧ a < 0x40400000 ∧
      a ≠ PWR_RSTCAUSE.base
    let chip := fun (cause : Nat) (sel : BitVec 2) (t : State) => fresh sel t ∧ t.dev.jrn = s.dev.jrn ∧
      t.dev.rd PWR_RSTCAUSE = s.dev.rd PWR_RSTCAUSE ||| (1 <<< cause) ∧
      (∀ a, t.dev.byte a = if s.dev.inRetained a = true ∨ 0x70000000 ≤ a then s.dev.byte a else 0) ∧
      (∀ (r : Reg) (i j : Nat), findReg (r.addr i j) = some (r, i, j) → shown (r.addr i j) → r.addr i j ≠ PWR_COMBPWR.base →
        r.addr i j ≠ PWR_COMBSTAT.base → r.addr i j ≠ CLK_STAT.base →
        t.dev.rd r i j = if r.scope = .sill then s.dev.rd r i j else r.rst i j)
    (∀ (supply : Bool) (sel : BitVec 2), Runs (.sillReset supply sel) s (fun t => fresh sel t ∧ t.dev.b PWR_RSTCAUSE_SUPPLY = supply ∧
      (s.dev.jrn.writing = none → ∀ r, Tab.look t.dev.jrn.rows [] r = Tab.look s.dev.jrn.rows [] r) ∧
      (∀ a, t.dev.byte a = if 0x70000000 ≤ a then s.dev.byte a else 0) ∧
      (∀ (r : Reg) (i j : Nat), shown (r.addr i j) → t.dev.rd r i j = r.rst i j))) ∧
    (∀ (cause : RstCause) (sel : BitVec 2), Runs (.chipReset cause sel) s (chip cause.bit sel)) ∧
    (∀ sel : BitVec 2, (s.dev.confirmDue = true → Runs (.confirmTimeout sel) s (chip 2 sel)) ∧
      (s.dev.confirmDue = false → Runs (.confirmTimeout sel) s (fun t => t = s)))

/-- R37, R39: a block reset of a block other than SYS, CLK and PWR, which have none, sets the block's registers of engine and block
scope that hold no locked field to their reset values, clears its staged copies and empties the arms of its own commit instances; of MEM,
JRN, SEC and BOOT it touches nothing else. (ENG resets its engines, and TIME steps its clock: their statements stand apart.) BLOCK_RESET. -/
def Obligations.BlockResetClearsItsBlock : Prop :=
  ∀ (s : State) (k : Blk), s.dev.blow = [] →
    (k = .sys ∨ k = .clk ∨ k = .pwr → Runs (.blockReset k) s (fun t => t = s)) ∧
    (k ≠ .sys → k ≠ .clk → k ≠ .pwr → k ≠ .eng → k ≠ .time → Runs (.blockReset k) s (fun t =>
      (∀ (r : Reg) (i j : Nat), findReg (r.addr i j) = some (r, i, j) → blkOf (r.addr i j) = some k → r.scope.rank ≤ 1 → r.lkBits = 0 →
        t.dev.rd r i j = r.rst i j) ∧
      (∀ (r : Reg) (i j : Nat), blkOf (r.addr i j) = some k → t.dev.rdStaged r i j = r.rst i j) ∧
      (∀ c ∈ instsOf k, (t.dev.inst c).next = [] ∧ (t.dev.inst c).timed = none) ∧ t.otp = s.otp)) ∧
    (k = .mem ∨ k = .jrn ∨ k = .sec ∨ k = .boot → Runs (.blockReset k) s (fun t =>
      RegsKept [k] s.dev t.dev ∧ t.dev = { s.dev with regs := t.dev.regs, stg := t.dev.stg, hist := t.dev.hist }))

/-- R116, R162, R208, R476: a write of ENG_CTL.RST drops what engine n has in hand with its checkpoint, commit buffer, read set and armed
slots, keeps its work queue, sets its counters and starts it again at INIT with G3 = 1 if it had been started; ENG_CNT_DROP then reads 1
if an item was dropped, else 0. During a drain the reset is only noted. A write of ENG_CTL.HALT halts an engine that waits in WQNEXT and
lets another run on; the rest of every engine stays. An engine whose code memory is not on ignores both. ENGINE_RESET, ENGINE_HALT. -/
def Obligations.EngineResetAndHalt : Prop :=
  ∀ (s : State) (m : Master) (n : Fin 32), s.dev.mayPut m ENG_CTL n 0 = true → s.dev.blow = [] →
    let g := s.dev.e n
    (s.dev.memOn (16 + 2 * n) = true → g.draining = false → Runs (.engineReset m n) s (fun t =>
      let h := t.dev.e n
      h.hand = none ∧ h.ck = none ∧ h.cbuf = [] ∧ h.rset = [] ∧ h.wq = g.wq ∧ (∀ x ∈ h.slots, x.2.st ≠ .armed) ∧
      t.dev.holdsToken n = false ∧ t.dev.wantsToken n = false ∧
      t.dev.rd ENG_CNT_DROP n = (if g.hand.isSome then 1 else 0) ∧
      (s.dev.boot.started.contains n.val = false → h.run = .reset) ∧
      (s.dev.boot.started.contains n.val = true → h.run = .run ∧
        h.cpu.pc = BitVec.ofNat 32 (codeBase n + (s.dev.entry n).init) ∧ h.cpu.r 0 = BitVec.ofNat 32 n ∧ h.cpu.r 3 = 1 ∧
        h.cpu.r 15 = BitVec.ofNat 32 (dataBase n + (s.dev.entry n).stackTop) ∧ h.dry = false) ∧ answers t m 0 false)) ∧
    (s.dev.memOn (16 + 2 * n) = true → g.draining = true → Runs (.engineReset m n) s (fun t =>
      t.dev.e n = { g with rstPend := true } ∧ answers t m 0 false)) ∧
    (s.dev.memOn (16 + 2 * n) = true → Runs (.engineHalt m n) s (fun t =>
      t.dev.b ENG_CTL_HALT n = true ∧ t.dev.e n = { g with run := if g.run = .idle then .halted else g.run } ∧
      (∀ k, (s.dev.e k).run ≠ .idle → t.dev.e k = s.dev.e k) ∧ Quiet [ENG_CTL.addr n 0] { s.dev with eng := t.dev.eng } t.dev ∧
      answers t m 0 false)) ∧
    (s.dev.memOn (16 + 2 * n) = false → (Runs (.engineReset m n) s (fun t => t = { s with dev := { s.dev with resp := [⟨m.num, 0, false⟩] } })) ∧
      Runs (.engineHalt m n) s (fun t => t = { s with dev := { s.dev with resp := [⟨m.num, 0, false⟩] } }))

/-! ### Engines and the dry-fit (chapter 03) -/

/-- R84, R88: an engine waiting in WQNEXT that nothing holds takes the oldest item of its queue: the descriptor is in G0 to G3, FL.D is
set, the checkpoint copies its registers, and it goes on after the WQNEXT; the other engines and the rest of the part stay. WQNEXT_WAKE. -/
def Obligations.WqnextWakeTakesTheOldestItem : Prop :=
  ∀ (s : State) (n : Fin 32) (i : Item) (rest : List Item), s.dev.blow = [] → (s.dev.e n).run = .idle → (s.dev.e n).wq = i :: rest →
    s.dev.engHold n = false →
    ((i.vsrc ≠ 3 ∧ (s.dev.fr i.frame).known = true → (s.dev.fr i.frame).good = true) ∧
      (i.vsrc = 3 ∧ (s.dev.fr i.frame).ended = true → (s.dev.fr i.frame).good = true)) →
    let g := s.dev.e n
    Runs (.wqnextWake n) s (fun t =>
      let c := (t.dev.e n).cpu
      c.r 0 = BitVec.ofNat 32 (i.lane % 64 + i.vsrc % 4 * 256) ∧ c.r 1 = BitVec.ofNat 32 (i.ctx.getD 0xFFFFFFFF) ∧
      c.r 2 = BitVec.ofNat 32 i.frame ∧ c.r 3 = BitVec.ofNat 32 i.sof ∧ (∀ k, 4 ≤ k → c.r k = g.cpu.r k) ∧
      (∀ k, c.fl.getLsbD k = if k = 5 then true else g.cpu.fl.getLsbD k) ∧ c.pc = g.cpu.pc + 1 ∧
      t.dev.e n = { g with
        cpu := { g.cpu with g := c.g, fl := c.fl, pc := c.pc }
        run := .run
        wq := rest
        hand := some { item := i }
        ck := some { g := c.g, pc := c.pc, fl := c.fl, bits := c.bits, wq := g.cpu.pc }
        cbuf := []
        rset := []
        cyc := 0 } ∧
      (∀ k, k ≠ n.val → t.dev.e k = s.dev.e k) ∧ t.dev = { s.dev with eng := t.dev.eng })

/-- R85, R93, R96: a byte that arrives for the frame in hand is seen at the frame port, with FEND at the last, and a stalled load goes on; a good
hardware verdict becomes known when the frame has ended, with every byte arrived, and an engine stalled at an early commit asks for its group's token.
Other frames and engines stay. FRAME_BYTE_ARRIVAL, ITEM_VERDICT.
R95, R110, R187: under dry-fit, a bad hardware verdict, a frame that ended bad at its lane, or an execution over ENG_DFCTL.HLIM drops
the item: nothing of the commit buffer is written, the checkpoint's registers are back, and the engine resumes at the WQNEXT that took the
item; ENG_CNT_BAD counts the first two, ENG_CNT_DROP the last, whose cause 0x3 is latched with its PC. With the forager ring off, memory stays. ITEM_VERDICT, FRAME_ABORT,
HANDLER_LIMIT. -/
def Obligations.VerdictsAndOverrunsDecideTheItem : Prop :=
  (∀ (s : State) (n : Fin 32) (h : Hand), s.dev.blow = [] → (s.dev.e n).hand = some h →
    let g := s.dev.e n
    let k := h.item.frame
    let f := s.dev.fr k
    let goes := fun (t : State) => t.dev.e n = { g with run := if g.run = .frameByte then .run else g.run } ∧
      (∀ x, x ≠ n.val → t.dev.e x = s.dev.e x) ∧ (∀ x, x ≠ k → t.dev.fr x = s.dev.fr x)
    Runs (.frameByteArrival n) s (fun t =>
      t.dev.fr k = { f with
        arrived := min f.bytes.length (f.arrived + 1)
        fin := f.fin || (f.ended && min f.bytes.length (f.arrived + 1) == f.bytes.length) } ∧
      goes t ∧ t.dev = { s.dev with frames := t.dev.frames, eng := t.dev.eng }) ∧
    (h.item.vsrc ≠ 3 → f.ended = true → f.known = false → f.good = true → Runs (.itemVerdict n) s (fun t =>
      t.dev.fr k = { f with known := true, fin := true, arrived := f.bytes.length } ∧ goes t ∧
      (g.run = .early → t.dev.wantsToken n = true ∨ t.dev.holdsToken n = true) ∧ (g.run ≠ .early → t.dev.groups = s.dev.groups) ∧
      t.dev = { s.dev with frames := t.dev.frames, eng := t.dev.eng, groups := t.dev.groups }))) ∧
  (∀ (s : State) (n : Fin 32) (h : Hand) (c : Ckpt), s.dev.blow = [] → (s.dev.e n).hand = some h → (s.dev.e n).ck = some c →
    (s.dev.e n).dry = true → s.dev.b SWC_FORCTL_EN = false →
    let g := s.dev.e n
    let f := s.dev.fr h.item.frame
    let bad := fun (t : State) => Dropped g c t.dev n ∧ t.dev.rd ENG_CNT_BAD n = BitVec.ofNat 32 (satAdd 0xFFFFFFFF (s.dev.rd ENG_CNT_BAD n).toNat 1) ∧
      t.dev.mem = s.dev.mem ∧ RegsKept [.eng, .evt, .eth, .swc] s.dev t.dev ∧ t.dev.holdsToken n = false
    (h.item.vsrc ≠ 3 → f.ended = true → f.known = false → f.good = false → Runs (.itemVerdict n) s bad) ∧
    (f.ended = true → f.good = false → Runs (.frameAbort n) s bad) ∧
    (g.draining = false → s.dev.f ENG_DFCTL_HLIM n ≠ 0 → s.dev.f ENG_DFCTL_HLIM n < g.cyc → s.dev.b ENG_ERR_VALID n = false →
      Runs (.handlerLimit n) s (fun t => Dropped g c t.dev n ∧ t.dev.f ENG_ERR_CAUSE n = 3 ∧ t.dev.b ENG_ERR_VALID n = true ∧
        t.dev.rd ENG_ERRADDR n = g.cpu.pc ∧ t.dev.rd ENG_CNT_DROP n = BitVec.ofNat 32 (satAdd 0xFFFFFFFF (s.dev.rd ENG_CNT_DROP n).toNat 1) ∧
        t.dev.mem = s.dev.mem ∧ RegsKept [.eng, .evt, .eth, .swc] s.dev t.dev ∧ t.dev.holdsToken n = false)))

/-- R102, R103, R106: with no drain in its group, the arbiter grants the drain to the token's holder, or, while the token is free, to the ready
engine with the lowest end-of-frame stamp, the lower number on a tie, among those that may drain: the engine drains and holds its comb lines. A free
token goes to the first engine that asked for it, which re-executes and counts in ENG_CNT_SERIAL. All else stays. DRAIN_GRANT, TOKEN_GRANT. -/
def Obligations.TheArbiterGrantsDrainsAndTheToken : Prop :=
  ∀ (s : State) (k : Fin 8) (n : Fin 32), s.dev.blow = [] →
    let g := s.dev.e n
    let drains := fun (early : Bool) (t : State) =>
      t.dev.e n = { g with run := .drain early, held := g.lines, drainAt := s.dev.wall, drainTs := s.dev.stamp } ∧
      (∀ x, x ≠ n.val → t.dev.e x = s.dev.e x) ∧ t.dev = { s.dev with eng := t.dev.eng }
    (s.dev.grpDrains k = false → s.dev.cgrp n = k → s.dev.ready n = true → s.dev.mayDrain n = true →
      ((s.dev.grp k).holder = some n.val → Runs (.drainGrant k) s (drains (g.run == .early))) ∧
      ((s.dev.grp k).holder = none → g.run = .atEnd →
        (∀ x : Fin 32, x ≠ n → s.dev.cgrp x = k → s.dev.ready x = true → (s.dev.e x).run = .atEnd → s.dev.mayDrain x = true →
          s.dev.commitKey n < s.dev.commitKey x) → Runs (.drainGrant k) s (drains false))) ∧
    (∀ rest, s.dev.grp k = { holder := none, queue := n.val :: rest } → Runs (.tokenGrant k) s (fun t =>
      t.dev.grp k = { holder := some n.val, queue := rest } ∧ (∀ x, x ≠ k.val → t.dev.grp x = s.dev.grp x) ∧
      t.dev.e n = { g with run := if g.run = .token then .run else g.run } ∧ (∀ x, x ≠ n.val → t.dev.e x = s.dev.e x) ∧
      t.dev.rd ENG_CNT_SERIAL n = (if g.run = .token then BitVec.ofNat 32 (satAdd 0xFFFFFFFF (s.dev.rd ENG_CNT_SERIAL n).toNat 1)
        else s.dev.rd ENG_CNT_SERIAL n) ∧
      Quiet [ENG_CNT_SERIAL.addr n 0] { s.dev with eng := t.dev.eng, groups := t.dev.groups } t.dev))

/-- R90, R103, R106: when a drain of memory words ends, every byte that a word's mask covers holds the buffer's value, the later entry last, and
every other byte stays (for words of the engine's own data memory and comb memory that nothing stops, with the forager ring off); the lines are
released, the commit is counted, FL.D is clear, and the item is done, its token passed on, or, at an early commit, still in hand. Before 12 fabric cycles and
one for each entry have passed nothing happens. DRAIN_COMPLETE. -/
def Obligations.DrainWritesItsBufferInOrder : Prop :=
  ∀ (s : State) (n : Fin 32) (early : Bool) (h : Hand), s.dev.blow = [] → (s.dev.e n).run = .drain early →
    let g := s.dev.e n
    (g.drainAt + (12 + g.cbuf.length) * s.dev.fabCycle ≤ s.dev.wall → g.hand = some h → g.rstPend = false → s.dev.b SWC_FORCTL_EN = false →
      (∀ e ∈ g.cbuf, ∃ a v mask, e = .word a v mask ∧ a % 8 = 0 ∧ (regionOf a = .comb ∨ regionOf a = .data n) ∧ s.dev.memFree a 8 = true) →
      Runs (.drainComplete n) s (fun t =>
        (∀ b, t.dev.byte b = g.cbuf.foldl (fun old e => e.byteAt b old) (s.dev.byte b)) ∧
        (t.dev.e n).cbuf = [] ∧ (t.dev.e n).held = [] ∧ (t.dev.e n).rset = [] ∧ (t.dev.e n).run = .run ∧ (t.dev.e n).dry = false ∧
        (t.dev.e n).cpu.pc = g.cpu.pc ∧ (t.dev.e n).cpu.g = g.cpu.g ∧ (t.dev.e n).wq = g.wq ∧
        (early = false → (t.dev.e n).hand = none ∧ (t.dev.e n).ck = none ∧ t.dev.holdsToken n = false) ∧
        (early = true → (t.dev.e n).hand = some { h with early := true } ∧ (t.dev.e n).ck = g.ck) ∧
        t.dev.rd ENG_CNT_COMMIT n = BitVec.ofNat 32 (satAdd 0xFFFFFFFF (s.dev.rd ENG_CNT_COMMIT n).toNat 1) ∧
        RegsKept [.eng, .evt, .eth, .swc] s.dev t.dev)) ∧
    (s.dev.wall < g.drainAt + (12 + g.cbuf.length) * s.dev.fabCycle → Runs (.drainComplete n) s (fun t => t = s))

/-- R98, R99: an instruction that waits for a transmit slot goes on once the slot is free; a held relay whose frame has wholly arrived is
discarded and counted in ETH_CNT_TXDISC when the frame is bad, and is otherwise put in transmission whole, without its check sequence, on a free lane. TRANSMIT_SLOT_FREE,
HELD_RELAY_RELEASE. -/
def Obligations.SlotsAndHeldRelaysAreReleased : Prop :=
  ∀ s : State, s.dev.blow = [] →
    (∀ (n : Fin 32) (k : Fin 4), (s.dev.e n).run = .slot k → (s.dev.slot n k).st = .free → Runs (.transmitSlotFree n k) s (fun t =>
      t.dev.e n = { s.dev.e n with run := .run } ∧ (∀ x, x ≠ n.val → t.dev.e x = s.dev.e x) ∧ t.dev = { s.dev with eng := t.dev.eng })) ∧
    (∀ (p : Fin 24) (k : Nat), s.dev.heldRelay p = some k → (s.dev.fr k).fin = true → 1 < (s.dev.fr k).holders →
      let f := s.dev.fr k
      (f.ended = true → f.good = false → Runs (.heldRelayRelease p) s (fun t =>
        t.dev.fr k = { f with relayHeld := false, holders := f.holders - 1 } ∧
        t.dev.rd ETH_CNT_TXDISC p = BitVec.ofNat 32 (satAdd 0xFFFFFFFF (s.dev.rd ETH_CNT_TXDISC p).toNat 1) ∧
        t.dev.mem = s.dev.mem ∧ t.dev.eng = s.dev.eng ∧ t.dev.eth = s.dev.eth ∧ RegsKept [.eth, .evt] s.dev t.dev)) ∧
      (f.good = true → s.dev.txDead p = false → (s.dev.lane p).cur = none → (s.dev.lane p).held = none → s.dev.b ETH_STAT_LPI_TX p = false →
        Runs (.heldRelayRelease p) s (fun t =>
          (∃ c, (t.dev.lane p).cur = some c ∧ c.ent.fr = k ∧ c.cls = f.tc ∧ c.bytes = f.bytes.take (f.bytes.length - 4)) ∧
          t.dev.fr k = { f with relayHeld := false } ∧ t.dev.b SWC_PSTAT_CTACT p = true ∧ t.dev.mem = s.dev.mem ∧ t.dev.eng = s.dev.eng ∧
          RegsKept [.swc, .eth, .evt] s.dev t.dev)))

/-- R214: an attempt of the reloader whose bytes match the block as loaded puts them back, counts in MEM_CNT_RELOAD and takes the reload from
the list; a first attempt that does not match is tried again; a second fails the block. Bytes outside the block stay. INTEGRITY_RELOAD_ATTEMPT. -/
def Obligations.ReloadRestoresRetriesOrFailsTheBlock : Prop :=
  ∀ (s : State) (diff : List (BitVec 12 × Byte)) (r : Reload) (rest : List Reload), s.dev.blow = [] → s.dev.reloads = r :: rest →
    let b := r.block
    let same := diff.all (fun e => Tab.look s.dev.boot.loaded 0 (b * 4096 + e.1.toNat) == e.2)
    (same = true → Tab.rising s.dev.boot.loaded = true → b * 4096 < 0x70000000 → Runs (.integrityReloadAttempt diff) s (fun t =>
      (∀ a, t.dev.byte a = if a / 4096 = b then Tab.look s.dev.boot.loaded 0 a else s.dev.byte a) ∧ t.dev.reloads = rest ∧
      t.dev.rd MEM_CNT_RELOAD = BitVec.ofNat 32 (satAdd 0xFFFFFFFF (s.dev.rd MEM_CNT_RELOAD).toNat 1) ∧
      (∀ a ∈ t.dev.badPar, a / 4096 ≠ b) ∧ (∀ n : Fin 32, (t.dev.e n).run ≠ .reload b) ∧ t.dev.sv0.run ≠ .reload b ∧
      t.dev.sv1.run ≠ .reload b ∧ RegsKept [.mem, .eng, .evt] s.dev t.dev)) ∧
    (same = false → r.attempt = 1 → Runs (.integrityReloadAttempt diff) s (fun t =>
      t.dev.reloads = { r with attempt := 2 } :: rest ∧ (∀ a, a / 4096 ≠ b → t.dev.byte a = s.dev.byte a) ∧ t.dev.regs = s.dev.regs ∧
      t.dev.eng = s.dev.eng)) ∧
    (same = false → r.attempt = 2 → Runs (.integrityReloadAttempt diff) s (fun t =>
      t.dev.reloads = rest ∧ b ∈ t.dev.failed ∧ t.dev.evPending 18 = true ∧ (∀ n : Fin 32, (t.dev.e n).run ≠ .reload b)))

/-- R120, R122: a read of ENG_PMCYC_LO answers the low half of the cycle count and latches the high half for ENG_PMCYC_HI; a programmable counter
at 2^48 - 1 whose cycle condition holds wraps to 0 and, not chained, raises EV043. PMCYC_READ, PERFORMANCE_COUNTER_WRAP. -/
def Obligations.CycleCountsLatchAndWrap : Prop :=
  ∀ (s : State) (n : Fin 32), s.dev.blow = [] →
    (∀ m : Master, s.dev.mayGet m ENG_PMCYC_LO n 0 = true → Runs (.pmcycRead m n) s (fun t =>
      answers t m (s.dev.rd ENG_PMCYC_LO n).toNat false ∧ t.dev.e n = { s.dev.e n with cycHi := s.dev.rd ENG_PMCYC_HI n } ∧
      (∀ k, k ≠ n.val → t.dev.e k = s.dev.e k) ∧ Quiet [] { s.dev with eng := t.dev.eng } t.dev)) ∧
    (∀ k : Fin 8, s.dev.pmOwn n k = true → (s.dev.cycleEvents n).contains (s.dev.f ENG_PMSEL_EVENT n k) = true →
      s.dev.rd ENG_PMCNT_LO n k = 0xFFFFFFFF → s.dev.f ⟨ENG_PMCNT_HI, 0, 16⟩ n k = 0xFFFF → (k.val = 7 ∨ s.dev.b ENG_PMSEL_CHAIN n (k + 1) = false) →
      Runs (.performanceCounterWrap n k) s (fun t =>
        t.dev.rd ENG_PMCNT_LO n k = 0 ∧ t.dev.rd ENG_PMCNT_HI n k = 0 ∧ t.dev.evPending 43 = true ∧
        Touches [ENG_PMCNT_LO.addr n k, ENG_PMCNT_HI.addr n k] s.dev t.dev))

/-! ### Boot, flash and fuses (chapter 02) -/

/-- R46 to R49, R65, R66: the boot ROM's waits. A plumb check that has run 1 ms counts in TRIES and settles the clocks when it passes, or, the tenth, degrades the
boot; the ROM then waits for GO under BOOT_SEL = 0b01, with HELD and an alarm, else it selects an image. GO, from SV0 or the host port, releases a held boot, or starts
the path that BOOT_HCTL.MODE names; another master's is a bus error. ABORT returns the ROM to waiting for GO. After 10 minutes of safe hold both marks clear and selection
starts again. PLUMB_CHECK, BOOT_GO, HOST_BOOT_ABORT, SAFE_HOLD_EXPIRY.
R48: HOST_RANGE_DONE takes the range asked for from BOOT_HBUF, byte for byte, leaves the other bytes of the host's image, and asks for the next range, or, with none
left, lets the ROM judge the image (the range at 0x1000, after which the ROM reads the section table, apart). HOST_RANGE_DONE. -/
def Obligations.BootRomWaitsAndHostRangesFillTheImage : Prop :=
  (∀ s : State, s.dev.blow = [] →
    let b := s.dev.boot
    let waits := fun (t : State) => if b.sel = 1 then t.dev.boot.phase = .waitGo ∧ t.dev.b BOOT_STAT_HELD = true else t.dev.boot.phase = .select
    (∀ ppm : Int, b.phase = .plumb → s.dev.pw.plumbAt + 20000000 ≤ s.dev.wall → s.dev.f CLK_PLUMB_TRIES < 10 →
      (s.dev.plumbOk ppm = true → Runs (.plumbCheck ppm) s (fun t => waits t ∧ t.dev.f CLK_PLUMB_TRIES = s.dev.f CLK_PLUMB_TRIES + 1 ∧
        t.dev.b CLK_PLUMB_PASS = true ∧ t.dev.b CLK_STAT_MAINOK = true ∧ t.dev.b CLK_STAT_RCACT = false ∧ t.dev.f CLK_STAT_LOCK = 7 ∧
        RegsKept [.clk, .boot, .evt] s.dev t.dev ∧ t.dev.mem = s.dev.mem)) ∧
      (s.dev.plumbOk ppm = false → s.dev.f CLK_PLUMB_TRIES = 9 → Runs (.plumbCheck ppm) s (fun t => waits t ∧ t.dev.f CLK_PLUMB_TRIES = 10 ∧
        t.dev.b BOOT_STAT_CLK_DEGRADED = true ∧ RegsKept [.clk, .boot, .evt, .time] s.dev t.dev ∧ t.dev.mem = s.dev.mem)) ∧
      (s.dev.plumbOk ppm = false → s.dev.f CLK_PLUMB_TRIES < 9 → Runs (.plumbCheck ppm) s (fun t => t.dev.boot = b ∧
        t.dev.f CLK_PLUMB_TRIES = s.dev.f CLK_PLUMB_TRIES + 1 ∧ Quiet [CLK_PLUMB.base] { s.dev with pw := t.dev.pw } t.dev))) ∧
    (∀ m : Master, s.dev.mayPut m BOOT_CTL 0 0 = true → m = .sv0 ∨ m = .host →
      (b.phase = .holdGo → Runs (.bootGo m) s (fun t => t.dev.boot = { b with phase := .ready } ∧ t.dev.b BOOT_STAT_HELD = false ∧
        Quiet [BOOT_STAT.base] { s.dev with boot := t.dev.boot } t.dev ∧ answers t m 0 false)) ∧
      (b.phase = .waitGo ∨ b.phase = .safeHold →
        (s.dev.f BOOT_HCTL_MODE = 1 → Runs (.bootGo m) s (fun t => t.dev.boot = { b with phase := .hostPull } ∧ t.dev.b BOOT_STAT_HELD = false ∧
          t.dev.b BOOT_HSTAT_BUSY = true ∧ Quiet [BOOT_STAT.base, BOOT_HSTAT.base] { s.dev with boot := t.dev.boot } t.dev ∧ answers t m 0 false)) ∧
        (s.dev.f BOOT_HCTL_MODE = 2 → Runs (.bootGo m) s (fun t => t.dev.boot.phase = .hostPush ∧ t.dev.b BOOT_STAT_HELD = false ∧
          t.dev.b BOOT_HSTAT_BUSY = true ∧ t.dev.rd BOOT_HREQ_OFS = 0 ∧ t.dev.rd BOOT_HREQ_LEN = 0x80001000 ∧
          Quiet [BOOT_STAT.base, BOOT_HSTAT.base, BOOT_HREQ_OFS.base, BOOT_HREQ_LEN.base] { s.dev with boot := t.dev.boot } t.dev ∧
          answers t m 0 false)))) ∧
    (∀ m : Master, s.dev.mayPut m BOOT_CTL 0 0 = true → m ≠ .sv0 → m ≠ .host → Runs (.bootGo m) s (fun t =>
      t = { s with dev := { s.dev with resp := [⟨m.num, 0, true⟩] } })) ∧
    (∀ m : Master, s.dev.mayPut m BOOT_HCTL 0 0 = true → b.phase = .hostPush ∨ b.phase = .hostPull ∨ b.phase = .hostJudge → b.sel = 1 →
      Runs (.hostBootAbort m) s (fun t => t.dev.boot.phase = .waitGo ∧ t.dev.boot.hostImg = [] ∧ t.dev.boot.hostAsk = [] ∧
        t.dev.b BOOT_HSTAT_BUSY = false ∧ t.dev.rd BOOT_HREQ_LEN = 0 ∧ t.dev.b BOOT_STAT_HELD = true ∧ t.dev.f BOOT_HCTL_MODE = s.dev.f BOOT_HCTL_MODE ∧
        RegsKept [.boot, .evt] s.dev t.dev ∧ t.dev.mem = s.dev.mem ∧ answers t m 0 false)) ∧
    (b.phase = .safeHold → b.since + 600 * wallSecond ≤ s.dev.wall → Runs .safeHoldExpiry s (fun t =>
      t.dev = { s.dev with boot := { b with
        phase := .select
        rowA := { b.rowA with mark := false }
        rowB := { b.rowB with mark := false } } }))) ∧
  (∀ (s : State) (m : Master) (o l : Nat) (rest : List (Nat × Nat)), s.dev.blow = [] → s.dev.mayPut m BOOT_HCTL 0 0 = true →
    s.dev.boot.phase = .hostPush → s.dev.b BOOT_HREQ_LEN_REQ = true → s.dev.boot.hostAsk = (o, l) :: rest → o ≠ 4096 → l ≤ 4096 →
    let took := fun (t : State) =>
      (∀ a, t.dev.hostByte a = if o ≤ a ∧ a < o + l then BitVec.ofNat 8 ((s.dev.rd BOOT_HBUF ((a - o) / 4)).toNat / 256 ^ ((a - o) % 4))
        else s.dev.hostByte a) ∧ t.dev.boot.hostAsk = rest ∧ t.dev.rd BOOT_HCTL = s.dev.rd BOOT_HCTL ∧
      answers t m 0 false
    (∀ o' l' rest', rest = (o', l') :: rest' → Runs (.hostRangeDone m) s (fun t => took t ∧ t.dev.boot.phase = .hostPush ∧
      t.dev.rd BOOT_HREQ_OFS = BitVec.ofNat 32 o' ∧ t.dev.rd BOOT_HREQ_LEN = BitVec.ofNat 32 (l' + 2 ^ 31) ∧
      Quiet [BOOT_HCTL.base, BOOT_HREQ_OFS.base, BOOT_HREQ_LEN.base] { s.dev with boot := t.dev.boot } t.dev)) ∧
    (rest = [] → Runs (.hostRangeDone m) s (fun t => took t ∧ t.dev.boot.phase = .hostJudge ∧ t.dev.rd BOOT_HREQ_LEN = 0 ∧
      Quiet [BOOT_HCTL.base, BOOT_HREQ_LEN.base] { s.dev with boot := t.dev.boot } t.dev)))

/-- R63 to R66: of two flashes neither marked, with PREF = 0 and SEQs seen before, the ROM tries the one with the higher SEQ, A on a tie: an image that fails is marked and its code
recorded, a third unconfirmed start is refused with 0x10, and one that passes (here without register initialisers) becomes the running image with its start counted, released at once or, under BOOT_SEL =
0b10, after GO. With both marked the ROM holds safe. The other flash's row stays. BOOT_IMAGE_ATTEMPT. -/
def Obligations.BootTakesTheBetterImage : Prop :=
  ∀ (s : State) (okA okB sfdpA sfdpB : Bool), s.dev.blow = [] → s.dev.boot.phase = .select →
    let A := s.dev.flashImage false okA sfdpA
    let B := s.dev.flashImage true okB sfdpB
    let seq := fun (x : ImgSource) => if x.ok && imgMagic x.f then imgSeq x.f + 1 else 0
    let code := verifyImage s.otp A
    let row := s.dev.boot.rowA
    (row.mark = true → s.dev.boot.rowB.mark = true → (A.ok && imgMagic A.f) = false → (B.ok && imgMagic B.f) = false →
      Runs (.bootImageAttempt okA okB sfdpA sfdpB none) s (fun t => t.dev.boot = { s.dev.boot with phase := .safeHold, since := s.dev.wall } ∧
        RegsKept [.evt] s.dev t.dev ∧ t.dev.mem = s.dev.mem)) ∧
    (row.mark = false → s.dev.boot.rowB.mark = false → s.dev.f BOOT_NEXT_PREF = 0 → seq B ≤ seq A → row.seq = imgSeq A.f →
      ((B.ok && imgMagic B.f) = true → imgSeq B.f = s.dev.boot.rowB.seq) →
      (3 ≤ row.count ∨ code ≠ 0 → Runs (.bootImageAttempt okA okB sfdpA sfdpB none) s (fun t =>
        t.dev.boot = { s.dev.boot with rowA := { row with mark := true } } ∧
        t.dev.f BOOT_STAT_REJ_A = (if 3 ≤ row.count then 0x10 else code % 256) ∧
        Quiet [BOOT_STAT.base] { s.dev with boot := t.dev.boot } t.dev)) ∧
      (row.count < 3 → code = 0 → imgInits A.f = [] → Runs (.bootImageAttempt okA okB sfdpA sfdpB none) s (fun t =>
        t.dev.boot.rowA = { row with count := row.count + 1 } ∧ t.dev.boot.rowB = s.dev.boot.rowB ∧
        t.dev.boot.img = some (imgInfo s.otp .flashA A.f) ∧ t.dev.boot.phase = (if s.dev.boot.sel = 2 then .holdGo else .ready) ∧
        t.dev.b BOOT_STAT_IMG = false ∧ t.dev.f BOOT_STAT_TRIES = row.count + 1 ∧ t.dev.boot.released = s.dev.boot.released ∧ t.otp = s.otp)))

/-- R58, R162, R36: release locks the LK registers, runs both supervisors, starts every bound engine at INIT with G3 = 0 and no other, begins the confirmation window,
takes the staged registers of instance 0 into force, and raises EV004. Where SV0 and SV1 start is a free value (log 10). BOOT_RELEASE. -/
def Obligations.ReleaseStartsTheChip : Prop :=
  ∀ s : State, s.dev.blow = [] → s.dev.boot.phase = .ready → s.dev.boot.released = false → (∀ n ∈ s.dev.boot.bound, n < 32) →
    s.dev.boot.bound.Nodup →
    Runs .bootRelease s (fun t =>
      t.dev.boot = { s.dev.boot with
        locked := true
        released := true
        started := s.dev.boot.bound
        since := s.dev.wall
        phase := .running } ∧
      t.dev.sv0.run = .run ∧ t.dev.sv1.run = .run ∧ t.dev.evPending 4 = true ∧
      (∀ n ∈ s.dev.boot.bound, (t.dev.e n).run = .run ∧ (t.dev.e n).cpu.pc = BitVec.ofNat 32 (codeBase n + (s.dev.entry n).init) ∧
        (t.dev.e n).cpu.r 0 = BitVec.ofNat 32 n ∧ (t.dev.e n).cpu.r 3 = 0 ∧
        (t.dev.e n).cpu.r 15 = BitVec.ofNat 32 (dataBase n + (s.dev.entry n).stackTop)) ∧
      (∀ n, n ∉ s.dev.boot.bound → t.dev.e n = s.dev.e n) ∧ t.dev.mem = s.dev.mem ∧
      (∀ (r : Reg) (i j : Nat), findReg (r.addr i j) = some (r, i, j) → r.staged = true → r.instOf i = some 0 →
        t.dev.rd r i j = commitFix (r.addr i j) (s.dev.rdStaged r i j)))

/-- R62, R67, R72: CONFIRM by a secure master marks the running image confirmed and clears its flash's count; ARB_ADV raises the version floors to those of a confirmed image, or raises EV006;
SEC_OTP_REVOKE revokes a root slot, or answers a bus error and does nothing where the slot is the running image's or the last one left. BOOT_ARB shows the fuses. BOOT_CONFIRM, ARB_ADVANCE,
OTP_REVOKE.
R76, R77: an attestation reserves the next leaf before it signs with it (SEC_LMS_STAT and the journal's leaf row name the one after), and leaves the report of 192 bytes with both signatures, 3,116 bytes in
all; with no leaf left, or when the row cannot be written, there is no report and no leaf goes. An identity request gives the public keys and uses no leaf. The signature functions are opaque (log 9). ATTESTATION_REQUEST,
IDENTITY_REPORT. -/
def Obligations.ConfirmRevokeAndAttest : Prop :=
  (∀ (s : State) (m : Master), s.dev.blow = [] →
    (s.dev.accepts m BOOT_CTL 0 0 1 = true → s.dev.boot.phase = .running → Runs (.bootConfirm m) s (fun t =>
      t.dev.b BOOT_STAT_CONFIRMED = true ∧
      t.dev.boot = (match s.dev.runningFlash with
        | some true => { s.dev.boot with rowB := { s.dev.boot.rowB with count := 0 } }
        | some false => { s.dev.boot with rowA := { s.dev.boot.rowA with count := 0 } }
        | none => s.dev.boot) ∧
      Quiet [BOOT_STAT.base] { s.dev with boot := t.dev.boot } t.dev ∧ t.otp = s.otp ∧ answers t m 0 false)) ∧
    (s.dev.accepts m BOOT_CTL 0 0 2 = true →
      (∀ i, s.dev.boot.img = some i → s.dev.b BOOT_STAT_CONFIRMED = true → Runs (.arbAdvance m) s (fun t =>
        t.otp = { s.otp with imgFloor := max s.otp.imgFloor i.svn, loadFloor := max s.otp.loadFloor i.loadSvn } ∧
        t.dev.rd BOOT_ARB = t.otp.arb ∧ Quiet [BOOT_ARB.base] s.dev t.dev ∧ answers t m 0 false)) ∧
      (s.dev.b BOOT_STAT_CONFIRMED = false → Runs (.arbAdvance m) s (fun t =>
        t.otp = s.otp ∧ t.dev.evPending 6 = true ∧ Touches [] s.dev t.dev ∧ answers t m 0 false))) ∧
    (∀ slot : BitVec 2, s.dev.secure m = true → s.dev.mayPut m SEC_OTP_REVOKE 0 0 = true → s.dev.f BOOT_ARB_REVOKED = s.otp.revoked.toNat →
      (s.dev.revokeRefused s.otp slot.toNat = false → Runs (.otpRevoke m slot) s (fun t =>
        t.otp = { s.otp with revoked := s.otp.revoked ||| (1 <<< slot.toNat) } ∧ t.dev.rd BOOT_ARB = t.otp.arb ∧
        Quiet [BOOT_ARB.base] s.dev t.dev ∧ answers t m 0 false)) ∧
      (s.dev.revokeRefused s.otp slot.toNat = true → Runs (.otpRevoke m slot) s (fun t =>
        t = { s with dev := { s.dev with resp := [⟨m.num, 0, true⟩] } })))) ∧
  (∀ (s : State) (nonce : BitVec 256), s.dev.blow = [] →
    let q := s.dev.f SEC_LMS_STAT_NEXT_Q
    (q < 1048576 → Runs (.attestationRequest nonce false) s (fun t =>
      t.dev.rd SEC_LMS_STAT = lmsWord (q + 1) ∧ (q + 1 = 943718 → t.dev.evPending 7 = true) ∧
      t.dev.boot = { s.dev.boot with report := t.dev.boot.report } ∧ t.dev.boot.report.length = 192 + 96 + 2828 ∧
      (t.dev.boot.report.take 4 = [1, 0, 0, 0]) ∧ (∀ k, k < 32 → (t.dev.boot.report.drop 80).getD k 0 = (natBe 32 nonce.toNat).getD k 0) ∧
      RegsKept [.sec, .evt] s.dev t.dev ∧ t.dev.mem = s.dev.mem ∧ t.otp = s.otp)) ∧
    (∀ fail : Bool, 1048576 ≤ q ∨ fail = true → Runs (.attestationRequest nonce fail) s (fun t =>
      t.dev = { s.dev with boot := { s.dev.boot with report := [] } } ∧ t.otp = s.otp)) ∧
    Runs .identityReport s (fun t => t.dev = { s.dev with boot := { s.dev.boot with report := Config.devicePublic s.otp.secret } } ∧ t.otp = s.otp))

/-- R70, R71: a flash command starts when none is busy, at BOOT_FADDR; one written while BUSY is a bus error and does nothing. When it is done BUSY clears and EV005 is raised: an aligned erase leaves its 64 KiB
of the inactive flash at 0xFF, an aligned program leaves each byte ANDed with BOOT_FBUF's, a read fills BOOT_FBUF, a verify gives 0x80 and the image's code, an unaligned erase or program gives RESULT 0x3 and a device error 0x1;
other bytes stay. FLASH_ERASE, FLASH_PROGRAM, FLASH_READ, FLASH_VERIFY, FLASH_COMMAND_DONE. -/
def Obligations.FlashCommandsActOnTheInactiveFlash : Prop :=
  ∀ (s : State) (m : Master), s.dev.blow = [] →
    (∀ c op, s.dev.mayPut m BOOT_FCMD 0 0 = true →
      (c = .flashErase m ∧ op = 1) ∨ (c = .flashProgram m ∧ op = 2) ∨ (c = .flashRead m ∧ op = 3) ∨ (c = .flashVerify m ∧ op = 4) →
      (s.dev.b BOOT_FCMD_BUSY = false → Runs c s (fun t =>
        t.dev.boot = { s.dev.boot with fcmd := some (op, s.dev.f ⟨BOOT_FADDR, 0, 28⟩) } ∧ t.dev.b BOOT_FCMD_BUSY = true ∧
        Quiet [BOOT_FCMD.base] { s.dev with boot := t.dev.boot } t.dev ∧ answers t m 0 false)) ∧
      (s.dev.b BOOT_FCMD_BUSY = true → Runs c s (fun t => t = { s with dev := { s.dev with resp := [⟨m.num, 0, true⟩] } }))) ∧
    (∀ (bad sfdp : Bool) (op a : Nat), s.dev.boot.fcmd = some (op, a) → a < 0x10000000 →
      let x := s.dev.flashAddr a
      let done := fun (res : Nat) (t : State) => t.dev.f BOOT_FCMD_RESULT = res ∧ t.dev.b BOOT_FCMD_BUSY = false ∧ t.dev.boot = { s.dev.boot with fcmd := none } ∧
        t.dev.evPending 5 = true ∧ RegsKept [.boot, .evt] s.dev t.dev ∧ t.otp = s.otp
      let stays := fun (t : State) => ∀ y, t.dev.byte y = s.dev.byte y
      (op = 1 → a % 65536 = 0 → bad = false → Runs (.flashCommandDone bad sfdp) s (fun t => done 0 t ∧
        ∀ y, t.dev.byte y = if x ≤ y ∧ y < x + 65536 then 0xFF else s.dev.byte y)) ∧
      (op = 2 → a % 256 = 0 → bad = false → Runs (.flashCommandDone bad sfdp) s (fun t => done 0 t ∧
        ∀ y, t.dev.byte y = if x ≤ y ∧ y < x + 256 then s.dev.byte y &&& s.dev.fbuf.getD (y - x) 0 else s.dev.byte y)) ∧
      (op = 3 → bad = false → a + 256 ≤ 0x10000000 → Runs (.flashCommandDone bad sfdp) s (fun t => done 0 t ∧ stays t ∧
        ∀ k, k < 64 → t.dev.rd BOOT_FBUF k = s.dev.word (x + 4 * k))) ∧
      (op = 4 → Runs (.flashCommandDone bad sfdp) s (fun t => stays t ∧
        done ((0x80 + verifyImage s.otp (s.dev.flashImage s.dev.inactive (!bad) sfdp)) % 256) t)) ∧
      ((op = 1 ∧ a % 65536 ≠ 0) ∨ (op = 2 ∧ a % 256 ≠ 0) → Runs (.flashCommandDone bad sfdp) s (fun t => stays t ∧ done 3 t)) ∧
      ((op = 1 ∧ a % 65536 = 0) ∨ (op = 2 ∧ a % 256 = 0) ∨ op = 3 → bad = true → Runs (.flashCommandDone bad sfdp) s (fun t => stays t ∧ done 1 t)))

/-! ### Septari instructions (chapters 04 and 05) -/

/-- Table 5-3: of a sum of two numbers of `w` bits and a carry in, the result with the carry out in front is the exact sum, V says that the result
as a signed number is not the exact signed sum, H is the carry out of the low digit, Z and N are the result's; a difference's C and H are
its borrows in the same way. -/
def Obligations.SumsAndDifferencesSetTheirFlags : Prop :=
  ∀ (w : Nat) (a b : BitVec w) (cin : Bool), 4 ≤ w →
    let i : Int := if cin then 1 else 0
    let sum := addOp w a.toNat b.toNat cin
    let dif := subOp w a.toNat b.toNat cin
    let r := BitVec.ofNat w sum.1
    let q := BitVec.ofNat w dif.1
    let H := fun (f : Flags) => (f.h.getD false).toNat
    (r.toNat = sum.1 ∧ ∃ c : Bool, sum.2.c = some c ∧ sum.1 + 2 ^ w * c.toNat = a.toNat + b.toNat + cin.toNat ∧
      sum.2.v = some (decide (r.toInt ≠ a.toInt + b.toInt + i)) ∧ sum.2.z = some (decide (r = 0)) ∧ sum.2.n = some r.msb ∧
      sum.2.h.isSome = true ∧ sum.1 % 16 + 16 * H sum.2 = a.toNat % 16 + b.toNat % 16 + cin.toNat) ∧
    (q.toNat = dif.1 ∧ ∃ c : Bool, dif.2.c = some c ∧ dif.1 + b.toNat + cin.toNat = a.toNat + 2 ^ w * c.toNat ∧
      dif.2.v = some (decide (q.toInt ≠ a.toInt - b.toInt - i)) ∧ dif.2.z = some (decide (q = 0)) ∧ dif.2.n = some q.msb ∧
      dif.2.h.isSome = true ∧ dif.1 % 16 + b.toNat % 16 + cin.toNat = a.toNat % 16 + 16 * H dif.2)

/-- R126, R146, R167: ADD to TEST in the forms of registers and immediates, 32 bits wide or under WIDE in even pairs: RA, but for CMP and TEST, takes the result and
the flags named change; no other register of any core, no memory and no register outside events and engines changes. ADD, ADC, SUB, SBB, AND, OR,
XOR, CMP, TEST.
R138, R146, R167: ADD to TEST with an operand in the core's own memory: forms +3 and +4 read it, forms +5 to +7 replace it, under ATOM too, and
CMP and TEST only set flags; memory outside the operand, other registers and other cores stay. ADD, ADC, SUB, SBB, AND, OR, XOR, CMP, TEST. -/
def Obligations.ArithmeticRows : Prop :=
  (∀ (s : State) (x : Sx) (o : Alu) (p : AluOp) (i : Instr) (ra rb : BitVec 4) (a b : Nat) (ks : List (BitVec 4)), s.dev.blow = [] →
    i = (match o with
      | .add => .add x p
      | .adc => .adc x p
      | .sub => .sub x p
      | .sbb => .sbb x p
      | .and => .and x p
      | .or => .or x p
      | .xor => .xor x p
      | .cmp => .cmp x p
      | .test => .test x p) →
    (p = .rr ra rb ∧ a = s.dev.gv x ra.toNat ∧ b = s.dev.gv x rb.toNat ∧ ks = [ra, rb]) ∨
      (∃ v, (p = .ri32 ra rb v ∨ ∃ v8 : BitVec 8, p = .ri8 ra rb v8 ∧ v = v8.signExtend 32) ∧ a = s.dev.gv x rb.toNat ∧ b = immVal x v ∧
        ks = if o.flagsOnly then [rb] else [ra, rb]) →
    evenIf (isWide x) ks = true → s.goes i = true → s.falls i = true →
    let c := s.dev.cpu x.core
    let r := aluOp o (opBits x) a b (c.flag flC)
    Runs i s (Leaves (s.dev.setCpu x.core (if o.flagsOnly then c.flags r.2 else c.wrote (isWide x) ra.toNat r.1 r.2)) x (s.past i))) ∧
  (∀ (s : State) (x : Sx) (o : Alu) (p : AluOp) (i : Instr) (ra rb : BitVec 4) (v : Word), s.dev.blow = [] →
    i = (match o with
      | .add => .add x p
      | .adc => .adc x p
      | .sub => .sub x p
      | .sbb => .sbb x p
      | .and => .and x p
      | .or => .or x p
      | .xor => .xor x p
      | .cmp => .cmp x p
      | .test => .test x p) →
    s.goes i = true → s.falls i = true →
    let c := s.dev.cpu x.core
    let a := (s.dev.ea x rb v).toNat
    let n := opBytes x
    let op := fun (l r : Nat) => aluOp o (opBits x) l r (c.flag flC)
    s.dev.ownFree x a n false = true →
    (p = .rm32 ra rb v ∨ (∃ v8 : BitVec 8, p = .rm8 ra rb v8 ∧ v = v8.signExtend 32) → evenIf (isWide x) [ra] = true →
      let r := op (s.dev.gv x ra.toNat) (s.dev.bytesNat a n)
      Runs i s (Leaves (s.dev.setCpu x.core (if o.flagsOnly then c.flags r.2 else c.wrote (isWide x) ra.toNat r.1 r.2)) x (s.past i))) ∧
    (∀ b, ((p = .mr32 ra rb v ∨ ∃ v8 : BitVec 8, p = .mr8 ra rb v8 ∧ v = v8.signExtend 32) ∧ evenIf (isWide x) [ra] = true ∧
          b = s.dev.gv x ra.toNat) ∨
        (∃ v8 im : BitVec 8, p = .mi8 ra rb v8 im ∧ v = v8.signExtend 32 ∧ b = immVal x (im.signExtend 32)) →
      let r := op (s.dev.bytesNat a n) b
      (o.flagsOnly = true → Runs i s (Leaves (s.dev.setCpu x.core (c.flags r.2)) x (s.past i))) ∧
      (o.flagsOnly = false → s.dev.ownFree x a n true = true → Runs i s (fun t =>
        t.dev.bytesNat a n = r.1 % 256 ^ n ∧ (∀ y, y < a ∨ a + n ≤ y → t.dev.byte y = s.dev.byte y) ∧
        Leaves ((s.dev.putNat a n r.1).setCpu x.core (c.flags r.2)) x (s.past i) t))))

/-- R128, R138, R167, R168, R183, Tables 5-4, 5-6: instructions on one register give it the value of the table and change the flags they name, nothing else: NEG, NOT, INC, DEC, SEXTB,
SEXTH, BSWAP, DAA, DAS, MOVFL, MOVTOFL, CLC, STC, LEA, MOV and NOP.
R172, R173: MUL and MULH give the low and the high half of the product, MUL with C and V where it exceeds 32 bits; DIVU and REMU the quotient and the remainder, and on a
zero divisor the divide-by-zero fault; a shift or rotate by the count modulo 32 gives RA its value and the last bit shifted out in C, V clear, and by 0
changes nothing. MUL, MULH, DIVU, REMU, SHL, SHR, SAR, ROL. -/
def Obligations.OneRegisterProductsAndShifts : Prop :=
  (∀ (s : State) (x : Sx) (ra rb : BitVec 4) (i : Instr), s.dev.blow = [] → s.goes i = true → s.falls i = true →
    let c := s.dev.cpu x.core
    let a := s.dev.g x.core ra.toNat
    let sum := addOp 32 a.toNat 1 false
    let dif := subOp 32 a.toNat 1 false
    let neg := subOp 32 0 a.toNat false
    (∀ (v : Word) (f : Flags),
      (i = .neg x ra rb ∧ v = -a ∧ f = neg.2) ∨ (i = .not x ra rb ∧ v = ~~~a ∧ f = {}) ∨
      (i = .inc x ra rb ∧ v = a + 1 ∧ f = { sum.2 with c := none }) ∨ (i = .dec x ra rb ∧ v = a - 1 ∧ f = { dif.2 with c := none }) ∨
      (i = .sextb x ra rb ∧ v = (a.truncate 8).signExtend 32 ∧ f = {}) ∨ (i = .sexth x ra rb ∧ v = (a.truncate 16).signExtend 32 ∧ f = {}) ∨
      (i = .bswap x ra rb ∧ v = (a.extractLsb' 0 8 ++ a.extractLsb' 8 8 ++ a.extractLsb' 16 8 ++ a.extractLsb' 24 8) ∧ f = {}) ∨
      (i = .daa x ra rb ∧ v = BitVec.ofNat 32 (daaOp a.toNat (c.flag flH)).1 ∧ f = (daaOp a.toNat (c.flag flH)).2) ∨
      (i = .das x ra rb ∧ v = BitVec.ofNat 32 (dasOp a.toNat (c.flag flH) (c.flag flC)).1 ∧ f = (dasOp a.toNat (c.flag flH) (c.flag flC)).2) ∨
      (i = .movfl x ra rb ∧ v = c.fl ∧ f = {}) ∨ (∃ d, i = .lea x ra rb d ∧ v = s.dev.g x.core rb.toNat + d ∧ f = {}) →
      Runs i s (Leaves (s.dev.setCpu x.core (c.wrote false ra.toNat v.toNat f)) x (s.past i))) ∧
    (i = .movtofl x ra rb → Runs i s (Leaves (s.dev.setCpu x.core { c with fl := (c.fl &&& ~~~0x5F) ||| (a &&& 0x5F) }) x (s.past i))) ∧
    (i = .clc x → Runs i s (Leaves (s.dev.setCpu x.core (c.setFl flC false)) x (s.past i))) ∧
    (i = .stc x → Runs i s (Leaves (s.dev.setCpu x.core (c.setFl flC true)) x (s.past i))) ∧
    (i = .nop x → Runs i s (Leaves s.dev x (s.past i))) ∧
    (∀ v : Nat, evenIf (isWide x) [ra] = true →
      (i = .mov x (.rr ra rb) ∧ evenIf (isWide x) [rb] = true ∧ v = s.dev.gv x rb.toNat) ∨
        (∃ m : BitVec 8, i = .mov x (.ri8 ra rb m) ∧ v = immVal x (m.signExtend 32)) ∨ (∃ m : Word, i = .mov x (.ri32 ra rb m) ∧ v = immVal x m) →
      Runs i s (Leaves (s.dev.setCpu x.core (c.wrote (isWide x) ra.toNat v {})) x (s.past i)))) ∧
  (∀ (s : State) (x : Sx) (ra rb : BitVec 4) (i : Instr), s.dev.blow = [] → s.goes i = true →
    let c := s.dev.cpu x.core
    let a := s.dev.g x.core ra.toNat
    let b := s.dev.g x.core rb.toNat
    let gives := fun (v : Word) (C V : Bool) => Runs i s (Leaves (s.dev.setCpu x.core (c.wrote false ra.toNat v.toNat
      { z := some (v == 0), n := some v.msb, c := some C, v := some V })) x (s.past i))
    (s.falls i = true → i = .mul x ra rb → gives (a * b) (decide (2 ^ 32 ≤ a.toNat * b.toNat)) (decide (2 ^ 32 ≤ a.toNat * b.toNat))) ∧
    (s.falls i = true → i = .mulh x ra rb → gives (BitVec.ofNat 32 (a.toNat * b.toNat / 2 ^ 32)) false false) ∧
    (s.falls i = true → i = .divu x ra rb → b ≠ 0 → gives (a / b) false false) ∧
    (s.falls i = true → i = .remu x ra rb → b ≠ 0 → gives (a % b) false false) ∧
    (i = .divu x ra rb ∨ i = .remu x ra rb → b = 0 → s.dev.exl x.core = false → s.dev.dryOn x.core = false →
      Runs i s (fun t => Entered c (isS x.core) 9 0 0 c.pc (t.dev.cpu x.core) ∧ t.dev.mem = s.dev.mem)) ∧
    (∀ (p : ShiftOp) (n : Nat), s.falls i = true →
      (p = .reg ra rb ∧ n = b.toNat % 32) ∨ (∃ m : BitVec 8, p = .imm ra rb m ∧ n = m.toNat % 32) →
      (i = .shl x p ∨ i = .shr x p ∨ i = .sar x p ∨ i = .rol x p → n = 0 → Runs i s (Leaves s.dev x (s.past i))) ∧
      (n ≠ 0 →
        (i = .shl x p → gives (a <<< n) (a.getLsbD (32 - n)) false) ∧ (i = .shr x p → gives (a >>> n) (a.getLsbD (n - 1)) false) ∧
        (i = .sar x p → gives (a.sshiftRight n) (a.getLsbD (n - 1)) false) ∧
        (i = .rol x p → gives (a.rotateLeft n) ((a.rotateLeft n).getLsbD 0) false))))

/-- R133, R138, R168, R171: loads of the core's own memory extend what they read by zeros or the sign into RA, an even pair under WIDE; stores write RA's bytes or the
immediate and change no other byte; XCHG swaps, with memory or with a register. LD, LDB, LDBS, LDH, LDHS, ST, STB, STH, STI, XCHG. -/
def Obligations.LoadsAndStoresOfOwnMemory : Prop :=
  ∀ (s : State) (x : Sx) (ra rb : BitVec 4) (d8 : BitVec 8) (i : Instr), s.dev.blow = [] → s.goes i = true → s.falls i = true →
    let c := s.dev.cpu x.core
    let n := opBytes x
    let base := s.dev.g x.core rb.toNat
    let short := base + d8.signExtend 32
    let loads := fun (v : Word) => Runs i s (Leaves (s.dev.setCpu x.core (c.wrote false ra.toNat v.toNat {})) x (s.past i))
    let stores := fun (a : Word) (w v : Nat) => Runs i s (fun t => t.dev.bytesNat a.toNat w = v % 256 ^ w ∧
      (∀ y, y < a.toNat ∨ a.toNat + w ≤ y → t.dev.byte y = s.dev.byte y) ∧ Leaves (s.dev.putNat a.toNat w v) x (s.past i) t)
    (∀ p, i = .ld x ra rb p → evenIf (isWide x) [ra] = true → s.dev.ownFree x (base + p.ext).toNat n false = true →
      Runs i s (Leaves (s.dev.setCpu x.core (c.wrote (isWide x) ra.toNat (s.dev.bytesNat (base + p.ext).toNat n) {})) x (s.past i))) ∧
    (s.dev.ownFree x short.toNat 1 false = true →
      let m : Byte := s.dev.byte short.toNat
      (i = .ldb x ra rb d8 → loads (m.zeroExtend 32)) ∧ (i = .ldbs x ra rb d8 → loads (m.signExtend 32))) ∧
    (s.dev.ownFree x short.toNat 2 false = true →
      let m : BitVec 16 := BitVec.ofNat 16 (s.dev.bytesNat short.toNat 2)
      (i = .ldh x ra rb d8 → loads (m.zeroExtend 32)) ∧ (i = .ldhs x ra rb d8 → loads (m.signExtend 32))) ∧
    (∀ p, s.dev.ownFree x (base + p.ext).toNat n true = true →
      (i = .st x ra rb p → evenIf (isWide x) [ra] = true → stores (base + p.ext) n (s.dev.gv x ra.toNat)) ∧
      (∀ m, i = .sti x ra rb p m → stores (base + p.ext) n (immVal x m))) ∧
    (i = .stb x ra rb d8 → s.dev.ownFree x short.toNat 1 true = true → stores short 1 (s.dev.g x.core ra.toNat).toNat) ∧
    (i = .sth x ra rb d8 → s.dev.ownFree x short.toNat 2 true = true → stores short 2 (s.dev.g x.core ra.toNat).toNat) ∧
    (i = .xchg x (.reg ra rb) → evenIf (isWide x) [ra, rb] = true → Runs i s (Leaves (s.dev.setCpu x.core
      ((c.wrote (isWide x) ra.toNat (s.dev.gv x rb.toNat) {}).wrote (isWide x) rb.toNat (s.dev.gv x ra.toNat) {})) x (s.past i))) ∧
    (i = .xchg x (.mem ra rb d8) → evenIf (isWide x) [ra] = true → s.dev.ownFree x short.toNat n false = true →
      s.dev.ownFree x short.toNat n true = true → Runs i s (fun t =>
        t.dev.bytesNat short.toNat n = s.dev.gv x ra.toNat ∧ (∀ y, y < short.toNat ∨ short.toNat + n ≤ y → t.dev.byte y = s.dev.byte y) ∧
        Leaves ((s.dev.putNat short.toNat n (s.dev.gv x ra.toNat)).setCpu x.core
          (c.wrote (isWide x) ra.toNat (s.dev.bytesNat short.toNat n) {})) x (s.past i) t))

/-- R126, R133, R158, R197, Table 4-10: outside dry-fit and outside a handler, an odd register of a pair is the illegal-operand fault with detail 0x1, a misaligned operand the alignment fault with its
address, a privileged instruction in user state the privilege fault, a reserved opcode, an absent one or a field that must be 0 the undefined-instruction fault, prefixes out of order or not accepted the
prefix-conflict fault: the handler's entry is taken, memory stays. RESERVED_OPCODE; LD, ST, LDH, LDHS, STH, MOV. -/
def Obligations.RefusedInstructionsTakeTheirFault : Prop :=
  ∀ (s : State) (x : Sx) (l : Ins) (i : Instr) (ra rb : BitVec 4), s.dev.blow = [] → sepOf i = some (x, l) → s.dev.exl x.core = false →
    s.dev.dryOn x.core = false →
    let c := s.dev.cpu x.core
    let takes := fun (vec det : Nat) (a : Word) => Runs i s (fun t => Entered c (isS x.core) vec det a c.pc (t.dev.cpu x.core) ∧ t.dev.mem = s.dev.mem)
    (∀ vec det, s.dev.fetches x l = true → (decodeFault x l).2 = some (vec, det) → takes vec det 0) ∧
    (∀ two, i = .reservedOpcode x two → x.pfx = [] → s.dev.fetches x l = true → takes 3 1 0) ∧
    (s.dev.fetches x l = true → (decodeFault x l).2 = none → l.priv = true → isS x.core = true → c.user = true → takes 4 0 0) ∧
    (s.goes i = true → hasPfx x .lane = false → hasPfx x .nodry = false →
      (isWide x = true → ra.toNat % 2 = 1 → i = .mov x (.rr ra rb) ∨ (∃ p, i = .ld x ra rb p) ∨ (∃ p, i = .st x ra rb p) → takes 8 1 0) ∧
      (∀ p : Disp, i = .ld x ra rb p ∨ i = .st x ra rb p → evenIf (isWide x) [ra] = true →
        (s.dev.g x.core rb.toNat + p.ext).toNat % opBytes x ≠ 0 → takes 10 0 (s.dev.g x.core rb.toNat + p.ext)) ∧
      (∀ d8 : BitVec 8, i = .ldh x ra rb d8 ∨ i = .ldhs x ra rb d8 ∨ i = .sth x ra rb d8 →
        (s.dev.g x.core rb.toNat + d8.signExtend 32).toNat % 2 ≠ 0 → takes 10 0 (s.dev.g x.core rb.toNat + d8.signExtend 32)))

/-- R147, R174, Table 5-7: Bcc goes on at next + displacement when its condition holds and at next when not; JMP and CALL go to their target, CALL with the address after it pushed;
RET goes to the address it pops. Registers other than the PC, and G15 of CALL and RET, stay. BCC, JMP, CALL, RET. -/
def Obligations.BranchesCallsAndReturns : Prop :=
  ∀ (s : State) (x : Sx) (ra rb : BitVec 4) (i : Instr), s.dev.blow = [] → s.goes i = true →
    let c := s.dev.cpu x.core
    let next := s.past i
    let sp := s.dev.g x.core 15
    (∀ cc p, i = .bcc x cc p →
      (c.cond cc = true → s.dev.calm x (next + p.ext) = true → Runs i s (Leaves s.dev x (next + p.ext))) ∧
      (c.cond cc = false → s.falls i = true → Runs i s (Leaves s.dev x next))) ∧
    (i = .jmp x ra rb → s.dev.calm x (s.dev.g x.core rb.toNat) = true → Runs i s (Leaves s.dev x (s.dev.g x.core rb.toNat))) ∧
    (∀ to', (∃ v, i = .call x (.rel v) ∧ to' = next + v) ∨ (i = .call x (.reg ra rb) ∧ to' = s.dev.g x.core rb.toNat) →
      s.dev.ownFree x (sp - 4).toNat 4 true = true → s.dev.calm x to' = true → Runs i s (fun t =>
        t.dev.bytesNat (sp - 4).toNat 4 = next.toNat ∧
        (∀ y, y < (sp - 4).toNat ∨ (sp - 4).toNat + 4 ≤ y → t.dev.byte y = s.dev.byte y) ∧
        Leaves ((s.dev.putNat (sp - 4).toNat 4 next.toNat).setCpu x.core (c.setGr 15 (sp - 4))) x to' t)) ∧
    (i = .ret x → s.dev.ownFree x sp.toNat 4 false = true →
      let to' := BitVec.ofNat 32 (s.dev.bytesNat sp.toNat 4)
      s.dev.calm x to' = true → Runs i s (Leaves (s.dev.setCpu x.core (c.setGr 15 (sp + 4))) x to'))

/-- R127, R157, R170: PUSH stores RA as it stood below G15 and lowers G15 by 4, POP reverses it (POP G15 leaves the loaded word), PUSHM and POPM do so for the registers of a mask, the lowest at the lowest address; a mask with bit 15 is the
illegal-operand fault with detail 0x9. PUSH, POP, PUSHM, POPM. -/
def Obligations.TheStackKeepsRegisters : Prop :=
  ∀ (s : State) (x : Sx) (ra rb : BitVec 4) (mask : BitVec 16) (i : Instr), s.dev.blow = [] → s.goes i = true →
    let c := s.dev.cpu x.core
    let sp := s.dev.g x.core 15
    let ks := (List.range 15).filter (fun k => mask.getLsbD k)
    let low := sp - BitVec.ofNat 32 (4 * ks.length)
    (s.falls i = true → i = .push x ra rb → s.dev.ownFree x (sp - 4).toNat 4 true = true → Runs i s (fun t =>
      t.dev.bytesNat (sp - 4).toNat 4 = (s.dev.g x.core ra.toNat).toNat ∧
      (∀ y, y < (sp - 4).toNat ∨ (sp - 4).toNat + 4 ≤ y → t.dev.byte y = s.dev.byte y) ∧
      Leaves ((s.dev.putNat (sp - 4).toNat 4 (s.dev.g x.core ra.toNat).toNat).setCpu x.core (c.setGr 15 (sp - 4))) x (s.past i) t)) ∧
    (s.falls i = true → i = .pop x ra rb → s.dev.ownFree x sp.toNat 4 false = true → Runs i s (Leaves (s.dev.setCpu x.core
      ((c.setGr 15 (sp + 4)).setGr ra.toNat (BitVec.ofNat 32 (s.dev.bytesNat sp.toNat 4)))) x (s.past i))) ∧
    (s.falls i = true → i = .pushm x mask → mask.getLsbD 15 = false → 4 * ks.length ≤ sp.toNat →
      (∀ k, k < ks.length → s.dev.ownFree x (low.toNat + 4 * k) 4 true = true) → Runs i s (fun t =>
        (∀ k, k < ks.length → t.dev.bytesNat (low.toNat + 4 * k) 4 = (s.dev.g x.core (ks.getD k 0)).toNat) ∧
        (∀ y, y < low.toNat ∨ low.toNat + 4 * ks.length ≤ y → t.dev.byte y = s.dev.byte y) ∧
        t.dev.cpu x.core = { c.setGr 15 low with pc := s.past i } ∧ (∀ c', c' ≠ x.core → t.dev.cpu c' = s.dev.cpu c') ∧
        RegsKept [.eng, .evt] s.dev t.dev)) ∧
    (s.falls i = true → i = .popm x mask → mask.getLsbD 15 = false → sp.toNat + 4 * ks.length < 2 ^ 32 →
      (∀ k, k < ks.length → s.dev.ownFree x (sp.toNat + 4 * k) 4 false = true) → Runs i s (fun t =>
        (∀ k, k < ks.length → t.dev.g x.core (ks.getD k 0) = BitVec.ofNat 32 (s.dev.bytesNat (sp.toNat + 4 * k) 4)) ∧
        (∀ k, k < 15 → k ∉ ks → t.dev.g x.core k = s.dev.g x.core k) ∧ t.dev.g x.core 15 = sp + BitVec.ofNat 32 (4 * ks.length) ∧
        (t.dev.cpu x.core).fl = c.fl ∧ (t.dev.cpu x.core).pc = s.past i ∧ (∀ c', c' ≠ x.core → t.dev.cpu c' = s.dev.cpu c') ∧
        t.dev.mem = s.dev.mem ∧ RegsKept [.eng, .evt] s.dev t.dev)) ∧
    (i = .pushm x mask ∨ i = .popm x mask → mask.getLsbD 15 = true → s.dev.exl x.core = false → s.dev.dryOn x.core = false →
      Runs i s (fun t => Entered c (isS x.core) 8 9 0 c.pc (t.dev.cpu x.core) ∧ t.dev.mem = s.dev.mem))

/-- R130, R131, R175, Table 5-8: on the general bits 0x000 to 0x7FF, bit instructions set their one bit to the value of the table and nothing else, and a write of a read-only bit, from 0xC00 on, is ignored; loads of a bit and BTST read any bit variable and
write only RA or Z; the bit branches go on at next + disp8 as their bit directs, BRBC with the bit cleared. BSET, BCLR, BCPL, BMOV, BAND, BOR, BXOR, BANDN,
BLD, BST, BLDI, BSTI, BTST, BRB, BRNB, BRBC. -/
def Obligations.BitInstructionsChangeOneBit : Prop :=
  ∀ (s : State) (x : Sx) (ra rb : BitVec 4) (v : BitVec 16) (w : BitVec 32) (d8 : BitVec 8) (i : Instr), s.dev.blow = [] → s.goes i = true →
    let c := s.dev.cpu x.core
    let bit := fun (a : Nat) => s.dev.bitRead x.core a
    let a := s.dev.g x.core ra.toNat
    let b := s.dev.g x.core rb.toNat
    let sets := fun (k : Nat) (on : Bool) => Runs i s (Leaves (s.dev.setCpu x.core { c with bits := Tab.put c.bits false k on }) x (s.past i))
    let ba := (w.truncate 12).toNat
    let bb := ((w >>> 16).truncate 12).toNat
    (s.falls i = true → v.toNat < 0x800 →
      (i = .bset x v → sets v.toNat true) ∧ (i = .bclr x v → sets v.toNat false) ∧ (i = .bcpl x v → sets v.toNat (!bit v.toNat)) ∧
      (i = .bst x ra rb v → sets v.toNat (a.getLsbD 0))) ∧
    (s.falls i = true → 0xC00 ≤ v.toNat → i = .bset x v ∨ i = .bclr x v ∨ i = .bcpl x v ∨ i = .bst x ra rb v →
      Runs i s (Leaves s.dev x (s.past i))) ∧
    (s.falls i = true → i = .bsti x ra rb → (b.truncate 12).toNat < 0x800 → sets (b.truncate 12).toNat (a.getLsbD 0)) ∧
    (s.falls i = true → ba < 0x800 →
      (i = .bmov x w → sets ba (bit bb)) ∧ (i = .band x w → sets ba (bit ba && bit bb)) ∧ (i = .bor x w → sets ba (bit ba || bit bb)) ∧
      (i = .bxor x w → sets ba (bit ba ^^ bit bb)) ∧ (i = .bandn x w → sets ba (bit ba && !bit bb))) ∧
    (∀ on : Bool, s.falls i = true → (i = .bld x ra rb v ∧ on = bit v.toNat) ∨ (i = .bldi x ra rb ∧ on = bit (b.truncate 12).toNat) →
      Runs i s (Leaves (s.dev.setCpu x.core (c.setGr ra.toNat (if on then 1 else 0))) x (s.past i))) ∧
    (s.falls i = true → i = .btst x v → Runs i s (Leaves (s.dev.setCpu x.core (c.setFl flZ (!bit v.toNat))) x (s.past i))) ∧
    (∀ taken : Bool, (i = .brb x d8 v ∧ taken = bit v.toNat) ∨ (i = .brnb x d8 v ∧ taken = !bit v.toNat) →
      let to' := if taken then s.past i + d8.signExtend 32 else s.past i
      s.dev.calm x to' = true → Runs i s (Leaves s.dev x to')) ∧
    (i = .brbc x d8 v →
      (bit v.toNat = true → v.toNat < 0x800 → s.dev.calm x (s.past i + d8.signExtend 32) = true →
        Runs i s (Leaves (s.dev.setCpu x.core { c with bits := Tab.put c.bits false v.toNat false }) x (s.past i + d8.signExtend 32))) ∧
      (bit v.toNat = false → s.falls i = true → Runs i s (Leaves s.dev x (s.past i))))

/-- R142, R177, Table 5-9: one element of a string instruction in the core's own memory copies, compares, scans or stores and advances the pointers it names by the element's
width; with REP or REPZ and G14 = 0 nothing is processed. Other registers and memory stay. MOVSB, MOVSW, MOVSD, CMPSB, CMPSW, SCASB, STOSB, STOSW.
R131, R142, R177, Table 5-10: one element of a bit block moves, clears, sets, compares, counts or scans its bit and advances the pointers it names; BBCLR and BBSET under REP give the value to G14 general bits from G13 on, and to no other bit, with G13 past them and G14 = 0.
BBMOV, BBCLR, BBSET, BBCMP, BBCNT, BBSCAN. -/
def Obligations.StringAndBitBlockElements : Prop :=
  (∀ (s : State) (x : Sx) (ra rb : BitVec 4) (i : Instr) (w : Nat), s.dev.blow = [] → s.goes i = true → s.falls i = true →
    let c := s.dev.cpu x.core
    let src := s.dev.g x.core 12
    let dst := s.dev.g x.core 13
    let move := (i = .movsb x ∧ w = 1) ∨ (i = .movsw x ∧ w = 4) ∨ (i = .movsd x ∧ w = 8)
    let compare := (i = .cmpsb x ∧ w = 1) ∨ (i = .cmpsw x ∧ w = 4)
    let scan := i = .scasb x ra rb ∧ w = 1
    let store := (i = .stosb x ra rb ∧ w = 1) ∨ (i = .stosw x ra rb ∧ w = 4)
    ((hasPfx x .rep || hasPfx x .repz) = true → s.dev.g x.core 14 = 0 → move ∨ compare ∨ scan ∨ store → Runs i s (Leaves s.dev x (s.past i))) ∧
    (hasPfx x .rep = false → hasPfx x .repz = false →
      (∀ v y, (move ∧ s.dev.ownFree x src.toNat w false = true ∧ v = s.dev.bytesNat src.toNat w ∧ y = (c.setGr 12 (src + BitVec.ofNat 32 w)).setGr 13 (dst + BitVec.ofNat 32 w)) ∨
          (store ∧ v = (s.dev.g x.core ra.toNat).toNat % 256 ^ w ∧ y = c.setGr 13 (dst + BitVec.ofNat 32 w)) →
        s.dev.ownFree x dst.toNat w true = true → Runs i s (fun t =>
          t.dev.bytesNat dst.toNat w = v ∧ (∀ b, b < dst.toNat ∨ dst.toNat + w ≤ b → t.dev.byte b = s.dev.byte b) ∧
          Leaves ((s.dev.putNat dst.toNat w v).setCpu x.core y) x (s.past i) t)) ∧
      (compare → s.dev.ownFree x src.toNat w false = true → s.dev.ownFree x dst.toNat w false = true →
        Runs i s (Leaves (s.dev.setCpu x.core (((c.flags (subOp (8 * w) (s.dev.bytesNat src.toNat w) (s.dev.bytesNat dst.toNat w) false).2).setGr 12
          (src + BitVec.ofNat 32 w)).setGr 13 (dst + BitVec.ofNat 32 w))) x (s.past i))) ∧
      (scan → s.dev.ownFree x src.toNat 1 false = true →
        Runs i s (Leaves (s.dev.setCpu x.core ((c.flags (subOp 8 ((s.dev.g x.core ra.toNat).toNat % 256) (s.dev.byte src.toNat).toNat false).2).setGr 12
          (src + 1))) x (s.past i))))) ∧
  (∀ (s : State) (x : Sx) (ra rb : BitVec 4) (i : Instr), s.dev.blow = [] → s.goes i = true → s.falls i = true →
    let c := s.dev.cpu x.core
    let src := s.dev.g x.core 12
    let dst := s.dev.g x.core 13
    let at' := fun (p : Word) => (p.truncate 12).toNat
    let put := fun (k : Nat) (on : Bool) => { c with bits := Tab.put c.bits false k on }
    let leaves := fun (y : Cpu) => Runs i s (Leaves (s.dev.setCpu x.core y) x (s.past i))
    let bit := fun (p : Word) => s.dev.bitRead x.core (at' p)
    (hasPfx x .rep = false → hasPfx x .repz = false →
      (at' dst < 0x800 →
        (i = .bbmov x → leaves (((put (at' dst) (bit src)).setGr 12 (src + 1)).setGr 13 (dst + 1))) ∧
        (i = .bbclr x → leaves ((put (at' dst) false).setGr 13 (dst + 1))) ∧ (i = .bbset x → leaves ((put (at' dst) true).setGr 13 (dst + 1)))) ∧
      (i = .bbcmp x → leaves (((c.setFl flZ (bit src == bit dst)).setGr 12 (src + 1)).setGr 13 (dst + 1))) ∧
      (i = .bbcnt x ra rb → leaves ((c.setGr ra.toNat (s.dev.g x.core ra.toNat + if bit src then 1 else 0)).setGr 12
        ((if ra = 12 then src + if bit src then 1 else 0 else src) + 1))) ∧
      (i = .bbscan x ra rb → leaves (((c.setGr ra.toNat src).setFl flZ (!bit src)).setGr 12 (src + 1)))) ∧
    (∀ on : Bool, hasPfx x .rep = true → (i = .bbclr x ∧ on = false) ∨ (i = .bbset x ∧ on = true) →
      dst.toNat + (s.dev.g x.core 14).toNat ≤ 0x800 → Runs i s (fun t =>
        let y := t.dev.cpu x.core
        (∀ k, k < 0x800 → Tab.look y.bits false k =
          if dst.toNat ≤ k ∧ k < dst.toNat + (s.dev.g x.core 14).toNat then on else Tab.look c.bits false k) ∧
        y.gr 13 = dst + s.dev.g x.core 14 ∧ y.gr 14 = 0 ∧ (∀ k, k ≠ 13 → k ≠ 14 → y.gr k = c.gr k) ∧ y.fl = c.fl ∧ y.pc = s.past i ∧
        (∀ c', c' ≠ x.core → t.dev.cpu c' = s.dev.cpu c') ∧ t.dev.mem = s.dev.mem ∧ RegsKept [.eng, .evt] s.dev t.dev)))

/-- R149, R181, R182: BCDADC and BCDSBC give the decimal sum and difference of their low n bytes and the carry, with C the carry or borrow of the top digit, BCD2BIN the number that the digits of RB spell, BIN2BCD the low 2n digits of RB; an operand with a digit above 9 only sets V and clears Z, N and H; n = 0 or above 8 is the
illegal-operand fault with detail 0x2. BCDADC, BCDSBC, BCD2BIN, BIN2BCD. -/
def Obligations.PackedDecimal : Prop :=
  ∀ (s : State) (x : Sx) (ra rb : BitVec 4) (n8 : BitVec 8) (i : Instr), s.dev.blow = [] → s.goes i = true →
    let c := s.dev.cpu x.core
    let n := n8.toNat
    let two := decide (4 < n)
    let reg := fun (k : BitVec 4) => (s.dev.g x.core k.toNat).toNat + if two then 2 ^ 32 * (s.dev.g x.core (k.toNat + 1)).toNat else 0
    let num := fun (v : Nat) => ofDigits (digits n v)
    let cin := (c.flag flC).toNat
    (n = 0 ∨ 8 < n → i = .bcdadc x ra rb n8 ∨ i = .bcdsbc x ra rb n8 ∨ i = .bcd2bin x ra rb n8 ∨ i = .bin2bcd x ra rb n8 →
      s.dev.exl x.core = false → s.dev.dryOn x.core = false →
      Runs i s (fun t => Entered c (isS x.core) 8 2 0 c.pc (t.dev.cpu x.core) ∧ t.dev.mem = s.dev.mem)) ∧
    (1 ≤ n → n ≤ 8 → evenIf two [ra, rb] = true → s.falls i = true →
      let bad := Runs i s (Leaves (s.dev.setCpu x.core (c.flags { z := some false, n := some false, v := some true, h := some false })) x (s.past i))
      let gives := fun (P : Nat → Prop) (C H : Bool) => ∃ r, P r ∧ Runs i s (Leaves (s.dev.setCpu x.core (c.wrote two ra.toNat r
        { z := some (r == 0), n := some false, c := some C, v := some false, h := some H })) x (s.past i))
      let bcd := fun (v r : Nat) => r < 256 ^ n ∧ badDigits n r = false ∧ num r = v
      (badDigits n (reg rb) = true → i = .bcdadc x ra rb n8 ∨ i = .bcdsbc x ra rb n8 ∨ i = .bcd2bin x ra rb n8 → bad) ∧
      (badDigits n (reg ra) = true → i = .bcdadc x ra rb n8 ∨ i = .bcdsbc x ra rb n8 → bad) ∧
      (badDigits n (reg rb) = false → i = .bcd2bin x ra rb n8 → gives (fun r => r = num (reg rb)) false false) ∧
      (i = .bin2bcd x ra rb n8 → gives (bcd (reg rb % 10 ^ (2 * n))) (decide (10 ^ (2 * n) ≤ reg rb)) false) ∧
      (badDigits n (reg ra) = false → badDigits n (reg rb) = false →
        (i = .bcdadc x ra rb n8 → gives (bcd ((num (reg ra) + num (reg rb) + cin) % 10 ^ (2 * n))) (decide (10 ^ (2 * n) ≤ num (reg ra) + num (reg rb) + cin))
          (decide (10 ≤ reg ra % 16 + reg rb % 16 + cin))) ∧
        (i = .bcdsbc x ra rb n8 → gives (bcd ((num (reg ra) + 10 ^ (2 * n) - (num (reg rb) + cin)) % 10 ^ (2 * n))) (decide (num (reg ra) < num (reg rb) + cin))
          (decide (reg ra % 16 < reg rb % 16 + cin)))))

/-- R84, R88, R94, R186, R188, R192: WQNEXT outside dry-fit takes the oldest item with its descriptor and checkpoint, or waits; in a handler under dry-fit it ends the handler. DFEND pass gives a software-verdict item its
verdict, once, and else has no effect; DFEND fail drops the item in hand, and so does a WQNEXT that a software-verdict item reaches without a verdict. FPLEN gives the bytes arrived and FEND. WQNEXT, DFEND_PASS, DFEND_FAIL, FPLEN. -/
def Obligations.ItemsAreTakenJudgedAndEnded : Prop :=
  ∀ (s : State) (n : Fin 32) (pfx : List Pfx) (i : Instr), s.dev.blow = [] → s.goes i = true →
    let x : Sx := ⟨.ce n, pfx⟩
    let g := s.dev.e n
    let only := fun (e : Eng) (t : State) => t.dev = s.dev.setE n e
    (i = .wqnext x →
      (∀ h, g.hand = some h → g.dry = true → ¬(h.item.vsrc = 3 ∧ h.soft = none) → Runs i s (only { g with run := .atEnd })) ∧
      (g.hand = none → s.dev.engHold n = true → Runs i s (only { g with run := .halted })) ∧
      (g.hand = none → s.dev.engHold n = false → g.wq = [] →
        Runs i s (only { g with bin := min 8 (s.dev.f CLK_ENGPLL_BIN), run := .idle })) ∧
      (∀ it rest, g.hand = none → s.dev.engHold n = false → g.wq = it :: rest → s.falls i = true →
        (it.vsrc ≠ 3 → (s.dev.fr it.frame).known = true → (s.dev.fr it.frame).good = true) →
        (it.vsrc = 3 → (s.dev.fr it.frame).ended = true → (s.dev.fr it.frame).good = true) →
        Runs i s (fun t =>
          let c := (t.dev.e n).cpu
          c.r 0 = BitVec.ofNat 32 (it.lane % 64 + it.vsrc % 4 * 256) ∧ c.r 1 = BitVec.ofNat 32 (it.ctx.getD 0xFFFFFFFF) ∧
          c.r 2 = BitVec.ofNat 32 it.frame ∧ c.r 3 = BitVec.ofNat 32 it.sof ∧ (∀ k, 4 ≤ k → c.r k = g.cpu.r k) ∧
          (∀ k, c.fl.getLsbD k = if k = 5 then true else g.cpu.fl.getLsbD k) ∧ c.pc = s.past i ∧ (t.dev.e n).run = .run ∧
          (t.dev.e n).wq = rest ∧ (t.dev.e n).hand = some { item := it } ∧ (t.dev.e n).cbuf = [] ∧ (t.dev.e n).rset = [] ∧
          (t.dev.e n).ck = some { g := c.g, pc := c.pc, fl := c.fl, bits := c.bits, wq := g.cpu.pc } ∧
          (∀ c', c' ≠ x.core → t.dev.cpu c' = s.dev.cpu c') ∧ t.dev.mem = s.dev.mem ∧ t.dev.frames = s.dev.frames ∧
          RegsKept [.eng, .evt] s.dev t.dev))) ∧
    (i = .dfendPass x 0 → s.falls i = true →
      (∀ h, g.hand = some h → g.dry = true → h.item.vsrc = 3 → h.soft = none →
        Runs i s (Leaves (s.dev.setE n { g with hand := some { h with soft := some true, stamp := s.dev.stamp } }) x (s.past i))) ∧
      (∀ h, g.hand = some h → g.dry = false ∨ h.item.vsrc ≠ 3 ∨ h.soft ≠ none → Runs i s (Leaves s.dev x (s.past i))) ∧
      (g.hand = none → Runs i s (Leaves s.dev x (s.past i)))) ∧
    (∀ h c, g.hand = some h → g.ck = some c → g.dry = true → s.dev.b SWC_FORCTL_EN = false →
      i = .dfendFail x 0 ∨ (i = .wqnext x ∧ h.item.vsrc = 3 ∧ h.soft = none) → Runs i s (fun t =>
        Dropped g c t.dev n ∧ t.dev.rd ENG_CNT_BAD n = BitVec.ofNat 32 (satAdd 0xFFFFFFFF (s.dev.rd ENG_CNT_BAD n).toNat 1) ∧
        t.dev.mem = s.dev.mem ∧ RegsKept [.eng, .evt, .eth, .swc] s.dev t.dev ∧ t.dev.holdsToken n = false)) ∧
    (i = .dfendFail x 0 → g.hand = none ∨ g.dry = false → s.falls i = true → Runs i s (Leaves s.dev x (s.past i))) ∧
    (∀ ra : BitVec 4, i = .fplen x ra 0 → s.falls i = true →
      (∀ h, g.hand = some h → Runs i s (Leaves (s.dev.setCpu x.core (g.cpu.setGr ra.toNat
        (BitVec.ofNat 32 ((s.dev.fr h.item.frame).arrived % 2 ^ 14 + if (s.dev.fr h.item.frame).fin then 2 ^ 31 else 0)))) x (s.past i))) ∧
      (g.hand = none → Runs i s (Leaves (s.dev.setCpu x.core (g.cpu.setGr ra.toNat 0)) x (s.past i))))

/-- R90, R98, R99, R150, R189, R190, R191, R197: under dry-fit TXARM, EVRAISE and JWRITE each make one entry of the commit buffer (with room for it), TXARM its slot armed; outside dry-fit EVRAISE raises its source and JWRITE hands the record to the journal queue; a relay marks its
frame and item at once, and waits where the lane is faster and the frame has not arrived; TXMEM under dry-fit stalls for an early commit, outside it queues the bytes of comb memory as a new frame of the lane and class. An operand
refused takes the illegal-operand fault with its detail. TXARM, TXARM_RELAY, TXMEM, EVRAISE, JWRITE. -/
def Obligations.EngineInstructionsSendAndRecord : Prop :=
  ∀ (s : State) (n : Fin 32) (pfx : List Pfx) (i : Instr) (ra rb : BitVec 4) (slot : BitVec 2) (bs : BitVec 4) (tc : BitVec 3),
    s.dev.blow = [] → s.goes i = true →
    let x : Sx := ⟨.ce n, pfx⟩
    let g := s.dev.e n
    let a := s.dev.g x.core ra.toNat
    let p := s.dev.f ENG_BIND_LANE n bs.toNat
    let fits := s.dev.b ENG_BIND_VALID n bs.toNat = true ∧ (p < 24 ∨ tc = 0)
    let enters := fun (e : Entry) (ss : Tab Slot) => g.dry = true → g.cbuf.length < 64 → s.falls i = true →
      Runs i s (Leaves (s.dev.setE n { g with cbuf := g.cbuf ++ [e], slots := ss }) x (s.past i))
    let faults := fun (det : Nat) => g.dry = false → s.dev.exl x.core = false →
      Runs i s (fun t => Entered g.cpu false 8 det 0 g.cpu.pc (t.dev.cpu x.core) ∧ t.dev.mem = s.dev.mem)
    (i = .txarm x ra slot bs tc 0 →
      (¬fits → faults 7) ∧ (fits → a = 0 ∨ s.dev.maxFrame p false < a.toNat → faults 6) ∧
      (fits → 0 < a.toNat → a.toNat ≤ s.dev.maxFrame p false → (s.dev.slot n slot.toNat).st = .free →
        enters (.arm slot.toNat bs.toNat tc.toNat a.toNat) (Tab.put g.slots {} slot.toNat { s.dev.slot n slot.toNat with st := .armed })) ∧
      (fits → 0 < a.toNat → a.toNat ≤ s.dev.maxFrame p false → (s.dev.slot n slot.toNat).st ≠ .free →
        Runs i s (fun t => t.dev = s.dev.setE n { g with run := .slot slot.toNat }))) ∧
    (i = .txarmRelay x bs tc 0 →
      (s.dev.b ENG_BIND_VALID n bs.toNat = false ∨ 24 ≤ p ∨ g.hand = none → faults 7) ∧
      (∀ h, g.hand = some h → s.dev.b ENG_BIND_VALID n bs.toNat = true → p < 24 →
        let f := s.dev.fr h.item.frame
        let done := { g with hand := some { h with relayed := true } }
        f.port < 24 → s.falls i = true →
        (f.relay ≠ none → Runs i s (Leaves (s.dev.setE n done) x (s.past i))) ∧
        (f.relay = none → f.fin = false → s.dev.kbps f.port < s.dev.kbps p → Runs i s (Leaves ((s.dev.setFr h.item.frame { f with
          relay := some p
          relayHeld := true
          tc := tc.toNat
          holders := f.holders + 1 }).setE n done) x (s.past i))))) ∧
    (i = .txmem x ra rb 0 bs tc 0 →
      let w := s.dev.g x.core rb.toNat
      (¬fits → faults 7) ∧
      (fits → w.toNat % 8 = 0 → regionOf w.toNat = .comb → 0 < a.toNat → a.toNat ≤ s.dev.maxFrame p true →
        (∀ h, g.dry = true → g.hand = some h → h.item.vsrc ≠ 3 → s.dev.verdict h ≠ some true →
          Runs i s (fun t => t.dev = s.dev.setE n { g with run := .early })) ∧
        (g.dry = false → p < 24 → s.falls i = true → (∀ k, k < (a.toNat + 7) / 8 → s.dev.combFree (.ce n) (w.toNat + 8 * k) 8 false = true) →
          s.dev.qCells (8 * p + tc.toNat) + cellsOf a.toNat ≤ s.dev.qLimit (8 * p + tc.toNat) → cellsOf a.toNat ≤ s.dev.sharedFree →
          s.dev.frames.all (fun e => e.1 != s.dev.nextFr) = true → Runs i s (fun t =>
            let k := s.dev.nextFr
            (t.dev.fr k).bytes = (List.range a.toNat).map (fun j => s.dev.byte (w.toNat + j)) ∧ (t.dev.fr k).tc = tc.toNat ∧ (t.dev.fr k).holders = 1 ∧
            t.dev.q (8 * p + tc.toNat) = s.dev.q (8 * p + tc.toNat) ++ [{ fr := k, cells := cellsOf a.toNat, src := .mem n, raw := true }] ∧
            (∀ j, j ≠ 8 * p + tc.toNat → t.dev.q j = s.dev.q j) ∧ (∀ j, j ≠ k → t.dev.fr j = s.dev.fr j) ∧ t.dev.freeCells + cellsOf a.toNat = s.dev.freeCells ∧
            t.dev.cpu x.core = { g.cpu with pc := s.past i } ∧ t.dev.mem = s.dev.mem ∧ RegsKept [.eng, .evt, .swc] s.dev t.dev)))) ∧
    (∀ v : BitVec 16, i = .evraise x v →
      (s.dev.mayRaise (.ce n) v.toNat = false → faults 5) ∧
      (s.dev.mayRaise (.ce n) v.toNat = true → enters (.event v.toNat) g.slots) ∧
      (s.dev.mayRaise (.ce n) v.toNat = true → g.dry = false → s.falls i = true →
        Runs i s (fun t => t.dev.evPending v.toNat = true ∧ t.dev.cpu x.core = { g.cpu with pc := s.past i } ∧ t.dev.mem = s.dev.mem ∧
          (∀ c', c' ≠ x.core → t.dev.cpu c' = s.dev.cpu c') ∧ RegsKept [.eng, .evt] s.dev t.dev))) ∧
    (i = .jwrite x 0 rb →
      let w := s.dev.g x.core rb.toNat
      let ws := (List.range 8).map (fun k => s.dev.word (w.toNat + 4 * k))
      w.toNat % 32 = 0 → regionOf w.toNat = .data n → s.dev.memFree w.toNat 32 = true →
      ((ws.getD 2 0).toNat % 4 = 3 → faults 10) ∧
      ((ws.getD 2 0).toNat % 4 < 3 → g.dry = true → g.cbuf = [] → s.falls i = true →
        Runs i s (Leaves (s.dev.setE n { g with cbuf := [.record ws] }) x (s.past i))) ∧
      ((ws.getD 2 0).toNat % 4 < 3 → g.dry = false → s.dev.jq.length < 64 → s.falls i = true → Runs i s (fun t =>
        (∃ more, t.dev.jq = s.dev.jq ++ [{ origin := 264 + n.val, time := s.dev.jtime, cls := (ws.getD 2 0).toNat % 4, row := some ws }] ++ more) ∧
        t.dev.cpu x.core = { g.cpu with pc := s.past i } ∧ t.dev.mem = s.dev.mem ∧
        (∀ c', c' ≠ x.core → t.dev.cpu c' = s.dev.cpu c') ∧ RegsKept [.eng, .evt] s.dev t.dev)))

/-- R107, R152, R153, R154, R156, R157, R160, R193, R194, R195: BRK and SVC enter their vector with the address of the next instruction saved; ERET restores FL, the mode and the interrupt enable, clears EXL and goes to CR_EPC; MOVC reads and writes
control registers, RO fields kept; INTON and INTOFF set CR_PSR.IE; FENCE puts the protection settings written in force and leaves the rest; WFI waits unless an interrupt line or an NMI is pending. BRK, SVC, ERET, MOVC_READ, MOVC_WRITE,
INTON, INTOFF, FENCE, WFI. -/
def Obligations.SystemInstructions : Prop :=
  ∀ (s : State) (x : Sx) (i : Instr) (ra : BitVec 4), s.dev.blow = [] → s.goes i = true →
    let c := s.dev.cpu x.core
    let sv := isS x.core
    let enters := fun (vec : Nat) => Runs i s (fun t => Entered c sv vec 0 0 (s.past i) (t.dev.cpu x.core) ∧ t.dev.mem = s.dev.mem)
    let leaves := fun (y : Cpu) => Runs i s (Leaves (s.dev.setCpu x.core y) x (s.past i))
    (s.dev.exl x.core = false → s.dev.dryOn x.core = false → (i = .brk x → enters 6) ∧ (∀ n, i = .svc x n → enters 7)) ∧
    (i = .eret x → s.dev.calm x c.epc = true → (x.core = .sv0 → s.dev.nmip = false) → Runs i s (fun t =>
      let k := t.dev.cpu x.core
      k.pc = c.epc ∧ k.fl = (c.fl &&& ~~~0x5F) ||| (c.efl &&& 0x5F) ∧ (∀ b, k.estat.getLsbD b = (c.estat.getLsbD b && decide (b ≠ 0))) ∧ k.g = c.g ∧
      (sv = true → k.psr.getLsbD 0 = c.estat.getLsbD 1 ∧ k.psr.getLsbD 1 = c.estat.getLsbD 2 ∧ k.mpu0 = c.mpu ∧ k.mpuCtl0 = c.mpuctl) ∧
      (sv = false → k = { c with pc := k.pc, fl := k.fl, estat := k.estat }) ∧ k.epc = c.epc ∧ k.efl = c.efl ∧ k.ecause = c.ecause ∧
      k.vbase = c.vbase ∧ k.usp = c.usp ∧ k.mpu = c.mpu ∧ (∀ c', c' ≠ x.core → t.dev.cpu c' = s.dev.cpu c') ∧ t.dev.mem = s.dev.mem)) ∧
    (∀ cr : BitVec 8, i = .movcRead x ra 0 cr → s.falls i = true → ∀ v : Word,
      (cr = 0 ∧ v = c.vbase) ∨ (cr = 1 ∧ v = c.epc) ∨ (cr = 2 ∧ v = c.efl) ∨ (cr = 3 ∧ v = c.ecause) ∨ (cr = 4 ∧ v = c.eaddr) ∨ (cr = 5 ∧ v = c.estat) ∨
        (cr = 6 ∧ v = c.scr0) ∨ (cr = 7 ∧ v = c.scr1) ∨ (cr = 8 ∧ v = BitVec.ofNat 32 (x.core.master.num + if sv then 256 else 0)) ∨
        (cr = 9 ∧ v = c.libbase) ∨ (cr = 0x10 ∧ v = putBits c.psr 2 1 (if x.core = .sv0 then 1 else 0)) ∨ (cr = 0x11 ∧ v = c.usp) ∨
        (cr = 0x18 ∧ v = c.mpuctl) ∨ (cr = 0x19 ∧ v = c.mpusel) ∨
        (0x1A ≤ cr.toNat ∧ cr.toNat ≤ 0x1C ∧ v = Tab.look c.mpu 0 (4 * (c.mpusel.toNat % 16) + (cr.toNat - 0x1A))) →
      leaves (c.setGr ra.toNat v)) ∧
    (∀ cr : BitVec 8, i = .movcWrite x ra 0 cr → s.falls i = true →
      let v := s.dev.g x.core ra.toNat
      (cr = 0 → leaves { c with vbase := v &&& 0xFFFFFF00 }) ∧ (cr = 1 → leaves { c with epc := v }) ∧ (cr = 2 → leaves { c with efl := v }) ∧
      (cr = 6 → leaves { c with scr0 := v }) ∧ (cr = 7 → leaves { c with scr1 := v }) ∧
      (cr = 3 ∨ cr = 4 ∨ cr = 8 ∨ cr = 9 → leaves c) ∧
      (cr = 5 → (x.core = .sv0 → s.dev.nmip = false) → leaves { c with estat := putBits c.estat 0 3 (v.toNat % if sv then 8 else 2) }) ∧
      (cr = 0x10 → leaves { c with psr := (c.psr &&& ~~~2) ||| (v &&& 2) }) ∧ (cr = 0x11 → leaves { c with usp := v }) ∧
      (cr = 0x18 → leaves { c with mpuctl := v &&& 3 }) ∧ (cr = 0x19 → leaves { c with mpusel := v &&& 15 }) ∧
      (cr = 0x1A ∨ cr = 0x1B → leaves { c with mpu := Tab.put c.mpu 0 (4 * (c.mpusel.toNat % 16) + (cr.toNat - 0x1A)) (v &&& 0xFFFFFFE0) }) ∧
      (cr = 0x1C → leaves { c with mpu := Tab.put c.mpu 0 (4 * (c.mpusel.toNat % 16) + 2) (v &&& 0x7F) })) ∧
    (s.falls i = true → (i = .inton x → leaves { c with psr := c.psr ||| 2 }) ∧ (i = .intoff x → leaves { c with psr := c.psr &&& ~~~2 })) ∧
    (s.falls i = true → i = .fence x → leaves (if sv then { c with mpuCtl0 := c.mpuctl, mpu0 := c.mpu } else c)) ∧
    (s.falls i = true → i = .wfi x →
      (s.dev.svPending x.core = true → Runs i s (Leaves s.dev x (s.past i))) ∧
      (s.dev.svPending x.core = false → Runs i s (Leaves (s.dev.setSvRun x.core .wfi) x (s.past i))))

/-- R156: an asserted interrupt line enters its vector, 16 plus the line, on a supervisor that runs or waits with interrupts enabled outside a handler, at the next instruction;
with interrupts disabled it only ends WFI; with none asserted nothing happens. The NMI enters vector 14 on SV0 whatever IE says, and is held pending while EXL = 1. INTERRUPT_LINE, NMI_INPUT. -/
def Obligations.InterruptsAndTheNmi : Prop :=
  ∀ (s : State) (one : Bool), s.dev.blow = [] → s.dev.f PWR_STAT_STATE < 2 →
    let k : Core := if one then .sv1 else .sv0
    let c := s.dev.cpu k
    let line := s.dev.lowLine (if one then 2 else 1)
    let live := s.dev.svRun k = .run ∨ s.dev.svRun k = .wfi
    let others := fun (k : Core) (t : State) => t.dev.svRun k = .run ∧
      t.dev = if k = .sv1 then { s.dev with sv1 := t.dev.sv1 } else { s.dev with sv0 := t.dev.sv0 }
    (line = none → Runs (.interruptLine one) s (fun t => t = s)) ∧
    (∀ l, line = some l → live →
      (c.psr.getLsbD 1 = true → c.estat.getLsbD 0 = false → Runs (.interruptLine one) s (fun t =>
        Entered c true (16 + l) 0 0 c.pc (t.dev.cpu k) ∧ others k t)) ∧
      (c.psr.getLsbD 1 = false ∨ c.estat.getLsbD 0 = true → Runs (.interruptLine one) s (fun t => t.dev.cpu k = c ∧ others k t))) ∧
    (s.dev.nmiRaised = true → s.dev.sv0.run = .run ∨ s.dev.sv0.run = .wfi →
      (s.dev.exl .sv0 = false → Runs .nmiInput s (fun t => Entered s.dev.sv0.cpu true 14 0 0 s.dev.sv0.cpu.pc t.dev.sv0.cpu ∧ others .sv0 t)) ∧
      (s.dev.exl .sv0 = true → Runs .nmiInput s (fun t =>
        t.dev.sv0.cpu = { s.dev.sv0.cpu with estat := s.dev.sv0.cpu.estat ||| 8 } ∧ others .sv0 t))) ∧
    (s.dev.nmiRaised = false → Runs .nmiInput s (fun t => t = s))

/-! ### Memory and DMA (chapter 06) -/

/-- R203, R105: an owner code written by SV0 or by a master that the present code includes waits and changes nothing yet; one written by another master, or a reserved code, answers a bus error and does nothing. The waiting code is put into MEM_BANKOWN once no drain
and no token holder is on the bank, and an engine whose read set or buffer meets the bank goes back to its checkpoint with its buffer empty. BANK_OWNER_WRITE, BANK_OWNER_APPLY.
R204, R205, R206, R207, R208: a write of PWR_COMBPWR or PWR_LMPWR starts the transition of each field's memory that the writer may change, or holds it while one is in progress, and answers a bus error where a field that differs is refused; a memory in transition is not on. At its end the memory is in
the state named: leaving off, or going off, leaves it zero, a code memory that leaves off again with its hashed blocks; retention keeps it. Other memories keep their bytes. BANK_POWER_WRITE, LOCAL_MEMORY_POWER_WRITE,
MEMORY_POWER_DONE. -/
def Obligations.BankOwnersAndMemoryPowerChange : Prop :=
  (∀ (s : State) (b : Fin 16), s.dev.blow = [] →
    (∀ (m : Master) (code : BitVec 6), s.dev.accepts m MEM_BANKOWN b 0 (code.setWidth 32) = true →
      let may := (m = .sv0 ∨ s.dev.ownerIncl (s.dev.f MEM_BANKOWN_OWNER b) m = true) ∧ ownerLegal code.toNat = true
      (may → Runs (.bankOwnerWrite m b code) s (fun t =>
        t.dev = { s.dev with ownPend := Tab.set s.dev.ownPend b code.toNat, resp := [⟨m.num, 0, false⟩] })) ∧
      (¬may → Runs (.bankOwnerWrite m b code) s (fun t => t.dev = { s.dev with resp := [⟨m.num, 0, true⟩] }))) ∧
    (s.dev.ownPend.all (fun e => e.1 != b.val) = true → Runs (.bankOwnerApply b) s (fun t => t = s)) ∧
    (s.dev.bankBusy b = true → Runs (.bankOwnerApply b) s (fun t => t = s)) ∧
    (∀ code, s.dev.ownPend.find? (fun e => e.1 == b.val) = some (b.val, code) → code < 64 → s.dev.bankBusy b = false →
      Runs (.bankOwnerApply b) s (fun t => t.dev.f MEM_BANKOWN_OWNER b = code ∧ t.dev.ownPend = Tab.drop s.dev.ownPend b ∧
        (∀ n, s.dev.touchesBank b n = false → t.dev.e n = s.dev.e n) ∧
        (∀ (n : Fin 32) (h : Hand) (c : Ckpt), s.dev.touchesBank b n = true → (s.dev.e n).hand = some h → (s.dev.e n).ck = some c →
          (t.dev.e n).cpu.pc = c.pc ∧ (t.dev.e n).cpu.g = c.g ∧ (t.dev.e n).cpu.fl = c.fl ∧ (t.dev.e n).cbuf = [] ∧ (t.dev.e n).rset = [] ∧
          (t.dev.e n).hand = some { h with soft := none, conf := h.conf + 1, exec := h.exec + 1 } ∧
          (t.dev.e n).run = (if h.conf + 1 = 3 ∧ s.dev.holdsToken n = false then .token else .run)) ∧
        (∀ k : Fin 16, k ≠ b → t.dev.rd MEM_BANKOWN k = s.dev.rd MEM_BANKOWN k) ∧ RegsKept [.eng, .evt, .mem] s.dev t.dev ∧
        t.dev.mem = s.dev.mem ∧ t.dev.frames = s.dev.frames))) ∧
  (∀ s : State, s.dev.blow = [] →
    let told := fun (k c : Nat) =>
      let p := s.dev.pwr k
      match pwrCode c with
      | none => p
      | some t => if p.target.isSome then { p with held := some t } else if p.cur = t then p else { p with target := some t }
    (∀ (m : Master) (v : Word), s.dev.accepts m PWR_COMBPWR 0 0 v = true →
      let may := fun (b : Nat) => m = .sv0 ∨ s.dev.ownerIncl (s.dev.f MEM_BANKOWN_OWNER b) m = true
      Runs (.bankPowerWrite m v) s (fun t =>
        (∀ b : Fin 16, (may b → t.dev.pwr b = told b (getBits v (2 * b) 2) ∧
            getBits (t.dev.rd PWR_COMBPWR) (2 * b) 2 = (if getBits v (2 * b) 2 = 3 then getBits (s.dev.rd PWR_COMBPWR) (2 * b) 2 else getBits v (2 * b) 2)) ∧
          (¬may b → t.dev.pwr b = s.dev.pwr b ∧ getBits (t.dev.rd PWR_COMBPWR) (2 * b) 2 = getBits (s.dev.rd PWR_COMBPWR) (2 * b) 2)) ∧
        Quiet [PWR_COMBPWR.base] { s.dev with power := t.dev.power } t.dev ∧
        ((∀ b : Fin 16, may b) → answers t m 0 false) ∧
        (∀ b : Fin 16, ¬may b → getBits v (2 * b) 2 ≠ 3 → getBits v (2 * b) 2 ≠ getBits (s.dev.rd PWR_COMBPWR) (2 * b) 2 → answers t m 0 true))) ∧
    (∀ (m : Master) (k : Fin 4) (v : Word), s.dev.accepts m PWR_LMPWR k 0 v = true → m = .sv0 ∨ m = .sv1 →
      Runs (.localMemoryPowerWrite m k v) s (fun t =>
        (∀ j : Fin 16,
          let n := 8 * k.val + j / 2
          (s.dev.engStopped n = true → t.dev.pwr (16 + 2 * n + j % 2) = told (16 + 2 * n + j % 2) (getBits v (2 * j) 2) ∧
            getBits (t.dev.rd PWR_LMPWR k) (2 * j) 2 = (if getBits v (2 * j) 2 = 3 then getBits (s.dev.rd PWR_LMPWR k) (2 * j) 2 else getBits v (2 * j) 2)) ∧
          (s.dev.engStopped n = false → t.dev.pwr (16 + 2 * n + j % 2) = s.dev.pwr (16 + 2 * n + j % 2) ∧
            getBits (t.dev.rd PWR_LMPWR k) (2 * j) 2 = getBits (s.dev.rd PWR_LMPWR k) (2 * j) 2)) ∧
        Quiet [PWR_LMPWR.addr k 0] { s.dev with power := t.dev.power } t.dev ∧
        ((∀ j : Fin 8, s.dev.engStopped (8 * k.val + j) = true) → answers t m 0 false))) ∧
    (∀ k : Fin 80, (s.dev.pwr k).target ≠ none → s.dev.memOn k = true → k < 16 ∧ s.dev.bankBusy k = true) ∧
    (∀ (k : Fin 80) (st : PwrSt), (s.dev.pwr k).target = some st → (k < 16 → s.dev.bankBusy k = false ∧ ∀ n, s.dev.touchesBank k n = false) →
      Runs (.memoryPowerDone k) s (fun t =>
        (t.dev.pwr k).cur = st ∧ (t.dev.pwr k).held = none ∧
        (t.dev.pwr k).target = (if (s.dev.pwr k).held = some st then none else (s.dev.pwr k).held) ∧
        (∀ j, j ≠ k.val → t.dev.pwr j = s.dev.pwr j) ∧
        (∀ a, pwrKey a ≠ some k.val → t.dev.byte a = s.dev.byte a) ∧
        ((s.dev.pwr k).cur ≠ .off → st ≠ .off → t.dev.mem = s.dev.mem) ∧
        ((s.dev.pwr k).cur ≠ .off → st = .off → ∀ a, pwrKey a = some k.val → t.dev.byte a = 0) ∧
        ((s.dev.pwr k).cur = .off → k < 16 ∨ k % 2 = 1 → ∀ a, pwrKey a = some k.val → t.dev.byte a = 0) ∧
        ((s.dev.pwr k).cur = .off → ∀ a, pwrKey a = some k.val → s.dev.isHashed a = false → t.dev.byte a = 0) ∧
        t.dev.eng = s.dev.eng ∧ RegsKept [.pwr] s.dev t.dev)) ∧
    (∀ k : Fin 80, (s.dev.pwr k).target = none ∨ (k < 16 ∧ (s.dev.pwr k).cur = .on ∧ s.dev.bankBusy k = true) →
      Runs (.memoryPowerDone k) s (fun t => t = s)))

/-- R218, R219, R220, R223: GO makes the shadow set valid, and on an idle enabled channel in copy mode the active one, BUSY set, a length of 0 done at once; while the shadow is valid or in ring mode it answers a bus error. EN = 1 with a legal mode enables the channel,
with another leaves it disabled. A beat moves up to 8 bytes of comb memory from source to destination and counts them; one refused by a bank's owner halts the channel with the address latched. When all bytes have moved DONE sets, and the event is raised
when enabled. DMA_GO, DMA_ENABLE, DMA_BEAT, DMA_TRANSFER_DONE.
R221, R222, R224: a write of TAIL hands descriptors over; a transmit descriptor with OWN, SOF and EOF sends its buffer of 60 to 9,212 bytes into the switch, or sets ERR for another length, is written back with OWN = 0 and HEAD advances; one with OWN = 0 stops the ring. A receive descriptor takes the frame at
the head of the port's queue, with its length, SOF and EOF written back. EN = 0 returns a halted channel to idle, and ends a copy in progress with the shadow set invalid. (Rings and buffers in PCIe space; the frame's way through the switch is the subject of the statements on frames.) DMA_RING_TAIL_WRITE, DMA_DESCRIPTOR, DMA_DISABLE. -/
def Obligations.DmaCopiesBytesAndCarriesFrames : Prop :=
  (∀ (s : State) (m : Master) (n : Fin 16), s.dev.blow = [] →
    let d := s.dev
    let page := fun (l : List Reg) => l.map (fun r => r.addr n 0)
    let active := [DMA_STAT, DMA_ASRC_LO, DMA_ASRC_HI, DMA_ADST_LO, DMA_ADST_HI, DMA_ALEN, DMA_BYTES]
    let idle := d.ringMode n = false ∧ d.b DMA_STAT_BUSY n = false ∧ d.b DMA_STAT_HALTED n = false
    let starts := fun (t : State) =>
      t.dev.rd DMA_ASRC_LO n = d.rd DMA_SRC_LO n ∧ t.dev.rd DMA_ASRC_HI n = d.rd DMA_SRC_HI n ∧ t.dev.rd DMA_ADST_LO n = d.rd DMA_DST_LO n ∧
      t.dev.rd DMA_ADST_HI n = d.rd DMA_DST_HI n ∧ t.dev.f DMA_ALEN_LEN n = d.f DMA_LEN_LEN n ∧ t.dev.f DMA_BYTES_BYTES n = 0 ∧
      t.dev.b DMA_STAT_SHADOW_VALID n = false
    (d.accepts m DMA_GO n 0 1 = true →
      (d.shadowShut n = true → Runs (.dmaGo m n) s (fun t => t.dev = { d with resp := [⟨m.num, 0, true⟩] })) ∧
      (d.shadowShut n = false → d.b DMA_CTL_EN n = true → idle → d.f DMA_LEN_LEN n ≠ 0 → Runs (.dmaGo m n) s (fun t =>
        starts t ∧ t.dev.b DMA_STAT_BUSY n = true ∧ t.dev.b DMA_STAT_DONE n = d.b DMA_STAT_DONE n ∧ Quiet (page active) d t.dev ∧ answers t m 0 false)) ∧
      (d.shadowShut n = false → d.b DMA_CTL_EN n = true → idle → d.f DMA_LEN_LEN n = 0 → Runs (.dmaGo m n) s (fun t =>
        starts t ∧ t.dev.b DMA_STAT_BUSY n = false ∧ t.dev.b DMA_STAT_DONE n = true ∧ Touches (page active) d t.dev ∧ answers t m 0 false)) ∧
      (d.shadowShut n = false → d.b DMA_CTL_EN n = false ∨ d.b DMA_STAT_BUSY n = true → Runs (.dmaGo m n) s (fun t =>
        t.dev.b DMA_STAT_SHADOW_VALID n = true ∧ t.dev.b DMA_STAT_BUSY n = d.b DMA_STAT_BUSY n ∧ Quiet [DMA_STAT.addr n 0] d t.dev ∧ answers t m 0 false))) ∧
    (∀ v : Word, d.accepts m DMA_CTL n 0 (v ||| 1) = true → d.b DMA_CTL_EN n = false →
      let legal := getBits v 1 2 ≤ 1 ∧ getBits v 3 2 ≤ 1 ∧ getBits v 5 2 ≤ 1 ∧ getBits v 7 2 ≤ 1
      (legal → getBits v 1 2 = 0 → d.b DMA_STAT_SHADOW_VALID n = true → d.b DMA_STAT_BUSY n = false → d.b DMA_STAT_HALTED n = false →
        d.f DMA_LEN_LEN n ≠ 0 → Runs (.dmaEnable m n v) s (fun t => t.dev.rd DMA_CTL n = (v &&& 0x3FF) ||| 1 ∧ starts t ∧ t.dev.b DMA_STAT_BUSY n = true ∧
          Quiet (page (DMA_CTL :: active)) d t.dev ∧ answers t m 0 false)) ∧
      (legal → d.b DMA_STAT_SHADOW_VALID n = false → Runs (.dmaEnable m n v) s (fun t =>
        t.dev.rd DMA_CTL n = (v &&& 0x3FF) ||| 1 ∧ Quiet [DMA_CTL.addr n 0] d t.dev ∧ answers t m 0 false)) ∧
      (¬legal → Runs (.dmaEnable m n v) s (fun t =>
        t.dev.rd DMA_CTL n = v &&& 0x3FE ∧ Quiet [DMA_CTL.addr n 0] d t.dev ∧ answers t m 0 false))) ∧
    (let done := d.f DMA_BYTES_BYTES n
     let left := d.f DMA_ALEN_LEN n - done
     let x := ((wide64 (d.rd DMA_ASRC_LO n) (d.rd DMA_ASRC_HI n)) + done) % 2 ^ 64
     let y := ((wide64 (d.rd DMA_ADST_LO n) (d.rd DMA_ADST_HI n)) + done) % 2 ^ 64
     let w := if x % 8 = 0 ∧ y % 8 = 0 ∧ 8 ≤ left then 8 else if x % 4 = 0 ∧ y % 4 = 0 ∧ 4 ≤ left then 4 else 1
     d.b DMA_STAT_BUSY n = true → d.ringMode n = false → d.dmaTurn n = true → done < d.f DMA_ALEN_LEN n → d.f DMA_CTL_SRC_SP n = 0 → d.f DMA_CTL_DST_SP n = 0 →
     d.combFree (.dma n) x w false = true →
      (d.combFree (.dma n) y w true = true → Runs (.dmaBeat n none) s (fun t =>
        t.dev.f DMA_BYTES_BYTES n = done + w ∧ t.dev.dmaLast = n.val ∧
        (∀ a, t.dev.byte a = if y ≤ a ∧ a < y + w then d.byte (a - y + x) else d.byte a) ∧
        (∀ r i j, r.addr i j ≠ DMA_BYTES.addr n 0 → blkOf (r.addr i j) ≠ some .eng → blkOf (r.addr i j) ≠ some .evt → t.dev.rd r i j = d.rd r i j))) ∧
      (regionOf y = .comb → d.combWaits (.dma n) y true = false → d.ownerIncl (d.f MEM_BANKOWN_OWNER (combBank y)) (.dma n) = false →
        d.b DMA_STAT_ERR n = false → Runs (.dmaBeat n none) s (fun t =>
          t.dev.b DMA_STAT_HALTED n = true ∧ t.dev.b DMA_STAT_BUSY n = false ∧ t.dev.b DMA_STAT_ERR n = true ∧ t.dev.b DMA_STAT_ERR_DIR n = true ∧
          t.dev.f DMA_STAT_ERR_SP n = 0 ∧ t.dev.rd DMA_ERRA_LO n = BitVec.ofNat 32 y ∧ t.dev.f DMA_BYTES_BYTES n = done ∧ t.dev.evPending (24 + n) = true ∧
          (∀ a, t.dev.byte a = d.byte a) ∧ RegsKept [.dma, .mem, .evt] d t.dev))) ∧
    (d.b DMA_STAT_BUSY n = true → d.ringMode n = false → d.f DMA_BYTES_BYTES n = d.f DMA_ALEN_LEN n → d.b DMA_STAT_SHADOW_VALID n = false →
      Runs (.dmaTransferDone n) s (fun t => t.dev.b DMA_STAT_BUSY n = false ∧ t.dev.b DMA_STAT_DONE n = true ∧
        (d.b DMA_CTL_IE_DONE n = true → t.dev.evPending (24 + n) = true) ∧ t.dev.mem = d.mem ∧ Touches [DMA_STAT.addr n 0] d t.dev))) ∧
  (∀ (s : State) (m : Master) (n : Fin 16), s.dev.blow = [] →
    let d := s.dev
    (∀ (tx : Bool) (tail : BitVec 12),
      let r := if tx then DMA_TRIDX else DMA_RRIDX
      d.accepts m r n 0 (tail.setWidth 32) = true → Runs (.dmaRingTailWrite m (n.castLE (by decide)) tx tail) s (fun t =>
        t.dev.rd r n = (d.rd r n &&& 0xFFFFF000) ||| tail.setWidth 32 ∧
        t.dev.dch n = (if tx then { d.dch n with txStop := false } else { d.dch n with rxStop := false }) ∧ (∀ k, k ≠ n.val → t.dev.dch k = d.dch k) ∧
        Quiet [r.addr n 0] { d with dma := t.dev.dma } t.dev ∧ answers t m 0 false)) ∧
    (d.accepts m DMA_CTL n 0 (d.rd DMA_CTL n &&& 0x3FE) = true → d.b DMA_CTL_EN n = true →
      (d.b DMA_STAT_HALTED n = true → Runs (.dmaDisable m n) s (fun t => t.dev.rd DMA_CTL n = d.rd DMA_CTL n &&& 0x3FE ∧
        t.dev.b DMA_STAT_HALTED n = false ∧ Quiet [DMA_CTL.addr n 0, DMA_STAT.addr n 0] d t.dev ∧ answers t m 0 false)) ∧
      (d.b DMA_STAT_HALTED n = false → d.ringMode n = false → d.b DMA_STAT_BUSY n = true → d.f DMA_CTL_DST_SP n = 1 → Runs (.dmaDisable m n) s (fun t =>
        t.dev.rd DMA_CTL n = d.rd DMA_CTL n &&& 0x3FE ∧ t.dev.b DMA_STAT_BUSY n = false ∧ t.dev.b DMA_STAT_SHADOW_VALID n = false ∧
        t.dev.mem = d.mem ∧ Quiet [DMA_CTL.addr n 0, DMA_STAT.addr n 0, DMA_BYTES.addr n 0, DMA_TRIDX.addr n 0, DMA_RRIDX.addr n 0] { d with free := t.dev.free } t.dev ∧
        answers t m 0 false))) ∧
    (∀ (p : List (BitVec 64 × Byte)) (tx : Bool),
      let r := d.ringOf n tx
      let at' := r.base + 16 * (r.head % r.size)
      let desc := (List.range 16).map (fun i => pcieByte p (at' + i))
      let own := (leNat (desc.drop 12)) % 2 = 1
      let size := leNat ((desc.drop 8).take 2)
      let buf := (List.range size).map (fun i => pcieByte p (leNat (desc.take 8) + i))
      let idx := if tx then DMA_TRIDX else DMA_RRIDX
      let cell := (n.castLE (by decide) : Fin 17)
      r.rsp = true → r.bsp = true → d.b DMA_CTL_EN n = true → d.ringMode n = true → d.b DMA_STAT_HALTED n = false → r.head < r.size → r.head ≠ r.tail % r.size →
      at' + 16 < 2 ^ 64 → ((if tx then (d.dch n).txStop else (d.dch n).rxStop) = false) →
      (¬own → Runs (.dmaDescriptor cell tx (some p)) s (fun t =>
        t.dev.dch n = (if tx then { d.dch n with txStop := true } else { d.dch n with rxStop := true }) ∧ (∀ r i j, t.dev.rd r i j = d.rd r i j) ∧
        t.dev = { d with dma := t.dev.dma, pcieOut := [] })) ∧
      (own → tx = true → leNat (desc.drop 12) / 2 % 4 = 3 → size < 60 ∨ 9212 < size → 0 < size →
        Runs (.dmaDescriptor cell tx (some p)) s (fun t =>
          t.dev.f DMA_TRIDX_HEAD n = (r.head + 1) % r.size ∧ t.dev.f DMA_TRIDX_TAIL n = d.f DMA_TRIDX_TAIL n ∧
          t.dev.pcieOut = ((List.range 4).zip (natLe 4 (((BitVec.ofNat 32 (leNat (desc.drop 12)) &&& 0xFFFFFEFE) ||| 0x100).toNat))).map (fun e => (at' + 12 + e.1, e.2)) ∧
          Quiet [DMA_TRIDX.addr n 0] { d with dma := t.dev.dma, pcieOut := t.dev.pcieOut } t.dev)) ∧
      (own → tx = false → (d.dch n).rxBusy = false → ∀ (k : Nat) (bs : List Byte) (good : Bool), d.rxFrame n = some (k, bs, good) → bs ≠ [] → bs.length ≤ size →
        (d.fr k).holders = 2 → leNat (desc.take 8) + size < 2 ^ 64 → Runs (.dmaDescriptor cell tx (some p)) s (fun t =>
          t.dev.f DMA_RRIDX_HEAD n = (r.head + 1) % r.size ∧ t.dev.q (192 + n) = (d.q (192 + n)).drop 1 ∧ (t.dev.fr k).holders = 1 ∧
          t.dev.pcieOut = ((List.range bs.length).zip bs).map (fun e => (leNat (desc.take 8) + e.1, e.2)) ++
            ((List.range 6).zip (natLe 2 bs.length ++ natLe 4 (6 + if good then 0 else 0x100))).map (fun e => (at' + 10 + e.1, e.2)) ∧
          (t.dev.dch n).rxBusy = false ∧ t.dev.mem = d.mem ∧ t.dev.eng = d.eng))))

/-! ### Mailboxes, pegs and events (chapter 07) -/

/-- R228 to R237: a write of MBX_TX appends a word while the assembly buffer holds fewer than 8, a ninth sets ERR_OVF; RING posts the buffer, or holds it (TXPEND) while the
queue lacks room, and does nothing while it is empty; ABORT empties it; while TXPEND is set both answer a bus error. A held message enters whole once there is room. The block accepts one posted message, in rotation of master
numbers from the one last served; a message entering a queue is tagged with the receiver's epoch and raises its doorbell. A read of MBX_RX takes the next word, of an empty queue 0 with ERR_EMPTY. A reset of the host port discards what side 3 had not posted and counts its epoch. MBX_TX_WRITE, MAILBOX_RING, MAILBOX_ABORT,
PENDING_MESSAGE_ENTRY, MAILBOX_DELIVERY, MBX_RX_READ, HOST_PORT_RESET.
R238 to R241: a read of a free peg returns 0 and makes the reader its owner, of an owned one the owner and changes nothing; a write by the owner of its own number frees it, any
other is latched in MBX_PEGERR with cause 0x1 and raises EV019; MBX_PEGFREE frees an owned peg with cause 0x2 and does nothing to a free one. PEG_READ, PEG_WRITE, PEG_FORCE_FREE. -/
def Obligations.MailboxesCarryMessagesAndPegsAreTaken : Prop :=
  (∀ (s : State) (m : Master) (b : Fin 64) (k : Fin 2), s.dev.blow = [] →
    let d := s.dev
    let x := d.mside b k
    let others := fun (t : State) => ∀ (b' : Nat) (k' : Fin 2), b' ≠ b.val ∨ k' ≠ k → t.dev.mside b' k' = d.mside b' k'
    let flag := fun (f : RegFld) (t : State) => t.dev.mbx = d.mbx ∧ t.dev.b f b k = true ∧ t.dev.evPending 20 = true ∧
      Touches [MBX_STAT.addr b k] d t.dev
    let entered := fun (p : Posting) (t : State) => ∀ (b' : Nat) (k' : Fin 2),
      t.dev.mside b' k' = if b' = p.box ∧ k'.val = 1 - p.side then
        { d.mside b' k' with inq := (d.mside b' k').inq ++ [⟨p.words, p.words.length, d.epoch b' k'⟩] } else d.mside b' k'
    (∀ v : Word, d.accepts m MBX_TX b k v = true →
      (x.pend = none → x.asm.length < 8 → Runs (.mbxTxWrite m b k v) s (fun t => t.dev.mside b k = { x with asm := x.asm ++ [v] } ∧ others t ∧
        Quiet [] { d with mbx := t.dev.mbx } t.dev ∧ answers t m 0 false)) ∧
      (x.pend = none → 8 ≤ x.asm.length → d.b MBX_STAT_ERR_OVF b k = false → Runs (.mbxTxWrite m b k v) s (fun t =>
        flag MBX_STAT_ERR_OVF t ∧ answers t m 0 false)) ∧
      (x.pend ≠ none → Runs (.mbxTxWrite m b k v) s (fun t => t.dev = { d with resp := [⟨m.num, 0, true⟩] }))) ∧
    (d.accepts m MBX_RING b k 2 = true →
      (x.pend = none → Runs (.mailboxAbort m b k) s (fun t => t.dev.mside b k = { x with asm := [] } ∧ others t ∧
        Quiet [] { d with mbx := t.dev.mbx } t.dev ∧ answers t m 0 false)) ∧
      (x.pend ≠ none → Runs (.mailboxAbort m b k) s (fun t => t.dev = { d with resp := [⟨m.num, 0, true⟩] }))) ∧
    (d.accepts m MBX_RING b k 1 = true →
      (x.pend = none → x.asm ≠ [] → x.asm.length ≤ d.outRoom b k → Runs (.mailboxRing m b k) s (fun t =>
        t.dev.mside b k = { x with asm := [] } ∧ others t ∧ t.dev.postings = d.postings ++ [⟨m.num, b, k, x.asm⟩] ∧
        Quiet [] { d with mbx := t.dev.mbx, postings := t.dev.postings } t.dev ∧ answers t m 0 false)) ∧
      (x.pend = none → x.asm ≠ [] → d.outRoom b k < x.asm.length → Runs (.mailboxRing m b k) s (fun t =>
        t.dev.mside b k = { x with asm := [], pend := some x.asm } ∧ others t ∧
        Quiet [] { d with mbx := t.dev.mbx } t.dev ∧ answers t m 0 false)) ∧
      (x.pend = none → x.asm = [] → Runs (.mailboxRing m b k) s (fun t => t.dev = { d with resp := [⟨m.num, 0, false⟩] })) ∧
      (x.pend ≠ none → Runs (.mailboxRing m b k) s (fun t => t.dev = { d with resp := [⟨m.num, 0, true⟩] }))) ∧
    (∀ w, x.pend = some w →
      (w.length ≤ d.outRoom b k → d.flying b k = 0 → Runs (.pendingMessageEntry b k) s (fun t =>
        t.dev.mside b k = { x with pend := none } ∧
        t.dev.mside b (1 - k.val) = { d.mside b (1 - k.val) with inq := (d.mside b (1 - k.val)).inq ++ [⟨w, w.length, d.epoch b (1 - k.val)⟩] } ∧
        (∀ b', b' ≠ b.val → d.mbox b' = t.dev.mbox b') ∧ t.dev.evPending (128 + 2 * b + k) = true ∧
        Touches [] { d with mbx := t.dev.mbx } t.dev)) ∧
      (d.outRoom b k < w.length → Runs (.pendingMessageEntry b k) s (fun t => t = s))) ∧
    (∀ p, d.postings.find? (fun q => q.num == p.num) = some p → p.box < 64 → p.side < 2 →
      (∀ q ∈ d.postings, q.num ≠ p.num → (p.num + 64 - d.mbxLast - 1) % 64 < (q.num + 64 - d.mbxLast - 1) % 64) →
      Runs .mailboxDelivery s (fun t => entered p t ∧ t.dev.postings = d.postings.erase p ∧ t.dev.mbxLast = p.num ∧
        t.dev.evPending (128 + 2 * p.box + p.side) = true ∧
        Touches [] { d with mbx := t.dev.mbx, postings := t.dev.postings, mbxLast := t.dev.mbxLast } t.dev)) ∧
    (d.postings = [] → Runs .mailboxDelivery s (fun t => t = s)) ∧
    (d.mayGet m MBX_RX b k = true →
      (∀ msg rest w ws, x.inq = msg :: rest → msg.words = w :: ws → Runs (.mbxRxRead m b k) s (fun t =>
        t.dev.mside b k = { x with inq := if ws = [] then rest else { msg with words := ws } :: rest } ∧ others t ∧
        Quiet [] { d with mbx := t.dev.mbx } t.dev ∧ answers t m w.toNat false)) ∧
      (x.inq = [] → d.b MBX_STAT_ERR_EMPTY b k = false → Runs (.mbxRxRead m b k) s (fun t =>
        flag MBX_STAT_ERR_EMPTY t ∧ answers t m 0 false))) ∧
    Runs .hostPortReset s (fun t => (∀ (b' : Fin 64) (k' : Fin 2),
        (d.sideOf b' k' = 3 → t.dev.mside b' k' = { d.mside b' k' with asm := [], pend := none } ∧ t.dev.epoch b' k' = (d.epoch b' k' + 1) % 256) ∧
        (d.sideOf b' k' ≠ 3 → t.dev.mside b' k' = d.mside b' k' ∧ t.dev.epoch b' k' = d.epoch b' k')) ∧
      Quiet ((List.range 64).map (fun b => MBX_EPOCH.addr b 0)) { d with mbx := t.dev.mbx } t.dev)) ∧
  (∀ (s : State) (m : Master) (p : Fin 64), s.dev.blow = [] →
    let d := s.dev
    let o := d.f MBX_PEG_OWNER p
    let at' := MBX_PEG.addr p 0
    let report := fun (o cause : Nat) (t : State) => t.dev.evPending 19 = true ∧
      t.dev.rd MBX_PEGERR = BitVec.ofNat 32 (p + m.num * 256 + o * 65536 + cause * 2 ^ 24 + 2 ^ 31)
    (d.mayGet m MBX_PEG p 0 = true →
      (o = 0 → Runs (.pegRead m p) s (fun t => t.dev.f MBX_PEG_OWNER p = m.num ∧ Quiet [at'] d t.dev ∧ answers t m 0 false)) ∧
      (o ≠ 0 → Runs (.pegRead m p) s (fun t => t.dev = { d with resp := [⟨m.num, BitVec.ofNat 64 (d.rd MBX_PEG p).toNat, false⟩] }))) ∧
    (∀ v : BitVec 6, d.accepts m MBX_PEG p 0 (v.setWidth 32) = true →
      (o = m.num → v.toNat = m.num → Runs (.pegWrite m p v) s (fun t => t.dev.f MBX_PEG_OWNER p = 0 ∧ Quiet [at'] d t.dev ∧ answers t m 0 false)) ∧
      (o ≠ m.num ∨ v.toNat ≠ m.num → d.b MBX_PEGERR_VALID = false → Runs (.pegWrite m p v) s (fun t =>
        report o 1 t ∧ Touches [MBX_PEGERR.base] d t.dev ∧ answers t m 0 false))) ∧
    (d.accepts m MBX_PEGFREE 0 0 (BitVec.ofNat 32 (p + 0x50460000)) = true →
      (o ≠ 0 → d.b MBX_PEGERR_VALID = false → Runs (.pegForceFree m p) s (fun t =>
        t.dev.f MBX_PEG_OWNER p = 0 ∧ report o 2 t ∧ Touches [at', MBX_PEGERR.base] d t.dev ∧ answers t m 0 false)) ∧
      (o = 0 → Runs (.pegForceFree m p) s (fun t => t.dev = { d with resp := [⟨m.num, 0, false⟩] }))))

/-- R243 to R249: a permitted write of EVT_RAISE sets the source's pending bit and, where its map says so, places one entry in the journal queue; one not permitted is a bus error. A clear of pending bits clears those the master sees, but a grouped source with instances
left pends again, without an entry. A mask bit the master sees takes the written value, and unmasking a pending source sends its host message. SOFTWARE_RAISE, EVENT_PENDING_CLEAR, EVENT_MASK_WRITE. -/
def Obligations.EventsAreRaisedClearedAndMasked : Prop :=
  ∀ (s : State) (m : Master), s.dev.blow = [] →
    let d := s.dev
    let sees := fun (n : Nat) => d.secure m = true ∨ d.evSecure n = false
    (∀ n : BitVec 8, d.accepts m EVT_RAISE 0 0 (n.setWidth 32) = true →
      let n' := n.toNat
      (d.b EVT_MAP_SWR n' = true ∧ sees n' → Runs (.softwareRaise m n) s (fun t => t.dev.evPending n' = true ∧
        (∀ k : Fin 256, k.val ≠ n' → k ≠ 21 → t.dev.evPending k = d.evPending k) ∧
        (d.b EVT_MAP_JRN n' = false → t.dev.jq = d.jq) ∧
        (d.b EVT_MAP_JRN n' = true → d.jq.length < 256 →
          t.dev.jq = d.jq ++ [{ origin := n', time := d.jtime, cls := min 2 (d.f EVT_MAP_JCLASS n') }]) ∧
        Touches [] d t.dev ∧ answers t m 0 false)) ∧
      (¬(d.b EVT_MAP_SWR n' = true ∧ sees n') → Runs (.softwareRaise m n) s (fun t => t.dev = { d with resp := [⟨m.num, 0, true⟩] }))) ∧
    (∀ (k : Fin 8) (v : Word), d.accepts m EVT_PEND k 0 v = true → Runs (.eventPendingClear m k v) s (fun t =>
      (∀ j : Fin 32, t.dev.evPending (32 * k + j) =
        (d.evPending (32 * k + j) && (!v.getLsbD j || (!d.secure m && d.evSecure (32 * k + j)) ||
          (evGrouped (32 * k + j) && d.rd EVT_SUB (32 * k.val + j - 40) != 0)))) ∧
      (∀ k' : Fin 8, k' ≠ k → t.dev.rd EVT_PEND k' = d.rd EVT_PEND k') ∧ t.dev.jq = d.jq ∧ Touches [] d t.dev ∧ answers t m 0 false)) ∧
    (∀ (k : Fin 8) (v : Word), d.accepts m EVT_MASK k 0 v = true → Runs (.eventMaskWrite m k v) s (fun t =>
      (∀ j : Fin 32, t.dev.evMasked (32 * k + j) = if d.secure m = true ∨ d.evSecure (32 * k + j) = false then v.getLsbD j else d.evMasked (32 * k + j)) ∧
      (∀ k' : Fin 8, k' ≠ k → t.dev.rd EVT_MASK k' = d.rd EVT_MASK k') ∧ (∀ k' : Fin 8, t.dev.rd EVT_PEND k' = d.rd EVT_PEND k') ∧
      t.dev.jq = d.jq ∧ Touches [] d t.dev ∧ answers t m 0 false ∧
      (∀ j : Fin 32, d.evPending (32 * k + j) = true → d.evMasked (32 * k + j) = true → v = d.rd EVT_MASK k &&& ~~~((1 : Word) <<< j.val) →
        d.b EVT_MAP_MSIX (32 * k + j) = true → d.evSecure (32 * k + j) = false → d.secure m = true →
        let vec := d.f EVT_MAP_VECTOR (32 * k + j)
        (d.msixWord (0x40058000 + 16 * vec + 12)).getLsbD 0 = false →
          t.dev.msix = d.msix ++ [(vec, (d.msixWord (0x40058000 + 16 * vec)).toNat + 2 ^ 32 * (d.msixWord (0x40058000 + 16 * vec + 4)).toNat,
            d.msixWord (0x40058000 + 16 * vec + 8))])))

/-! ### The Ethernet lanes (chapter 08) -/

/-- R255, R260, R265 to R269: what a lane that is up makes of a frame by its length, check sequence and EtherType, one counter each; a frame the lane filter refuses goes no further; in NAP a lane kept receiving discards every frame, and a
wake pattern is noted. A filter window starts its count again. An MDIO command is queued after earlier ones, a bus error while the lane is busy or on P00 to P15, and its completion returns what the PHY drove, or 0xFFFF with ERR. A read of an octet counter latches HI. ETH_RX_FRAME, RATE_WINDOW, MDIO_READ,
MDIO_WRITE, MDIO_DONE, ETH_OCTET_READ. -/
def Obligations.LanesReceiveAndManagePhys : Prop :=
  ∀ (s : State) (p : Fin 24), s.dev.blow = [] →
    let d := s.dev
    let low := fun (r : Reg) => (d.rd r p).toNat < 0xFFFFFFFE
    let tick := fun (r : Reg) (t : State) => t.dev.rd r p = d.rd r p + 1 ∧ Quiet [r.addr p 0] d t.dev
    let top := max 64 (min 9216 (d.f ETH_MAXFRM_LEN p))
    (∀ (b : List Byte) (how : RxEnd) (frags : Nat), frags < 2 →
      let len := b.length
      let up := d.f PWR_STAT_STATE < 2 ∧ d.b ETH_STAT_LINK p = true ∧ d.b ETH_CTL_EN p = true ∧ d.f ETH_CTL_PWR p = 0 ∧ d.b ETH_CTL_LOOP p = false
      (up → ∀ r : Reg, low r → ((how = .asm ∧ r = ETH_CNT_MMASMERR) ∨ (how = .smd ∧ r = ETH_CNT_MMSMDERR) ∨
          (how = .good ∧ len < 64 ∧ r = ETH_CNT_RXRUNT) ∨ (how = .fcs ∧ len < 64 ∧ r = ETH_CNT_RXFRAG) ∨ (how = .sym ∧ len < 64 ∧ r = ETH_CNT_RXSYM) ∨
          (how = .good ∧ 64 ≤ len ∧ len ≤ top ∧ fieldAt b 12 2 = 0x8808 ∧ r = ETH_CNT_RXCTL)) →
        Runs (.ethRxFrame p b how frags) s (tick r)) ∧
      (up → d.b SWC_CTL_EN = false → d.b PWR_STAT_BUSY = false → d.rd ETH_RXFILT p = 0 → ∀ r : Reg, low r →
          ((how = .fcs ∧ 64 ≤ len ∧ len ≤ top ∧ r = ETH_CNT_RXFCS) ∨ (how = .sym ∧ 64 ≤ len ∧ len ≤ top ∧ r = ETH_CNT_RXSYM) ∨
           (how = .good ∧ top < len ∧ r = ETH_CNT_RXOVER)) →
        Runs (.ethRxFrame p b how frags) s (tick r)) ∧
      (up → how = .good → 64 ≤ len → len ≤ top → fieldAt b 12 2 ≠ 0x8808 → d.b TIME_LCFG_TSEN p = false → d.f ETH_WAKECTL_PEN p = 0 →
        low ETH_CNT_RXOK → low ETH_CNT_RXBC → low ETH_CNT_RXMC → low ETH_CNT_RXFILT → isReserved b = false →
        ((d.b ETH_RXFILT_DROPBC p = true ∧ isBc b = true) ∨ (d.b ETH_RXFILT_DROPMC p = true ∧ isMc b = true ∧ isBc b = false) ∨
          (d.b ETH_RXFILT_DROPUNTAG p = true ∧ filterTagged b = false) ∨ (d.b ETH_RXFILT_DROPTAG p = true ∧ filterTagged b = true)) →
        Runs (.ethRxFrame p b how frags) s (fun t => t.dev.rd ETH_CNT_RXOK p = d.rd ETH_CNT_RXOK p + 1 ∧ t.dev.rd ETH_CNT_RXFILT p = d.rd ETH_CNT_RXFILT p + 1 ∧
          t.dev.rd ETH_CNT_RXBC p = d.rd ETH_CNT_RXBC p + (if isBc b then 1 else 0) ∧
          t.dev.rd ETH_CNT_RXMC p = d.rd ETH_CNT_RXMC p + (if isMc b && !isBc b then 1 else 0) ∧
          wide64 (t.dev.rd ETH_CNT_RXOCT_LO p) (t.dev.rd ETH_CNT_RXOCT_HI p) = (wide64 (d.rd ETH_CNT_RXOCT_LO p) (d.rd ETH_CNT_RXOCT_HI p) + len) % 2 ^ 64 ∧
          Quiet [ETH_CNT_RXOK.addr p 0, ETH_CNT_RXOCT_LO.addr p 0, ETH_CNT_RXOCT_HI.addr p 0, ETH_CNT_RXBC.addr p 0, ETH_CNT_RXMC.addr p 0, ETH_CNT_RXFILT.addr p 0] d t.dev)) ∧
      (d.f PWR_STAT_STATE ≠ 2 → d.b ETH_STAT_LINK p = false → Runs (.ethRxFrame p b how frags) s (fun t => t = s)) ∧
      (d.f PWR_STAT_STATE = 2 → d.b PWR_STAT_BUSY = false →
        (d.b ETH_WAKECTL_NAPRX p = false → Runs (.ethRxFrame p b how frags) s (fun t => t = s)) ∧
        (d.b ETH_WAKECTL_NAPRX p = true → d.f ETH_CTL_PWR p = 0 → d.b ETH_CTL_EN p = true → low ETH_CNT_RXFILT →
          ((how ≠ .good ∨ (List.range 4).find? (d.wpMatch p b) = none) → Runs (.ethRxFrame p b how frags) s (tick ETH_CNT_RXFILT)) ∧
          (∀ k, how = .good → (List.range 4).find? (d.wpMatch p b) = some k → Runs (.ethRxFrame p b how frags) s (fun t =>
            t.dev.b ETH_EVSTAT_WAKE p = true ∧ t.dev.f ETH_WAKECTL_LAST p = k ∧ t.dev.rd ETH_CNT_RXFILT p = d.rd ETH_CNT_RXFILT p + 1 ∧
            t.dev.wakes = (if (d.f PWR_WAKEEN_EN).testBit 1 then d.wakes ++ [(1, p.val)] else d.wakes) ∧
            Touches [ETH_EVSTAT.addr p 0, ETH_WAKECTL.addr p 0, ETH_CNT_RXFILT.addr p 0] { d with wakes := t.dev.wakes } t.dev))))) ∧
    ((d.lane p).window = d.ns / 1000000 → Runs (.rateWindow p) s (fun t => t = s)) ∧
    ((d.lane p).window ≠ d.ns / 1000000 → Runs (.rateWindow p) s (fun t =>
      t.dev = { d with eth := t.dev.eth } ∧ t.dev.lane p = { d.lane p with window := d.ns / 1000000, wcount := 0 } ∧ (∀ q, q ≠ p.val → t.dev.lane q = d.lane q))) ∧
    (∀ (m : Master) (prtad regad : BitVec 5) (c45 wr : Bool),
      let v : Word := BitVec.ofNat 32 (prtad.toNat + regad.toNat * 32 + c45.toNat * 1024 + wr.toNat * 2048)
      let i := if wr then Instr.mdioWrite m p prtad regad c45 else Instr.mdioRead m p prtad regad c45
      d.accepts m ETH_MDIOCMD p 0 (v ||| 0x1000) = true →
      (p.val < 16 ∨ d.b ETH_MDIOCMD_BUSY p = true → Runs i s (fun t => t.dev = { d with resp := [⟨m.num, 0, true⟩] })) ∧
      (16 ≤ p.val → d.b ETH_MDIOCMD_BUSY p = false → (∀ c ∈ d.mdio, c.at' < d.wall) → Runs i s (fun t =>
        t.dev.rd ETH_MDIOCMD p = v ||| 0x2000 ∧ t.dev.mdio = d.mdio ++ [⟨p, v, d.rd ETH_MDIODATA p, d.wall⟩] ∧
        Quiet [ETH_MDIOCMD.addr p 0] { d with mdio := t.dev.mdio } t.dev ∧ answers t m 0 false))) ∧
    (d.mdio = [] → ∀ reply, Runs (.mdioDone reply) s (fun t => t = s)) ∧
    (∀ c rest, d.mdio = c :: rest → c.lane = p.val → ∀ reply : Option (BitVec 16), Runs (.mdioDone reply) s (fun t =>
      t.dev.b ETH_MDIOCMD_BUSY p = false ∧ t.dev.mdio = rest ∧ t.dev.b ETH_EVSTAT_MDIODONE p = true ∧
      (c.cmd.getLsbD 11 = true → t.dev.rd ETH_MDIODATA p = d.rd ETH_MDIODATA p) ∧
      (c.cmd.getLsbD 11 = false → ∀ v, reply = some v → t.dev.f ETH_MDIODATA_DATA p = v.toNat) ∧
      (c.cmd.getLsbD 11 = false → reply = none → t.dev.f ETH_MDIODATA_DATA p = 0xFFFF ∧ t.dev.b ETH_MDIOCMD_ERR p = true) ∧
      Touches [ETH_MDIOCMD.addr p 0, ETH_MDIODATA.addr p 0, ETH_EVSTAT.addr p 0] { d with mdio := rest } t.dev)) ∧
    (∀ (m : Master) (tx : Bool),
      let lo := if tx then ETH_CNT_TXOCT_LO else ETH_CNT_RXOCT_LO
      let hi := if tx then ETH_CNT_TXOCT_HI else ETH_CNT_RXOCT_HI
      d.mayGet m lo p 0 = true → Runs (.ethOctetRead m p tx) s (fun t => answers t m (d.rd lo p).toNat false ∧ t.dev.octetsHi p tx = d.rd hi p ∧
        (∀ q, q ≠ p.val → t.dev.lane q = d.lane q) ∧ Quiet [] { d with eth := t.dev.eth } t.dev))

/-- R252 to R254, R258, R261 to R264, R267: a link comes up at its speed with what was negotiated, and goes down at a loss, at a write that changes SPD, ANEN, MDIX or ETH_ANADV while the lane is enabled, or at ANRESTART; a frame in transmission is then cut short and counted. The energy detector sets ED and may wake.
Low-power idle is asserted after HOLD of quiet, and left TW_TX before a frame or a gate may go. LLDP sets TW_TX, or clears EN on P22 and P23. Verification of preemption is tried, confirmed, or fails after three. LINK_UP, LINK_DOWN, ETH_CTL_WRITE, AN_RESTART, ENERGY_DETECT, LPI_ENTRY, LPI_EXIT, LPI_GATE_WAKE, LPI_RX_ENTRY, LPI_RX_EXIT,
LLDP_EEE_TLV, LLDP_TLV_TIMEOUT, MM_VERIFY_TIMER, MM_VERIFY_RESPONSE. -/
def Obligations.LinksComeUpAndSaveEnergy : Prop :=
  ∀ (s : State) (p : Fin 24), s.dev.blow = [] →
    let d := s.dev
    let l := d.lane p
    let regs := [ETH_STAT.addr p 0, ETH_EVSTAT.addr p 0]
    let rest := (∀ x ∈ d.frames, x.2.port = p.val → x.2.ended = true) ∧ l.cur = none ∧ l.held = none
    let down := fun (t : State) => t.dev.b ETH_STAT_LINK p = false ∧ t.dev.b ETH_STAT_ANDONE p = false ∧ t.dev.b ETH_STAT_LPI_TX p = false ∧
      t.dev.b ETH_STAT_LPI_RX p = false ∧ t.dev.b ETH_EVSTAT_LINKCHG p = true
    let left := fun (t : State) => t.dev.b ETH_STAT_LPI_TX p = false ∧
      t.dev.lane p = { l with wakeAt := d.wall + max (twTxMin p) (d.f ETH_EEE_TW_TX p) * 20000, offer := d.wall } ∧
      (∀ q, q ≠ p.val → t.dev.lane q = d.lane q) ∧ Quiet [ETH_STAT.addr p 0] { d with eth := t.dev.eth } t.dev
    let same := fun (i : Instr) => Runs i s (fun t => t = s)
    (∀ i : LinkInfo,
      let an := p.val < 22 ∧ d.b ETH_CTL_ANEN p = true
      let sp := if p.val < 16 then (if d.b ETH_CTL_ANEN p then (if i.ten then 0 else 1) else if d.f ETH_CTL_SPD p = 1 then 0 else 1)
        else if p.val < 22 then (if d.f ETH_CTL_SPD p = 1 then 3 else 2) else 4
      let able := p.val < 16 → d.b ETH_CTL_ANEN p = true → (if i.ten then d.b ETH_ANADV_A10 p else d.b ETH_ANADV_A100 p) = true
      (able → d.b ETH_STAT_LINK p = false → d.f ETH_CTL_PWR p = 0 → d.f PWR_STAT_STATE < 2 → d.b CLK_STAT_RCACT = false → Runs (.linkUp p i) s (fun t =>
        t.dev.b ETH_STAT_LINK p = true ∧ t.dev.f ETH_STAT_SPEED p = sp ∧ (t.dev.b ETH_STAT_ANDONE p = true ↔ an ∧ i.andone = true) ∧
        (t.dev.b ETH_STAT_PDET p = true ↔ p.val < 16 ∧ an ∧ i.pdet = true) ∧ (t.dev.b ETH_STAT_RFAULT p = true ↔ 16 ≤ p.val ∧ i.rfault = true) ∧
        (an → i.andone = true → t.dev.f ETH_ANLP_PAGE p = i.page.toNat) ∧
        (t.dev.b ETH_STAT_EEE_ON p = true ↔ d.b ETH_EEE_EN p = true ∧ (22 ≤ p.val ∨ (p.val < 16 ∧ sp = 1 ∧ d.b ETH_ANADV_AEEE p = true ∧ t.dev.b ETH_ANLP_PEEE p = true))) ∧
        t.dev.b ETH_EVSTAT_LINKCHG p = true ∧ Touches (ETH_ANLP.addr p 0 :: regs) d t.dev)) ∧
      (¬able → same (.linkUp p i))) ∧
    (d.b ETH_STAT_LINK p = false → same (.linkDown p)) ∧
    (d.b ETH_STAT_LINK p = true → rest → Runs (.linkDown p) s (fun t => down t ∧ (d.pairOf p ≠ none → t.dev.evPending 74 = true) ∧ Touches regs d t.dev)) ∧
    (∀ c, d.b ETH_STAT_LINK p = true → (∀ x ∈ d.frames, x.2.port = p.val → x.2.ended = true) → l.cur = some c → l.held = none → c.ent.src = .none →
      2 ≤ (d.fr c.ent.fr).holders → (d.rd ETH_CNT_TXDISC p).toNat < 0xFFFFFFFE → Runs (.linkDown p) s (fun t => down t ∧ (t.dev.lane p).cur = none ∧
        t.dev.rd ETH_CNT_TXDISC p = d.rd ETH_CNT_TXDISC p + 1 ∧ t.dev.fr c.ent.fr = { d.fr c.ent.fr with holders := (d.fr c.ent.fr).holders - 1 })) ∧
    (∀ (m : Master) (v : Word), d.accepts m ETH_CTL p 0 v = true → rest → d.b ETH_STAT_LINK p = true → d.f ETH_CTL_PWR p = 0 → getBits v 1 2 = 0 →
      (v.getLsbD 4 = true ∨ (d.b ETH_CTL_EN p = true ∧ (d.rd ETH_CTL p ^^^ v) &&& 0x1E8 ≠ 0) → Runs (.ethCtlWrite m p false v) s (fun t =>
        down t ∧ t.dev.rd ETH_CTL p = v &&& 0x3EF ∧ Touches (ETH_CTL.addr p 0 :: regs) d t.dev ∧ answers t m 0 false)) ∧
      (v.getLsbD 4 = false → (d.rd ETH_CTL p ^^^ v) &&& 0x1E8 = 0 → Runs (.ethCtlWrite m p false v) s (fun t =>
        t.dev.b ETH_STAT_LINK p = true ∧ t.dev.rd ETH_CTL p = v &&& 0x3EF ∧ Quiet [ETH_CTL.addr p 0, ETH_STAT.addr p 0] d t.dev ∧ answers t m 0 false))) ∧
    (∀ (m : Master) (v : Word), d.accepts m ETH_ANADV p 0 v = true → rest → d.b ETH_STAT_LINK p = true → d.b ETH_CTL_EN p = true →
      d.rd ETH_ANADV p ≠ v &&& 0x1F → Runs (.ethCtlWrite m p true v) s (fun t =>
        down t ∧ t.dev.rd ETH_ANADV p = v &&& 0x1F ∧ Touches (ETH_ANADV.addr p 0 :: regs) d t.dev ∧ answers t m 0 false)) ∧
    (∀ m : Master, d.accepts m ETH_CTL p 0 ((d.rd ETH_CTL p &&& 0x3EF) ||| 0x10) = true → rest → d.b ETH_STAT_LINK p = true → d.f ETH_CTL_PWR p = 0 →
      Runs (.anRestart m p) s (fun t => down t ∧ t.dev.rd ETH_CTL p = d.rd ETH_CTL p &&& 0x3EF ∧ Touches (ETH_CTL.addr p 0 :: regs) d t.dev ∧ answers t m 0 false)) ∧
    (d.f ETH_CTL_PWR p = 1 → Runs (.energyDetect p) s (fun t => t.dev.b ETH_STAT_ED p = true ∧ t.dev.b ETH_EVSTAT_ED p = true ∧
      t.dev.wakes = (if d.b ETH_WAKECTL_EDWAKE p && (d.f PWR_WAKEEN_EN).testBit 0 && (d.wakeState == 2 || d.wakeState == 3) then d.wakes ++ [(0, p.val)] else d.wakes) ∧
      Touches regs { d with wakes := t.dev.wakes } t.dev)) ∧
    (d.f ETH_CTL_PWR p = 0 → d.f PWR_STAT_STATE < 2 → same (.energyDetect p)) ∧
    (d.b ETH_STAT_EEE_ON p = true → d.b ETH_STAT_LINK p = true → d.b ETH_STAT_LPI_TX p = false → l.cur = none → l.held = none → (∀ c : Fin 8, d.q (8 * p + c) = []) →
      l.offer + max 1 (d.f ETH_EEE_HOLD p) * 20000 ≤ d.wall → l.wakeAt ≤ d.wall → ((d.gclSt p).on = false ∨ d.b ETH_EEE_GATED_OK p = true) →
      (d.rd ETH_CNT_LPITX p).toNat < 0xFFFFFFFE → Runs (.lpiEntry p) s (fun t => t.dev.b ETH_STAT_LPI_TX p = true ∧
        t.dev.rd ETH_CNT_LPITX p = d.rd ETH_CNT_LPITX p + 1 ∧ Quiet [ETH_STAT.addr p 0, ETH_CNT_LPITX.addr p 0] d t.dev)) ∧
    (d.b ETH_STAT_EEE_ON p = false ∨ l.cur ≠ none ∨ d.wall < l.offer + max 1 (d.f ETH_EEE_HOLD p) * 20000 ∨
      ((d.gclSt p).on = true ∧ d.b ETH_EEE_GATED_OK p = false) → same (.lpiEntry p)) ∧
    (d.b ETH_STAT_LPI_TX p = true → (∃ c : Fin 8, d.q (8 * p + c) ≠ []) → Runs (.lpiExit p) s left) ∧
    ((∀ c : Fin 8, d.q (8 * p + c) = []) → same (.lpiExit p)) ∧
    (∀ o, d.b ETH_STAT_LPI_TX p = true → d.nextOpen p = some o → o * 20 ≤ d.stamp + max (twTxMin p) (d.f ETH_EEE_TW_TX p) * 20000 → Runs (.lpiGateWake p) s left) ∧
    ((d.gclSt p).on = false → same (.lpiGateWake p)) ∧
    (d.b ETH_STAT_EEE_ON p = true → d.b ETH_STAT_LPI_RX p = false → (d.rd ETH_CNT_LPIRX p).toNat < 0xFFFFFFFE → Runs (.lpiRxEntry p) s (fun t =>
      t.dev.b ETH_STAT_LPI_RX p = true ∧ t.dev.rd ETH_CNT_LPIRX p = d.rd ETH_CNT_LPIRX p + 1 ∧ Quiet [ETH_STAT.addr p 0, ETH_CNT_LPIRX.addr p 0] d t.dev)) ∧
    Runs (.lpiRxExit p) s (fun t => t.dev.b ETH_STAT_LPI_RX p = false ∧ t.dev.b ETH_STAT_LPI_TX p = d.b ETH_STAT_LPI_TX p ∧ Quiet [ETH_STAT.addr p 0] d t.dev) ∧
    (∀ tw : BitVec 16, d.b ETH_EEE_LLDP p = true → Runs (.lldpEeeTlv p tw) s (fun t => t.dev.f ETH_EEE_TW_TX p = max (twTxMin p) tw.toNat ∧
      t.dev.f ETH_EEE_HOLD p = d.f ETH_EEE_HOLD p ∧ Quiet [ETH_EEE.addr p 0] d t.dev)) ∧
    (∀ tw : BitVec 16, d.b ETH_EEE_LLDP p = false → same (.lldpEeeTlv p tw)) ∧
    (22 ≤ p.val → d.b ETH_EEE_LLDP p = true → Runs (.lldpTlvTimeout p) s (fun t => t.dev.b ETH_EEE_EN p = false ∧ t.dev.b ETH_STAT_EEE_ON p = false ∧
      Quiet [ETH_EEE.addr p 0, ETH_STAT.addr p 0] d t.dev)) ∧
    (p.val < 22 ∨ d.b ETH_EEE_LLDP p = false → same (.lldpTlvTimeout p)) ∧
    (d.b ETH_STAT_LINK p = true → d.f ETH_MMCTL_VSTAT p = 1 ∨ (d.f ETH_MMCTL_VSTAT p = 2 ∧ l.verifies < 3) → Runs (.mmVerifyTimer p) s (fun t =>
      t.dev.f ETH_MMCTL_VSTAT p = 2 ∧ t.dev.lane p = { l with verifies := l.verifies + 1 } ∧ Quiet [ETH_MMCTL.addr p 0] { d with eth := t.dev.eth } t.dev)) ∧
    (d.b ETH_STAT_LINK p = true → d.f ETH_MMCTL_VSTAT p = 2 → 3 ≤ l.verifies → Runs (.mmVerifyTimer p) s (fun t =>
      t.dev.f ETH_MMCTL_VSTAT p = 4 ∧ t.dev.b ETH_EVSTAT_VERIFY p = true ∧ Touches [ETH_MMCTL.addr p 0, ETH_EVSTAT.addr p 0] d t.dev)) ∧
    (d.f ETH_MMCTL_VSTAT p = 2 → Runs (.mmVerifyResponse p) s (fun t => t.dev.f ETH_MMCTL_VSTAT p = 3 ∧ t.dev.b ETH_MMCTL_ACTIVE p = true ∧
      t.dev.b ETH_EVSTAT_VERIFY p = true ∧ Touches [ETH_MMCTL.addr p 0, ETH_EVSTAT.addr p 0] d t.dev)) ∧
    (d.f ETH_MMCTL_VSTAT p ≠ 2 → same (.mmVerifyResponse p))

/-! ### The switch (chapter 09) -/

/-- R272, R274 to R284, R297: a good frame of a lane that no context and no rule claims, whose destination the forwarding database places on one other member lane, enters that lane's queue of the class its PCP maps to, counting the cells of its true length; nothing
else is queued (redundancy, mirroring, cut-through, learning, sampling and stamping off). ETH_RX_FRAME. -/
def Obligations.FramesAreForwardedByTheDatabase : Prop :=
  ∀ (s : State) (p x : Fin 24) (b : List Byte) (e : FdbEnt), s.dev.blow = [] →
    let d := s.dev
    let raw := b.take (b.length - 4)
    let v := d.vlanOf p raw
    let c := getBits (d.rd SWC_TCMAP p) (3 * v.pcp) 3
    let i := 8 * x.val + c
    let n := if b.length ≤ 64 then 1 else cellsOf (max 64 (min 9216 (d.f ETH_MAXFRM_LEN p)))
    64 ≤ b.length → b.length ≤ max 64 (min 9216 (d.f ETH_MAXFRM_LEN p)) → fieldAt b 12 2 ≠ 0x8808 → isReserved b = false → isMc b = false →
    d.f PWR_STAT_STATE = 0 → d.b PWR_STAT_BUSY = false → d.b ETH_STAT_LINK p = true → d.b ETH_CTL_EN p = true → d.f ETH_CTL_PWR p = 0 → d.b ETH_CTL_LOOP p = false →
    d.rd ETH_RXFILT p = 0 → d.f ETH_WAKECTL_PEN p = 0 → d.b TIME_LCFG_TSEN p = false → d.b SWC_CTL_EN = true → d.b SWC_CTL_CT = false → d.b SWC_MIRROR_EN = false →
    d.f SWC_FORSAMP_N p = 0 → (d.rd SWC_PCFG p).getLsbD 16 = false → (∀ k : Fin 4, d.f SWC_RED_CFG_MODE k = 0) → (∀ k : Fin 4096, d.ctxValid k = false) →
    (∀ r : Fin 64, d.b SWC_RULE0_VALID r = false) → ((d.rd SWC_PCFG p).getLsbD 15 = false ∨ (d.members v.vid).testBit p = true) →
    d.fdbFind v.vid (daOf raw) = some e → e.ports = 2 ^ x.val → x ≠ p → (d.members v.vid).testBit x = true →
    d.fr d.nextFr = {} → (∀ q, ∀ y ∈ d.q q, y.fr ≠ d.nextFr) → d.qCells i + n ≤ d.qLimit i → n ≤ d.freeCells → n - (d.qMin i - d.qCells i) ≤ d.sharedFree →
    Runs (.ethRxFrame p b .good 0) s (fun t =>
      t.dev.q i = d.q i ++ [{ fr := d.nextFr, cells := cellsOf b.length }] ∧ (∀ j, j ≠ i → t.dev.q j = d.q j) ∧
      (t.dev.fr d.nextFr).bytes = b ∧ (t.dev.fr d.nextFr).port = p ∧ (t.dev.fr d.nextFr).holders = 1 ∧ (t.dev.fr d.nextFr).tc = c ∧
      (t.dev.fr d.nextFr).ended = true ∧ (t.dev.fr d.nextFr).good = true ∧ (∀ k, k ≠ d.nextFr → t.dev.fr k = d.fr k) ∧
      t.dev.f SWC_BUFSTAT_FREE = d.f SWC_BUFSTAT_FREE - cellsOf b.length ∧ t.dev.eng = d.eng ∧ t.dev.mem = d.mem)

/-- R217, R258, R285, R291, R294, R302: at an opportunity a dead lane discards its highest frame, a live one starts the head of the highest class, preempting a preemptable frame for an express one, and resumes a preempted frame when no express frame waits; a head whose cells fail is dropped with code 0x0F. The end of a frame counts
it, good or poisoned, and lets it go, its cells freed with the last holder. A frame that proves longer than MAXSDU is withdrawn everywhere and counted once, its stream blocked under OVBLOCK. (Gates open and no class shaped; the gates are the next statement's.) TRANSMISSION_SELECTION, TX_FRAME_END, MAXSDU_LATE_FAIL. -/
def Obligations.LanesSendTheHighestClass : Prop :=
  ∀ (s : State) (p : Fin 24), s.dev.blow = [] →
    let d := s.dev
    let l := d.lane p
    let top := fun (c : Nat) (e : QEnt) (only : Nat → Bool) => c < 8 ∧ only c = true ∧ d.headOf p c = some e ∧ (∀ c', c < c' → c' < 8 → only c' = true → d.headOf p c' = none)
    let popped := fun (c : Nat) (t : State) => t.dev.q (8 * p + c) = (d.q (8 * p + c)).drop 1 ∧ ∀ i, i ≠ 8 * p.val + c → t.dev.q i = d.q i
    let live := d.b ETH_STAT_LINK p = true ∧ d.b ETH_CTL_EN p = true ∧ d.b ETH_STAT_LPI_TX p = false ∧ l.wakeAt ≤ d.wall ∧ d.b SWC_GCLCTL_EN p = false ∧
      d.f SWC_PSTAT_GATES p = 0xFF ∧ d.f SWC_PCFG_CBSEN p = 0
    let express := fun (c : Nat) => !(d.f SWC_PREEMPT_PMASK p).testBit c
    let starts : Nat → QEnt → Option TxCur := fun c e => some { ent := e, cls := c, express := true, bytes := d.compose p e, start := d.wall }
    (∀ c e, d.b ETH_STAT_LINK p = false ∨ d.b ETH_CTL_EN p = false → top c e (fun _ => true) → e.src = .none → 2 ≤ (d.fr e.fr).holders →
      (d.rd ETH_CNT_TXDISC p).toNat < 0xFFFFFFFE → ∀ bad, Runs (.transmissionSelection p bad) s (fun t => popped c t ∧
        t.dev.rd ETH_CNT_TXDISC p = d.rd ETH_CNT_TXDISC p + 1 ∧ t.dev.fr e.fr = { d.fr e.fr with holders := (d.fr e.fr).holders - 1 } ∧
        (t.dev.lane p).cur = l.cur)) ∧
    (∀ c e, live → l.cur = none → l.held = none → d.b ETH_MMCTL_ACTIVE p = false → top c e (fun _ => true) → e.sup = false →
      Runs (.transmissionSelection p false) s (fun t => popped c t ∧ (t.dev.lane p).cur = starts c e ∧ (t.dev.lane p).held = none ∧
        (∀ j, j ≠ p.val → t.dev.lane j = d.lane j) ∧ t.dev.frames = d.frames ∧ Quiet [SWC_PSTAT.addr p 0] { d with eth := t.dev.eth, swc := t.dev.swc } t.dev) ∧
      (e.src = .none → 2 ≤ (d.fr e.fr).holders → (d.fr e.fr).cellBad = false → (d.rd SWC_DROP p 15).toNat < 0xFFFFFFFF → (d.rd MEM_CNT_CELL).toNat < 0xFFFFFFFF →
        Runs (.transmissionSelection p true) s (fun t => popped c t ∧ (t.dev.lane p).cur = none ∧ t.dev.rd SWC_DROP p 15 = d.rd SWC_DROP p 15 + 1 ∧
          t.dev.rd MEM_CNT_CELL = d.rd MEM_CNT_CELL + 1 ∧ (t.dev.fr e.fr).holders = (d.fr e.fr).holders - 1 ∧ (t.dev.fr e.fr).drop = 15))) ∧
    (∀ c e r, live → l.cur = some r → r.express = false → d.b ETH_MMCTL_ACTIVE p = true → top c e express → e.sup = false → r.ent.fr ≠ e.fr →
      (d.rd ETH_CNT_MMFRAGTX p).toNat < 0xFFFFFFFE → Runs (.transmissionSelection p false) s (fun t => popped c t ∧ (t.dev.lane p).cur = starts c e ∧
        (t.dev.lane p).held = some { r with pre := true } ∧ t.dev.rd ETH_CNT_MMFRAGTX p = d.rd ETH_CNT_MMFRAGTX p + 1 ∧ t.dev.b SWC_PSTAT_HELD p = true)) ∧
    (∀ r, live → l.cur = none → l.held = some r → r.cls < 8 → d.b ETH_MMCTL_ACTIVE p = true → (∀ c, c < 8 → express c = true → d.headOf p c = none) →
      Runs (.transmissionSelection p false) s (fun t => t.dev.swc = d.swc ∧ (t.dev.lane p).cur = some r ∧ (t.dev.lane p).held = none ∧
        t.dev.b SWC_PSTAT_HELD p = false)) ∧
    (l.cur = none → ∀ bad, Runs (.txFrameEnd p bad) s (fun t => t = s)) ∧
    (∀ r, l.cur = some r → (d.fr r.ent.fr).ended = false → ∀ bad, Runs (.txFrameEnd p bad) s (fun t => t = s)) ∧
    (∀ r, l.cur = some r → (d.fr r.ent.fr).ended = true → d.b ETH_CTL_LOOP p = false → r.ent.src = .none → r.pre = false → d.b SWC_FORCTL_EN = false →
      let cnt := if r.poison then ETH_CNT_TXPOIS else ETH_CNT_TXOK
      let f := d.fr r.ent.fr
      (d.rd cnt p).toNat < 0xFFFFFFFE → f.cells + d.f SWC_BUFSTAT_FREE < 65536 → Runs (.txFrameEnd p false) s (fun t =>
        (t.dev.lane p).cur = none ∧ (t.dev.lane p).held = l.held ∧ t.dev.rd cnt p = d.rd cnt p + 1 ∧
        wide64 (t.dev.rd ETH_CNT_TXOCT_LO p) (t.dev.rd ETH_CNT_TXOCT_HI p) =
          (wide64 (d.rd ETH_CNT_TXOCT_LO p) (d.rd ETH_CNT_TXOCT_HI p) + r.bytes.length + 4) % 2 ^ 64 ∧
        (2 ≤ f.holders → t.dev.fr r.ent.fr = { f with holders := f.holders - 1, wasPois := f.wasPois || r.poison } ∧ t.dev.f SWC_BUFSTAT_FREE = d.f SWC_BUFSTAT_FREE) ∧
        (f.holders ≤ 1 → t.dev.fr r.ent.fr = {} ∧ t.dev.f SWC_BUFSTAT_FREE = d.f SWC_BUFSTAT_FREE + f.cells) ∧
        (∀ k, k ≠ r.ent.fr → t.dev.fr k = d.fr k) ∧ t.dev.swc = d.swc ∧ t.dev.mem = d.mem ∧ t.dev.eng = d.eng)) ∧
    (∀ k i, (d.fr k).late = some i → i < 4096 → (d.fr k).ended = false → (d.fr k).port = p.val → d.b SWC_FORCTL_EN = false →
      (d.rd SWC_DROP p 3).toNat < 0xFFFFFFFF → Runs (.maxsduLateFail k) s (fun t =>
        t.dev.rd SWC_DROP p 3 = d.rd SWC_DROP p 3 + 1 ∧
        t.dev.ctxPol i = (if (d.ctxPol i).getLsbD 14 then d.ctxPol i ||| 0x8000 else d.ctxPol i) ∧
        (∀ q, q < 209 → (192 ≤ q → q < 208 → d.b DMA_CTL_MODE (q - 192) = false) → t.dev.q q = (d.q q).filter (fun e => e.fr != k)) ∧
        ((d.fr k).holders ≠ 0 → (∀ q, ∀ e ∈ d.q q, e.fr ≠ k) →
          (t.dev.fr k).good = false ∧ (t.dev.fr k).late = none ∧ (t.dev.fr k).ended = true ∧ (t.dev.fr k).drop = 3))) ∧
    (∀ k, (d.fr k).late = none → Runs (.maxsduLateFail k) s (fun t => t = s))

/-- R23, R284, R286, R288 to R290, R295, R296: a cycle start of a lane's list puts entry 0's gates in force, counts a list cut short, and is the boundary of instance 1 + p at which an armed commit's staged registers take force; an entry's end puts the next one's gates, or a stream gate's next state, in force. A command of the forwarding database adds, deletes, looks up or flushes, a bus error while one
runs; an entry unrefreshed for AGE seconds goes. A recovery function without a pass for RESETMS resets with EV074; a duplicate entry is forgotten after ENTRYMS. GATE_CYCLE_START, GCL_ENTRY, STREAM_GATE_ENTRY, FDB_ADD_STATIC, FDB_DELETE, FDB_LOOKUP, FDB_FLUSH_DYNAMIC, FDB_COMMAND_DONE, FDB_AGE_OUT, SEQ_RECOVERY_RESET,
DUP_ENTRY_EXPIRE. -/
def Obligations.GatesAndTablesOfTheSwitch : Prop :=
  ∀ s : State, s.dev.blow = [] →
    let d := s.dev
    let same := fun (i : Instr) => Runs i s (fun t => t = s)
    (∀ p : Fin 24,
      let st := d.gclSt p
      let c := d.inst (1 + p)
      let b := wide64 (d.rd SWC_GCLBASE_LO p) (d.rd SWC_GCLBASE_HI p)
      let t0 := b + (d.ns - b) / d.gclCycle p * d.gclCycle p
      let due := d.b SWC_GCLCTL_EN p = true ∧ b ≤ d.ns ∧ c.last < t0
      (¬due → same (.gateCycleStart p)) ∧
      (due → c.next = [] → c.timed = none → (d.rd SWC_GCLCUT p).toNat < 0xFFFFFFFF → Runs (.gateCycleStart p) s (fun t =>
        t.dev.gclSt p = { on := true, start := t0, entry := 0 } ∧ t.dev.f SWC_PSTAT_GATES p = (if d.f SWC_GCLE_INTERVAL p 0 = 0 then 0xFF else d.f SWC_GCLE_GATES p 0) ∧
        t.dev.inst (1 + p) = { c with last := d.ns } ∧ (∀ q, q ≠ p.val → t.dev.gclSt q = d.gclSt q) ∧
        (let cut := st.on && decide (t0 < st.start + d.gclTotal p)
         t.dev.rd SWC_GCLCUT p = d.rd SWC_GCLCUT p + (if cut then 1 else 0) ∧ (cut = true → t.dev.evPending 75 = true)) ∧
        Touches [SWC_PSTAT.addr p 0, SWC_GCLCUT.addr p 0] { d with swc := t.dev.swc, cmt := t.dev.cmt, eth := t.dev.eth } t.dev)) ∧
      (due → c.timed = none → (∃ a ∈ c.next, a + d.freezeWin ≤ d.wall) → Runs (.gateCycleStart p) s (fun t =>
        ∀ (r : Reg) (i j : Nat), findReg (r.addr i j) = some (r, i, j) → r.staged = true → r.instOf i = some (1 + p.val) →
          t.dev.rd r i j = commitFix (r.addr i j) (d.toCommit r i j (r.addr i j)))) ∧
      (st.on = true → entryEnd st.start st.entry (d.gclEnts p) ≤ d.ns → ∀ g len, (d.gclEnts p)[st.entry + 1]? = some (g, len) →
        Runs (.gclEntry p) s (fun t => t.dev.gclSt p = { st with entry := st.entry + 1 } ∧ t.dev.f SWC_PSTAT_GATES p = g ∧
          Quiet [SWC_PSTAT.addr p 0] { d with swc := t.dev.swc, eth := t.dev.eth } t.dev)) ∧
      (st.on = false ∨ d.ns < entryEnd st.start st.entry (d.gclEnts p) → same (.gclEntry p))) ∧
    (∀ g : Fin 32,
      let st := Tab.look d.swc.sgate {} g.val
      let stopAt := entryEnd st.start st.entry (d.sgateEnts g)
      (st.on = true → stopAt ≤ d.ns → st.entry + 1 < (d.sgateEnts g).length → Runs (.streamGateEntry g) s (fun t =>
        Tab.look t.dev.swc.sgate {} g.val = { st with entry := st.entry + 1 } ∧ (∀ g', g' ≠ g.val → Tab.look t.dev.swc.sgate {} g' = Tab.look d.swc.sgate {} g') ∧
        t.dev = { d with swc := { d.swc with sgate := t.dev.swc.sgate } })) ∧
      (st.on = false ∨ d.ns < stopAt ∨ (d.sgateEnts g).length ≤ st.entry + 1 → same (.streamGateEntry g))) ∧
    (∀ m : Master,
      let vid := d.f SWC_FDBDATA1_VID
      let mac := d.f SWC_FDBDATA1_MACHI * 2 ^ 32 + (d.rd SWC_FDBDATA0).toNat
      let others := fun (t : State) => ∀ v' m', fdbKey v' m' ≠ fdbKey vid mac → t.dev.fdbFind v' m' = d.fdbFind v' m'
      let runs := fun (t : State) => t.dev.b SWC_FDBCMD_BUSY = true ∧ t.dev.swc = { d.swc with fdb := t.dev.swc.fdb } ∧ answers t m 0 false ∧
        Quiet [SWC_FDBCMD.base, SWC_FDBDATA2.base] { d with swc := t.dev.swc } t.dev
      let cmds := [(1, Instr.fdbAddStatic m), (2, .fdbDelete m), (3, .fdbLookup m), (4, .fdbFlushDynamic m)]
      (∀ x ∈ cmds, d.accepts m SWC_FDBCMD 0 0 (BitVec.ofNat 32 x.1) = true → d.b SWC_FDBCMD_BUSY = true →
        Runs x.2 s (fun t => t.dev = { d with resp := [⟨m.num, 0, true⟩] })) ∧
      (d.b SWC_FDBCMD_BUSY = false →
        (d.accepts m SWC_FDBCMD 0 0 1 = true → d.swc.fdb.length < 8192 ∨ d.fdbFind vid mac ≠ none → Runs (.fdbAddStatic m) s (fun t =>
          t.dev.fdbFind vid mac = some ⟨d.f SWC_FDBDATA2_PORTS, true, d.wall⟩ ∧ others t ∧ runs t)) ∧
        (d.accepts m SWC_FDBCMD 0 0 1 = true → 8192 ≤ d.swc.fdb.length → d.fdbFind vid mac = none → Runs (.fdbAddStatic m) s (fun t => t.dev.swc = d.swc ∧ runs t)) ∧
        (d.accepts m SWC_FDBCMD 0 0 2 = true → Runs (.fdbDelete m) s (fun t =>
          t.dev.fdbFind vid mac = none ∧ others t ∧ t.dev.b SWC_FDBCMD_FOUND = (d.fdbFind vid mac).isSome ∧ runs t)) ∧
        (d.accepts m SWC_FDBCMD 0 0 3 = true → Runs (.fdbLookup m) s (fun t => t.dev.swc = d.swc ∧ runs t ∧
          t.dev.b SWC_FDBCMD_FOUND = (d.fdbFind vid mac).isSome ∧
          ∀ e, d.fdbFind vid mac = some e → t.dev.f SWC_FDBDATA2_PORTS = e.ports % 2 ^ 28 ∧ t.dev.b SWC_FDBDATA2_STATIC = e.static)) ∧
        (d.accepts m SWC_FDBCMD 0 0 4 = true → Runs (.fdbFlushDynamic m) s (fun t =>
          t.dev.swc.fdb = d.swc.fdb.filter (fun e => e.2.static) ∧ runs t)))) ∧
    Runs .fdbCommandDone s (fun t => t.dev.b SWC_FDBCMD_BUSY = false ∧ t.dev.b SWC_FDBCMD_FOUND = d.b SWC_FDBCMD_FOUND ∧ Quiet [SWC_FDBCMD.base] d t.dev) ∧
    (∀ (vid : BitVec 12) (mac : BitVec 48) (e : FdbEnt), d.fdbFind vid.toNat mac.toNat = some e →
      (e.static = false → d.f SWC_CTL_AGE ≠ 0 → e.seen + d.f SWC_CTL_AGE * 20000000000 ≤ d.wall → Runs (.fdbAgeOut vid mac) s (fun t =>
        t.dev.fdbFind vid.toNat mac.toNat = none ∧ (∀ v' m', fdbKey v' m' ≠ fdbKey vid.toNat mac.toNat → t.dev.fdbFind v' m' = d.fdbFind v' m') ∧
        Quiet [SWC_FDBCMD.base] { d with swc := { d.swc with fdb := t.dev.swc.fdb } } t.dev)) ∧
      (e.static = true ∨ d.f SWC_CTL_AGE = 0 ∨ d.wall < e.seen + d.f SWC_CTL_AGE * 20000000000 → same (.fdbAgeOut vid mac))) ∧
    (∀ n : Fin 256,
      let x := Tab.look d.swc.srec {} n.val
      (x.any = false → x.pass + d.f SWC_SREC_CFG_RESETMS n * 20000000 ≤ d.wall → Runs (.seqRecoveryReset n) s (fun t =>
        Tab.look t.dev.swc.srec {} n.val = {} ∧ (∀ k, k ≠ n.val → Tab.look t.dev.swc.srec {} k = Tab.look d.swc.srec {} k) ∧ t.dev.evPending 74 = true ∧
        Touches [] { d with swc := { d.swc with srec := t.dev.swc.srec } } t.dev)) ∧
      (x.any = true ∨ d.wall < x.pass + d.f SWC_SREC_CFG_RESETMS n * 20000000 → same (.seqRecoveryReset n))) ∧
    (∀ (k : Fin 4) (src : BitVec 48) (seq : BitVec 16), Runs (.dupEntryExpire k src seq) s (fun t =>
      Tab.look t.dev.swc.dup [] k.val = (Tab.look d.swc.dup [] k.val).filter (fun e =>
        !(e.src == src.toNat && e.seq == seq.toNat && decide (e.at' + d.f SWC_RED_TIME_ENTRYMS k * 20000000 ≤ d.wall))) ∧
      (∀ j, j ≠ k.val → Tab.look t.dev.swc.dup [] j = Tab.look d.swc.dup [] j) ∧ t.dev = { d with swc := { d.swc with dup := t.dev.swc.dup } }))

/-! ### Time (chapter 10) -/

/-- R309, R312 to R320: a write of TIME_CTL enters FREE with the rate last in force, HOLDOVER where it names an invalid clock, a hand-over by slewing from another target, and from FREE or HOLDOVER a step when the difference exceeds the threshold and steps are permitted, else a slew. Clearing EN clears VALID. A domain clock steps or slews by DCk_ADJ; a step of the target
moves the time base by a step or a slew. A slew ends LOCKED at the target's value; PRI is taken up again after REVERTS seconds; TIME_SET loads under SEL = 0x0 alone, TIME_RATE in FREE and HOLDOVER alone; SYNC clears at the holdover limit. TIME_CTL_WRITE, DC_CFG_WRITE, DC_ADJUST_STEP, DC_ADJUST_SLEW, DC_SLEW_DONE, TIME_SLEW_DONE, TIME_REVERT,
TIME_SET_LOAD, TIME_RATE_WRITE, HOLDOVER_LIMIT. -/
def Obligations.TheTimeBaseFollowsItsTarget : Prop :=
  ∀ (s : State) (m : Master) (k : Fin 2), s.dev.blow = [] → (∀ n : Fin 8, s.dev.b BRG_CTL_EN n = false) →
    let d := s.dev
    let st := d.f TIME_STAT_STATE
    let same := fun (i : Instr) => Runs i s (fun t => t = s)
    let stepped := fun (v : Nat) (t : State) => t.dev.tb = v % (tbUnit * 2 ^ 64) ∧ t.dev.b TIME_STAT_STEPPED = true ∧ t.dev.evPending 84 = true ∧
      (∀ i : Fin 81, t.dev.inst i = { d.inst i with last := t.dev.ns }) ∧
      (∀ j : Fin 4, (d.rd TIME_TGTCTL).getLsbD j = true → d.tgt j ≤ t.dev.ns → (t.dev.rd TIME_TGTCTL).getLsbD j = false ∧ (t.dev.rd TIME_TGTCTL).getLsbD (4 + j) = true)
    let slewing := fun (c v : Nat) (t : State) => t.dev.f TIME_STAT_STATE = 2 ∧ t.dev.f TIME_STAT_ACTIVE = c ∧ t.dev.tb = d.tb ∧ t.dev.tm.behind = decide (d.tb < v)
    let far := fun (v : Nat) => (d.rd TIME_STEPTHR).toNat * tbUnit < (if d.tb ≤ v then v - d.tb else d.tb - v)
    let held := fun (t : State) => t.dev.f TIME_STAT_STATE = 3 ∧ t.dev.rd TIME_RATE = BitVec.ofInt 32 d.rateBase ∧ t.dev.tm.holdAt = d.wall ∧
      t.dev.tb = d.tb ∧ t.dev.evPending 84 = true
    (∀ v : Word, d.accepts m TIME_CTL 0 0 v = true →
      let sel := getBits v 0 2
      let p := getBits v 2 1
      let tg := if sel = 1 then 0 else if sel = 2 then 1 else if d.b DC_CFG_VALID p then p else 1 - p
      let w := fun (t : State) => t.dev.rd TIME_CTL = v &&& 0xFFFFFF0F ∧ answers t m 0 false
      (sel = 0 → st ≠ 0 → Runs (.timeCtlWrite m v) s (fun t => w t ∧ t.dev.f TIME_STAT_STATE = 0 ∧ t.dev.rd TIME_RATE = d.rateWord ∧
        t.dev.b TIME_STAT_SYNC = false ∧ t.dev.evPending 84 = true ∧ Touches [TIME_CTL.base, TIME_RATE.base, TIME_STAT.base] d t.dev)) ∧
      (sel ≠ 0 → sel ≠ 3 → d.b DC_CFG_VALID tg = false → st ≠ 3 → Runs (.timeCtlWrite m v) s (fun t => w t ∧ held t ∧ t.dev.f TIME_STAT_ACTIVE = tg ∧
        Touches [TIME_CTL.base, TIME_RATE.base, TIME_STAT.base] { d with tm := t.dev.tm } t.dev)) ∧
      (sel ≠ 0 → sel ≠ 3 → d.b DC_CFG_VALID tg = true → (st = 1 ∨ st = 2) → d.f TIME_STAT_ACTIVE ≠ tg → Runs (.timeCtlWrite m v) s (fun t =>
        w t ∧ slewing tg (d.dc tg).val t ∧ Touches [TIME_CTL.base, TIME_STAT.base] { d with tm := t.dev.tm } t.dev)) ∧
      (sel ≠ 0 → sel ≠ 3 → d.b DC_CFG_VALID tg = true → (st = 1 ∨ st = 2) → d.f TIME_STAT_ACTIVE = tg → Runs (.timeCtlWrite m v) s (fun t =>
        w t ∧ Quiet [TIME_CTL.base] d t.dev)) ∧
      (sel ≠ 0 → d.b DC_CFG_VALID tg = true → (st = 0 ∨ st = 3) →
        (v.getLsbD 3 = true → far (d.dc tg).val → Runs (.timeCtlWrite m v) s (fun t => w t ∧ stepped (d.dc tg).val t ∧ t.dev.f TIME_STAT_STATE = 1 ∧
          t.dev.f TIME_STAT_ACTIVE = tg ∧ Touches [TIME_CTL.base, TIME_STAT.base, TIME_TGTCTL.base] { d with tb := t.dev.tb, cmt := t.dev.cmt } t.dev)) ∧
        (v.getLsbD 3 = false ∨ ¬far (d.dc tg).val → Runs (.timeCtlWrite m v) s (fun t => w t ∧ slewing tg (d.dc tg).val t ∧
          Touches [TIME_CTL.base, TIME_STAT.base] { d with tm := t.dev.tm } t.dev)))) ∧
    (∀ v : Word, d.accepts m DC_CFG k 0 v = true →
      let off := d.b DC_CFG_EN k = true ∧ v.getLsbD 12 = false
      (d.f TIME_CTL_SEL = 0 → st = 0 →
        (off → Runs (.dcCfgWrite m k v) s (fun t => t.dev.rd DC_CFG k = v &&& 0xDFFF ∧ Quiet [DC_CFG.addr k 0] d t.dev ∧ answers t m 0 false)) ∧
        (¬off → Runs (.dcCfgWrite m k v) s (fun t => t.dev.rd DC_CFG k = v &&& 0xFFFF ∧ (t.dev.dc k).val = (d.dc k).val ∧
          (v.getLsbD 13 = true → d.b DC_CFG_VALID k = false → (t.dev.dc k).validAt = d.wall) ∧
          Quiet [DC_CFG.addr k 0] { d with tm := t.dev.tm } t.dev ∧ answers t m 0 false))) ∧
      (d.f TIME_CTL_SEL = k + 1 → st = 1 ∨ st = 2 → d.f TIME_STAT_ACTIVE = k → off ∨ v.getLsbD 13 = false → Runs (.dcCfgWrite m k v) s (fun t =>
        held t ∧ t.dev.f TIME_STAT_ACTIVE = k ∧ t.dev.b DC_CFG_VALID k = false ∧ answers t m 0 false)) ∧
      (d.f TIME_CTL_SEL = k + 1 → st = 0 ∨ st = 3 → ¬off → v.getLsbD 13 = true → d.b TIME_CTL_STEPOK = false ∨ ¬far (d.dc k).val → Runs (.dcCfgWrite m k v) s (fun t =>
        slewing k (d.dc k).val t ∧ t.dev.b DC_CFG_VALID k = true ∧ answers t m 0 false))) ∧
    (let amt : Int := (d.rd DC_ADJ k).toInt * (tbUnit : Int)
     let c := d.dc k
     let dcIs := fun (x : Dc) (t : State) => t.dev.dc k = x ∧ (∀ j : Fin 2, j ≠ k → t.dev.dc j = d.dc j)
     (∀ i v, (i = .dcAdjustStep m k ∧ v = 3) ∨ (i = .dcAdjustSlew m k ∧ v = 1) → d.accepts m DC_ADJCTL k 0 v = true →
       (d.b DC_ADJCTL_BUSY k = true → Runs i s (fun t => dcIs { c with slew := c.slew + amt } t ∧ t.dev.b DC_ADJCTL_BUSY k = true ∧ t.dev.tb = d.tb ∧
         Quiet [DC_ADJCTL.addr k 0] { d with tm := t.dev.tm } t.dev ∧ answers t m 0 false)) ∧
       (d.b DC_ADJCTL_BUSY k = false → v = 1 → Runs i s (fun t => dcIs { c with slew := amt } t ∧ t.dev.b DC_ADJCTL_BUSY k = true ∧
         Quiet [DC_ADJCTL.addr k 0] { d with tm := t.dev.tm } t.dev ∧ answers t m 0 false)) ∧
       (d.b DC_ADJCTL_BUSY k = false → v = 3 → st ≠ 1 ∨ d.f TIME_STAT_ACTIVE ≠ k → Runs i s (fun t => dcIs { c with val := clockAdd c.val amt } t ∧
         t.dev.b DC_ADJCTL_BUSY k = false ∧ t.dev.b DC_ADJCTL_STEP k = true ∧ Quiet [DC_ADJCTL.addr k 0] { d with tm := t.dev.tm } t.dev ∧ answers t m 0 false)) ∧
       (d.b DC_ADJCTL_BUSY k = false → v = 3 → st = 1 → d.f TIME_STAT_ACTIVE = k →
         let big := (d.rd TIME_STEPTHR).toNat * tbUnit < amt.natAbs
         (d.b TIME_CTL_STEPOK = true → big → Runs i s (fun t => dcIs { c with val := clockAdd c.val amt } t ∧ stepped (clockAdd c.val amt) t ∧
           t.dev.f TIME_STAT_STATE = 1 ∧ answers t m 0 false)) ∧
         (d.b TIME_CTL_STEPOK = false ∨ ¬big → Runs i s (fun t => dcIs { c with val := clockAdd c.val amt } t ∧ slewing k (clockAdd c.val amt) t ∧ answers t m 0 false)))) ∧
     (d.b DC_ADJCTL_BUSY k = true → c.slew = 0 → Runs (.dcSlewDone k) s (fun t => t.dev.b DC_ADJCTL_BUSY k = false ∧ Quiet [DC_ADJCTL.addr k 0] d t.dev)) ∧
     (d.b DC_ADJCTL_BUSY k = false ∨ c.slew ≠ 0 → same (.dcSlewDone k))) ∧
    (let v := (d.dc (d.f TIME_STAT_ACTIVE)).val
     let near := (if d.tb ≤ v then v - d.tb else d.tb - v) * 20 ≤ tbUnit ∨ d.tm.behind ≠ decide (d.tb < v)
     (st = 2 → near → Runs .timeSlewDone s (fun t => t.dev.tb = v ∧ t.dev.f TIME_STAT_STATE = 1 ∧ t.dev.b TIME_STAT_SYNC = !d.b TIME_STAT_CLKFAIL ∧
       t.dev.evPending 84 = true ∧ Touches [TIME_STAT.base] { d with tb := t.dev.tb } t.dev)) ∧
     (st ≠ 2 ∨ ¬near → same .timeSlewDone)) ∧
    (let p := d.f TIME_CTL_PRI
     let back := d.f TIME_CTL_SEL = 3 ∧ d.f TIME_STAT_ACTIVE ≠ p ∧ d.b DC_CFG_VALID p = true ∧ (d.dc p).validAt + d.f TIME_CTL_REVERTS * 20000000000 ≤ d.wall
     (back → st = 1 ∨ st = 2 → Runs .timeRevert s (fun t => slewing p (d.dc p).val t ∧ Touches [TIME_STAT.base] { d with tm := t.dev.tm } t.dev)) ∧
     (¬back → same .timeRevert)) ∧
    (d.accepts m TIME_SETCMD 0 0 1 = true →
      (d.f TIME_CTL_SEL = 0 → Runs (.timeSetLoad m) s (fun t => stepped (wide64 (d.rd TIME_SET_LO) (d.rd TIME_SET_HI) * tbUnit) t ∧
        Touches [TIME_STAT.base, TIME_TGTCTL.base] { d with tb := t.dev.tb, cmt := t.dev.cmt } t.dev ∧ answers t m 0 false)) ∧
      (d.f TIME_CTL_SEL ≠ 0 → Runs (.timeSetLoad m) s (fun t => t.dev = { d with resp := [⟨m.num, 0, true⟩] }))) ∧
    (∀ v : Word, d.accepts m TIME_RATE 0 0 v = true →
      (st = 0 ∨ st = 3 → Runs (.timeRateWrite m v) s (fun t => t.dev.rd TIME_RATE = v ∧ Quiet [TIME_RATE.base] d t.dev ∧ answers t m 0 false)) ∧
      (st = 1 ∨ st = 2 → Runs (.timeRateWrite m v) s (fun t => t.dev = { d with resp := [⟨m.num, 0, false⟩] }))) ∧
    (st = 3 → d.b TIME_STAT_SYNC = true →
      let past := (d.rd TIME_HOLDLIM).toNat < d.f TIME_HOLD_HRATE * ((d.wall - d.tm.holdAt) / 20) / 10 ^ 9
      (past → Runs .holdoverLimit s (fun t => t.dev.b TIME_STAT_SYNC = false ∧ t.dev.f TIME_STAT_STATE = 3 ∧ t.dev.evPending 84 = true ∧ Touches [TIME_STAT.base] d t.dev)) ∧
      (¬past → d.b TIME_STAT_CLKFAIL = false → same .holdoverLimit))

/-- R308, R311, R322, R328 to R330, R332, R337 to R340: a read of a clock's LO latches the rest of one instant; the real-time clock is realigned once a whole second; a refresh takes its delays whole after NONE or AGED and by at most 250 ps later, and a lane without one ages; queues of stamps latch their oldest entry on one read and lose it on another;
PPS_OUT, PPS_IN, the event inputs and the targets act at their instants and edges. TIME_NOW_READ, DC_NOW_READ, RTC_READ, RTC_REALIGN, CAL_REFRESH, CAL_AGED, TSQ_LATCH_READ, TSQ_REMOVE_READ, PPS_OUT_RISE, PPS_OUT_FALL, PPS_IN_EDGE, PPSI_READ, EVENT_INPUT_EDGE, EVIN_LATCH_READ, EVIN_REMOVE_READ, TARGET_ARM, TARGET_TIME_FIRE. -/
def Obligations.StampsPulsesAndTargets : Prop :=
  ∀ (s : State) (m : Master) (k : Fin 2), s.dev.blow = [] →
    let d := s.dev
    let same := fun (i : Instr) => Runs i s (fun t => t = s)
    let tmOnly := fun (t : State) => t.dev = { d with tm := t.dev.tm }
    (d.mayGet m TIME_NOW_LO 0 0 = true → Runs (.timeNowRead m) s (fun t => answers t m (d.ns % 2 ^ 32) false ∧
      t.dev.rd TIME_NOW_HI = BitVec.ofNat 32 (d.ns / 2 ^ 32) ∧ t.dev.rd TIME_NOW_FRAC = BitVec.ofNat 32 d.frac ∧
      Quiet [TIME_NOW_LO.base, TIME_NOW_HI.base, TIME_NOW_FRAC.base] d t.dev)) ∧
    (d.mayGet m DC_NOW_LO k 0 = true → let c := (d.dc k).val
      Runs (.dcNowRead m k) s (fun t => answers t m (c / tbUnit % 2 ^ 32) false ∧
        t.dev.rd DC_NOW_HI k = BitVec.ofNat 32 (c / tbUnit / 2 ^ 32) ∧ t.dev.rd DC_NOW_FRAC k = BitVec.ofNat 32 (c % tbUnit * 20 / tbUnit) ∧
        Quiet [DC_NOW_LO.addr k 0, DC_NOW_HI.addr k 0, DC_NOW_FRAC.addr k 0] d t.dev)) ∧
    (d.mayGet m TIME_RTC_LO 0 0 = true → Runs (.rtcRead m) s (fun t => answers t m (d.rtcNow % 2 ^ 32) false ∧
      t.dev.rd TIME_RTC_HI = BitVec.ofNat 32 (d.rtcNow / 2 ^ 32) ∧ Quiet [TIME_RTC_LO.base, TIME_RTC_HI.base] d t.dev)) ∧
    (∀ trim : BitVec 24,
      (d.b TIME_STAT_SYNC = true → d.ns / 10 ^ 9 ≠ d.tm.rtcSec → Runs (.rtcRealign trim) s (fun t => t.dev.rtcNow = d.ns ∧ t.dev.tm.rtcSec = d.ns / 10 ^ 9 ∧
        t.dev.f TIME_RTCTRIM_TRIM = (if d.b TIME_RTCTRIM_AUTO then trim.toNat else d.f TIME_RTCTRIM_TRIM) ∧ Quiet [TIME_RTCTRIM.base] { d with tm := t.dev.tm } t.dev)) ∧
      (d.b TIME_STAT_SYNC = false ∨ d.ns / 10 ^ 9 = d.tm.rtcSec → same (.rtcRealign trim))) ∧
    (∀ p : Fin 24,
      let held := d.b ETH_STAT_LPI_TX p = true ∨ d.b ETH_STAT_LPI_RX p = true ∨ d.b ETH_STAT_LINK p = false ∨ d.f PWR_STAT_STATE = 2
      let near := fun (cur x : Word) => BitVec.ofInt 32 (cur.toInt + max (-250) (min 250 (x.toInt - cur.toInt)))
      (∀ tx rx : Word,
        (held → same (.calRefresh p tx rx)) ∧
        (¬held → Runs (.calRefresh p tx rx) s (fun t => t.dev.f TIME_CALSTAT_STATE p = 1 ∧ Tab.look t.dev.tm.cal 0 p.val = d.wall ∧
          (d.f TIME_CALSTAT_STATE p ≠ 1 → t.dev.rd TIME_CALTX p = tx ∧ t.dev.rd TIME_CALRX p = rx) ∧
          (d.f TIME_CALSTAT_STATE p = 1 → t.dev.rd TIME_CALTX p = near (d.rd TIME_CALTX p) tx ∧ t.dev.rd TIME_CALRX p = near (d.rd TIME_CALRX p) rx) ∧
          Quiet [TIME_CALTX.addr p 0, TIME_CALRX.addr p 0, TIME_CALSTAT.addr p 0] { d with tm := t.dev.tm } t.dev))) ∧
      (let old := max 1 (d.f TIME_CALCTL_AGEMS) ≤ min 0xFFFFFF ((d.wall - Tab.look d.tm.cal 0 p.val) / 20000000)
       (d.f TIME_CALSTAT_STATE p = 1 → old → Runs (.calAged p) s (fun t => t.dev.f TIME_CALSTAT_STATE p = 3 ∧ t.dev.rd TIME_CALAGED = d.rd TIME_CALAGED ||| (1 <<< p.val) ∧
         t.dev.evPending 83 = true ∧ Touches [TIME_CALSTAT.addr p 0, TIME_CALAGED.base] d t.dev)) ∧
       (d.f TIME_CALSTAT_STATE p ≠ 1 ∨ ¬old → same (.calAged p)))) ∧
    (d.mayGet m TIME_TSQ0 0 0 = true → let e : TsqEnt := d.tm.tsq.headD ⟨0, ⟨0, 0⟩, 0⟩
      Runs (.tsqLatchRead m) s (fun t => answers t m e.w0.toNat false ∧ t.dev.rd TIME_TSQ1 = BitVec.ofNat 32 e.stamp.ns ∧
        t.dev.rd TIME_TSQ2 = BitVec.ofNat 32 (e.stamp.ns / 2 ^ 32) ∧
        t.dev.rd TIME_TSQ3 = (if d.tm.tsq = [] then 0 else e.dom ||| BitVec.ofNat 32 (e.stamp.frac + 2 ^ 31)) ∧ t.dev.tm = { d.tm with tsqLatch := !d.tm.tsq.isEmpty } ∧
        Quiet [TIME_TSQ0.base, TIME_TSQ1.base, TIME_TSQ2.base, TIME_TSQ3.base] { d with tm := t.dev.tm } t.dev)) ∧
    (d.mayGet m TIME_TSQ3 0 0 = true → Runs (.tsqRemoveRead m) s (fun t => answers t m (d.rd TIME_TSQ3).toNat false ∧
      t.dev.tm = (if d.tm.tsqLatch then { d.tm with tsq := d.tm.tsq.drop 1, tsqLatch := false } else d.tm) ∧ Quiet [] { d with tm := t.dev.tm } t.dev)) ∧
    (let now := d.srcClock (d.f TIME_PPSO_CFG_SRC) / tbUnit % 2 ^ 64
     let per := if 1000 ≤ d.f TIME_PPSO_PER_PER ∧ d.f TIME_PPSO_PER_PER ≤ 1000000000 then d.f TIME_PPSO_PER_PER else 1000000000
     let ofs := ((d.rd TIME_PPSO_OFS).toInt % (per : Int)).toNat
     let at' := (d.tm.ppsLast + per - ofs) / per * per + ofs
     let due := d.b TIME_PPSO_CFG_EN = true ∧ d.tm.ppsOut = false ∧ d.tm.ppsLast < at' ∧ at' ≤ now
     (due → d.b TIME_PPSO_CFG_SYNCGATE = false ∨ d.b TIME_STAT_SYNC = true → Runs .ppsOutRise s (fun t => tmOnly t ∧
       t.dev.tm = { d.tm with
         ppsOut := true
         ppsLast := now
         ppsEnd := at' + (if per ≤ d.f TIME_PPSO_WID_WID then per / 2 else d.f TIME_PPSO_WID_WID) })) ∧
     (due → d.b TIME_PPSO_CFG_SYNCGATE = true → d.b TIME_STAT_SYNC = false → Runs .ppsOutRise s (fun t => tmOnly t ∧ t.dev.tm = { d.tm with ppsLast := now })) ∧
     (¬due → same .ppsOutRise) ∧
     (d.tm.ppsOut = true → d.tm.ppsEnd ≤ now → Runs .ppsOutFall s (fun t => tmOnly t ∧ t.dev.tm = { d.tm with ppsOut := false })) ∧
     (d.tm.ppsOut = false ∨ now < d.tm.ppsEnd → same .ppsOutFall)) ∧
    (∀ rising : Bool,
      let near := ∃ a, d.tm.ppsiAt = some a ∧ d.wall < a + 2000
      let mine := d.b TIME_PPSI_CFG_EN = true ∧ (d.f TIME_PPSI_CFG_EDGE = 0 ↔ rising = true)
      (mine → ¬near → Runs (.ppsInEdge rising) s (fun t => t.dev.tm = { d.tm with ppsi := d.stampIn (d.f TIME_PPSI_CFG_SRC), ppsiAt := some d.wall } ∧
        t.dev.b TIME_PPSI_FRAC_NEW = true ∧ (d.b TIME_PPSI_FRAC_NEW = true → t.dev.b TIME_PPSI_FRAC_OVR = true) ∧ t.dev.evPending 80 = true ∧
        Touches [TIME_PPSI_FRAC.base] { d with tm := t.dev.tm } t.dev)) ∧
      (¬mine ∨ near → same (.ppsInEdge rising))) ∧
    (d.mayGet m TIME_PPSI_LO 0 0 = true → Runs (.ppsiRead m) s (fun t => answers t m (d.tm.ppsi.ns % 2 ^ 32) false ∧
      t.dev.rd TIME_PPSI_HI = BitVec.ofNat 32 (d.tm.ppsi.ns / 2 ^ 32) ∧ t.dev.rd TIME_PPSI_FRAC = BitVec.ofNat 32 d.tm.ppsi.frac ∧
      Quiet [TIME_PPSI_LO.base, TIME_PPSI_HI.base, TIME_PPSI_FRAC.base] d t.dev)) ∧
    (∀ rising : Bool,
      let e := d.f TIME_EV_CFG_EDGE k
      let chosen := e = 3 ∨ (e = 1 ∧ rising = true) ∨ (e = 2 ∧ rising = false)
      let near := ∃ a, (if k = 0 then d.tm.evAt0 else d.tm.evAt1) = some a ∧ d.wall < a + 400
      (¬chosen → same (.eventInputEdge k rising)) ∧
      (chosen → ¬near → (d.evq k).length < 16 → Runs (.eventInputEdge k rising) s (fun t =>
        t.dev.evq k = d.evq k ++ [(d.stampIn (d.f TIME_EV_CFG_SRC k), rising)] ∧ (∀ j : Fin 2, j ≠ k → t.dev.evq j = d.evq j) ∧ t.dev.evPending (81 + k) = true ∧
        Touches [] { d with tm := t.dev.tm } t.dev)) ∧
      (chosen → near ∨ 16 ≤ (d.evq k).length → (d.rd TIME_EV_MISS k).toNat < 0xFFFFFFFF → Runs (.eventInputEdge k rising) s (fun t =>
        t.dev.rd TIME_EV_MISS k = d.rd TIME_EV_MISS k + 1 ∧ Quiet [TIME_EV_MISS.addr k 0] d t.dev))) ∧
    (d.mayGet m TIME_EV_LO k 0 = true → let e : Stamp × Bool := (d.evq k).headD (⟨0, 0⟩, false)
      Runs (.evinLatchRead m k) s (fun t => answers t m (e.1.ns % 2 ^ 32) false ∧ t.dev.rd TIME_EV_HI k = BitVec.ofNat 32 (e.1.ns / 2 ^ 32) ∧
        t.dev.rd TIME_EV_FRAC k = BitVec.ofNat 32 (e.1.frac + e.2.toNat * 256 + (!(d.evq k).isEmpty).toNat * 2 ^ 31) ∧
        (if k = 0 then t.dev.tm.evLatch0 else t.dev.tm.evLatch1) = !(d.evq k).isEmpty ∧ t.dev.evq k = d.evq k ∧
        Quiet [TIME_EV_LO.addr k 0, TIME_EV_HI.addr k 0, TIME_EV_FRAC.addr k 0] { d with tm := t.dev.tm } t.dev)) ∧
    (d.mayGet m TIME_EV_FRAC k 0 = true → Runs (.evinRemoveRead m k) s (fun t => answers t m (d.rd TIME_EV_FRAC k).toNat false ∧
      t.dev.evq k = (if (if k = 0 then d.tm.evLatch0 else d.tm.evLatch1) then (d.evq k).drop 1 else d.evq k) ∧
      (if k = 0 then t.dev.tm.evLatch0 else t.dev.tm.evLatch1) = false ∧ Quiet [] { d with tm := t.dev.tm } t.dev)) ∧
    (∀ j : Fin 4,
      let old := d.rd TIME_TGTCTL
      let at' := wide64 (d.rd TIME_TGT_LO j) (d.rd TIME_TGT_HI j)
      (d.accepts m TIME_TGTCTL 0 0 ((old &&& 0xF) ||| (1 <<< j.val)) = true →
        (∀ i : Fin 4, i ≠ j → old.getLsbD i = true → d.ns < d.tgt i) →
        (d.ns < at' → Runs (.targetArm m j) s (fun t => t.dev.rd TIME_TGTCTL = (old &&& 0xFF) ||| (1 <<< j.val) ∧ Quiet [TIME_TGTCTL.base] d t.dev ∧ answers t m 0 false)) ∧
        (at' ≤ d.ns → Runs (.targetArm m j) s (fun t => (t.dev.rd TIME_TGTCTL).getLsbD j = false ∧ (t.dev.rd TIME_TGTCTL).getLsbD (4 + j) = true ∧
          t.dev.evPending 85 = true ∧ Touches [TIME_TGTCTL.base] d t.dev ∧ answers t m 0 false))) ∧
      (old.getLsbD j = true → at' ≤ d.ns → Runs (.targetTimeFire j) s (fun t => t.dev.rd TIME_TGTCTL = (old &&& ~~~((1 : Word) <<< j.val)) ||| (1 <<< (4 + j.val)) ∧
        t.dev.evPending 85 = true ∧ Touches [TIME_TGTCTL.base] d t.dev)) ∧
      (old.getLsbD j = false ∨ d.ns < at' → same (.targetTimeFire j)))

/-! ### The multi-drop message buses (chapter 11) -/

/-- R345, R347, R348, R351, R353, R356, R357, R358: enabling a controller, or its refusal; a frame the filters accept takes a buffer and is posted to the bound engine, one they do not accept is counted; the one frame offered
is a due reference message before the priority slot before the FIFO, and leaves its place when sent; a flush empties FIFO and slot; errors lead to bus-off, which recovery ends. MB_ENABLE, MB_RX_FRAME, HELD_ARM_ENTRY, MB_TX_OPPORTUNITY, MB_TX_COMPLETE,
MB_FLUSH, MB_RECOVER, MB_RECOVERY_COMPLETE, MB_MODE_CHANGE.
R359 to R366: a controller asked to sleep enters it at bus-idle; a dominant level or the chosen frame wakes it, chatter quarantines its wake input, a stuck one is reported once; a potential master's reference message falls due; a valid one gives cycle
and Sync_Mark and synchronises, and its absence ends that. MB_SLEEP_REQUEST, MB_SLEEP_ENTRY, MB_WAKE_DOMINANT, MB_QUARANTINE_END, MB_STUCK, MB_WAKE_FRAME, MB_DECODER_IDLE, MB_DECODER_TRIM, MB_WAKE_REQUEST, MB_INTEGRATION_DONE,
MB_REF_DUE, MB_REFERENCE_MESSAGE, MB_SYNC_TIMEOUT, MB_TMREF_READ. -/
def Obligations.BusesSendReceiveSleepAndKeepTime : Prop :=
  (∀ (s : State) (m : Master) (n : Fin 16), s.dev.blow = [] →
    let d := s.dev
    let mb := d.mbus n
    let st := d.f MDB_STAT_STATE n
    let same := fun (i : Instr) => Runs i s (fun t => t = s)
    let is := fun (x : MbSt) (t : State) => t.dev.mbus n = x ∧ (∀ k, k ≠ n.val → t.dev.mbus k = d.mbus k)
    let low := fun (r : Reg) => (d.rd r n).toNat < 0xFFFFFFFF
    let up := (d.boundEng (24 + n)).isSome = true ∧ (st = 2 ∨ st = 3)
    let ctl := d.rd MDB_CTL n &&& 0xFF
    let poke := fun (v : Word) => d.accepts m MDB_CTL n 0 (ctl ||| v) = true
    (∀ v : Word, d.accepts m MDB_CTL n 0 (v ||| 1) = true → d.b MDB_CTL_EN n = false → v &&& 0xF00 = 0 →
      let bad := d.f MDB_NBT_NTSEG2 n < d.f MDB_NBT_NSJW n ∨ d.f MDB_DBT_DTSEG2 n < d.f MDB_DBT_DSJW n ∨ (v.getLsbD 3 = true ∧ d.mbNominal n < d.mbData n)
      (bad → Runs (.mbEnable m n v) s (fun t => t.dev.rd MDB_CTL n = v &&& 0xFE ∧ t.dev.b MDB_STAT_CFGERR n = true ∧ t.dev.b MDB_EVSTAT_CFGERR n = true ∧
        Touches [MDB_CTL.addr n 0, MDB_STAT.addr n 0, MDB_EVSTAT.addr n 0] d t.dev ∧ answers t m 0 false)) ∧
      (¬bad → Runs (.mbEnable m n v) s (fun t => t.dev.rd MDB_CTL n = (v &&& 0xFE) ||| 1 ∧ t.dev.f MDB_STAT_STATE n = (if d.b CLK_STAT_RCACT then 0 else 1) ∧
        t.dev.b MDB_STAT_CFGERR n = false ∧ is { mb with listen := decide (getBits v 1 2 ≠ 0) } t ∧
        Quiet [MDB_CTL.addr n 0, MDB_STAT.addr n 0] { d with mb := t.dev.mb } t.dev ∧ answers t m 0 false))) ∧
    (∀ (f : MbFrame) (how : MbEnd),
      let flt := (List.range 32).find? (fun k => d.b MDB_FLT_FID_EN n k && d.b MDB_FLT_FID_IDE n k == f.ide
        && ((f.id.toNat ^^^ d.f MDB_FLT_FID_FID n k) &&& d.f MDB_FLT_MASK_MASK n k) == 0)
      let out := flt = none ∨ ∃ k, flt = some k ∧ d.b MDB_FLT_MASK_REJECT n k = true
      (¬up → same (.mbRxFrame n f how)) ∧
      (up → out → mb.listen = true → d.isRef n f = false → low MDB_CNT_RXFILT → Runs (.mbRxFrame n f how) s (fun t =>
        t.dev.rd MDB_CNT_RXFILT n = d.rd MDB_CNT_RXFILT n + 1 ∧ Quiet [MDB_CNT_RXFILT.addr n 0] d t.dev)) ∧
      (up → out → mb.listen = false → d.isRef n f = false → low MDB_CNT_RXFILT → low MDB_CNT_RXERR → d.f MDB_STAT_TEC n ≤ 127 →
        let c := (if how = .good then 0 else 1 : Word)
        let rec' := match how with
          | .good => d.f MDB_STAT_REC n - 1
          | .err => min 255 (d.f MDB_STAT_REC n + 1)
          | .errDom => min 255 (d.f MDB_STAT_REC n + 9)
        (how = .good → d.f MDB_STAT_REC n ≤ 127) → Runs (.mbRxFrame n f how) s (fun t =>
          t.dev.rd MDB_CNT_RXFILT n = d.rd MDB_CNT_RXFILT n + 1 ∧ t.dev.rd MDB_CNT_RXERR n = d.rd MDB_CNT_RXERR n + c ∧
          t.dev.f MDB_STAT_REC n = rec' ∧ t.dev.f MDB_STAT_TEC n = d.f MDB_STAT_TEC n ∧ t.dev.f MDB_STAT_STATE n = (if 127 < rec' then 3 else 2) ∧
          (st = 2 → 127 < rec' → t.dev.b MDB_EVSTAT_ERRPASS n = true) ∧
          Touches [MDB_CNT_RXFILT.addr n 0, MDB_CNT_RXERR.addr n 0, MDB_STAT.addr n 0, MDB_EVSTAT.addr n 0] d t.dev)) ∧
      (∀ e k, d.boundEng (24 + n) = some e → up → flt = some k → d.b MDB_FLT_MASK_REJECT n k = false → mb.listen = true →
        let used := d.mbRxUsed n
        let at' := (d.stamp * 5 - d.f MDB_RXDLY_PS n) / 5
        let bytes := mbPort f k (d.isRef n f)
        (used.length < 32 → (d.e e).wq.length < 64 → d.isRef n f = false → low MDB_CNT_RXOK → Runs (.mbRxFrame n f how) s (fun t =>
          t.dev.fr d.nextFr = { bytes := bytes, arrived := 8, fin := decide (bytes.length ≤ 8), good := decide (how = .good), sof := at', sofSync := d.b TIME_STAT_SYNC, eof := d.stamp, eng := some e } ∧
          (t.dev.e e).wq = (d.e e).wq ++ [{ lane := 24 + n, vsrc := 1, ctx := none, frame := d.nextFr, sof := at' / 20 }] ∧
          is { mb with rx := used ++ [d.nextFr] } t ∧ t.dev.rd MDB_CNT_RXOK n = d.rd MDB_CNT_RXOK n + (if how = .good then 1 else 0) ∧
          Quiet [MDB_CNT_RXOK.addr n 0] { d with
            mb := t.dev.mb
            frames := t.dev.frames
            nextFr := t.dev.nextFr
            eng := t.dev.eng
            wakes := t.dev.wakes } t.dev)) ∧
        (32 ≤ used.length → d.isRef n f = false → low MDB_CNT_RXOVR → Runs (.mbRxFrame n f how) s (fun t =>
          t.dev.rd MDB_CNT_RXOVR n = d.rd MDB_CNT_RXOVR n + 1 ∧ t.dev.b MDB_EVSTAT_RXOVR n = true ∧ Touches [MDB_CNT_RXOVR.addr n 0, MDB_EVSTAT.addr n 0] d t.dev)))) ∧
    (∀ lane : Fin 64,
      (lane.val < 24 → same (.heldArmEntry lane)) ∧
      (lane.val = 24 + n.val → mb.held = [] → same (.heldArmEntry lane)) ∧
      (∀ a rest k, lane.val = 24 + n.val → mb.held = a :: rest → a.slot = some k → d.b MDB_CTL_TXWAKE n = false →
        let put := fun (x : MbSt) => Runs (.heldArmEntry lane) s (fun t => is x t ∧ ((d.slot a.eng k).st = .queued → (t.dev.slot a.eng k).st = .free) ∧
          Quiet [] { d with mb := t.dev.mb, eng := t.dev.eng } t.dev)
        (mbPrio a.bytes = true → mb.ps = none → mbAten a.bytes = false ∨ d.b MDB_TMSTAT_SYNCED n = true → put { mb with held := rest, ps := some a }) ∧
        (mbPrio a.bytes = false → mb.fifo.length < 64 → put { mb with held := rest, fifo := mb.fifo ++ [a] }))) ∧
    (let ready := fun (a : Arm) => mbAten a.bytes = false ∨ mb.mark + mbAt a.bytes * 80000 ≤ d.stamp
     let offered := fun (src : MbSrc) (f : MbFrame) =>
       (mb.refDue = true ∧ src = .ref ∧ f = d.refFrame n) ∨
       (mb.refDue = false ∧ ∃ a, mb.ps = some a ∧ ready a ∧ src = .ps ∧ f = mbOfArm a.bytes) ∨
       (mb.refDue = false ∧ (∀ a, mb.ps = some a → ¬ready a) ∧ ∃ a l, mb.fifo = a :: l ∧ src = .fifo ∧ f = mbOfArm a.bytes)
     (∀ src f, up → mb.listen = false → mb.cur = none → offered src f →
       Runs (.mbTxOpportunity n .start) s (fun t => t.dev.b MDB_STAT_TXACT n = true ∧ is { mb with cur := some { src := src, fr := f, start := d.stamp } } t ∧
         Quiet [MDB_STAT.addr n 0] { d with mb := t.dev.mb } t.dev) ∧
       (low MDB_CNT_TXARB → Runs (.mbTxOpportunity n .lost) s (fun t => t.dev.rd MDB_CNT_TXARB n = d.rd MDB_CNT_TXARB n + 1 ∧ Quiet [MDB_CNT_TXARB.addr n 0] d t.dev))) ∧
     (∀ (c : MbCur) (out : MbTx), up → mb.listen = false → mb.cur = some c → c.flushed = false → low MDB_CNT_TXERR →
       (out = .err ∨ (out = .noAck ∧ st = 2)) →
       let tec := d.f MDB_STAT_TEC n + 8
       (tec ≤ 127 → d.f MDB_STAT_REC n ≤ 127 → Runs (.mbTxOpportunity n out) s (fun t => t.dev.f MDB_STAT_TEC n = tec ∧ t.dev.f MDB_STAT_STATE n = 2 ∧
         t.dev.b MDB_STAT_TXACT n = false ∧ is { mb with cur := none } t ∧ t.dev.rd MDB_CNT_TXERR n = d.rd MDB_CNT_TXERR n + 1 ∧
         Quiet [MDB_STAT.addr n 0, MDB_CNT_TXERR.addr n 0] { d with mb := t.dev.mb } t.dev)) ∧
       (255 < tec → low MDB_CNT_BUSOFF → Runs (.mbTxOpportunity n out) s (fun t => t.dev.f MDB_STAT_STATE n = (if d.b MDB_CTL_BOREC n then 4 else 5) ∧
         t.dev.b MDB_STAT_TXACT n = false ∧ is { mb with cur := none, off := if d.b MDB_CTL_BOREC n then 1 else 2 } t ∧ t.dev.b MDB_EVSTAT_BUSOFF n = true ∧
         t.dev.rd MDB_CNT_BUSOFF n = d.rd MDB_CNT_BUSOFF n + 1 ∧
         Touches [MDB_STAT.addr n 0, MDB_EVSTAT.addr n 0, MDB_CNT_TXERR.addr n 0, MDB_CNT_BUSOFF.addr n 0] { d with mb := t.dev.mb } t.dev))) ∧
     (∀ out : MbTx, ¬up ∨ mb.listen = true ∨ (mb.cur = none ∧ mb.refDue = false ∧ mb.ps = none ∧ mb.fifo = []) → same (.mbTxOpportunity n out))) ∧
    (∀ tdcv : BitVec 7, mb.cur = none → same (.mbTxComplete n tdcv)) ∧
    (∀ (c : MbCur) (tdcv : BitVec 7), mb.cur = some c → d.isRef n c.fr = false → low MDB_CNT_TXOK → d.f MDB_STAT_TEC n ≤ 127 → d.f MDB_STAT_REC n ≤ 127 → st = 2 →
      Runs (.mbTxComplete n tdcv) s (fun t => t.dev.b MDB_STAT_TXACT n = false ∧ t.dev.rd MDB_CNT_TXOK n = d.rd MDB_CNT_TXOK n + 1 ∧ t.dev.f MDB_STAT_TEC n = d.f MDB_STAT_TEC n - 1 ∧
        (d.b MDB_TDC_TDCEN n = true → c.fr.fdf = true → c.fr.brs = true → t.dev.f MDB_TDC_TDCV n = tdcv.toNat) ∧
        (c.src = .fifo → is { mb with cur := none, fifo := mb.fifo.drop 1 } t) ∧ (c.src = .ps → is { mb with cur := none, ps := none } t) ∧
        Quiet [MDB_STAT.addr n 0, MDB_CNT_TXOK.addr n 0, MDB_TDC.addr n 0] { d with mb := t.dev.mb } t.dev)) ∧
    (poke 0x100 → mb.cur = none → (d.rd MDB_CNT_TXFLUSH n).toNat + mb.fifo.length + 1 < 0xFFFFFFFF → Runs (.mbFlush m n) s (fun t => is { mb with fifo := [], ps := none } t ∧
      t.dev.rd MDB_CTL n = ctl ∧ t.dev.rd MDB_CNT_TXFLUSH n = d.rd MDB_CNT_TXFLUSH n + BitVec.ofNat 32 (mb.fifo.length + mb.ps.isSome.toNat) ∧
      Quiet [MDB_CTL.addr n 0, MDB_CNT_TXFLUSH.addr n 0] { d with mb := t.dev.mb } t.dev ∧ answers t m 0 false)) ∧
    (poke 0x200 →
      (d.b MDB_CTL_BOREC n = true → mb.off = 1 → st = 4 → Runs (.mbRecover m n) s (fun t => t.dev.f MDB_STAT_STATE n = 5 ∧ is { mb with off := 2 } t ∧ t.dev.rd MDB_CTL n = ctl ∧
        Quiet [MDB_CTL.addr n 0, MDB_STAT.addr n 0] { d with mb := t.dev.mb } t.dev ∧ answers t m 0 false)) ∧
      (d.b MDB_CTL_BOREC n = false ∨ mb.off ≠ 1 → Runs (.mbRecover m n) s (fun t => t.dev.rd MDB_CTL n = ctl ∧ Quiet [MDB_CTL.addr n 0] d t.dev ∧ answers t m 0 false))) ∧
    (mb.off = 2 → st = 5 → Runs (.mbRecoveryComplete n) s (fun t => t.dev.f MDB_STAT_STATE n = 2 ∧ t.dev.f MDB_STAT_TEC n = 0 ∧ t.dev.f MDB_STAT_REC n = 0 ∧
      is { mb with off := 0 } t ∧ t.dev.b MDB_EVSTAT_BORDONE n = true ∧ Touches [MDB_STAT.addr n 0, MDB_EVSTAT.addr n 0] { d with mb := t.dev.mb } t.dev)) ∧
    (mb.off ≠ 2 ∨ st ≠ 5 → same (.mbRecoveryComplete n)) ∧
    (let want := decide (d.f MDB_CTL_MODE n ≠ 0)
     (mb.cur = none → mb.listen ≠ want → Runs (.mbModeChange n) s (fun t => is { mb with listen := want } t ∧
       t.dev.f MDB_STAT_STATE n = (if want = false ∧ (st = 2 ∨ st = 3) then 1 else st) ∧ Quiet [MDB_STAT.addr n 0] { d with mb := t.dev.mb } t.dev)) ∧
     (mb.cur ≠ none ∨ mb.listen = want → same (.mbModeChange n)))) ∧
  (∀ (s : State) (m : Master) (n : Fin 16), s.dev.blow = [] →
    let d := s.dev
    let mb := d.mbus n
    let st := d.f MDB_STAT_STATE n
    let same := fun (i : Instr) => Runs i s (fun t => t = s)
    let is := fun (x : MbSt) (t : State) => t.dev.mbus n = x ∧ (∀ k, k ≠ n.val → t.dev.mbus k = d.mbus k)
    let only := fun (i : Instr) (x : MbSt) => Runs i s (fun t => is x t ∧ t.dev = { d with mb := t.dev.mb })
    let ctl := d.rd MDB_CTL n &&& 0xFF
    let poke := fun (v : Word) => d.accepts m MDB_CTL n 0 (ctl ||| v) = true
    let woken := fun (x : MbSt) (t : State) => t.dev.f MDB_STAT_STATE n = 7 ∧ t.dev.b MDB_EVSTAT_WAKE n = true ∧ is { x with dec := false } t ∧
      t.dev.wakes = (if (d.f PWR_WAKEEN_EN).testBit 2 && wakeEffective 2 d.wakeState then d.wakes ++ [(2, 24 + n.val)] else d.wakes)
    let frame := fun (t : State) => Touches [MDB_CTL.addr n 0, MDB_STAT.addr n 0, MDB_EVSTAT.addr n 0] { d with mb := t.dev.mb, wakes := t.dev.wakes } t.dev
    (poke 0x400 →
      (d.b MDB_CTL_EN n = true → st ≠ 6 → Runs (.mbSleepRequest m n) s (fun t => is { mb with sleepReq := true } t ∧ t.dev.rd MDB_CTL n = ctl ∧
        Quiet [MDB_CTL.addr n 0] { d with mb := t.dev.mb } t.dev ∧ answers t m 0 false)) ∧
      (d.b MDB_CTL_EN n = false ∨ st = 6 → Runs (.mbSleepRequest m n) s (fun t => t.dev.rd MDB_CTL n = ctl ∧ Quiet [MDB_CTL.addr n 0] d t.dev ∧ answers t m 0 false))) ∧
    (mb.sleepReq = true → mb.cur = none → Runs (.mbSleepEntry n) s (fun t => t.dev.f MDB_STAT_STATE n = 6 ∧
      is { mb with sleepReq := false, dec := false, trim := d.wall, det := {} } t ∧ Quiet [MDB_STAT.addr n 0] { d with mb := t.dev.mb } t.dev)) ∧
    (mb.sleepReq = false ∨ mb.cur ≠ none → same (.mbSleepEntry n)) ∧
    (∀ long, st ≠ 6 → same (.mbWakeDominant n long)) ∧
    (let det := { mb.det with actAt := d.wall, live := true }
     let trans := mb.det.trans.filter (fun t => decide (d.wall < t + d.f MDB_WAKECHAT_CHATWIN n * 20000000)) ++ [d.wall]
     let quar := d.b MDB_WAKE_QUAR n
     let mode := d.b MDB_WAKE_WAKEMODE n
     (st = 6 → quar = false → mode = false → Runs (.mbWakeDominant n true) s (fun t => woken { mb with det := det } t ∧ frame t)) ∧
     (st = 6 → quar = true → only (.mbWakeDominant n true) { mb with det := det }) ∧
     (st = 6 → quar = false → mode = true → only (.mbWakeDominant n true) { mb with det := det, dec := true }) ∧
     (st = 6 → quar = false → trans.length ≤ d.f MDB_WAKECHAT_CHATMAX n → only (.mbWakeDominant n false) { mb with det := { det with trans := trans }, dec := mb.dec || mode }) ∧
     (st = 6 → quar = false → d.f MDB_WAKECHAT_CHATMAX n < trans.length → Runs (.mbWakeDominant n false) s (fun t =>
       is { mb with det := { det with trans := trans }, dec := false } t ∧ t.dev.b MDB_WAKE_QUAR n = true ∧ t.dev.b MDB_EVSTAT_CHAT n = true ∧ t.dev.f MDB_STAT_STATE n = 6 ∧
       Touches [MDB_WAKE.addr n 0, MDB_EVSTAT.addr n 0] { d with mb := t.dev.mb } t.dev))) ∧
    (let still := mb.det.actAt + 100 * d.f MDB_WAKECHAT_QUIET n * 20000000 ≤ d.wall
     (d.b MDB_WAKE_QUAR n = true → still → Runs (.mbQuarantineEnd n) s (fun t => t.dev.b MDB_WAKE_QUAR n = false ∧ is { mb with det := { mb.det with trans := [] } } t ∧
       Quiet [MDB_WAKE.addr n 0] { d with mb := t.dev.mb } t.dev)) ∧
     (d.b MDB_WAKE_QUAR n = false ∨ ¬still → same (.mbQuarantineEnd n))) ∧
    (let long := mb.det.actAt + 100 * d.f MDB_WAKECHAT_STUCK n * 20000000 ≤ d.wall
     (mb.det.live = true → long → Runs (.mbStuck n) s (fun t => t.dev.b MDB_EVSTAT_STUCK n = true ∧ is { mb with det := { mb.det with live := false } } t ∧
       Touches [MDB_EVSTAT.addr n 0] { d with mb := t.dev.mb } t.dev)) ∧
     (mb.det.live = false ∨ ¬long → same (.mbStuck n))) ∧
    (∀ (f : MbFrame) (crc : Bool),
      let id := d.rd MDB_WKID n
      let hit := crc = true ∧ f.fdf = false ∧ f.ide = id.getLsbD 29 ∧ (f.id ^^^ id.truncate 29) &&& (d.rd MDB_WKMASK n).truncate 29 = 0
      let run := st = 6 ∧ mb.dec = true ∧ 160 ≤ d.mbNominal n
      (¬run → same (.mbWakeFrame n f crc)) ∧
      (run → hit → id.getLsbD 30 = false → Runs (.mbWakeFrame n f crc) s (fun t => woken mb t ∧ frame t)) ∧
      (run → ¬hit → (d.rd MDB_CNT_WAKEMISS n).toNat < 0xFFFFFFFF → Runs (.mbWakeFrame n f crc) s (fun t =>
        t.dev.rd MDB_CNT_WAKEMISS n = d.rd MDB_CNT_WAKEMISS n + 1 ∧ Quiet [MDB_CNT_WAKEMISS.addr n 0] d t.dev))) ∧
    only (.mbDecoderIdle n) { mb with dec := false } ∧
    (st = 6 → mb.trim + 20000000000 ≤ d.wall → only (.mbDecoderTrim n) { mb with trim := d.wall }) ∧
    (st ≠ 6 ∨ d.wall < mb.trim + 20000000000 → same (.mbDecoderTrim n)) ∧
    (poke 0x800 →
      (st = 6 → Runs (.mbWakeRequest m n) s (fun t => woken mb t ∧ t.dev.rd MDB_CTL n = ctl ∧ frame t ∧ answers t m 0 false)) ∧
      (st ≠ 6 → Runs (.mbWakeRequest m n) s (fun t => t.dev.rd MDB_CTL n = ctl ∧ Quiet [MDB_CTL.addr n 0] d t.dev ∧ answers t m 0 false))) ∧
    (st = 1 ∨ st = 7 →
      (mb.off = 0 → d.f MDB_STAT_TEC n ≤ 127 → d.f MDB_STAT_REC n ≤ 127 → Runs (.mbIntegrationDone n) s (fun t => t.dev.f MDB_STAT_STATE n = 2 ∧ Quiet [MDB_STAT.addr n 0] d t.dev)) ∧
      (mb.off = 1 → Runs (.mbIntegrationDone n) s (fun t => t.dev.f MDB_STAT_STATE n = 4 ∧ Quiet [MDB_STAT.addr n 0] d t.dev)) ∧
      (mb.off = 2 → Runs (.mbIntegrationDone n) s (fun t => t.dev.f MDB_STAT_STATE n = 5 ∧ Quiet [MDB_STAT.addr n 0] d t.dev))) ∧
    (st ≠ 1 → st ≠ 7 → same (.mbIntegrationDone n)) ∧
    (let base := wide64 (d.rd MDB_TMBASE_LO n) (d.rd MDB_TMBASE_HI n)
     let delay := if d.b TIME_STAT_SYNC then 0 else d.f MDB_TMCFG_PRIO n * d.f MDB_TMCFG_BACKOFF n * 1000
     let at' := base + (d.ns - delay - base) / d.tmPer n * d.tmPer n
     let due := d.f MDB_TMCFG_ROLE n = 2 ∧ base + delay ≤ d.ns ∧ mb.refLast < at'
     (¬due → same (.mbRefDue n)) ∧
     (due → delay = 0 ∨ mb.refAt < at' → only (.mbRefDue n) { mb with refLast := at', refDue := true }) ∧
     (due → 0 < delay → at' ≤ mb.refAt → only (.mbRefDue n) { mb with refLast := at' })) ∧
    (mb.refPend = none → same (.mbReferenceMessage n)) ∧
    (∀ c at', mb.refPend = some (some c, at') → c < 64 → mb.ps = none → (d.inst (57 + n)).next = [] → (d.inst (57 + n)).timed = none →
      Runs (.mbReferenceMessage n) s (fun t => t.dev.f MDB_TMSTAT_CYCLE n = c ∧ t.dev.b MDB_TMSTAT_SYNCED n = true ∧
        (d.b MDB_TMSTAT_SYNCED n = false → t.dev.b MDB_EVSTAT_TMSYNC n = true) ∧ is { mb with refPend := none, mark := at' } t ∧
        (t.dev.inst (57 + n)).last = d.ns ∧ Touches [MDB_TMSTAT.addr n 0, MDB_EVSTAT.addr n 0] { d with mb := t.dev.mb, cmt := t.dev.cmt } t.dev)) ∧
    (let late := 2 * mb.refAt + 3 * d.tmPer n ≤ 2 * d.ns
     (d.b MDB_TMSTAT_SYNCED n = true → late → Runs (.mbSyncTimeout n) s (fun t => t.dev.b MDB_TMSTAT_SYNCED n = false ∧ t.dev.b MDB_EVSTAT_TMSYNC n = true ∧
       t.dev.f MDB_TMSTAT_CYCLE n = d.f MDB_TMSTAT_CYCLE n ∧ Touches [MDB_TMSTAT.addr n 0, MDB_EVSTAT.addr n 0] d t.dev)) ∧
     (d.b MDB_TMSTAT_SYNCED n = false ∨ ¬late → same (.mbSyncTimeout n))) ∧
    (d.mayGet m MDB_TMREF_LO n 0 = true → Runs (.mbTmrefRead m n) s (fun t => answers t m (mb.mark / 20 % 2 ^ 32) false ∧
      t.dev.rd MDB_TMREF_HI n = BitVec.ofNat 32 (mb.mark / 20 / 2 ^ 32) ∧ t.dev.f MDB_TMREF_FRAC_FRAC n = mb.mark % 20 ∧
      Quiet [MDB_TMREF_HI.addr n 0, MDB_TMREF_FRAC.addr n 0] d t.dev)))

/-! ### The braced ring (chapter 12) -/

/-- R371, R375, R377, R381 to R384, R386 to R388, R390, R394: enabling an instance, or its refusal; a round start corrects the ring clock, judges the state and folds a side that missed its copies; a slot is sent once, a null frame with its buffer empty; a
copy is counted, posted once, used to integrate; the guardian's cut, cold start and software requests. RING_ENABLE, RING_ROUND_START, RING_SLOT_SEND, RING_COPY_RECEIVE, GUARDIAN_CUT, GUARDIAN_TRIM, RING_COLD_START, RING_GO_PASSIVE, RING_RESUME. -/
def Obligations.RingsKeepTheirSchedule : Prop :=
  ∀ (s : State) (m : Master) (n : Fin 8), s.dev.blow = [] →
    let d := s.dev
    let r := d.ring n
    let st := d.f BRG_STAT_STATE n
    let same := fun (i : Instr) => Runs i s (fun t => t = s)
    let others := fun (t : State) => ∀ k, k ≠ n.val → t.dev.ring k = d.ring k
    let only := fun (i : Instr) (x : RingSt) => Runs i s (fun t => t.dev = { d with rings := t.dev.rings } ∧ t.dev.ring n = x ∧ others t)
    let low := fun (c : Reg) => (d.rd c n).toNat < 0xFFFFFFFF
    let near := fun (S : List Reg) (t : State) => others t ∧ Touches (S.map (fun x => x.addr n 0)) { d with rings := t.dev.rings } t.dev
    let settled := st ≠ 2 ∨ r.csFirst = false
    let chg := fun (t : State) => t.dev.b BRG_EVSTAT_STATECHG n = true
    (∀ v : Word, d.accepts m BRG_CTL n 0 (v ||| 1) = true → d.b BRG_CTL_EN n = false → st = 0 →
      let e := d.f BRG_CFG_EAST n
      let w := d.f BRG_CFG_WEST n
      let bad := e < 40 ∨ 55 < e ∨ w < 40 ∨ 55 < w ∨ e = w ∨ d.boundEng e ≠ d.boundEng w ∨ d.boundEng e = none ∨
        (∃ c, d.boundEng e = some c ∧ d.f ENG_LOAD_LOADID c ≠ 0x000A) ∨
        (∃ k : Fin 8, k ≠ n ∧ d.b BRG_CTL_EN k = true ∧ (d.f BRG_CFG_EAST k = e ∨ d.f BRG_CFG_WEST k = e ∨ d.f BRG_CFG_EAST k = w ∨ d.f BRG_CFG_WEST k = w))
      (bad → Runs (.ringEnable m n v) s (fun t => t.dev.rd BRG_CTL n = v &&& 0xE ∧ t.dev.b BRG_STAT_CFGERR n = true ∧ t.dev.b BRG_EVSTAT_CFGERR n = true ∧
        t.dev.f BRG_STAT_STATE n = 0 ∧ Touches [BRG_CTL.addr n 0, BRG_STAT.addr n 0, BRG_EVSTAT.addr n 0] d t.dev ∧ answers t m 0 false)) ∧
      (¬bad → Runs (.ringEnable m n v) s (fun t => t.dev.rd BRG_CTL n = (v &&& 0xE) ||| 1 ∧ t.dev.b BRG_STAT_CFGERR n = false ∧ t.dev.f BRG_STAT_STATE n = 1 ∧ chg t ∧
        t.dev.ring n = { r with since := d.wall, quiet := 0, csFirst := false } ∧ near [BRG_CTL, BRG_STAT, BRG_EVSTAT] t ∧ answers t m 0 false))) ∧
    (let len : Int := d.roundLen n
     let at' := (r.start / len + 1) * len
     let ftm := ringFtm (r.devs.map (·.dev))
     let half : Int := d.brgKerf n / 2
     let ok := ∃ f, ftm = some f ∧ -half ≤ f ∧ f ≤ half
     let lost := r.heard = false ∧ 2 ≤ r.quiet
     let slots := (d.brgSlotList n).filter (fun x => d.b BRG_SLOT_SYNC n x)
     (settled → st < 2 ∨ d.ringNow n < at' → same (.ringRoundStart n)) ∧
     (settled → 2 ≤ st → at' ≤ d.ringNow n → d.roundLen n = d.scycNs * 20 / 2 ^ d.f BRG_SCHED_RDIV n → d.brgError n = false →
       (d.inst (49 + n)).next = [] → (d.inst (49 + n)).timed = none → low BRG_CNT_SYNCLOST → (d.rd BRG_CNT_LBENTRY n).toNat < 0xFFFFFFFE → Runs (.ringRoundStart n) s (fun t =>
         t.dev.f BRG_STAT_STATE n = (open Classical in if lost then 1 else if st = 2 ∧ ok then 4 else if st = 3 ∧ ok ∧ d.f BRG_STAT_PCAUSE n ≠ 4 then 4
           else if st = 4 ∧ ftm ≠ none ∧ ¬ok then 3 else st) ∧
         (lost → t.dev.rd BRG_CNT_SYNCLOST n = d.rd BRG_CNT_SYNCLOST n + 1) ∧ (¬lost → t.dev.rd BRG_CNT_SYNCLOST n = d.rd BRG_CNT_SYNCLOST n) ∧
         (¬lost → st = 4 → ftm ≠ none → ¬ok → t.dev.f BRG_STAT_PCAUSE n = 3) ∧
         t.dev.f BRG_STAT_ROUND n = (d.f BRG_STAT_ROUND n + 1) % 65536 ∧ (ftm = none → t.dev.rd BRG_CORR n = d.rd BRG_CORR n) ∧
         (∀ f, ftm = some f → t.dev.rd BRG_FTM n = satInt32 f ∧ t.dev.rd BRG_CORR n = satInt32 (d.corr n - (if st = 4 then max (-half) (min half f) else f))) ∧
         (¬lost → st = 4 → ok → d.b BRG_CTL_LBEN n = true → d.b BRG_STAT_LBE n = false → (ringMiss r.got true slots r.missE false).2 = true →
           t.dev.b BRG_STAT_LBE n = true ∧ t.dev.b BRG_EVSTAT_LBCHG n = true) ∧
         (d.b BRG_STAT_LBW n = true → 2 ≤ r.goodW → t.dev.b BRG_STAT_LBW n = false ∧ t.dev.b BRG_EVSTAT_LBCHG n = true) ∧
         (t.dev.ring n).start = at' ∧ (t.dev.ring n).devs = [] ∧ (t.dev.ring n).done = [] ∧ (t.dev.ring n).bufs = r.bufs ∧ (t.dev.inst (49 + n)).last = d.ns ∧
         others t ∧ Touches ([BRG_STAT, BRG_EVSTAT, BRG_CORR, BRG_FTM, BRG_SYNCSEEN, BRG_CNT_SYNCLOST, BRG_CNT_LBENTRY].map (fun x => x.addr n 0))
           { d with rings := t.dev.rings, cmt := t.dev.cmt } t.dev))) ∧
    (∀ slot : Fin 64,
      let t0 := r.start + (slot.val * d.brgSlotNs n : Nat)
      let mine := (st = 4 ∨ (st = 2 ∧ d.b BRG_SLOT_SYNC n slot = true)) ∧ slot.val ∈ d.brgOwned n ∧ d.b BRG_STAT_SCHEDERR n = false ∧ slot.val ∉ r.done ∧
        t0 + (d.brgKerf n / 2 : Nat) ≤ d.ringNow n ∧ d.ringNow n < t0 + (d.brgSlotNs n : Nat)
      (settled → ¬mine → same (.ringSlotSend n slot)) ∧
      (settled → mine → (∀ e ∈ r.bufs, e.1 ≠ slot.val) → only (.ringSlotSend n slot) { r with
        sent := some (slot.val, d.brgHeader n slot (st == 2) true 0)
        bufs := Tab.drop r.bufs slot
        done := r.done ++ [slot.val] }) ∧
      (∀ pay, settled → mine → r.bufs.find? (fun e => e.1 == slot.val) = some (slot.val, pay) → only (.ringSlotSend n slot) { r with
        sent := some (slot.val, d.brgHeader n slot (st == 2) false pay.length ++ pay)
        bufs := Tab.drop r.bufs slot
        done := r.done ++ [slot.val] })) ∧
    (∀ (east crc delim : Bool) (b : List Byte),
      let h := ringHdr b
      let chk := (crc && delim) = true
      let hops := d.brgHops n h (h.west == east)
      let band := d.brgInBand n h hops
      let lane := if east then d.f BRG_CFG_EAST n else d.f BRG_CFG_WEST n
      (st = 0 → same (.ringCopyReceive n east crc delim b)) ∧
      (st = 1 → ¬chk → low BRG_CNT_RXFAIL → Runs (.ringCopyReceive n east crc delim b) s (fun t => t.dev.rd BRG_CNT_RXFAIL n = d.rd BRG_CNT_RXFAIL n + 1 ∧
        t.dev.f BRG_STAT_STATE n = 1 ∧ (t.dev.ring n).since = d.wall ∧ near [BRG_CNT_RXFAIL] t)) ∧
      (∀ k rest, st = 1 → chk → h.node ≠ d.brgMe n → h.west = east → (h.sync = true ∨ h.cs = true) → d.b BRG_NODE_VALID n h.node = true → hops = k :: rest → low BRG_CNT_RXOK →
        let rs : Int := (d.stamp : Int) - (h.slot * d.brgSlotNs n + d.brgKerf n / 2 + 4 * d.brgByte n + k * d.brgHop n : Nat)
        let j := (rs + d.corr n + (d.roundLen n : Int) / 2) / (d.roundLen n : Int)
        Runs (.ringCopyReceive n east crc delim b) s (fun t => t.dev.f BRG_STAT_STATE n = 3 ∧ t.dev.f BRG_STAT_PCAUSE n = (if d.brgError n then 5 else 1) ∧
          t.dev.f BRG_STAT_ROUND n = h.round ∧ t.dev.rd BRG_CORR n = satInt32 (j * (d.roundLen n : Int) - rs) ∧ (t.dev.ring n).start = j * (d.roundLen n : Int) ∧ chg t ∧
          t.dev.rd BRG_CNT_RXOK n = d.rd BRG_CNT_RXOK n + 1 ∧ near [BRG_STAT, BRG_EVSTAT, BRG_CORR, BRG_CNT_RXOK] t)) ∧
      (st = 4 → chk → h.node ≠ d.brgMe n → band = false → low BRG_CNT_SBV → Runs (.ringCopyReceive n east crc delim b) s (fun t =>
        t.dev.rd BRG_CNT_SBV n = d.rd BRG_CNT_SBV n + 1 ∧ t.dev.b BRG_EVSTAT_SBV n = true ∧ (t.dev.ring n).heard = r.heard ∧ (t.dev.ring n).devs = r.devs ∧
        near [BRG_CNT_SBV, BRG_EVSTAT, BRG_CNT_REPREF] t)) ∧
      (st = 4 → chk → h.node = d.brgMe n → low BRG_CNT_RXOK → Runs (.ringCopyReceive n east crc delim b) s (fun t =>
        t.dev.rd BRG_CNT_RXOK n = d.rd BRG_CNT_RXOK n + 1 ∧ (t.dev.ring n).heard = r.heard ∧ near [BRG_CNT_RXOK, BRG_EVSTAT, BRG_CNT_REPREF] t)) ∧
      (∀ e, st = 4 → chk → h.node ≠ d.brgMe n → band = true → low BRG_CNT_RXOK → d.boundEng lane = some e →
        let item : Item := { lane := lane, vsrc := 2, ctx := none, frame := d.nextFr, sof := d.ns }
        let posts := (h.null = false ∨ d.b BRG_CTL_POSTNULL n = true) ∧ r.firsts.find? (fun f => f.slot == h.slot) = none
        (posts → (d.e e).wq.length < 64 → Runs (.ringCopyReceive n east crc delim b) s (fun t => (t.dev.e e).wq = (d.e e).wq ++ [item] ∧
          (t.dev.fr d.nextFr).bytes = b.take (8 + h.plen) ∧ (t.dev.fr d.nextFr).good = true ∧ (t.dev.ring n).heard = true ∧ t.dev.rd BRG_CNT_RXOK n = d.rd BRG_CNT_RXOK n + 1 ∧ others t ∧
          Touches [BRG_CNT_RXOK.addr n 0, BRG_EVSTAT.addr n 0, BRG_CNT_REPREF.addr n 0] { d with
            rings := t.dev.rings
            frames := t.dev.frames
            nextFr := t.dev.nextFr
            eng := t.dev.eng
            wakes := t.dev.wakes } t.dev)) ∧
        (¬posts → (∀ f, r.firsts.find? (fun f => f.slot == h.slot) = some f → f.bad = false) → Runs (.ringCopyReceive n east crc delim b) s (fun t =>
          (t.dev.ring n).heard = true ∧ t.dev.rd BRG_CNT_RXOK n = d.rd BRG_CNT_RXOK n + 1 ∧ near [BRG_CNT_RXOK, BRG_EVSTAT, BRG_CNT_REPREF] t)))) ∧
    (st = 2 ∨ st = 4 → low BRG_CNT_GUARDCUT → Runs (.guardianCut n) s (fun t => t.dev.f BRG_STAT_STATE n = 3 ∧ t.dev.f BRG_STAT_PCAUSE n = 2 ∧
      t.dev.rd BRG_CNT_GUARDCUT n = d.rd BRG_CNT_GUARDCUT n + 1 ∧ t.dev.b BRG_EVSTAT_GUARDCUT n = true ∧ chg t ∧
      Touches [BRG_STAT.addr n 0, BRG_EVSTAT.addr n 0, BRG_CNT_GUARDCUT.addr n 0] d t.dev)) ∧
    (st ≠ 2 → st ≠ 4 → same (.guardianCut n)) ∧
    (d.b BRG_CTL_EN n = true → r.trim + 20000000000 ≤ d.wall → only (.guardianTrim n) { r with trim := d.wall }) ∧
    (d.b BRG_CTL_EN n = false ∨ d.wall < r.trim + 20000000000 → same (.guardianTrim n)) ∧
    (let silence := 2 * d.roundLen n + d.brgMe n * 8 * d.brgSlotNs n + (if r.csWait then d.roundLen n else 0)
     let may := st = 1 ∧ d.b BRG_CTL_CSEN n = true ∧ r.since + silence ≤ d.wall ∧ d.b CLK_STAT_RCACT = false ∧ d.brgError n = false
     (¬may ∨ d.brgSyncOwned n = [] → same (.ringColdStart n)) ∧
     (∀ x rest, may → d.brgSyncOwned n = x :: rest → low BRG_CNT_COLDSTART → Runs (.ringColdStart n) s (fun t => t.dev.f BRG_STAT_STATE n = 2 ∧ t.dev.f BRG_STAT_ROUND n = 0 ∧
       t.dev.rd BRG_CNT_COLDSTART n = d.rd BRG_CNT_COLDSTART n + 1 ∧ chg t ∧ (∃ h, (t.dev.ring n).sent = some (x, h) ∧ (ringHdr h).cs = true ∧ (ringHdr h).slot = x % 64 ∧ (ringHdr h).round = 0) ∧
       (t.dev.ring n).done = [x] ∧ (t.dev.ring n).csFirst = true ∧ near [BRG_STAT, BRG_EVSTAT, BRG_CORR, BRG_CNT_COLDSTART] t))) ∧
    (st = 3 → Runs (.ringGoPassive n) s (fun t => t.dev.f BRG_STAT_STATE n = 3 ∧ t.dev.f BRG_STAT_PCAUSE n = 4 ∧ Quiet [BRG_STAT.addr n 0] d t.dev)) ∧
    (st = 4 → Runs (.ringGoPassive n) s (fun t => t.dev.f BRG_STAT_STATE n = 3 ∧ t.dev.f BRG_STAT_PCAUSE n = 4 ∧ chg t ∧ Touches [BRG_STAT.addr n 0, BRG_EVSTAT.addr n 0] d t.dev)) ∧
    (st < 3 → same (.ringGoPassive n)) ∧
    (d.f BRG_STAT_PCAUSE n = 4 → Runs (.ringResume n) s (fun t => t.dev.f BRG_STAT_PCAUSE n = 0 ∧ t.dev.f BRG_STAT_STATE n = st ∧ Quiet [BRG_STAT.addr n 0] d t.dev)) ∧
    (d.f BRG_STAT_PCAUSE n ≠ 4 → same (.ringResume n))

/-! ### The serial lanes (chapter 13) -/

/-- R397, R399 to R409: enabling a lane, or its refusal; a frame starts with its first character, takes receive memory and is posted, grows by its characters, and is judged at its end or aborts; the store's oldest frame starts after its gaps and ends; a flush
discards what has not started; sleep, wakes, chatter and stuck inputs. SL_ENABLE, SL_RX_FRAME, SL_IDLE_GAP, SL_LOCK_LOSS, SL_PLL_LOCK, SL_TX_START, SL_TX_END, SL_DE_TAIL, SL_FLUSH, SL_SLEEP_REQUEST, SL_SLEEP_ENTRY, SL_WAKE_EDGE, SL_WAKE_REQUEST,
SL_WAKE_STUCK, SL_WAKE_QUARANTINE_END. -/
def Obligations.SerialLanesFrameAndDrive : Prop :=
  ∀ (s : State) (m : Master) (n : Fin 16), s.dev.blow = [] →
    let d := s.dev
    let x := d.sln n
    let st := d.f SLN_STAT_STATE n
    let same := fun (i : Instr) => Runs i s (fun t => t = s)
    let is := fun (y : SlSt) (t : State) => t.dev.sln n = y ∧ (∀ k, k ≠ n.val → t.dev.sln k = d.sln k)
    let only := fun (i : Instr) (y : SlSt) => Runs i s (fun t => is y t ∧ t.dev = { d with sl := t.dev.sl })
    let low := fun (c : Reg) => (d.rd c n).toNat < 0xFFFFFFFF
    let tick := fun (c : Reg) (t : State) => t.dev.rd c n = d.rd c n + 1
    let quiet := fun (S : List Reg) (t : State) => Quiet (S.map (fun r => r.addr n 0)) { d with sl := t.dev.sl } t.dev
    let loud := fun (S : List Reg) (t : State) => Touches (S.map (fun r => r.addr n 0)) { d with sl := t.dev.sl } t.dev
    let run := st = 1 ∧ d.ringOfLane (40 + n) = none
    let fr := d.slFraming n
    let idle := d.f SLN_GAP_IDLEGAP n * d.slBit n / 2
    let ctl := d.rd SLN_CTL n &&& 0x3FFF
    let poke := fun (v : Word) => d.accepts m SLN_CTL n 0 (ctl ||| v) = true
    (∀ v : Word, d.accepts m SLN_CTL n 0 (v ||| 1) = true → d.b SLN_CTL_EN n = false → st = 0 → v &&& 0x70000 = 0 →
      let code := if getBits v 1 2 = 3 then 0 else getBits v 1 2
      let bad := d.f SLN_RATE_DIV n = 0 ∨ (code = 1 ∧ d.f SLN_RATE_DIV n < 2) ∨ (code ≠ 0 ∧ getBits v 3 3 ≠ 3)
      (bad → Runs (.slEnable m n v) s (fun t => t.dev.rd SLN_CTL n = v &&& 0x3FFE ∧ t.dev.b SLN_STAT_CFGERR n = true ∧ t.dev.b SLN_EVSTAT_CFGERR n = true ∧
        Touches [SLN_CTL.addr n 0, SLN_STAT.addr n 0, SLN_EVSTAT.addr n 0] d t.dev ∧ answers t m 0 false)) ∧
      (¬bad → Runs (.slEnable m n v) s (fun t => t.dev.rd SLN_CTL n = (v &&& 0x3FFE) ||| 1 ∧ t.dev.b SLN_STAT_CFGERR n = false ∧
        t.dev.f SLN_STAT_STATE n = (if d.b CLK_STAT_RCACT then 0 else 1) ∧ Quiet [SLN_CTL.addr n 0, SLN_STAT.addr n 0] d t.dev ∧ answers t m 0 false))) ∧
    (∀ (cs : List Byte) (how : SlEnd),
      d.boundEng (40 + n) = none ∨ (st ≠ 1 ∧ st ≠ 3) ∨ d.ringOfLane (40 + n) ≠ none ∨ (d.b SLN_CTL_DUPLEX n = false ∧ d.b SLN_STAT_DEON n = true) ∨
        (d.slCode n ≠ 0 ∧ d.b SLN_STAT_LOCK n = false) → same (.slRxFrame n cs how)) ∧
    (∀ e, d.boundEng (40 + n) = some e → run → (d.b SLN_CTL_DUPLEX n = true ∨ d.b SLN_STAT_DEON n = false) → (d.slCode n = 0 ∨ d.b SLN_STAT_LOCK n = true) →
      let used := (d.slMem n).foldl (fun a y => a + y.2) 0
      let at' := (d.stamp * 5 - d.f SLN_RXDLY_PS n) / 5
      (∀ c : Byte, fr < 2 → x.rx = .none →
        (used + d.slMax n ≤ 8192 → (d.e e).wq.length < 64 → Runs (.slRxFrame n [c] .more) s (fun t =>
          t.dev.fr d.nextFr = { bytes := [BitVec.ofNat 8 (c.toNat % 2 ^ d.slData n)], arrived := 1, ended := false, sof := at', sofSync := d.b TIME_STAT_SYNC, eng := some e } ∧
          (t.dev.e e).wq = (d.e e).wq ++ [{ lane := 40 + n, vsrc := if fr = 1 then 2 else 3, ctx := none, frame := d.nextFr, sof := at' / 20 }] ∧
          (t.dev.sln n).rx = .frame d.nextFr ∧ (t.dev.sln n).mem = d.slMem n ++ [(d.nextFr, d.slMax n)] ∧
          Quiet [] { d with
            sl := t.dev.sl
            frames := t.dev.frames
            nextFr := t.dev.nextFr
            eng := t.dev.eng
            wakes := t.dev.wakes } t.dev)) ∧
        (8192 < used + d.slMax n → low SLN_CNT_RXDROP → Runs (.slRxFrame n [c] .more) s (fun t => tick SLN_CNT_RXDROP t ∧ t.dev.b SLN_EVSTAT_RXDROP n = true ∧
          (t.dev.sln n).rx = .skip ∧ loud [SLN_CNT_RXDROP, SLN_EVSTAT] t))) ∧
      (∀ k, x.rx = .frame k →
        let f := d.fr k
        let ended := fun (g : Frame) (t : State) => t.dev.fr k = g ∧ (∀ j, j ≠ k → t.dev.fr j = d.fr j) ∧ (t.dev.sln n).rx = .none
        let rest := fun (S : List Reg) (t : State) => Touches (S.map (fun r => r.addr n 0)) { d with sl := t.dev.sl, frames := t.dev.frames } t.dev
        (∀ c : Byte, fr < 2 → f.bytes.length < d.slMax n → Runs (.slRxFrame n [c] .more) s (fun t =>
          t.dev.fr k = { f with bytes := f.bytes ++ [BitVec.ofNat 8 (c.toNat % 2 ^ d.slData n)] } ∧ (∀ j, j ≠ k → t.dev.fr j = d.fr j) ∧ (t.dev.sln n).rx = .frame k ∧ rest [] t)) ∧
        (∀ c : Byte, fr < 2 → d.slMax n ≤ f.bytes.length → low SLN_CNT_RXOVER → Runs (.slRxFrame n [c] .more) s (fun t =>
          t.dev.fr k = { f with good := false, ended := true, eof := d.stamp } ∧ (t.dev.sln n).rx = .outside ∧ tick SLN_CNT_RXOVER t ∧ t.dev.b SLN_EVSTAT_RXOVER n = true ∧
          rest [SLN_CNT_RXOVER, SLN_EVSTAT] t)) ∧
        (low SLN_CNT_RXPAR → Runs (.slRxFrame n [] .par) s (fun t => t.dev.fr k = { f with good := false, ended := true, eof := d.stamp } ∧ tick SLN_CNT_RXPAR t ∧
          t.dev.b SLN_EVSTAT_PARERR n = true ∧ rest [SLN_CNT_RXPAR, SLN_EVSTAT] t)) ∧
        (low SLN_CNT_RXFRM → Runs (.slRxFrame n [] .frm) s (fun t => t.dev.fr k = { f with good := false, ended := true, eof := d.stamp } ∧ tick SLN_CNT_RXFRM t ∧
          t.dev.b SLN_EVSTAT_FRMERR n = true ∧ rest [SLN_CNT_RXFRM, SLN_EVSTAT] t)) ∧
        (fr = 3 → f.bytes.length < 3 → low SLN_CNT_RXFRM → Runs (.slRxFrame n [] .flag) s (fun t => ended { f with good := false, ended := true, eof := d.stamp } t ∧
          tick SLN_CNT_RXFRM t ∧ rest [SLN_CNT_RXFRM, SLN_EVSTAT] t)) ∧
        (let judged := { f with ended := true, fin := decide (f.bytes.length ≤ f.arrived), eof := d.stamp }
         (fr = 3 → 3 ≤ f.bytes.length → hdlcFcs f.bytes = 0xF0B8 → low SLN_CNT_RXOK → Runs (.slRxFrame n [] .flag) s (fun t => ended { judged with good := true } t ∧
           tick SLN_CNT_RXOK t ∧ rest [SLN_CNT_RXOK] t)) ∧
         (fr = 3 → 3 ≤ f.bytes.length → hdlcFcs f.bytes ≠ 0xF0B8 → low SLN_CNT_RXCRC → Runs (.slRxFrame n [] .flag) s (fun t => ended { judged with good := false } t ∧
           tick SLN_CNT_RXCRC t ∧ t.dev.b SLN_EVSTAT_RXCRC n = true ∧ rest [SLN_CNT_RXCRC, SLN_EVSTAT] t)) ∧
         (fr < 2 → x.rxLast + idle ≤ d.wall →
           (fr = 0 ∨ modbusCrc f.bytes = 0 → low SLN_CNT_RXOK → Runs (.slIdleGap n) s (fun t => ended { judged with good := true } t ∧ tick SLN_CNT_RXOK t ∧ rest [SLN_CNT_RXOK] t)) ∧
           (fr = 1 → modbusCrc f.bytes ≠ 0 → low SLN_CNT_RXCRC → Runs (.slIdleGap n) s (fun t => ended { judged with good := false } t ∧ tick SLN_CNT_RXCRC t ∧
             t.dev.b SLN_EVSTAT_RXCRC n = true ∧ rest [SLN_CNT_RXCRC, SLN_EVSTAT] t)))))) ∧
    (2 ≤ fr ∨ d.wall < x.rxLast + idle ∨ (st ≠ 1 ∧ st ≠ 3) → same (.slIdleGap n)) ∧
    (d.slCode n ≠ 0 → run → Runs (.slPllLock n) s (fun t => t.dev.b SLN_STAT_LOCK n = true ∧ Quiet [SLN_STAT.addr n 0] d t.dev)) ∧
    (d.slCode n = 0 → same (.slPllLock n)) ∧
    (d.b SLN_STAT_LOCK n = false → same (.slLockLoss n)) ∧
    (d.b SLN_STAT_LOCK n = true → (∀ k, x.rx ≠ .frame k) → Runs (.slLockLoss n) s (fun t => t.dev.b SLN_STAT_LOCK n = false ∧
      is { x with rx := .none, eof := false, esc := false } t ∧ quiet [SLN_STAT] t)) ∧
    (∀ k, d.b SLN_STAT_LOCK n = true → x.rx = .frame k → low SLN_CNT_RXFRM → Runs (.slLockLoss n) s (fun t => t.dev.b SLN_STAT_LOCK n = false ∧ tick SLN_CNT_RXFRM t ∧
      t.dev.fr k = { d.fr k with good := false, ended := true, eof := d.stamp } ∧ (t.dev.sln n).rx = .none)) ∧
    (∀ echo b at' rest, x.store = (b, at') :: rest →
      let last := if d.b SLN_CTL_DUPLEX n then x.txLast else max x.txLast x.rxLast
      let due := max (last + d.f SLN_GAP_IFGAP n * d.slBit n / 2) (at' + d.f SLN_DE_LEAD n * d.slBit n / 16) ≤ d.wall
      let w := b ++ (if d.b SLN_CTL_TXCRC n then slCheck fr b else [])
      (x.cur = none → run → due → low SLN_CNT_ECHOERR → Runs (.slTxStart n echo) s (fun t => is { x with cur := some (d.wall + d.slDur n w), sent := w } t ∧
        t.dev.b SLN_STAT_TXACT n = true ∧ t.dev.b SLN_STAT_DEON n = true ∧
        (echo = true → d.b SLN_CTL_ECHO n = true → tick SLN_CNT_ECHOERR t ∧ t.dev.b SLN_EVSTAT_ECHOERR n = true) ∧ loud [SLN_STAT, SLN_EVSTAT, SLN_CNT_ECHOERR] t)) ∧
      (x.cur ≠ none ∨ ¬due → same (.slTxStart n echo))) ∧
    (∀ echo, x.store = [] → same (.slTxStart n echo)) ∧
    (∀ t0, x.cur = some t0 → t0 ≤ d.wall → low SLN_CNT_TXOK → Runs (.slTxEnd n) s (fun t => is { x with cur := none, store := x.store.drop 1, txLast := t0 } t ∧
      t.dev.b SLN_STAT_TXACT n = false ∧ tick SLN_CNT_TXOK t ∧ quiet [SLN_STAT, SLN_CNT_TXOK] t)) ∧
    ((∀ t0, x.cur = some t0 → d.wall < t0) → same (.slTxEnd n)) ∧
    (let tail := x.txLast + d.f SLN_DE_TAIL n * d.slBit n / 16
     (x.cur = none → tail ≤ d.wall → x.store = [] → d.b SLN_CTL_DEHOLD n = false → Runs (.slDeTail n) s (fun t => t.dev.b SLN_STAT_DEON n = false ∧ Quiet [SLN_STAT.addr n 0] d t.dev)) ∧
     (x.cur ≠ none ∨ d.wall < tail ∨ (d.b SLN_CTL_DEHOLD n = true ∧ d.b SLN_CTL_EN n = true) → same (.slDeTail n))) ∧
    (poke 0x10000 → (d.rd SLN_CNT_TXFLUSH n).toNat + x.store.length < 0xFFFFFFFF →
      let keep := if x.cur = none then [] else x.store.take 1
      Runs (.slFlush m n) s (fun t => is { x with store := keep } t ∧ t.dev.rd SLN_CTL n = ctl ∧
        t.dev.rd SLN_CNT_TXFLUSH n = d.rd SLN_CNT_TXFLUSH n + BitVec.ofNat 32 (x.store.length - keep.length) ∧ quiet [SLN_CTL, SLN_STAT, SLN_CNT_TXFLUSH] t ∧ answers t m 0 false)) ∧
    (poke 0x20000 →
      (d.b SLN_CTL_EN n = true → st ≠ 2 → Runs (.slSleepRequest m n) s (fun t => is { x with sleepReq := true } t ∧ t.dev.rd SLN_CTL n = ctl ∧ quiet [SLN_CTL, SLN_STAT] t ∧ answers t m 0 false)) ∧
      (d.b SLN_CTL_EN n = false → Runs (.slSleepRequest m n) s (fun t => t.dev.sln n = x ∧ t.dev.rd SLN_CTL n = ctl ∧ quiet [SLN_CTL, SLN_STAT] t ∧ answers t m 0 false))) ∧
    (x.sleepReq = true → x.cur = none → x.rxLast ≤ d.wall → x.rx = .none ∨ x.rx = .outside → Runs (.slSleepEntry n) s (fun t => t.dev.f SLN_STAT_STATE n = 2 ∧
      t.dev.b SLN_STAT_DEON n = false ∧ t.dev.b SLN_STAT_LOCK n = false ∧ is { x with sleepReq := false, rx := .none, eof := false, esc := false, det := {} } t ∧ quiet [SLN_STAT] t)) ∧
    (x.sleepReq = false ∨ x.cur ≠ none ∨ d.wall < x.rxLast → same (.slSleepEntry n)) ∧
    (let det := { x.det with actAt := d.wall, live := true }
     let trans := x.det.trans.filter (fun t => decide (d.wall < t + d.f SLN_WAKECHAT_CHATWIN n * 20000000)) ++ [d.wall]
     let quar := d.b SLN_WAKE_QUAR n
     let woken := fun (y : SlSt) (t : State) => t.dev.f SLN_STAT_STATE n = 3 ∧ t.dev.b SLN_EVSTAT_WAKE n = true ∧ is { y with wokeAt := d.wall } t ∧
       (d.b SLN_CTL_DEHOLD n = true → t.dev.b SLN_STAT_DEON n = true) ∧
       t.dev.wakes = (if (d.f PWR_WAKEEN_EN).testBit 3 && wakeEffective 3 d.wakeState then d.wakes ++ [(3, 40 + n.val)] else d.wakes) ∧
       Touches [SLN_CTL.addr n 0, SLN_STAT.addr n 0, SLN_EVSTAT.addr n 0, SLN_CNT_WAKEDISC.addr n 0] { d with sl := t.dev.sl, wakes := t.dev.wakes } t.dev
     (∀ long, st ≠ 2 → same (.slWakeEdge n long)) ∧
     (st = 2 → quar = false → low SLN_CNT_WAKEDISC → Runs (.slWakeEdge n true) s (fun t => woken { x with det := det } t ∧ tick SLN_CNT_WAKEDISC t)) ∧
     (st = 2 → quar = true → only (.slWakeEdge n true) { x with det := det }) ∧
     (st = 2 → trans.length ≤ d.f SLN_WAKECHAT_CHATMAX n → only (.slWakeEdge n false) { x with det := { det with trans := trans } }) ∧
     (st = 2 → quar = false → d.f SLN_WAKECHAT_CHATMAX n < trans.length → Runs (.slWakeEdge n false) s (fun t => is { x with det := { det with trans := trans } } t ∧
       t.dev.b SLN_WAKE_QUAR n = true ∧ t.dev.b SLN_EVSTAT_CHAT n = true ∧ loud [SLN_WAKE, SLN_EVSTAT] t)) ∧
     (poke 0x40000 →
       (st = 2 → Runs (.slWakeRequest m n) s (fun t => woken x t ∧ t.dev.rd SLN_CTL n = ctl ∧ t.dev.rd SLN_CNT_WAKEDISC n = d.rd SLN_CNT_WAKEDISC n ∧ answers t m 0 false)) ∧
       (st ≠ 2 → Runs (.slWakeRequest m n) s (fun t => t.dev.sln n = x ∧ t.dev.rd SLN_CTL n = ctl ∧ quiet [SLN_CTL, SLN_STAT] t ∧ answers t m 0 false)))) ∧
    (let long := x.det.actAt + 100 * d.f SLN_WAKECHAT_STUCK n * 20000000 ≤ d.wall
     (x.det.live = true → long → Runs (.slWakeStuck n) s (fun t => t.dev.b SLN_EVSTAT_STUCK n = true ∧ is { x with det := { x.det with live := false } } t ∧ loud [SLN_EVSTAT] t)) ∧
     (x.det.live = false ∨ ¬long → same (.slWakeStuck n))) ∧
    (let still := x.det.actAt + 100 * d.f SLN_WAKECHAT_QUIET n * 20000000 ≤ d.wall
     (d.b SLN_WAKE_QUAR n = true → still → Runs (.slWakeQuarantineEnd n) s (fun t => t.dev.b SLN_WAKE_QUAR n = false ∧ is { x with det := { x.det with trans := [] } } t ∧ quiet [SLN_WAKE] t)) ∧
     (d.b SLN_WAKE_QUAR n = false ∨ ¬still → same (.slWakeQuarantineEnd n))) ∧
    (∀ (lane : Fin 64) a rest, lane.val = 40 + n.val → d.ringOfLane (40 + n) = none → x.held = a :: rest → d.slUsed n + a.bytes.length ≤ 4096 → d.b SLN_CTL_TXWAKE n = false → a.slot = none →
      only (.heldArmEntry lane) { x with held := rest, store := x.store ++ [(a.bytes, d.wall)] })

/-! ### The programmable I/O groups (chapter 13) -/

/-- R413 to R416, R420 to R422: what each instruction does when its machine's cycle has come, latched with the settings in force: pins, waits, shifts one bit at a time, transfers, branches, flags, target times and edge stamps; a wait stalls, holding the PC; a reserved form halts the machine. PINS, HOLD, AWAIT,
SHOUT, SHIN, XFER, BR, MARK, LDT, SNAP, PIO_RESERVED_INSTR, PIO_STALL_RELEASE.
R417, R419 to R421, R423, R425, R426, R429: a group's EN bits start, resume and halt its machines, and FORCE abandons, commits and sets the PCs; queue words are pushed and popped, the queue split written only while the machine is halted; TM and program words are written; flags
are set and cleared; an armed frame's words enter as room appears; an edge at a pin is stamped. PIO_ENABLE, PIO_FORCE, PIO_TXQ_WRITE, PIO_RXQ_READ, PIO_QCFG_WRITE, PIO_TM_WRITE, PIO_PROGRAM_WRITE, PIO_FLAG_SET, PIO_FLAG_CLEAR, PG_FRAME_FEED, PG_PIN_EDGE. -/
def Obligations.PioGroupsRun : Prop :=
  (∀ (s : State) (g : Fin 8) (k : Fin 4), s.dev.blow = [] →
    let d := s.dev
    let p := d.pg g
    let m := d.pioM g k
    let w := d.rd PIO_PROG g m.pc
    let en := d.pioEn g k
    let nxt := (m.pc + 1) % 64
    let same := fun (i : Instr) => Runs i s (fun t => t = s)
    let ready := m.run = true ∧ m.fault = false ∧ m.stall = false ∧ m.mid = false ∧ m.due ≤ d.wall
    let go := fun (op : Nat) => ready ∧ pioOp w = op ∧ pioValid w = true ∧ m.timed = none
    let bits := fun (lo n : Nat) => getBits w lo n
    let base : PioM := { m with
      instr := w
      stall := false
      timed := none
      run := en
      clk := d.rd PIO_SM_CLK g k
      pins := d.rd PIO_SM_PINS g k
      ph := 0 }
    let others := fun (t : State) => (∀ j : Fin 4, j ≠ k → t.dev.pioM g j = d.pioM g j) ∧ (∀ h : Fin 8, h ≠ g → t.dev.pg h = d.pg h)
    let pinsKept := fun (t : State) => t.dev.pg g = { p with m := (t.dev.pg g).m }
    let quiet := fun (S : List Nat) (t : State) => others t ∧ Quiet (PIO_STAT.addr g 0 :: S) { d with pio := t.dev.pio } t.dev
    let loud := fun (t : State) => others t ∧ pinsKept t ∧ Touches [PIO_STAT.addr g 0, PIO_SM_FLAG.addr g k] { d with pio := t.dev.pio } t.dev
    let is := fun (y : PioM) (t : State) => ∃ e, t.dev.pioM g k = { y with edges := e }
    let did := fun (y : PioM) (t : State) => is { y.pass d.wall 1 with mid := false, pc := nxt } t
    let waits := fun (y : PioM) (t : State) => is { y with mid := true, stall := true } t
    let flag := fun (b : Nat) (t : State) => (t.dev.rd PIO_SM_FLAG g k).getLsbD b = true
    let cyc := d.wall / 50
    let mine := fun (by' : Tab (Nat × Nat)) (x : Fin 8) => ¬((Tab.look by' (0, 4) x).1 = cyc ∧ (Tab.look by' (0, 4) x).2 < k.val)
    (go 0 → Runs (.pins g k) s (fun t => did base t ∧ quiet [] t ∧ (t.dev.pg g).ext = p.ext ∧
      (w.getLsbD 16 = false → (t.dev.pg g).dir = p.dir ∧ ∀ x : Fin 8, (w.getLsbD (8 + x) = true → mine p.lvlBy x → (t.dev.pg g).out.getLsbD x = w.getLsbD x) ∧
        (w.getLsbD (8 + x) = false ∨ ¬mine p.lvlBy x → (t.dev.pg g).out.getLsbD x = p.out.getLsbD x)) ∧
      (w.getLsbD 16 = true → (t.dev.pg g).out = p.out ∧ ∀ x : Fin 8, (w.getLsbD (8 + x) = true → mine p.dirBy x → (t.dev.pg g).dir.getLsbD x = w.getLsbD x) ∧
        (w.getLsbD (8 + x) = false ∨ ¬mine p.dirBy x → (t.dev.pg g).dir.getLsbD x = p.dir.getLsbD x)))) ∧
    (go 1 → w.getLsbD 16 = false → Runs (.hold g k) s (fun t => waits (base.pass d.wall (bits 0 16 + 1)) t ∧ pinsKept t ∧ quiet [] t)) ∧
    (go 1 → w.getLsbD 16 = true → w.getLsbD 17 = false →
      (m.target = none → Runs (.hold g k) s (fun t => did base t ∧ flag 4 t ∧ loud t)) ∧
      (∀ t0, m.target = some t0 → d.stamp < t0 → Runs (.hold g k) s (fun t => waits base t ∧ pinsKept t ∧ quiet [] t)) ∧
      (m.target = some d.stamp → Runs (.hold g k) s (fun t => is { base.pass d.wall 1 with mid := false, pc := nxt, target := none, timed := some d.stamp, due := d.wall } t ∧
        pinsKept t ∧ quiet [] t))) ∧
    (let ok := (bits 16 4 = 0 ∧ (p.view d.wall).getLsbD (bits 0 3) = w.getLsbD 8) ∨ (bits 16 4 = 2 ∧ (d.rd PIO_FLAGS g).getLsbD (bits 0 3) = w.getLsbD 8) ∨
       (bits 16 4 = 3 ∧ (m.txq = [] ↔ w.getLsbD 8 = false))
     (go 2 → ok → Runs (.await g k) s (fun t => did base t ∧ pinsKept t ∧ quiet [] t)) ∧
     (go 2 → ¬ok → bits 16 4 ≠ 4 → bits 16 4 ≠ 1 → Runs (.await g k) s (fun t => waits base t ∧ pinsKept t ∧ quiet [] t)) ∧
     (go 2 → bits 16 4 = 1 → Runs (.await g k) s (fun t => waits base t ∧ pinsKept t ∧ quiet [] t))) ∧
    (let msb := base.pins.getLsbD 13
     let half := fun (v : Word) => if msb then v <<< 1 else v >>> 1
     let out := fun (v : Word) (t : State) => p.dir.getLsbD (getBits base.pins 0 3) = true → (Tab.look p.lvlBy (0, 4) (getBits base.pins 0 3)).1 ≠ cyc →
       (t.dev.pg g).out.getLsbD (getBits base.pins 0 3) = (if msb then v.getLsbD 31 else v.getLsbD 0)
     let begun := fun (y : PioM) (t : State) => is { y.pass d.wall 1 with mid := true, ph := 2, run := m.run } t
     (go 3 → m.bcnt = 0 → w.getLsbD 7 = false → bits 5 2 = 0 → Runs (.shout g k) s (fun t => begun { base with shr := half m.shr } t ∧ out m.shr t ∧ (t.dev.pg g).dir = p.dir ∧ quiet [] t)) ∧
     (∀ v q, go 3 → m.bcnt = 0 → w.getLsbD 7 = true → bits 5 2 = 0 → m.txq = v :: q → Runs (.shout g k) s (fun t => begun { base with shr := half v, txq := q } t ∧ out v t ∧ quiet [] t)) ∧
     (go 3 → m.bcnt = 0 → w.getLsbD 7 = true → m.txq = [] → Runs (.shout g k) s (fun t => waits base t ∧ flag 0 t ∧ loud t)) ∧
     (go 4 → m.bcnt = 0 → bits 5 2 = 0 → Runs (.shin g k) s (fun t => begun base t ∧ pinsKept t ∧ quiet [] t))) ∧
    (let on := m.run = true ∧ m.fault = false ∧ m.stall = false ∧ m.mid = true ∧ m.due ≤ d.wall ∧ m.ph = 2 ∧ m.instr.getLsbD 6 = false ∧ m.bcnt + 1 = shiftBits m.instr
     let fin : PioM := { m with
       mid := false
       stall := false
       timed := none
       run := en
       ph := 0
       bcnt := 0
       due := d.wall
       pc := nxt }
     let bit := (p.view d.wall).getLsbD (getBits m.pins 4 3)
     let got : Word := if m.pins.getLsbD 13 then (m.shr <<< 1) ||| (if bit then 1 else 0) else (m.shr >>> 1) ||| (if bit then 0x80000000 else 0)
     (on → pioOp m.instr = 3 → Runs (.shout g k) s (fun t => is fin t ∧ pinsKept t ∧ quiet [] t)) ∧
     (on → pioOp m.instr = 4 → m.instr.getLsbD 7 = false → Runs (.shin g k) s (fun t => is { fin with shr := got } t ∧ pinsKept t ∧ quiet [] t)) ∧
     (on → pioOp m.instr = 4 → m.instr.getLsbD 7 = true → d.rxFull g k = false → d.b PIO_SM_QCFG_FRAME g k = false → Runs (.shin g k) s (fun t =>
       is { fin with shr := 0, rxq := m.rxq ++ [got] } t ∧ pinsKept t ∧ quiet [] t)) ∧
     (on → pioOp m.instr = 4 → m.instr.getLsbD 7 = true → d.rxFull g k = true → m.timed = none → Runs (.shin g k) s (fun t => flag 1 t ∧ (t.dev.pioM g k).shr = got ∧
       (t.dev.pioM g k).stall = true ∧ (t.dev.pioM g k).mid = true ∧ (t.dev.pioM g k).pc = m.pc ∧ loud t))) ∧
    (let dst := bits 16 4
     let src := bits 12 4
     let put := fun (y : PioM) => fun (v : Word) => if dst = 0 then { y with shr := v } else if dst = 3 then { y with cnt0 := v.truncate 16 }
       else if dst = 4 then { y with cnt1 := v.truncate 16 } else { y with hld := v }
     let val : Word := match src with
       | 0 => m.shr
       | 3 => m.cnt0.zeroExtend 32
       | 4 => m.cnt1.zeroExtend 32
       | 5 => m.hld
       | 6 => (p.view d.wall).zeroExtend 32
       | 7 => p.dir.zeroExtend 32
       | _ => BitVec.ofNat 32 (bits 0 11)
     let reg := dst = 0 ∨ dst = 3 ∨ dst = 4 ∨ dst = 5
     (go 5 → reg → src ≠ 1 → Runs (.xfer g k) s (fun t => did (put base val) t ∧ pinsKept t ∧ quiet [] t)) ∧
     (∀ v q, go 5 → reg → src = 1 → m.txq = v :: q → Runs (.xfer g k) s (fun t => did (put { base with txq := q } v) t ∧ pinsKept t ∧ quiet [] t)) ∧
     (go 5 → reg → src = 1 → m.txq = [] → w.getLsbD 11 = false → Runs (.xfer g k) s (fun t => waits base t ∧ flag 0 t ∧ loud t)) ∧
     (go 5 → reg → src = 1 → m.txq = [] → w.getLsbD 11 = true → Runs (.xfer g k) s (fun t => did base t ∧ flag 0 t ∧ loud t)) ∧
     (go 5 → dst = 2 → src ≠ 1 → d.rxFull g k = false → d.b PIO_SM_QCFG_FRAME g k = false → Runs (.xfer g k) s (fun t => did { base with rxq := m.rxq ++ [val] } t ∧ pinsKept t ∧ quiet [] t)) ∧
     (go 5 → dst = 2 → src ≠ 1 → d.rxFull g k = true → w.getLsbD 11 = false → Runs (.xfer g k) s (fun t => waits base t ∧ flag 1 t ∧ loud t)) ∧
     (go 5 → dst = 2 → src ≠ 1 → d.rxFull g k = true → w.getLsbD 11 = true → Runs (.xfer g k) s (fun t => did base t ∧ flag 1 t ∧ loud t)) ∧
     (go 5 → dst = 6 → src ≠ 1 → Runs (.xfer g k) s (fun t => did base t ∧ (t.dev.pg g).dir = p.dir ∧ quiet [] t ∧
       ∀ x : Fin 8, (t.dev.pg g).out.getLsbD x = if (Tab.look p.lvlBy (0, 4) x).1 = cyc ∧ (Tab.look p.lvlBy (0, 4) x).2 < k.val then p.out.getLsbD x else val.getLsbD x)) ∧
     (go 5 → dst = 7 → src ≠ 1 → Runs (.xfer g k) s (fun t => did base t ∧ (t.dev.pg g).out = p.out ∧ quiet [] t ∧
       ∀ x : Fin 8, (t.dev.pg g).dir.getLsbD x = if (Tab.look p.dirBy (0, 4) x).1 = cyc ∧ (Tab.look p.dirBy (0, 4) x).2 < k.val then p.dir.getLsbD x else val.getLsbD x))) ∧
    (let i := bits 8 3
     let pin := (p.view d.wall).getLsbD i
     let fl := (d.rd PIO_FLAGS g).getLsbD i
     let takes := match bits 16 4 with
       | 0 => true
       | 1 => decide (m.cnt0 ≠ 0)
       | 2 => decide (m.cnt1 ≠ 0)
       | 3 => pin
       | 4 => !pin
       | 5 => fl
       | 6 => !fl
       | 7 => decide (getBits m.shr 0 16 = getBits m.hld 0 16)
       | 8 => decide (getBits m.shr 0 16 ≠ getBits m.hld 0 16)
       | _ => m.txq.isEmpty
     let c0 := if bits 16 4 = 1 ∧ m.cnt0 ≠ 0 then m.cnt0 - 1 else m.cnt0
     let c1 := if bits 16 4 = 2 ∧ m.cnt1 ≠ 0 then m.cnt1 - 1 else m.cnt1
     go 6 → Runs (.br g k) s (fun t => is { base.pass d.wall 1 with mid := false, cnt0 := c0, cnt1 := c1, pc := if takes then bits 0 6 else nxt } t ∧ pinsKept t ∧ quiet [] t)) ∧
    (let fl := d.rd PIO_FLAGS g &&& 0xFF
     let mask := w &&& 0xFF
     go 7 → w.getLsbD 11 = false → w.getLsbD 10 = false → p.markAt ≠ cyc → Runs (.mark g k) s (fun t => did base t ∧
       t.dev.f PIO_FLAGS_FLAG g = (if w.getLsbD 9 then fl &&& ~~~mask else fl ||| mask).toNat ∧ (t.dev.pg g).out = p.out ∧ (t.dev.pg g).dir = p.dir ∧ quiet [PIO_FLAGS.addr g 0] t)) ∧
    (∀ a b q, go 8 → m.txq = a :: b :: q → let at' := (d.ns / 2 ^ 32 * 2 ^ 32 + a.toNat) * 20 + getBits b 0 5
      Runs (.ldt g k) s (fun t => did { base with txq := q, target := some (if at' < d.stamp then at' + 2 ^ 32 * 20 else at') } t ∧ t.dev.rd PIO_SM_TM_LO g k = a ∧ pinsKept t ∧
        quiet [PIO_SM_TM_LO.addr g k, PIO_SM_TM_FRAC.addr g k] t)) ∧
    (∀ a, go 8 → m.txq = [a] → Runs (.ldt g k) s (fun t => waits base t ∧ pinsKept t ∧ quiet [] t)) ∧
    (go 8 → m.txq = [] → Runs (.ldt g k) s (fun t => waits base t ∧ flag 0 t ∧ loud t)) ∧
    (let x := bits 0 3
     let e := Tab.look p.edges {} x
     let ws : List Word := if m.snaps.getD x 0 < e.rises + e.falls then [BitVec.ofNat 32 (e.at' / 20), BitVec.ofNat 32 (e.at' % 20 + e.rising.toNat * 256 + 2 ^ 31)] else [0, 0]
     (go 9 → m.rxq.length + 2 ≤ 16 - d.txd g k → d.b PIO_SM_QCFG_FRAME g k = false → Runs (.snap g k) s (fun t =>
       did { base with snaps := m.snaps.set x (e.rises + e.falls), rxq := m.rxq ++ ws } t ∧ pinsKept t ∧ quiet [] t)) ∧
     (go 9 → 16 - d.txd g k < m.rxq.length + 2 → Runs (.snap g k) s (fun t => waits base t ∧ pinsKept t ∧ quiet [] t))) ∧
    (∀ op i, (op = 0 ∧ i = Instr.pins g k) ∨ (op = 1 ∧ i = .hold g k) ∨ (op = 2 ∧ i = .await g k) ∨ (op = 3 ∧ i = .shout g k) ∨ (op = 4 ∧ i = .shin g k) ∨ (op = 5 ∧ i = .xfer g k) ∨
        (op = 6 ∧ i = .br g k) ∨ (op = 7 ∧ i = .mark g k) ∨ (op = 8 ∧ i = .ldt g k) ∨ (op = 9 ∧ i = .snap g k) →
      m.run = false ∨ m.fault = true ∨ m.stall = true ∨ d.wall < m.due ∨ (m.mid = false ∧ (pioOp w ≠ op ∨ pioValid w = false)) → same i) ∧
    (ready → pioValid w = false → Runs (.pioReservedInstr g k) s (fun t => t.dev.pioM g k = { m with run := false, fault := true } ∧ flag 3 t ∧ loud t)) ∧
    (pioValid w = true ∨ m.run = false ∨ m.mid = true ∨ d.wall < m.due → same (.pioReservedInstr g k)) ∧
    (let held := m.run = true ∧ m.mid = true ∧ m.stall = true
     d.b PIO_SM_QCFG_FRAME g k = false →
       (¬held → same (.pioStallRelease g k)) ∧
       (held → pioOp m.instr = 1 → m.instr.getLsbD 16 = false → d.wall < m.due → same (.pioStallRelease g k)) ∧
       (held → pioOp m.instr = 1 → m.instr.getLsbD 16 = false → m.due ≤ d.wall → Runs (.pioStallRelease g k) s (fun t =>
         is { m with mid := false, stall := false, timed := none, run := en, pc := nxt } t ∧ pinsKept t ∧ quiet [] t)) ∧
       (∀ t0, held → pioOp m.instr = 1 → m.instr.getLsbD 16 = true → m.instr.getLsbD 17 = false → m.target = some t0 → t0 ≤ d.stamp → Runs (.pioStallRelease g k) s (fun t =>
         is { m.pass d.wall 1 with mid := false, stall := false, run := en, pc := nxt, target := none, timed := some t0, due := d.wall } t ∧ pinsKept t ∧ quiet [] t)))) ∧
  (∀ (s : State) (m : Master) (g : Fin 8) (k : Fin 4), s.dev.blow = [] →
    let d := s.dev
    let p := d.pg g
    let x := d.pioM g k
    let same := fun (i : Instr) => Runs i s (fun t => t = s)
    let others := fun (t : State) => (∀ j : Fin 4, j ≠ k → t.dev.pioM g j = d.pioM g j) ∧ (∀ h : Fin 8, h ≠ g → t.dev.pg h = d.pg h)
    let quiet := fun (S : List Nat) (t : State) => Quiet (PIO_STAT.addr g 0 :: S) { d with pio := t.dev.pio } t.dev
    (∀ en : BitVec 4, d.accepts m PIO_CTL g 0 (en.setWidth 32 ||| (d.rd PIO_CTL g &&& 0x300)) = true → d.b CLK_STAT_RCACT = false →
      Runs (.pioEnable m g en) s (fun t => t.dev.f PIO_CTL_EN g = en.toNat ∧ t.dev.f PIO_CTL_BMACH g = d.f PIO_CTL_BMACH g ∧
        (∀ j : Fin 4, let y := d.pioM g j
          t.dev.pioM g j = if en.getLsbD j then { y with run := true, fault := false, due := if y.run then y.due else max y.due d.wall } else { y with run := y.run && y.mid && !y.stall }) ∧
        (∀ h : Fin 8, h ≠ g → t.dev.pg h = d.pg h) ∧ (t.dev.pg g).out = p.out ∧ (t.dev.pg g).dir = p.dir ∧ quiet [PIO_CTL.addr g 0] t ∧ answers t m 0 false)) ∧
    (d.accepts m PIO_CTL g 0 ((d.rd PIO_CTL g &&& 0x30F) ||| 0x10) = true → d.mayArm m (41 + g) = true → Runs (.pioForce m g) s (fun t => t.dev.f PIO_CTL_EN g = 0 ∧
      (∀ j : Fin 4, let y := d.pioM g j
        t.dev.pioM g j = { y with run := false, mid := false, stall := false, bcnt := 0, ph := 0, timed := none, pc := t.dev.f PIO_SM_PINS_START g j } ∧
        (y.mid = true → (t.dev.rd PIO_SM_FLAG g j).getLsbD 2 = true)) ∧
      (t.dev.inst (41 + g)).applied = ((d.inst (41 + g)).applied + 1) % 256 ∧ (t.dev.inst (41 + g)).next = [] ∧
      (∀ h : Fin 8, h ≠ g → t.dev.pg h = d.pg h) ∧ RegsKept [.pio, .evt] d t.dev ∧ t.dev.mem = d.mem ∧ answers t m 0 false)) ∧
    (∀ v : Word, d.accepts m PIO_SM_TXQ g k v = true →
      (x.txq.length < min 16 (d.f PIO_SM_QCFG_TXD g k) → Runs (.pioTxqWrite m g k v) s (fun t => t.dev.pioM g k = { x with txq := x.txq ++ [v] } ∧ others t ∧ quiet [] t ∧ answers t m 0 false)) ∧
      (min 16 (d.f PIO_SM_QCFG_TXD g k) ≤ x.txq.length → Runs (.pioTxqWrite m g k v) s (fun t => (t.dev.rd PIO_SM_FLAG g k).getLsbD 5 = true ∧ t.dev.pio = d.pio ∧
        Touches [PIO_SM_FLAG.addr g k] d t.dev ∧ answers t m 0 true))) ∧
    (d.mayGet m PIO_SM_RXQ g k = true →
      let eng := ∃ e, m = .ce e
      (∀ v q, ¬eng → d.b PIO_SM_QCFG_FRAME g k = false → x.rxq = v :: q → Runs (.pioRxqRead m g k) s (fun t => t.dev.pioM g k = { x with rxq := q } ∧ others t ∧ quiet [] t ∧ answers t m v.toNat false)) ∧
      (¬eng → d.b PIO_SM_QCFG_FRAME g k = false → x.rxq = [] → Runs (.pioRxqRead m g k) s (fun t => Quiet [] d t.dev ∧ answers t m 0 false)) ∧
      (eng ∨ d.b PIO_SM_QCFG_FRAME g k = true → Runs (.pioRxqRead m g k) s (fun t => Quiet [] d t.dev ∧ answers t m 0 true))) ∧
    (∀ v : Word, d.accepts m PIO_SM_QCFG g k v = true →
      (x.run = true → Runs (.pioQcfgWrite m g k v) s (fun t => Quiet [] d t.dev ∧ answers t m 0 true)) ∧
      (x.run = false → min 16 (getBits v 0 5) = d.txd g k → Runs (.pioQcfgWrite m g k v) s (fun t => t.dev.rd PIO_SM_QCFG g k = v &&& 0x11F ∧ Quiet [PIO_SM_QCFG.addr g k] d t.dev ∧ answers t m 0 false)) ∧
      (x.run = false → min 16 (getBits v 0 5) ≠ d.txd g k → Runs (.pioQcfgWrite m g k v) s (fun t => t.dev.rd PIO_SM_QCFG g k = v &&& 0x11F ∧
        t.dev.pioM g k = { x with txq := [], rxq := [], ends := [] } ∧ others t ∧ quiet [PIO_SM_QCFG.addr g k] t ∧ answers t m 0 false))) ∧
    (∀ v : Word, d.accepts m PIO_SM_TM_LO g k v = true → let at' := (d.ns / 2 ^ 32 * 2 ^ 32 + v.toNat) * 20 + d.f PIO_SM_TM_FRAC_FRAC g k
      Runs (.pioTmWrite m g k v) s (fun t => t.dev.rd PIO_SM_TM_LO g k = v ∧ t.dev.pioM g k = { x with target := some (if at' < d.stamp then at' + 2 ^ 32 * 20 else at') } ∧ others t ∧
        quiet [PIO_SM_TM_LO.addr g k, PIO_SM_TM_FRAC.addr g k] t ∧ answers t m 0 false)) ∧
    (∀ (a : Fin 64) (v : Word), d.accepts m PIO_PROG g a v = true →
      let staged := fun (t : State) => t.dev.rdStaged PIO_PROG g a = v &&& 0xFFFFFF ∧ t.dev.pio = d.pio ∧ answers t m 0 false
      ((∀ j : Fin 4, (d.pioM g j).run = false) → Runs (.pioProgramWrite m g a v) s (fun t => staged t ∧ t.dev.rd PIO_PROG g a = v &&& 0xFFFFFF ∧
        Quiet [PIO_PROG.addr g a] { d with stg := t.dev.stg, hist := t.dev.hist } t.dev)) ∧
      ((∃ j : Fin 4, (d.pioM g j).run = true) → Runs (.pioProgramWrite m g a v) s (fun t => staged t ∧ Quiet [] { d with stg := t.dev.stg, hist := t.dev.hist } t.dev))) ∧
    (∀ j : Fin 8,
      let fl := d.rd PIO_FLAGS g &&& 0xFF
      let marked := p.markAt = d.wall / 50 ∧ (p.markSet ||| p.markClr).getLsbD j = true
      (¬marked → Runs (.pioFlagSet g j) s (fun t => t.dev.f PIO_FLAGS_FLAG g = (fl ||| (1 <<< j.val)).toNat ∧ Quiet [PIO_FLAGS.addr g 0] d t.dev) ∧
        Runs (.pioFlagClear g j) s (fun t => t.dev.f PIO_FLAGS_FLAG g = (fl &&& ~~~((1 : Word) <<< j.val)).toNat ∧ Quiet [PIO_FLAGS.addr g 0] d t.dev)) ∧
      (marked → Runs (.pioFlagSet g j) s (fun t => t.dev.f PIO_FLAGS_FLAG g = fl.toNat ∧ Quiet [PIO_FLAGS.addr g 0] d t.dev))) ∧
    (x.feed = [] → same (.pgFrameFeed g k)) ∧
    (∀ a v ws rest, x.feed = (a, v :: ws) :: rest → min 16 (d.f PIO_SM_QCFG_TXD g k) ≤ x.txq.length → same (.pgFrameFeed g k)) ∧
    (∀ a v, x.feed = [(a, [v])] → a.slot = none → x.txq.length < min 16 (d.f PIO_SM_QCFG_TXD g k) → Runs (.pgFrameFeed g k) s (fun t =>
      t.dev.pioM g k = { x with txq := x.txq ++ [v], feed := [] } ∧ others t ∧ quiet [] t)) ∧
    (∀ (i : Fin 8) (level : Bool),
      let e := Tab.look p.edges {} i
      let only := fun (t : State) => t.dev = { d with pio := t.dev.pio } ∧ (∀ j : Fin 4, t.dev.pioM g j = d.pioM g j) ∧ (∀ h : Fin 8, h ≠ g → t.dev.pg h = d.pg h) ∧
        (t.dev.pg g).out = p.out ∧ (t.dev.pg g).dir = p.dir ∧ (t.dev.pg g).ext.getLsbD i = level ∧ (∀ j : Fin 8, j ≠ i → (t.dev.pg g).ext.getLsbD j = p.ext.getLsbD j ∧
          Tab.look (t.dev.pg g).edges {} j = Tab.look p.edges {} j)
      (p.dir.getLsbD i = true ∨ p.ext.getLsbD i = level → Runs (.pgPinEdge g i level) s (fun t => only t ∧ Tab.look (t.dev.pg g).edges {} i = e)) ∧
      (p.dir.getLsbD i = false → p.ext.getLsbD i ≠ level → Runs (.pgPinEdge g i level) s (fun t => only t ∧ Tab.look (t.dev.pg g).edges {} i =
        { rises := e.rises + level.toNat, falls := e.falls + (!level).toNat, at' := d.stamp, rising := level, wall := d.wall }))))

/-! ### The station inputs, the sentinel and the last gasp (chapter 14) -/

/-- R432 to R438: a converter's result is the mean of its conversions (between whole codes its rounding is not stated, log 10), stamped at their midpoint and held against its limits; its read clears NEW. A raw transition counts toward chatter and may quarantine its input; a level
held for FILT is accepted, stamped, reported and may wake the chip; windows, quarantine's end and the stuck check act when due and do nothing before. AFE_RESULT, AFE_RESULT_READ, DI_TRANSITION, DI_CHANGE_ACCEPT, DI_CHATTER_WINDOW, DI_QUARANTINE_END, DI_STUCK_TIMER.
R439 to R445: a crossing, a sag, a loss queue an entry, raise EV102 and may trigger the capture, which runs from ARM by its first trigger to its last sample; a read of SENT_EVQ2 removes an entry. The last gasp fires once on an enabled source, disarms, sheds and raises EV103; its record follows the last frame or
100 ms, and the blocks come back after LGREC. SENT_CROSSING, SENT_HALF_CYCLE, SENT_ZERO_TIMEOUT, SENT_CAPTURE_ARM, SENT_SOFTWARE_TRIGGER, SENT_CAPTURE_DONE, SENT_EVQ_READ, PWR_FAIL_N_TRIGGER, LAST_GASP_FIRE, LAST_GASP_RECORD, LAST_GASP_RECOVERY. -/
def Obligations.StationInputsSentinelAndLastGasp : Prop :=
  (∀ (s : State) (m : Master), s.dev.blow = [] →
    let d := s.dev
    let same := fun (i : Instr) => Runs i s (fun t => t = s)
    let setIf := fun (p : Prop) (r : Reg) (i : Nat) (t : State) => (p → t.dev.rd r = d.rd r ||| (1 <<< i)) ∧ (¬p → t.dev.rd r = d.rd r)
    let quiet := fun (S : List Nat) (t : State) => Quiet S { d with stn := t.dev.stn } t.dev
    let loud := fun (S : List Nat) (t : State) => Touches S { d with stn := t.dev.stn, wakes := t.dev.wakes, free := t.dev.free } t.dev
    (∀ (n : Fin 24) (codes : List (BitVec 16)),
      let c := n.val / 12
      let k := 2 ^ d.f AFE_CH_AVG n
      let sum := codes.foldl (fun x y => x + y.toNat) 0
      let due := d.afeNext c = some n.val ∧ codes.length = k ∧ d.stnRuns = true ∧ (if c = 0 then d.stn.afeAt0 else d.stn.afeAt1) + 10000 * k ≤ d.wall
      (¬due → same (.afeResult n codes)) ∧
      (due → Runs (.afeResult n codes) s (fun t => ∃ up, up ≤ 1 ∧ (sum % k = 0 → up = 0) ∧
        let code := sum / k + up
        let lo := code < d.f AFE_LIM_LO n
        let hi := d.f AFE_LIM_HI n < code
        t.dev.rd AFE_RES n = BitVec.ofNat 32 (code + (decide lo).toNat * 2 ^ 29 + (decide hi).toNat * 2 ^ 30 + 2 ^ 31) ∧
        t.dev.rd AFE_TS n = BitVec.ofNat 32 (d.ns - 250 * k) ∧ setIf (lo ∨ hi) AFE_RANGE n t ∧
        (lo ∨ hi → (d.rd AFE_RANGE).getLsbD n = false → (d.rd AFE_RANGEEN).getLsbD n = true → t.dev.evPending 107 = true) ∧
        t.dev.stn = (if c = 0 then { d.stn with afe0 := some n.val, afeAt0 := d.wall } else { d.stn with afe1 := some n.val, afeAt1 := d.wall }) ∧
        t.dev.wakes = d.wakes ∧ loud [AFE_RES.addr n 0, AFE_TS.addr n 0, AFE_RANGE.base] t)) ∧
      (d.mayGet m AFE_RES n 0 = true → Runs (.afeResultRead m n) s (fun t => answers t m (d.rd AFE_RES n).toNat false ∧ t.dev.rd AFE_RES n = d.rd AFE_RES n &&& 0x7FFFFFFF ∧
        Quiet [AFE_RES.addr n 0] d t.dev))) ∧
    (∀ i : Fin 32,
      let x := d.di i
      let lvl := x.raw != d.b DI_CFG_POL i
      let bit := fun (r : Reg) => (d.rd r).getLsbD i
      let set := fun (r : Reg) => d.rd r ||| ((1 : Word) <<< i.val)
      let clr := fun (r : Reg) => d.rd r &&& ~~~((1 : Word) <<< i.val)
      let stIs := fun (y : DiSt) (t : State) => t.dev.di i = y ∧ (∀ j : Fin 32, j ≠ i → t.dev.di j = d.di j) ∧ t.dev.stn = { d.stn with di := t.dev.stn.di }
      let told := fun (t : State) => t.dev.rd DI_CHG = set DI_CHG ∧ (d.b DI_CFG_EVEN i = true → t.dev.evPending 101 = true ∧ (t.dev.rd EVT_SUB 61).getLsbD i = true)
      (∀ level : Bool,
        let max := d.f DI_CFG_CHATMAX i
        let quar := max ≠ 0 ∧ max < x.count + 1 ∧ bit DI_QUAR = false
        let moved : DiSt := { x with
          raw := level
          at' := d.wall
          ns := d.stnNs
          count := x.count + 1 }
        (level = x.raw → same (.diTransition i level)) ∧
        (level ≠ x.raw → ¬quar → Runs (.diTransition i level) s (fun t => stIs moved t ∧ quiet [] t)) ∧
        (level ≠ x.raw → quar → Runs (.diTransition i level) s (fun t => stIs moved t ∧ t.dev.rd DI_QUAR = set DI_QUAR ∧ t.dev.rd DI_ALM_CHAT = set DI_ALM_CHAT ∧
          t.dev.evPending 100 = true ∧ (t.dev.rd EVT_SUB 60).getLsbD i = true ∧ t.dev.wakes = d.wakes ∧ loud [DI_QUAR.base, DI_ALM_CHAT.base] t))) ∧
      (let due := bit DI_STATE ≠ lvl ∧ x.at' + max 1 (d.f DI_CFG_FILT i) * 2000000 ≤ d.wall
       let shifted := fun (t : State) => t.dev.rd DI_STATE = (if lvl then set DI_STATE else clr DI_STATE) ∧ t.dev.rd DI_TS i = BitVec.ofNat 32 x.ns ∧
         t.dev.rd DI_STUCK = if lvl then d.rd DI_STUCK else clr DI_STUCK
       let act := if lvl then d.wall else x.actAt
       (¬due → same (.diChangeAccept i)) ∧
       (due → bit DI_QUAR = true → Runs (.diChangeAccept i) s (fun t => shifted t ∧ stIs { x with actAt := act } t ∧ quiet [DI_STATE.base, DI_TS.addr i 0, DI_STUCK.base] t)) ∧
       (due → bit DI_QUAR = false → Runs (.diChangeAccept i) s (fun t => shifted t ∧ stIs { x with actAt := act, told := lvl } t ∧ told t ∧
         t.dev.wakes = (if lvl && d.b DI_CFG_WAKE i && (d.f PWR_WAKEEN_EN).testBit 6 && wakeEffective 6 d.wakeState then d.wakes ++ [(6, i.val)] else d.wakes) ∧
         loud [DI_STATE.base, DI_TS.addr i 0, DI_STUCK.base, DI_CHG.base] t))) ∧
      (let due := bit DI_QUAR = true ∧ x.at' + d.f DI_TIMING_QUIET * 2000000000 ≤ d.wall
       (¬due → same (.diQuarantineEnd i)) ∧
       (due → bit DI_STATE = x.told → Runs (.diQuarantineEnd i) s (fun t => t.dev.rd DI_QUAR = clr DI_QUAR ∧ Quiet [DI_QUAR.base] d t.dev)) ∧
       (due → bit DI_STATE ≠ x.told → Runs (.diQuarantineEnd i) s (fun t => t.dev.rd DI_QUAR = clr DI_QUAR ∧ stIs { x with told := bit DI_STATE } t ∧ told t ∧
         t.dev.wakes = d.wakes ∧ loud [DI_QUAR.base, DI_CHG.base] t))) ∧
      (let n := d.f DI_CFG_STUCK i
       let due := n ≠ 0 ∧ bit DI_STATE = true ∧ bit DI_STUCK = false ∧ x.actAt + n * 20000000000 < d.wall
       (¬due → same (.diStuckTimer i)) ∧
       (due → Runs (.diStuckTimer i) s (fun t => t.dev.rd DI_STUCK = set DI_STUCK ∧ t.dev.rd DI_ALM_STUCK = set DI_ALM_STUCK ∧ t.dev.evPending 100 = true ∧
         Touches [DI_STUCK.base, DI_ALM_STUCK.base] d t.dev)))) ∧
    (let due := d.stn.diWin + d.f DI_TIMING_CHATWIN * 2000000000 ≤ d.wall
     (¬due → same .diChatterWindow) ∧
     (due → Runs .diChatterWindow s (fun t => (∀ i, t.dev.di i = { d.di i with count := 0 }) ∧ t.dev.stn = { d.stn with di := t.dev.stn.di, diWin := d.wall } ∧ quiet [] t)))) ∧
  (∀ (s : State) (m : Master), s.dev.blow = [] →
    let d := s.dev
    let same := fun (i : Instr) => Runs i s (fun t => t = s)
    let entry := fun (ch kind : Nat) => ({ ch := ch, kind := kind, nosync := !(d.stnAwake && d.b TIME_STAT_SYNC), ns := d.stnNs } : SentEv)
    let queued := fun (ch kind : Nat) (t : State) => t.dev.evPending 102 = true ∧
      (d.stn.evq.length < 16 → t.dev.stn.evq = d.stn.evq ++ [entry ch kind] ∧ t.dev.f SENT_EVQ0_EVQLOST = d.f SENT_EVQ0_EVQLOST) ∧
      (16 ≤ d.stn.evq.length → t.dev.stn.evq = d.stn.evq ∧ t.dev.f SENT_EVQ0_EVQLOST = min 255 (d.f SENT_EVQ0_EVQLOST + 1))
    let st := d.f SENT_CAPSTAT_STATE
    let trigged := fun (b : Nat) (t : State) => let on := (d.f SENT_CAP_TRIGMASK).testBit b
      (on = false ∨ st = 0 → t.dev.f SENT_CAPSTAT_STATE = st ∧ t.dev.f SENT_CAPSTAT_TRIGIGN = d.f SENT_CAPSTAT_TRIGIGN ∧ t.dev.stn.trigAt = d.stn.trigAt) ∧
      (on = true → st = 1 → t.dev.f SENT_CAPSTAT_STATE = 2 ∧ t.dev.rd SENT_TRIG_LO = BitVec.ofNat 32 d.ns ∧ t.dev.rd SENT_TRIG_HI = BitVec.ofNat 32 (d.ns / 2 ^ 32) ∧
        t.dev.f SENT_TRIGSRC_SRC = 2 ^ b ∧ t.dev.stn.trigAt = d.wall) ∧
      (on = true → 2 ≤ st → t.dev.f SENT_CAPSTAT_STATE = st ∧ t.dev.f SENT_CAPSTAT_TRIGIGN = min 255 (d.f SENT_CAPSTAT_TRIGIGN + 1) ∧ t.dev.stn.trigAt = d.stn.trigAt)
    let trigRegs := [SENT_CAPSTAT.base, SENT_TRIG_LO.base, SENT_TRIG_HI.base, SENT_TRIGSRC.base]
    let woken := fun (p : Prop) (k : Nat) (t : State) =>
      (p ∧ (d.f PWR_WAKEEN_EN).testBit 4 = true ∧ wakeEffective 4 d.wakeState = true → t.dev.wakes = d.wakes ++ [(4, k)]) ∧
      (¬(p ∧ (d.f PWR_WAKEEN_EN).testBit 4 = true ∧ wakeEffective 4 d.wakeState = true) → t.dev.wakes = d.wakes)
    let sensed := fun (k : Fin 2) (y : SentIn) (t : State) => t.dev.sense k = y ∧ t.dev.sense (1 - k) = d.sense (1 - k) ∧
      t.dev.stn = { d.stn with in0 := t.dev.stn.in0, in1 := t.dev.stn.in1, evq := t.dev.stn.evq, trigAt := t.dev.stn.trigAt }
    let loud := fun (S : List Nat) (t : State) => Touches (SENT_EVQ0.base :: trigRegs ++ S) { d with stn := t.dev.stn, wakes := t.dev.wakes } t.dev
    let runs := d.b SENT_CTL_EN = true ∧ d.stnAwake = true ∧ d.b CLK_STAT_RCACT = false
    (∀ k : Fin 2,
      let x := d.sense k
      let mine := runs ∧ d.f SENT_CTL_CH ≠ 1 - k.val
      (∀ pos : Fin 3,
        (d.b SENT_CMP_T_EN k = false ∨ x.pos = pos → same (.sentCrossing k pos)) ∧
        (d.b SENT_CMP_T_EN k = true → x.pos ≠ pos → d.wall < x.blank → Runs (.sentCrossing k pos) s (fun t => sensed k { x with pos := pos } t ∧
          t.dev.stn.evq = d.stn.evq ∧ t.dev.stn.trigAt = d.stn.trigAt ∧ Quiet [] { d with stn := t.dev.stn } t.dev)) ∧
        (d.b SENT_CMP_T_EN k = true → x.pos ≠ pos → x.blank ≤ d.wall → Runs (.sentCrossing k pos) s (fun t =>
          sensed k { x with pos := pos, blank := d.wall + d.f SENT_CMP_T_BLANK k * 20000 } t ∧ queued k pos t ∧ trigged k t ∧ woken True k t ∧ loud [] t))) ∧
      (∀ rms : BitVec 16, rms.toNat < 4096 →
        let low := rms.toNat < d.f SENT_SAG_SAGLVL
        let gone := rms.toNat < d.f SENT_SAG_LOSSLVL
        let y : SentIn := { x with
          zeroAt := d.wall
          zeroOut := false
          sagRun := if low then x.sagRun + 1 else 0
          lossRun := if gone then x.lossRun + 1 else 0
          sag := x.sag && low
          loss := x.loss && gone }
        let sags := y.sagRun = d.f SENT_SAGT_SAGHC ∧ y.sagRun ≠ 0
        let lost := y.lossRun = d.f SENT_SAGT_LOSSHC ∧ y.lossRun ≠ 0
        let held := fun (t : State) => t.dev.f SENT_RMS_RMS k = rms.toNat
        (¬mine → same (.sentHalfCycle k rms)) ∧
        (mine → ¬sags → ¬lost → Runs (.sentHalfCycle k rms) s (fun t => held t ∧ sensed k y t ∧ t.dev.stn.evq = d.stn.evq ∧ t.dev.stn.trigAt = d.stn.trigAt ∧
          Quiet [SENT_RMS.addr k 0] { d with stn := t.dev.stn } t.dev)) ∧
        (mine → sags → ¬lost → Runs (.sentHalfCycle k rms) s (fun t => held t ∧ sensed k { y with sag := true } t ∧ queued 2 k t ∧ trigged 2 t ∧
          woken (d.f PWR_STAT_STATE = 1) 2 t ∧ loud [SENT_RMS.addr k 0] t)) ∧
        (mine → ¬sags → lost → Runs (.sentHalfCycle k rms) s (fun t => held t ∧ sensed k { y with loss := true } t ∧ queued 3 k t ∧ trigged 3 t ∧
          woken (d.f PWR_STAT_STATE = 1) 3 t ∧ loud [SENT_RMS.addr k 0] t)) ∧
        (mine → sags → lost → Runs (.sentHalfCycle k rms) s (fun t => held t ∧ sensed k { y with sag := true, loss := true } t ∧ t.dev.evPending 102 = true ∧
          (d.stn.evq.length < 15 → t.dev.stn.evq = d.stn.evq ++ [entry 2 k, entry 3 k]) ∧ loud [SENT_RMS.addr k 0] t))) ∧
      (let due := mine ∧ x.zeroOut = false ∧ x.zeroAt + (if d.b SENT_CTL_FNOM then 250000000 else 300000000) ≤ d.wall
       (¬due → same (.sentZeroTimeout k)) ∧
       (due → Runs (.sentZeroTimeout k) s (fun t => sensed k { x with zeroOut := true, loss := true } t ∧ queued 3 k t ∧ trigged 3 t ∧
         woken (d.f PWR_STAT_STATE = 1) 3 t ∧ loud [] t)))) ∧
    (∀ v : Word, d.accepts m SENT_CAP 0 0 ((d.rd SENT_CAP &&& 0x3FFFFF) ||| v) = true →
      let kept := fun (t : State) => t.dev.rd SENT_CAP = d.rd SENT_CAP &&& 0x3FFFFF ∧ answers t m 0 false
      (v = 0x1000000 → Runs (.sentCaptureArm m) s (fun t => kept t ∧ t.dev.f SENT_CAPSTAT_STATE = 1 ∧ t.dev.f SENT_CAPSTAT_TRIGIGN = d.f SENT_CAPSTAT_TRIGIGN ∧
        Quiet [SENT_CAP.base, SENT_CAPSTAT.base] d t.dev)) ∧
      (v = 0x2000000 → Runs (.sentSoftwareTrigger m) s (fun t => kept t ∧ trigged 4 t ∧ t.dev.stn = { d.stn with trigAt := t.dev.stn.trigAt } ∧
        Quiet (SENT_CAP.base :: trigRegs) { d with stn := t.dev.stn } t.dev))) ∧
    (Runs .pwrFailNTrigger s (fun t => trigged 5 t ∧ t.dev.stn = { d.stn with failLow := some d.wall, trigAt := t.dev.stn.trigAt } ∧
      Quiet trigRegs { d with stn := t.dev.stn } t.dev)) ∧
    (∀ samples : List (BitVec 13),
      let post := 65536 - d.f SENT_CAP_PRE
      let base := (d.rd SENT_BASE).toNat / 256 * 256
      let due := st = 2 ∧ runs ∧ post ≤ samples.length ∧ d.stn.trigAt + post * 5000 ≤ d.wall
      (¬due → same (.sentCaptureDone samples)) ∧
      (due → Runs (.sentCaptureDone samples) s (fun t => t.dev.f SENT_CAPSTAT_STATE = 3 ∧ t.dev.f SENT_CAPSTAT_OLDEST = samples.length % 65536 ∧ t.dev.stn = d.stn ∧
        (∀ b, b < base ∨ base + 131072 ≤ b → t.dev.byte b = d.byte b) ∧
        ((∀ i, i < 65536 → d.combFree .stn (base + 2 * i) 2 true = true) → t.dev.b SENT_CAPSTAT_WERR = d.b SENT_CAPSTAT_WERR ∧
          (∀ i, i < samples.length → samples.length ≤ i + 65536 → t.dev.bytesNat (base + 2 * (i % 65536)) 2 = (samples.getD i 0).toNat) ∧
          RegsKept [.stn, .eng, .evt] d t.dev)))) ∧
    (d.mayGet m SENT_EVQ2 0 0 = true →
      (∀ e l, d.stn.evq = e :: l → Runs (.sentEvqRead m) s (fun t => answers t m (e.ns / 2 ^ 32 % 2 ^ 32) false ∧ t.dev.stn = { d.stn with evq := l } ∧
        Quiet [] { d with stn := t.dev.stn } t.dev)) ∧
      (d.stn.evq = [] → Runs (.sentEvqRead m) s (fun t => answers t m 0 false ∧ Quiet [] d t.dev))) ∧
    (∀ b : Fin 4,
      let fires := d.b SENT_LGCTL_EN = true ∧ (d.f SENT_LGCTL_SRC).testBit b = true ∧ d.gaspCause b = true
      (¬fires → same (.lastGaspFire b)) ∧
      (fires → Runs (.lastGaspFire b) s (fun t => t.dev.b SENT_LGCTL_EN = false ∧ t.dev.b SENT_LGSTAT_FIRED = true ∧ t.dev.b SENT_LGSTAT_JDONE = false ∧
        t.dev.evPending 103 = true ∧ t.dev.stn.gasp.shed = true ∧ t.dev.stn.gasp.src = b ∧ t.dev.stn.gasp.at' = d.wall ∧ t.dev.stnRuns = false ∧
        (∀ j : Fin 8, t.dev.axMoving j = false ∧ (t.dev.axBridge j).1 = none ∧ (t.dev.axBridge j).2 = false) ∧
        (d.stnAwake = true → ∀ p : Fin 24, (∀ k : Fin 4, d.b SENT_LG_VALID k = true → d.f SENT_LG_LANE k ≠ p) → t.dev.f ETH_CTL_PWR p = 2) ∧
        t.dev.stn.gasp.outs.length = 4 ∧
        (∀ k : Fin 4, d.b SENT_LG_VALID k = false ∨ d.f SENT_LG_LEN_LEN k = 0 ∨ d.stnAwake = false → t.dev.stn.gasp.outs.getD k .none = .none) ∧
        (∀ k : Fin 4, d.b SENT_LG_VALID k = true → ((t.dev.f SENT_LGSTAT_ERR).testBit k = true ↔ t.dev.stn.gasp.outs.getD k .none = .none))))) ∧
    (let g := d.stn.gasp
     let due := d.b SENT_LGSTAT_JDONE = false ∧ g.outs ≠ [] ∧ ((∀ o ∈ g.outs, o = .none ∨ d.gaspLeft o = true) ∨ g.at' + 2000000000 ≤ d.wall)
     (¬due → same .lastGaspRecord) ∧
     (due → Runs .lastGaspRecord s (fun t => t.dev.b SENT_LGSTAT_JDONE = true ∧ t.dev.f SENT_LGSTAT_SENT = d.gaspSent ∧ t.dev.stn = d.stn)) ∧
     (let rested := g.shed = true ∧ g.at' + d.f SENT_LGCTL_LGREC * 20000000 ≤ d.wall
      (¬rested → same .lastGaspRecovery) ∧
      (rested → Runs .lastGaspRecovery s (fun t => t.dev.b SENT_LGSTAT_RECOV = true ∧ t.dev.evPending 103 = true ∧
        t.dev.stn = { d.stn with failLow := none, gasp := { g with shed := false, pwr := [] } } ∧
        (∀ (p : Fin 24) (w : Fin 4), g.pwr = [(p.val, w.val)] → t.dev.f ETH_CTL_PWR p = w) ∧
        Touches (SENT_LGSTAT.base :: g.pwr.map (fun x => ETH_CTL.addr x.1 0)) { d with stn := t.dev.stn } t.dev)))))

/-! ### The loop engines and the step axes (chapter 14) -/

/-- R447 to R451, R454 to R456: a sample instant is a boundary of instance 25 + n and queues an evaluation in the order of the instants, skipping one that still waits; the evaluator latches input, setpoint and bank and computes the law of R450 and the gain of R451 (where a product or quotient falls
between values its rounding is not stated, log 10); a refused input skips it; the output, the saturation timer and the alarm follow when it ends; MAN, RESUME and IRESET act as written. LOOP_SAMPLE, LOOP_EVALUATION, LOOP_OUTPUT, LOOP_MANUAL, LOOP_AUTOMATIC, LOOP_RESUME, LOOP_IRESET. -/
def Obligations.LoopsEvaluateTheirLaw : Prop :=
  ∀ (s : State) (m : Master) (n : Fin 16), s.dev.blow = [] →
    let d := s.dev
    let x := d.lp n
    let same := fun (i : Instr) => Runs i s (fun t => t = s)
    let rnd := fun (a b v : Int) => v = a / b ∨ (a % b ≠ 0 ∧ v = a / b + 1)
    let lpIs := fun (y : LoopSt) (t : State) => t.dev.lp n = y ∧ (∀ k : Fin 16, k ≠ n → t.dev.lp k = d.lp k)
    (let base := d.loopBase n
     let per := d.loopPer n
     let due := d.stnRuns = true ∧ d.b LOOP_CFG_EN n = true ∧ base ≤ d.ns ∧ seriesHits base per (d.inst (25 + n)).last d.ns = true
     let at' := base + (d.ns - base) / per * per
     let e := d.boundary (25 + n)
     let waits := ∃ u, (u, n.val) ∈ d.stn.evals
     let rest := d.stn.evals.filter (fun y => y.2 != n.val)
     (¬due → same (.loopSample n)) ∧
     (due → (d.rd LOOP_OVR n).toNat < 0xFFFFFFFF → Runs (.loopSample n) s (fun t => t.dev.rd LOOP_TS n = BitVec.ofNat 32 at' ∧
       (waits → t.dev.rd LOOP_OVR n = d.rd LOOP_OVR n + 1) ∧ (¬waits → t.dev.rd LOOP_OVR n = d.rd LOOP_OVR n) ∧
       t.dev.stn = { d.stn with evals := if e.b LOOP_CFG_EN n then insEval (at', n.val) rest else rest } ∧
       Quiet [LOOP_TS.addr n 0, LOOP_OVR.addr n 0] { e with stn := t.dev.stn } t.dev))) ∧
    (d.stn.run ≠ none ∨ d.stn.evals = [] ∨ d.stnRuns = false → same .loopEvaluation) ∧
    (∀ u rest, d.stn.run = none → d.stn.evals = (u, n.val) :: rest → d.stnRuns = true → d.loopWaits n = false →
      let src := d.f LOOP_CFG_SRC n
      let ia := (d.rd LOOP_SRCADDR n).toNat / 4 * 4
      let sa := (d.rd LOOP_SPADDR n).toNat / 4 * 4
      let word := fun (a : Nat) => (BitVec.ofNat 32 (d.bytesNat a 4)).toInt
      let idx := d.f LOOP_CFG_SRCIDX n
      let pv : Int := if src = 1 then word ia else if src = 2 then (d.rd LOOP_OUT (idx % 16)).toInt else if idx < 24 then (d.f AFE_RES_CODE idx : Int) else 0
      let sp : Int := if d.b LOOP_CFG_SPSRC n then word sa else (d.rd LOOP_SP n).toInt
      let b := d.f LOOP_CFG_SEL n
      let co := fun (r : Reg) => (d.rd r n b).toInt
      let i0 := if x.ireset then 0 else x.iTerm
      let d0 := if x.ireset then 0 else x.dTerm
      let e := satQ (if d.b LOOP_CFG_REV n then pv - sp else sp - pv)
      let nbp := min 64 (d.f LOOP_NBP_NBP n b)
      let pt := fun (k : Nat) => d.bpt n b k
      let gain := fun (g : Int) => (nbp = 0 → g = 4096) ∧
        (0 < nbp → ∃ q, rnd e 16 q ∧ let y := max (-32768) (min 32767 q)
          ((∀ k, k < nbp → y < (pt k).1) → g = (pt 0).2) ∧
          (∀ k, k < nbp → (pt k).1 ≤ y → (∀ j, k < j → j < nbp → y < (pt j).1) →
            (k + 1 = nbp → g = (pt k).2) ∧
            (k + 1 < nbp → rnd ((((pt (k + 1)).2 : Int) - (pt k).2) * (y - (pt k).1)) ((pt (k + 1)).1 - (pt k).1) (g - (pt k).2))))
      let scaled := fun (g k v : Int) => ∃ y, rnd (g * k) 4096 y ∧ rnd (y * e) 65536 v
      let al := getBits (d.rd LOOP_ALPHA n b) 0 16
      let alpha : Int := if al = 0 then 65536 else al
      let law := fun (r : LoopRun) => ∃ g p kd dd, gain g ∧ scaled g (co LOOP_KP) p ∧ rnd (co LOOP_KD * satQ (x.pvLast - pv)) 65536 kd ∧
        rnd (alpha * satQ (kd - d0)) 65536 dd ∧ r.st.dTerm = satQ (d0 + dd) ∧
        let held := fun (u : Int) => r.u = u ∧ r.sat = false ∧ r.st.iTerm = satQ (satQ (satQ (u - p) - r.st.dTerm) - co LOOP_BIAS)
        (r.state = 2 → held (d.rd LOOP_MANOUT n).toInt) ∧ (r.state = 3 → held (d.rd LOOP_SAFE n).toInt) ∧
        (r.state = 1 → ∃ di, scaled g (co LOOP_KI) di ∧
          let i1 := clampQ (satQ (i0 + di)) (co LOOP_OMIN) (co LOOP_OMAX)
          let sum := fun (i : Int) => satQ (satQ (satQ (p + i) + r.st.dTerm) + co LOOP_BIAS)
          r.st.iTerm = (if (co LOOP_OMAX < sum i1 ∧ 0 < di) ∨ (sum i1 < co LOOP_OMIN ∧ di < 0) then i0 else i1) ∧
          r.u = clampQ (sum r.st.iTerm) (co LOOP_OMIN) (co LOOP_OMAX) ∧ r.sat = decide (r.u ≠ sum r.st.iTerm))
      ((src = 1 → d.combFree .stn ia 4 false = true) → (d.b LOOP_CFG_SPSRC n = true → d.combFree .stn sa 4 false = true) → Runs .loopEvaluation s (fun t =>
        ∃ r, t.dev.stn = { d.stn with evals := rest, run := some r, loops := t.dev.stn.loops } ∧ lpIs { x with ireset := false } t ∧
          r.n = n ∧ r.due = d.wall + (if d.b CLK_STAT_RCACT then 400000 else 50000) ∧ r.pv = pv ∧ r.e = e ∧ r.st.pvLast = pv ∧
          r.state = (if x.safe then 3 else if d.b LOOP_CTL_MAN n then 2 else 1) ∧ law r ∧ Quiet [] { d with stn := t.dev.stn, free := t.dev.free } t.dev)) ∧
      (src = 1 → d.ownerIncl (d.f MEM_BANKOWN_OWNER (combBank ia)) .stn = false → Runs .loopEvaluation s (fun t =>
        t.dev.stn = { d.stn with evals := rest } ∧ t.dev.b LOOP_STAT_SRCERR n = true ∧ t.dev.rd LOOP_OUT n = d.rd LOOP_OUT n ∧
        Touches [LOOP_STAT.addr n 0, MEM_ACCERR.base, MEM_ACCERR_ADDR.base] { d with stn := t.dev.stn } t.dev))) ∧
    (d.stn.run = none → same .loopOutput) ∧
    (∀ r, d.stn.run = some r → (d.wall < r.due ∨ d.stnRuns = false) → same .loopOutput) ∧
    (∀ r, d.stn.run = some r → r.n = n → r.due ≤ d.wall → d.stnRuns = true → d.destWaits n = false → r.state < 4 →
      let dst := d.f LOOP_CFG_DST n
      let lim := d.f LOOP_SAT_SATLIM n
      let sum := if r.sat then x.satNs + d.loopPer n else 0
      let alarm := r.state = 1 ∧ lim ≠ 0 ∧ lim * 100000000 < sum ∧ (r.sat = false ∨ d.b LOOP_STAT_SATALM n = false)
      let y : LoopSt := { r.st with
        safe := x.safe || (decide alarm && d.b LOOP_CFG_SAFEEN n)
        satNs := if r.state = 1 then sum else x.satNs
        ireset := x.ireset }
      let shown := fun (t : State) => t.dev.rd LOOP_PV n = BitVec.ofInt 32 r.pv ∧ t.dev.rd LOOP_OUT n = BitVec.ofInt 32 r.u ∧
        t.dev.rd LOOP_I n = BitVec.ofInt 32 r.st.iTerm ∧ t.dev.rd LOOP_ERR n = BitVec.ofInt 32 r.e ∧ t.dev.b LOOP_STAT_SAT n = r.sat ∧ t.dev.f LOOP_STAT_STATE n = r.state ∧
        (alarm → t.dev.b LOOP_STAT_SATALM n = true ∧ t.dev.evPending 104 = true ∧ (t.dev.rd EVT_SUB 64).getLsbD n = true) ∧
        (¬alarm → t.dev.b LOOP_STAT_SATALM n = (d.b LOOP_STAT_SATALM n && (r.sat || decide (r.state ≠ 1))))
      let done := fun (t : State) => shown t ∧ lpIs y t ∧ t.dev.stn = { d.stn with run := none, loops := t.dev.stn.loops, axes := t.dev.stn.axes }
      let regs := [LOOP_PV.addr n 0, LOOP_OUT.addr n 0, LOOP_I.addr n 0, LOOP_ERR.addr n 0, LOOP_STAT.addr n 0]
      let da := (d.rd LOOP_DSTADDR n).toNat / 4 * 4
      let k := d.f LOOP_CFG_DSTIDX n
      (dst = 0 ∨ dst = 3 → Runs .loopOutput s (fun t => done t ∧ t.dev.stn.axes = d.stn.axes ∧ Touches regs { d with stn := t.dev.stn } t.dev)) ∧
      (dst = 1 → d.combFree .stn da 4 true = true → Runs .loopOutput s (fun t => done t ∧ t.dev.bytesNat da 4 = (BitVec.ofInt 32 r.u).toNat ∧
        t.dev.b LOOP_STAT_DSTERR n = d.b LOOP_STAT_DSTERR n ∧ (∀ a, a < da ∨ da + 4 ≤ a → t.dev.byte a = d.byte a) ∧ RegsKept [.stn, .eng, .evt] d t.dev)) ∧
      (dst = 1 → d.ownerIncl (d.f MEM_BANKOWN_OWNER (combBank da)) .stn = false → Runs .loopOutput s (fun t => done t ∧ t.dev.b LOOP_STAT_DSTERR n = true ∧
        Touches (regs ++ [MEM_ACCERR.base, MEM_ACCERR_ADDR.base]) { d with stn := t.dev.stn } t.dev)) ∧
      (dst = 2 → d.axMode k ≠ 2 → Runs .loopOutput s (fun t => done t ∧ t.dev.b LOOP_STAT_DSTERR n = true ∧ t.dev.stn.axes = d.stn.axes ∧
        Touches regs { d with stn := t.dev.stn } t.dev)) ∧
      (dst = 2 → d.axMode k = 2 → d.f STP_STAT_STATE k ≠ 3 → (d.ax k).wrote = none → Runs .loopOutput s (fun t => done t ∧ (t.dev.ax k).wrote = some (d.wall, 5) ∧
        ∃ v, rnd (clampQ r.u (-65536) 65536 * (d.rd STP_VMAX k).toNat) 65536 v ∧ t.dev.rd STP_TARGET k = BitVec.ofInt 32 v))) ∧
    (let ctl := fun (v : Word) => d.accepts m LOOP_CTL n 0 v = true
     let poke := fun (v : Word) => (d.rd LOOP_CTL n &&& 1) ||| v
     let is := fun (v : Word) (S : List Nat) (t : State) => t.dev.rd LOOP_CTL n = v ∧ Quiet (LOOP_CTL.addr n 0 :: S) { d with stn := t.dev.stn } t.dev ∧ answers t m 0 false
     (ctl 1 → Runs (.loopManual m n) s (fun t => is 1 [] t ∧ t.dev.stn = d.stn)) ∧
     (ctl 0 → Runs (.loopAutomatic m n) s (fun t => is 0 [] t ∧ t.dev.stn = d.stn)) ∧
     (ctl (poke 2) → x.safe = true → Runs (.loopResume m n) s (fun t => is (poke 0) [LOOP_STAT.addr n 0] t ∧ lpIs { x with safe := false, satNs := 0 } t ∧
       t.dev.b LOOP_STAT_SATALM n = false ∧ t.dev.f LOOP_STAT_STATE n = 1 ∧ t.dev.stn = { d.stn with loops := t.dev.stn.loops })) ∧
     (ctl (poke 2) → x.safe = false → Runs (.loopResume m n) s (fun t => is (poke 0) [] t ∧ t.dev.stn = d.stn)) ∧
     (ctl (poke 4) → Runs (.loopIreset m n) s (fun t => is (poke 0) [] t ∧ lpIs { x with ireset := true } t ∧ t.dev.stn = { d.stn with loops := t.dev.stn.loops })))

/-- R459 to R462: GO starts the table from the present motion, each entry the cubic that joins the motion to its end, checked when it starts; STOP decelerates, HALT and a stall halt at once with the position lost, CLRSTALL ends that; a target is dropped while halted, else plans the motion; pieces follow one another at
their ends; a zero-current window forms the load angle; at rest for STBYDLY the standstill mode applies. STEP_GO, STEP_STOP, STEP_HALT, STEP_CLRSTALL, STEP_TARGET_WRITE, STEP_SEGMENT_BOUNDARY, STEP_ZCW_SAMPLE, STEP_STANDSTILL. -/
def Obligations.AxesFollowTablesAndTargets : Prop :=
  ∀ (s : State) (m : Master) (k : Fin 8), s.dev.blow = [] →
    let d := s.dev
    let x := d.ax k
    let now := d.axNow k
    let st := d.f STP_STAT_STATE k
    let same := fun (i : Instr) => Runs i s (fun t => t = s)
    let kept := fun (i : Instr) => Runs i s (fun t => Quiet [] d t.dev ∧ answers t m 0 false)
    let axIs := fun (y : AxSt) (t : State) => t.dev.ax k = y ∧ (∀ j : Fin 8, j ≠ k → t.dev.ax j = d.ax j) ∧ t.dev.stn = { d.stn with axes := t.dev.stn.axes }
    let on := fun (e : Dev) (S : List Nat) (t : State) => Quiet S { e with stn := t.dev.stn } t.dev
    let stat := [STP_STAT.addr k 0]
    let atRest := fun (p : Int) (n : Nat) (t : State) => t.dev.f STP_STAT_STATE k = n ∧
      axIs { x with p := p, v := 0, t0 := d.wall, segs := [], cubic := none, seek := false, restAt := d.wall, stby := false } t
    let halts := fun (p : Int) (t : State) => atRest p 3 t ∧ t.dev.b STP_STAT_POSLOST k = true
    let enters := fun (e : Dev) (n : Nat) (p v : Int) (t0 : Nat) (t : State) =>
      let T := (e.rd STP_SEG_T k n).toNat
      let P := (e.rd STP_SEG_P k n).toInt * posUnit
      let V := (e.rd STP_SEG_V k n).toInt * velUnit
      let last := e.b STP_SEG_FLG_LAST k n || decide (n = 255)
      let c := e.axEntry k n p v
      let bad := T = 0 ∨ (last = true ∧ V ≠ 0) ∨ cubicFast c (e.axVlim k) = true
      (c.t = T ∧ c.p1 = P ∧ c.v1 = V ∧ c.a = 2 * v * T ∧ c.a + c.c2 + c.c3 = P - p ∧ c.a + 2 * c.c2 + 3 * c.c3 = 2 * V * T ∧ c.last = last ∧
        c.next = if e.b STP_SEG_FLG_LINK k n then e.f STP_SEG_FLG_NEXT k n else n + 1) ∧
      (e.b STP_CFG_EN k = false → atRest p 1 t ∧ on e stat t) ∧
      (e.b STP_CFG_EN k = true → t.dev.f STP_STAT_SEG k = n ∧ on e stat t) ∧
      (e.b STP_CFG_EN k = true → bad → t.dev.f STP_STAT_STATE k = 3 ∧ t.dev.b STP_STAT_POSLOST k = true ∧ t.dev.b STP_STAT_SEGERR k = true ∧ (t.dev.ax k).v = 0 ∧
        (t.dev.ax k).segs = [] ∧ (t.dev.ax k).cubic = none) ∧
      (e.b STP_CFG_EN k = true → ¬bad → t.dev.f STP_STAT_STATE k = 2 ∧
        axIs { x with p := p, v := v, t0 := t0, segs := [], cubic := some c, seek := false, stby := false } t)
    let ctl := fun (v : Word) => d.accepts m STP_CTL k 0 v = true
    (ctl 1 → st = 3 ∨ d.b STP_CFG_EN k = false ∨ d.axMode k ≠ 0 → kept (.stepGo m k)) ∧
    (ctl 1 → st ≠ 3 → d.b STP_CFG_EN k = true → d.axMode k = 0 → Runs (.stepGo m k) s (fun t =>
      enters (d.boundary (73 + k)) (d.f STP_START_START k) now.1 now.2 d.wall t ∧ answers t m 0 false)) ∧
    (ctl 2 → st ≠ 2 → kept (.stepStop m k)) ∧
    (ctl 2 → st = 2 →
      let e := if d.axMode k = 0 then d else d.boundary (73 + k)
      let v := now.2
      let A := e.axAmax k
      (v = 0 → Runs (.stepStop m k) s (fun t => atRest now.1 1 t ∧ on e stat t ∧ answers t m 0 false)) ∧
      (v ≠ 0 → A = 0 → Runs (.stepStop m k) s (fun t => axIs { x with p := now.1, v := v, t0 := d.wall, segs := [{ acc := 0, dur := none, v1 := v }], cubic := none, seek := false, stby := false } t ∧
        on e [] t ∧ answers t m 0 false)) ∧
      (v ≠ 0 → 0 < A → Runs (.stepStop m k) s (fun t =>
        axIs { x with p := now.1, v := v, t0 := d.wall, cubic := none, seek := false, stby := false, segs := [{ acc := if v < 0 then (A : Int) else -A, dur := some (v.natAbs / A), v1 := 0, p1 := some (now.1 + (if v < 0 then -1 else 1) * (v * v / A)) }] } t ∧
        t.dev.f STP_STAT_STATE k = 2 ∧ on e stat t ∧ answers t m 0 false))) ∧
    (ctl 4 → Runs (.stepHalt m k) s (fun t => halts now.1 t ∧ on d stat t ∧ answers t m 0 false)) ∧
    (ctl 8 → st ≠ 3 → kept (.stepClrstall m k)) ∧
    (ctl 8 → st = 3 → Runs (.stepClrstall m k) s (fun t => atRest x.p 1 t ∧ t.dev.b STP_STAT_POSLOST k = d.b STP_STAT_POSLOST k ∧ on d stat t ∧ answers t m 0 false)) ∧
    (∀ v : Word, d.accepts m STP_TARGET k 0 v = true →
      let lower := ∃ u j, x.wrote = some (u, j) ∧ d.wall < u + d.fabCycle ∧ j < m.num
      let e := (d.wr STP_TARGET v k).boundary (73 + k)
      let A := e.axAmax k
      let vm := e.axVmax k
      let w : AxSt := { x with wrote := some (d.wall, m.num) }
      let told := fun (t : State) => t.dev.b STP_STAT_REACHED k = true ∧ (d.b STP_STAT_REACHED k = false → e.b STP_EVEN_REACHED k = true → t.dev.evPending 106 = true)
      let plan := fun (segs : List AxSeg) (t : State) => t.dev.rd STP_TARGET k = v ∧ (t.dev.ax k).segs = segs ∧ (t.dev.ax k).cubic = none ∧ (t.dev.ax k).p = now.1 ∧
        (t.dev.ax k).v = now.2 ∧ (t.dev.ax k).t0 = d.wall ∧ (t.dev.ax k).wrote = w.wrote ∧ t.dev.f STP_STAT_STATE k = 2 ∧ answers t m 0 false ∧
        (∀ j : Fin 8, j ≠ k → t.dev.ax j = d.ax j) ∧ Touches (STP_STAT.addr k 0 :: []) { e with stn := t.dev.stn } t.dev
      (st = 3 ∨ lower → kept (.stepTargetWrite m k v)) ∧
      (st ≠ 3 → ¬lower → d.b STP_CFG_EN k = false ∨ d.axMode k = 0 → Runs (.stepTargetWrite m k v) s (fun t => t.dev.rd STP_TARGET k = v ∧ axIs w t ∧
        on d [STP_TARGET.addr k 0] t ∧ answers t m 0 false)) ∧
      (st ≠ 3 → ¬lower → d.b STP_CFG_EN k = true → d.axMode k ≠ 0 → e.b STP_CFG_EN k = true → 0 < A → 0 < vm →
        (let goal := v.toInt * posUnit
         let dist := (goal - now.1).natAbs
         (e.axMode k = 1 → now.2 = 0 → goal = now.1 → x.stallAt = none → Runs (.stepTargetWrite m k v) s (fun t => told t ∧ (t.dev.axNow k) = now ∧ t.dev.f STP_STAT_STATE k ≠ 2)) ∧
         (e.axMode k = 1 → now.2 = 0 → 2 ≤ A * dist → Runs (.stepTargetWrite m k v) s (fun t => ∃ segs z, plan segs t ∧ segs.getLast? = some z ∧ z.p1 = some goal ∧ z.v1 = 0 ∧
           (∀ y ∈ segs, y.dur ≠ none ∧ (y.acc = 0 ∨ y.acc.natAbs = A) ∧ (y.v1.natAbs : Int) ≤ vm) ∧ (t.dev.ax k).seek = true)) ∧
         (e.axMode k = 1 → now.2 ≠ 0 → (goal - now.1) * now.2 ≤ 0 → Runs (.stepTargetWrite m k v) s (fun t => ∃ y rest, plan (y :: rest) t ∧ y.v1 = 0 ∧
           y.acc = (if now.2 < 0 then (A : Int) else -A) ∧ (t.dev.ax k).seek = true))) ∧
        (let goal := max (-vm) (min vm (v.toInt * velUnit))
         let ramp := fun (u w : Int) => ({ acc := if u < w then (A : Int) else -A, dur := some ((w - u).natAbs / A), v1 := w } : AxSeg)
         let go := ({ acc := 0, dur := none, v1 := goal } : AxSeg)
         (e.axMode k = 2 → goal ≠ now.2 → goal ≠ 0 → 0 ≤ goal * now.2 → Runs (.stepTargetWrite m k v) s (fun t => plan [ramp now.2 goal, go] t ∧ (t.dev.ax k).seek = true)) ∧
         (e.axMode k = 2 → goal * now.2 < 0 → Runs (.stepTargetWrite m k v) s (fun t => plan [ramp now.2 0, ramp 0 goal, go] t ∧ (t.dev.ax k).seek = true)) ∧
         (e.axMode k = 2 → goal = 0 → now.2 ≠ 0 → Runs (.stepTargetWrite m k v) s (fun t => plan [ramp now.2 0] t ∧ (t.dev.ax k).seek = true)) ∧
         (e.axMode k = 2 → goal = now.2 → goal ≠ 0 → x.stallAt = none → Runs (.stepTargetWrite m k v) s (fun t => plan [go] t ∧ (t.dev.ax k).seek = false ∧ told t))))) ∧
    (let reached := fun (t : State) => t.dev.b STP_STAT_REACHED k = true ∧ (d.b STP_STAT_REACHED k = false → d.b STP_EVEN_REACHED k = true → t.dev.evPending 106 = true ∧ (t.dev.rd EVT_SUB 66).getLsbD k = true)
     (st ≠ 2 → same (.stepSegmentBoundary k)) ∧
     (∀ c, st = 2 → x.cubic = some c → c.next < 256 →
       (d.axTime x < c.t → same (.stepSegmentBoundary k)) ∧
       (c.t ≤ d.axTime x → c.last = true → Runs (.stepSegmentBoundary k) s (fun t => atRest c.p1 1 t ∧ on d stat t)) ∧
       (c.t ≤ d.axTime x → c.last = false → Runs (.stepSegmentBoundary k) s (fun t => enters (d.boundary (73 + k)) c.next c.p1 c.v1 (x.t0 + 20 * c.t) t))) ∧
     (∀ y rest, st = 2 → x.cubic = none → x.segs = y :: rest →
       (y.dur = none → same (.stepSegmentBoundary k)) ∧
       (∀ u, y.dur = some u → d.axTime x < u → same (.stepSegmentBoundary k)) ∧
       (∀ u, y.dur = some u → u ≤ d.axTime x →
         let p := (segAt x y u).1
         let e := d.boundary (73 + k)
         (rest = [] → x.seek = false → Runs (.stepSegmentBoundary k) s (fun t => atRest p 1 t ∧ on d stat t)) ∧
         (rest = [] → x.seek = true → x.stallAt = none → Runs (.stepSegmentBoundary k) s (fun t => reached t ∧ t.dev.f STP_STAT_STATE k = 1 ∧ t.dev.axNow k = (p, 0) ∧
           Touches stat { d with stn := t.dev.stn } t.dev)) ∧
         (∀ z w, rest = z :: w → e.b STP_CFG_EN k = false → Runs (.stepSegmentBoundary k) s (fun t => atRest p 1 t ∧ on e stat t)) ∧
         (∀ z w, rest = z :: w → e.b STP_CFG_EN k = true → x.seek = false ∨ z.dur ≠ none → Runs (.stepSegmentBoundary k) s (fun t =>
           axIs { x with p := p, v := y.v1, t0 := x.t0 + 20 * u, segs := rest } t ∧ on e [] t)) ∧
         (∀ z w, rest = z :: w → e.b STP_CFG_EN k = true → x.seek = true → z.dur = none → x.stallAt = none → Runs (.stepSegmentBoundary k) s (fun t =>
           t.dev.b STP_STAT_REACHED k = true ∧ (t.dev.ax k).segs = rest ∧ (t.dev.ax k).v = y.v1 ∧ (t.dev.ax k).seek = false ∧ t.dev.f STP_STAT_STATE k = 2))))) ∧
    (∀ volt : BitVec 16,
      let speed := (now.2 / velUnit).natAbs
      let due := st = 2 ∧ d.b STP_CFG_EN k = true ∧ d.b STP_CFG_SENSE k = true ∧ d.f STP_STALL_VMIN k ≤ speed / 256
      let den : Int := (d.f STP_KE_KE k * speed : Nat)
      let num := volt.toInt * 256000
      let angle := fun (la : Nat) => la ≤ 256 ∧ (volt.toInt < 0 → la = 256) ∧ (0 ≤ volt.toInt → den ≠ 0 → den ≤ num → la = 0) ∧
        (0 ≤ volt.toInt → den ≠ 0 → num = 0 → la = 256) ∧
        (0 < num → num < den → (la = laFloor num den ∨ la = laFloor num den + 1) ∧ num * 10 ^ 18 ≤ cosScaled (laFloor num den) * den)
      (¬due → same (.stepZcwSample k volt)) ∧
      (due → Runs (.stepZcwSample k volt) s (fun t => ∃ la, angle la ∧ t.dev.f STP_LA_LA k = la ∧
        let n := if d.f STP_STALL_LA k ≤ la then x.stalls + 1 else 0
        (n < max 1 (d.f STP_STALL_N k) → axIs { x with stalls := n } t ∧ Quiet [STP_LA.addr k 0] { d with stn := t.dev.stn, free := t.dev.free } t.dev) ∧
        (max 1 (d.f STP_STALL_N k) ≤ n → t.dev.b STP_STAT_STALL k = true ∧ (d.b STP_STAT_STALL k = false → d.b STP_EVEN_STALL k = true → t.dev.evPending 105 = true ∧ (t.dev.rd EVT_SUB 65).getLsbD k = true) ∧
          (t.dev.ax k).stalls = 0 ∧ (t.dev.ax k).stallAt = some d.wall ∧
          (d.b STP_CFG_STALLACT k = true → t.dev.f STP_STAT_STATE k = 3 ∧ t.dev.b STP_STAT_POSLOST k = true ∧ t.dev.axNow k = (now.1, 0)) ∧
          (d.b STP_CFG_STALLACT k = false → t.dev.f STP_STAT_STATE k = 2 ∧ t.dev.axNow k = now) ∧
          Touches [STP_LA.addr k 0, STP_STAT.addr k 0] { d with stn := t.dev.stn, free := t.dev.free } t.dev)))) ∧
    (let due := st ≠ 2 ∧ d.b STP_CFG_EN k = true ∧ x.restAt + d.f STP_STBYDLY_MS k * 20000000 ≤ d.wall
     (¬due → same (.stepStandstill k)) ∧
     (due → Runs (.stepStandstill k) s (fun t => axIs { x with stby := true } t ∧ on d [] t)))

/-! ### Clocks, power states and waking (chapter 15) -/

/-- R467 to R470, R473, R511, R524: a failed source puts the fast clocks on the RC oscillator, ends the lanes' links, halts driven axes, sends the time base to HOLDOVER and raises EV008; in NAP it ends NAP; while a failure is in force a further one changes nothing. A monitor window records its deviation and warns past WARN or fails
past 1 %; the once-per-second check restores; RESTORE, the oscillators' trims, the sill crystal, the engine bin and the supply warnings act as stated. CLOCK_FAILURE, CLOCK_MONITOR_WINDOW, CLOCK_RESTORE_CHECK, CLOCK_RESTORE_REQUEST, RC_OSC_TRIM, SILL_CRYSTAL_LOSS, SILL_CRYSTAL_RETURN, ENGINE_BIN_WRITE, SUPPLY_WARNING. -/
def Obligations.ClocksFailAndReturn : Prop :=
  ∀ (s : State) (m : Master), s.dev.blow = [] →
    let d := s.dev
    let pst := d.f PWR_STAT_STATE
    let same := fun (i : Instr) => Runs i s (fun t => t = s)
    let watched := d.boot.released = true ∧ pst ≠ 3
    let failed := fun (code : Nat) (t : State) => t.dev.b CLK_STAT_CLKFAIL = true ∧ t.dev.b CLK_STAT_RCACT = true ∧ t.dev.f CLK_STAT_CAUSE = code ∧
      t.dev.f CLK_STAT_FAILCNT = min 65535 (d.f CLK_STAT_FAILCNT + 1) ∧
      (code ≤ 2 ∨ code = 6 → t.dev.b CLK_STAT_MAINOK = false) ∧ (code = 3 ∨ code = 4 ∨ code = 5 → t.dev.b CLK_STAT_MAINOK = d.b CLK_STAT_MAINOK) ∧
      t.dev.evPending 8 = true ∧ (∀ p : Fin 24, t.dev.b ETH_STAT_LINK p = false) ∧ (∀ j : Fin 8, d.b STP_CFG_EN j = true → t.dev.f STP_STAT_STATE j = 3 ∧ t.dev.b STP_STAT_POSLOST j = true) ∧
      t.dev.b TIME_STAT_CLKFAIL = true ∧ t.dev.b DC_CFG_VALID 0 = false ∧ t.dev.b DC_CFG_VALID 1 = false ∧
      (d.f TIME_CTL_SEL ≠ 0 → t.dev.f TIME_STAT_STATE = 3) ∧ (d.f TIME_CTL_SEL = 0 → d.f TIME_STAT_STATE = 0 → t.dev.f TIME_STAT_STATE = 0) ∧
      (pst ≠ 2 → t.dev.f PWR_STAT_STATE = pst ∧ (d.b PWR_STAT_BUSY = true → t.dev.pw.abandon = 4)) ∧
      (pst = 2 → t.dev.f PWR_STAT_STATE = d.f PWR_STAT_ORIGIN ∧ t.dev.b PWR_STAT_BUSY = false ∧ t.dev.evPending 12 = true ∧ t.dev.rd PWR_WAKESTAT = d.rd PWR_WAKESTAT) ∧
      t.dev.mem = d.mem
    (∀ c : ClkCause,
      let due := d.b CLK_STAT_CLKFAIL = false ∧ watched ∧ (pst = 2 → c.code = 6)
      (¬due → same (.clockFailure c)) ∧ (due → Runs (.clockFailure c) s (failed c.code))) ∧
    (∀ (src : Fin 4) (dev : Int),
      let seen := fun (t : State) => t.dev.f CLK_MON_DEV = (BitVec.ofInt 16 (max (-32768) (min 32767 dev))).toNat ∧ t.dev.f CLK_MON_MAXDEV = max (d.f CLK_MON_MAXDEV) (min 65535 dev.natAbs)
      let warn := d.f CLK_CTL_WARN * 100 < dev.natAbs
      (¬watched → same (.clockMonitorWindow src dev)) ∧
      (watched → dev.natAbs ≤ 1000 → ¬warn → Runs (.clockMonitorWindow src dev) s (fun t => seen t ∧ Quiet [CLK_MON.base] d t.dev)) ∧
      (watched → dev.natAbs ≤ 1000 → warn → Runs (.clockMonitorWindow src dev) s (fun t => seen t ∧ t.dev.evPending 9 = true ∧ Touches [CLK_MON.base] d t.dev)) ∧
      (watched → 1000 < dev.natAbs → d.b CLK_STAT_CLKFAIL = true → Runs (.clockMonitorWindow src dev) s (fun t => seen t ∧ Quiet [CLK_MON.base] d t.dev)) ∧
      (watched → 1000 < dev.natAbs → d.b CLK_STAT_CLKFAIL = false → Runs (.clockMonitorWindow src dev) s (fun t => seen t ∧
        failed (if pst = 2 then 6 else if src.val = 0 then 2 else src.val + 2) t))) ∧
    (∀ ppm : Int,
      let due := d.b CLK_STAT_RCACT = true ∧ watched ∧ d.pw.plumbAt + 20000000000 ≤ d.wall ∧ (d.b CLK_CTL_AUTOREST = true ∨ d.pw.restore = true)
      let ok := ppm.natAbs ≤ if d.b CLK_STAT_SILLRC then 50000 else 200
      let noted := fun (t : State) => t.dev.f CLK_PLUMB_PPM = (BitVec.ofInt 16 (max (-32768) (min 32767 ppm))).toNat ∧ t.dev.pw.plumbAt = d.wall ∧ (t.dev.b CLK_PLUMB_PASS = true ↔ ok)
      (¬due → same (.clockRestoreCheck ppm)) ∧
      (due → ¬ok → Runs (.clockRestoreCheck ppm) s (fun t => noted t ∧ Quiet [CLK_PLUMB.base] { d with pw := t.dev.pw } t.dev)) ∧
      (due → ok → Runs (.clockRestoreCheck ppm) s (fun t => noted t ∧ t.dev.b CLK_STAT_RCACT = false ∧ t.dev.b CLK_STAT_CLKFAIL = false ∧ t.dev.b CLK_STAT_MAINOK = true ∧
        t.dev.f CLK_STAT_LOCK = 7 ∧ t.dev.b TIME_STAT_CLKFAIL = false ∧ t.dev.f TIME_STAT_STATE = d.f TIME_STAT_STATE ∧ t.dev.pw.restore = false ∧ t.dev.mem = d.mem ∧ t.dev.stn = d.stn))) ∧
    (d.accepts m CLK_CTL 0 0 ((d.rd CLK_CTL &&& 0xF01) ||| 2) = true → Runs (.clockRestoreRequest m) s (fun t => t.dev.rd CLK_CTL = d.rd CLK_CTL &&& 0xF01 ∧
      t.dev.pw = { d.pw with restore := true } ∧ Quiet [CLK_CTL.base] { d with pw := t.dev.pw } t.dev ∧ answers t m 0 false)) ∧
    (d.wall < d.pw.rcAt + 20000000000 → same .rcOscTrim) ∧
    (d.pw.rcAt + 20000000000 ≤ d.wall → Runs .rcOscTrim s (fun t => t.dev.pw = { d.pw with rcAt := d.wall } ∧ Quiet [] { d with pw := t.dev.pw } t.dev)) ∧
    (d.b CLK_STAT_SILLRC = true → same .sillCrystalLoss) ∧
    (d.b CLK_STAT_SILLRC = false → Runs .sillCrystalLoss s (fun t => t.dev.b CLK_STAT_SILLRC = true ∧ t.dev.evPending 9 = true ∧ t.dev.pw = { d.pw with sillAt := d.wall } ∧
      Touches [CLK_STAT.base] { d with pw := t.dev.pw } t.dev)) ∧
    (let back := d.b CLK_STAT_SILLRC = true ∧ d.pw.sillAt + 20000000000 ≤ d.wall
     (¬back → same .sillCrystalReturn) ∧
     (back → Runs .sillCrystalReturn s (fun t => t.dev.b CLK_STAT_SILLRC = false ∧ Quiet [CLK_STAT.base] d t.dev))) ∧
    (∀ bin : BitVec 4, d.accepts m CLK_ENGPLL 0 0 (bin.setWidth 32) = true → Runs (.engineBinWrite m bin) s (fun t => t.dev.rd CLK_ENGPLL = bin.setWidth 32 ∧
      (∀ n : Fin 32, let g := d.e n
        t.dev.e n = if g.run = .idle ∨ g.run = .halted ∨ g.run = .reset then { g with bin := min 8 bin.toNat } else g) ∧
      Quiet [CLK_ENGPLL.base] { d with eng := t.dev.eng } t.dev ∧ answers t m 0 false)) ∧
    (∀ (i : Fin 9) (past : Bool),
      let r := d.rd PWR_SUPSTAT
      let first := past = true ∧ r.getLsbD (16 + i) = false
      (¬first → Runs (.supplyWarning i past) s (fun t => (t.dev.rd PWR_SUPSTAT).getLsbD i = past ∧ (∀ k, k ≠ i.val → (t.dev.rd PWR_SUPSTAT).getLsbD k = r.getLsbD k) ∧
        Quiet [PWR_SUPSTAT.base] d t.dev)) ∧
      (first → Runs (.supplyWarning i past) s (fun t => (t.dev.rd PWR_SUPSTAT).getLsbD i = true ∧ (t.dev.rd PWR_SUPSTAT).getLsbD (16 + i) = true ∧ t.dev.evPending 11 = true ∧
        (∀ k, k ≠ i.val → k ≠ 16 + i → (t.dev.rd PWR_SUPSTAT).getLsbD k = r.getLsbD k) ∧ Touches [PWR_SUPSTAT.base] d t.dev)))

/-- R475 to R480, R482 to R484: PWR_CTL is the supervisors' alone; a request that Table 15-3 refuses says why and changes nothing else, one accepted begins the transition; its steps complete in their order when what they wait for has come; DRAIN's end empties the queues, counted; a failure or a wake abandons an entry; a wake is recorded
with its class and instance, ends DOZE, starts the exit from NAP, and resets the chip from HIBERNATE; the alarm and the chip-select fire their wakes. POWER_REQUEST_RUN, POWER_REQUEST_DOZE, POWER_REQUEST_NAP, POWER_REQUEST_HIBERNATE, NAP_DRAIN_EXPIRY, POWER_TRANSITION_DONE, WAKE, NAP_EXIT_LOCKED, RTC_ALARM, RTC_ALARM_ARM, HOST_SPI_SELECT. -/
def Obligations.PowerStatesChange : Prop :=
  ∀ (s : State) (m : Master), s.dev.blow = [] →
    let d := s.dev
    let st := d.f PWR_STAT_STATE
    let busy := d.b PWR_STAT_BUSY = true
    let same := fun (i : Instr) => Runs i s (fun t => t = s)
    let idled := fun (t : State) => ∀ n : Fin 32, (t.dev.e n).run = (if (d.e n).run = .idle then .halted else (d.e n).run)
    (∀ (i : Instr) (q : Nat), (i = .powerRequestRun m ∧ q = 0) ∨ (i = .powerRequestDoze m ∧ q = 1) ∨ (i = .powerRequestNap m ∧ q = 2) ∨ (i = .powerRequestHibernate m ∧ q = 3) →
      let keeps := d.rd PWR_CTL &&& 0xFFFF0020
      let w := fun (t : State) => t.dev.rd PWR_CTL = keeps ∧ answers t m 0 false
      let refused := fun (code : Nat) (t : State) => w t ∧ t.dev.f PWR_STAT_REFUSE = code ∧ t.dev.evPending 12 = true ∧ t.dev.f PWR_STAT_STATE = st ∧ Touches [PWR_CTL.base, PWR_STAT.base] d t.dev
      let bad := busy ∨ ¬((st = 0 ∧ q ≠ 0) ∨ (st = 1 ∧ q ≠ 1))
      let held := q = 3 ∧ d.commitsPend = true ∧ d.b PWR_CTL_DISCARD = false
      let dead := q = 2 ∧ d.b CLK_STAT_CLKFAIL = true
      let begun := fun (t : State) => w t ∧ t.dev.b PWR_STAT_BUSY = true ∧ t.dev.f PWR_STAT_REFUSE = 0 ∧ t.dev.f PWR_STAT_STATE = st ∧ t.dev.powerTo = q ∧ t.dev.wakes = [] ∧
        t.dev.pw = { d.pw with step := if 2 ≤ q then 1 else 0, at' := d.wall, from' := st, abandon := 0, woke := false } ∧ t.dev.mem = d.mem ∧ t.dev.frames = d.frames
      (m ≠ .sv0 → m ≠ .sv1 → Runs i s (fun t => answers t m 0 true ∧ Quiet [] d t.dev)) ∧
      (d.accepts m PWR_CTL 0 0 (keeps ||| BitVec.ofNat 32 (16 + q)) = true →
        (bad → Runs i s (refused 1)) ∧ (¬bad → held → Runs i s (refused 3)) ∧ (¬bad → dead → Runs i s (refused 5)) ∧
        (¬bad → q = 0 → Runs i s (fun t => begun t ∧ Quiet [PWR_CTL.base, PWR_STAT.base] { d with powerTo := 0, wakes := [], pw := t.dev.pw, eng := t.dev.eng } t.dev)) ∧
        (¬bad → q = 1 → Runs i s (fun t => begun t ∧ idled t ∧ Quiet [PWR_CTL.base, PWR_STAT.base] { d with powerTo := 1, wakes := [], pw := t.dev.pw, eng := t.dev.eng } t.dev)) ∧
        (¬bad → 2 ≤ q → ¬held → ¬dead → Runs i s (fun t => begun t ∧ (st = 1 → idled t) ∧
          (∀ j : Fin 8, d.axMoving j = true → (d.axNow j).2 = 0 ∨ d.f STP_CFG_MODE j = 0 → (t.dev.ax j).cubic = none ∧ ∀ y ∈ (t.dev.ax j).segs, y.v1 = 0 ∨ d.axAmax j = 0))))) ∧
    (let due := busy ∧ d.pw.step = 3 ∧ d.pw.at' + d.f PWR_CTL_DRAIN * 20000 ≤ d.wall
     let total := ((List.range 209).map (fun q => (d.q q).length)).foldl (· + ·) 0
     (¬due → same .napDrainExpiry) ∧
     (due → Runs .napDrainExpiry s (fun t => t.dev.pw = { d.pw with step := 4, at' := d.wall } ∧ (∀ q, q < 209 → t.dev.q q = []) ∧
       (∀ p : Fin 24, (t.dev.lane p).cur = none ∧ (t.dev.lane p).held = none) ∧ (∀ n : Fin 16, t.dev.b DMA_CTL_EN n = false) ∧ t.dev.f PWR_STAT_STATE = st ∧
       ((∀ p : Fin 24, (d.lane p).cur = none ∧ (d.lane p).held = none) → (∀ n : Fin 32, (d.e n).wq = []) → (d.rd PWR_NAPDISC).toNat + total < 2 ^ 32 →
         t.dev.rd PWR_NAPDISC = d.rd PWR_NAPDISC + BitVec.ofNat 32 total)))) ∧
    (let go := busy ∧ d.pw.abandon = 0
     let stepped := fun (k : Nat) (t : State) => t.dev.pw = { d.pw with step := k, at' := d.wall } ∧ t.dev.b PWR_STAT_BUSY = true ∧ t.dev.f PWR_STAT_STATE = st
     let reached := fun (x : Nat) (t : State) => t.dev.f PWR_STAT_STATE = x ∧ t.dev.b PWR_STAT_BUSY = false ∧ t.dev.pw.step = 0
     let halting := ∀ n : Fin 32, d.engStopped n = true ∨ ((d.e n).run = .idle ∧ d.engHold n = true)
     (¬busy → same .powerTransitionDone) ∧
     (busy → d.pw.abandon ≠ 0 → d.pw.abandon < 16 → Runs .powerTransitionDone s (fun t => reached st t ∧ t.dev.f PWR_STAT_REFUSE = d.pw.abandon ∧ t.dev.evPending 12 = true ∧
       (d.pw.woke = true → t.dev.evPending 10 = true))) ∧
     (go → d.powerTo = 0 → Runs .powerTransitionDone s (fun t => reached 0 t ∧ t.dev.evPending 12 = true ∧
       (∀ n : Fin 32, (d.e n).run = .halted → d.b ENG_CTL_HALT n = false → (t.dev.e n).run = .idle))) ∧
     (go → d.powerTo = 1 → halting → Runs .powerTransitionDone s (fun t => reached 1 t ∧ t.dev.evPending 12 = true ∧ (∀ n : Fin 32, t.dev.engStopped n = true) ∧
       Touches [PWR_STAT.base] { d with pw := t.dev.pw, eng := t.dev.eng } t.dev)) ∧
     (go → d.powerTo = 1 → ¬halting → Runs .powerTransitionDone s (fun t => t.dev.b PWR_STAT_BUSY = true ∧ t.dev.f PWR_STAT_STATE = st ∧ Quiet [] { d with eng := t.dev.eng } t.dev)) ∧
     (go → 2 ≤ d.powerTo → d.pw.step = 1 → (∃ j : Fin 8, d.axMoving j = true) → same .powerTransitionDone) ∧
     (go → 2 ≤ d.powerTo → d.pw.step = 1 → (∀ j : Fin 8, d.axMoving j = false) → Runs .powerTransitionDone s (fun t => stepped 2 t ∧
       (∀ p : Fin 24, d.f ETH_CTL_PWR p = 0 → d.b ETH_WAKECTL_NAPRX p = false ∨ d.powerTo = 3 → t.dev.b ETH_STAT_LINK p = false))) ∧
     (go → 2 ≤ d.powerTo → d.pw.step = 2 → Runs .powerTransitionDone s (fun t => stepped 3 t ∧ Quiet [] { d with pw := t.dev.pw } t.dev)) ∧
     (go → 2 ≤ d.powerTo → d.pw.step = 3 → d.drained = false → same .powerTransitionDone) ∧
     (go → 2 ≤ d.powerTo → d.pw.step = 3 → d.drained = true → Runs .powerTransitionDone s (fun t => stepped 4 t ∧ Quiet [] { d with pw := t.dev.pw, eng := t.dev.eng } t.dev)) ∧
     (go → 2 ≤ d.powerTo → d.pw.step = 4 → halting → Runs .powerTransitionDone s (fun t => stepped 5 t ∧ (∀ n : Fin 32, t.dev.engStopped n = true) ∧ t.dev.mem = d.mem)) ∧
     (go → d.powerTo = 2 → d.pw.step = 5 → Runs .powerTransitionDone s (fun t => stepped 6 t ∧ t.dev.b DC_CFG_VALID 0 = false ∧ t.dev.b DC_CFG_VALID 1 = false ∧
       (d.f TIME_CTL_SEL ≠ 0 → t.dev.f TIME_STAT_STATE = 3) ∧ t.dev.tb = d.tb)) ∧
     (go → d.powerTo = 2 → d.pw.step = 6 → Runs .powerTransitionDone s (fun t => stepped 7 t ∧ t.dev.mem = d.mem ∧
       (∀ k : Fin 80, (t.dev.pwr k).cur = if (d.pwr k).cur = .on then .retention else (d.pwr k).cur) ∧ Quiet [] { d with pw := t.dev.pw, power := t.dev.power } t.dev)) ∧
     (go → d.powerTo = 2 → d.pw.step = 7 → d.pw.from' < 2 → Runs .powerTransitionDone s (fun t => reached 2 t ∧ t.dev.f PWR_STAT_ORIGIN = d.pw.from' ∧ t.dev.f CLK_STAT_LOCK = 0 ∧
       Quiet [PWR_STAT.base, CLK_STAT.base] { d with pw := t.dev.pw } t.dev)) ∧
     (go → d.powerTo = 3 → d.pw.step = 5 → Runs .powerTransitionDone s (fun t => t.dev.pw.step = 6 ∧ (∀ p : Fin 24, p.val ∈ t.dev.pw.hibLanes ↔ d.b ETH_WAKECTL_EDWAKE p = true) ∧
       Quiet [] { d with pw := t.dev.pw } t.dev)) ∧
     (go → d.powerTo = 3 → d.pw.step = 6 → Runs .powerTransitionDone s (fun t => stepped 7 t ∧ t.dev.rtcNow = d.ns)) ∧
     (go → d.powerTo = 3 → d.pw.step = 7 → Runs .powerTransitionDone s (fun t => reached 3 t ∧ Quiet [PWR_STAT.base] { d with pw := t.dev.pw } t.dev))) ∧
    (∀ sel : BitVec 2,
      let lowest := fun (c i : Nat) => lowWake d.wakes = some (c, i) ∧ c < 9 ∧ i < 64
      let noted := fun (c i : Nat) (t : State) => t.dev.wakes = [] ∧ t.dev.pw.woke = true ∧ (∀ k : Fin 9, (t.dev.f PWR_WAKESTAT_SRC).testBit k = ((d.f PWR_WAKESTAT_SRC).testBit k || d.wakes.any (fun x => x.1 == k.val))) ∧
        (d.pw.woke = false → t.dev.f PWR_WAKESTAT_FIRST = c ∧ t.dev.f PWR_WAKESTAT_INST = i)
      (∀ c i, lowWake d.wakes = some (c, i) → (c, i) ∈ d.wakes ∧ ∀ x ∈ d.wakes, c ≤ x.1) ∧
      (d.wakes = [] → same (.wake sel)) ∧
      (∀ c i, lowest c i → busy → 1 ≤ d.powerTo → Runs (.wake sel) s (fun t => noted c i t ∧ t.dev.pw.abandon = 2 ∧ Quiet [PWR_WAKESTAT.base] { d with wakes := [], pw := t.dev.pw } t.dev)) ∧
      (∀ c i, lowest c i → ¬busy → st = 0 → Runs (.wake sel) s (fun t => noted c i t ∧ Quiet [PWR_WAKESTAT.base] { d with wakes := [], pw := t.dev.pw } t.dev)) ∧
      (∀ c i, lowest c i → ¬busy → st = 1 → Runs (.wake sel) s (fun t => noted c i t ∧ t.dev.f PWR_STAT_STATE = 0 ∧ t.dev.evPending 10 = true ∧ t.dev.evPending 12 = true ∧
        (∀ n : Fin 32, (d.e n).run = .halted → d.b ENG_CTL_HALT n = false → (t.dev.e n).run = .idle))) ∧
      (∀ c i, lowest c i → ¬busy → st = 2 → d.pw.wakeAt = none → Runs (.wake sel) s (fun t => noted c i t ∧ t.dev.pw.wakeAt = some d.wall ∧ t.dev.f PWR_STAT_STATE = 2 ∧
        Quiet [PWR_WAKESTAT.base] { d with wakes := [], pw := t.dev.pw } t.dev)) ∧
      (∀ c i, lowest c i → ¬busy → st = 3 → d.pw.woke = false → Runs (.wake sel) s (fun t => (t.dev.rd PWR_RSTCAUSE).getLsbD 4 = true ∧ t.dev.boot.phase = .plumb ∧ t.dev.boot.released = false ∧
        t.dev.f PWR_WAKESTAT_FIRST = c ∧ t.dev.f PWR_WAKESTAT_INST = i ∧ (t.dev.f PWR_WAKESTAT_SRC).testBit c = true ∧ t.dev.f PWR_STAT_STATE = 0 ∧ t.dev.pw.report = true))) ∧
    (let due := st = 2 ∧ ∃ u, d.pw.wakeAt = some u ∧ u + 840000 ≤ d.wall
     (¬due → same .napExitLocked) ∧
     (due → Runs .napExitLocked s (fun t => t.dev.f PWR_STAT_STATE = d.f PWR_STAT_ORIGIN ∧ t.dev.b PWR_STAT_BUSY = false ∧ t.dev.f CLK_STAT_LOCK = 7 ∧ t.dev.evPending 10 = true ∧
       t.dev.evPending 12 = true ∧ t.dev.pw.wakeAt = none ∧ t.dev.mem = d.mem ∧ t.dev.tb = d.tb ∧
       (∀ k : Fin 16, (d.pwr k).cur = .retention → getBits (d.rd PWR_COMBPWR) (2 * k) 2 = 0 → (t.dev.pwr k).cur = .on)))) ∧
    (let fired := fun (c : Nat) (t : State) => t.dev.wakes = if (d.f PWR_WAKEEN_EN).testBit c && wakeEffective c d.wakeState then d.wakes ++ [(c, 0)] else d.wakes
     let hit := fun (t : State) => t.dev.b PWR_RTCALMCTL_EN = false ∧ t.dev.b PWR_RTCALMCTL_HIT = true ∧ fired 5 t ∧ Quiet [PWR_RTCALMCTL.base] { d with wakes := t.dev.wakes } t.dev
     let due := wide64 (d.rd PWR_RTCALM_LO) (d.rd PWR_RTCALM_HI) ≤ d.rtcNow
     (d.b PWR_RTCALMCTL_EN = false ∨ ¬due → same .rtcAlarm) ∧
     (d.b PWR_RTCALMCTL_EN = true → due → Runs .rtcAlarm s hit) ∧
     (d.accepts m PWR_RTCALMCTL 0 0 1 = true →
       (due → Runs (.rtcAlarmArm m) s (fun t => hit t ∧ answers t m 0 false)) ∧
       (¬due → Runs (.rtcAlarmArm m) s (fun t => t.dev.b PWR_RTCALMCTL_EN = true ∧ t.dev.b PWR_RTCALMCTL_HIT = d.b PWR_RTCALMCTL_HIT ∧
         Quiet [PWR_RTCALMCTL.base] d t.dev ∧ answers t m 0 false))) ∧
     Runs .hostSpiSelect s (fun t => fired 7 t ∧ Quiet [] { d with wakes := t.dev.wakes } t.dev))

/-! ### Ageing, the margin planner and the journal (chapter 16) -/

/-- R487, R489 to R494, R524: a measurement set fills every site, faults those without a count, and notes a hot site; the planner's tick enters SV0 at vector 47; a run makes at most one step of voltage or bin as R490 lays down, writes the model delays (a LIVE lane's equal what was measured), each enabled ring's REQ
(rounded to whole ns as the spec does not say, log 10), refuses a kerf that does not fit, keeps the weekly history and the margin; a Vout write not acknowledged sets AVSERR. AGE_MEASUREMENT, PLANNER_TICK, PLANNER_RUN, AVS_READBACK. -/
def Obligations.AgeingIsMeasuredAndPlanned : Prop :=
  ∀ s : State, s.dev.blow = [] →
    let d := s.dev
    let same := fun (i : Instr) => Runs i s (fun t => t = s)
    let flag := fun (x : RegFld) (t : State) => t.dev.b x = true ∧ (d.b x = false → t.dev.evPending 108 = true)
    (∀ sites : List (Option (BitVec 16 × BitVec 12 × BitVec 12)), sites.length = 8 →
      let due := d.f PWR_STAT_STATE < 2 ∧ d.boot.released = true ∧ d.age.measAt + max 1 (d.f AGE_MONCFG_MONPER) * 20000000 ≤ d.wall
      let temp := fun (k : Nat) => match sites.getD k none with
        | some x => x.2.2.toNat
        | none => d.f AGE_MON_TEMP_TEMP k
      let hot := ∃ k : Fin 8, 880 < temp k ∧ temp k < 2048
      (¬due → same (.ageMeasurement sites)) ∧
      (due → Runs (.ageMeasurement sites) s (fun t => t.dev.age = { d.age with measAt := d.wall } ∧
        (∀ k : Fin 8, (∀ deg slack tmp, sites.getD k none = some (deg, slack, tmp) → t.dev.f AGE_MON_DEG_DEG k = deg.toNat ∧ t.dev.f AGE_MON_SLACK_SLACK k = slack.toNat ∧
            t.dev.f AGE_MON_TEMP_TEMP k = tmp.toNat ∧ t.dev.b AGE_MON_TEMP_FAULT k = d.b AGE_MON_TEMP_FAULT k) ∧
          (sites.getD k none = none → t.dev.b AGE_MON_TEMP_FAULT k = true ∧ t.dev.rd AGE_MON_DEG k = d.rd AGE_MON_DEG k ∧ t.dev.rd AGE_MON_SLACK k = d.rd AGE_MON_SLACK k ∧
            t.dev.f AGE_MON_TEMP_TEMP k = d.f AGE_MON_TEMP_TEMP k ∧ t.dev.evPending 109 = true)) ∧
        (d.b AGE_MONCFG_MONEV = true → t.dev.evPending 109 = true) ∧
        ((t.dev.rd PWR_SUPSTAT).getLsbD 8 = true ↔ hot) ∧ (hot → (t.dev.rd PWR_SUPSTAT).getLsbD 24 = true ∧ ((d.rd PWR_SUPSTAT).getLsbD 24 = false → t.dev.evPending 11 = true)) ∧
        Touches (PWR_SUPSTAT.base :: (List.range 8).flatMap (fun k => [AGE_MON_DEG.addr k 0, AGE_MON_SLACK.addr k 0, AGE_MON_TEMP.addr k 0])) { d with age := t.dev.age } t.dev))) ∧
    (let c := d.sv0.cpu
     let due := d.age.tickAt + 200000000 ≤ d.wall ∧ (d.sv0.run = .run ∨ d.sv0.run = .wfi) ∧ d.f PWR_STAT_STATE < 2 ∧ c.psr.getLsbD 1 = true ∧ c.estat.getLsbD 0 = false ∧ d.lowLine 1 = none
     (¬due → same .plannerTick) ∧
     (due → Runs .plannerTick s (fun t => Entered c true 47 0 0 c.pc t.dev.sv0.cpu ∧ t.dev.sv0.run = .run ∧ t.dev.sv1 = d.sv1 ∧ t.dev.eng = d.eng ∧ t.dev.mem = d.mem ∧
       t.dev.age = { d.age with tickAt := d.wall }))) ∧
    (∀ x : PlanFacts,
      let due := d.b AGE_CTL_EN = true ∧ d.f PWR_STAT_STATE < 2 ∧ d.sv0.run ≠ .reset ∧ d.sv0.run ≠ .dead ∧ d.age.planAt + max 1 (d.f AGE_CTL_PLANPER) * 20000000000 ≤ d.wall
      let avs := d.b AGE_CTL_AVSEN = true
      let binEn := d.b AGE_CTL_BINEN = true
      let s0 := d.leastSlack
      let lim := fun (v : Nat) => max 720 (min 880 v)
      let v := d.f AGE_AVS_VOUT
      let top := lim (d.f AGE_AVSLIM_AVSMAX)
      let low := lim (d.f AGE_AVSLIM_AVSMIN)
      let bin := min 8 (d.f CLK_ENGPLL_BIN)
      let free := d.b AGE_STAT_AVSERR = false ∧ d.age.vout = none
      let raiseV := free ∧ s0 < d.f AGE_GUARD_LO ∧ v < top ∧ avs
      let lowerBin := free ∧ s0 < d.f AGE_GUARD_LO ∧ top ≤ v ∧ 0 < bin ∧ binEn
      let raiseBin := free ∧ d.f AGE_GUARD_LO ≤ s0 ∧ d.f AGE_GUARD_HI < s0 ∧ bin < min 8 (d.f AGE_GUARD_BINMAX) ∧ binEn ∧ d.f AGE_GUARD_HI ≤ x.ahead
      let lowerV := free ∧ d.f AGE_GUARD_LO ≤ s0 ∧ d.f AGE_GUARD_HI < s0 ∧ ¬raiseBin ∧ low < v ∧ avs ∧ (∀ n : Fin 32, (d.e n).bin ≤ bin)
      let site := fun (p : Nat) => if p < 16 then 5 else 6
      let term := fun (tx : Bool) (p : Nat) => Config.lmodTerm tx p (d.f AGE_MON_TEMP_TEMP (site p)) (d.f AGE_MON_DEG_DEG (site p))
      let week := d.age.histAt + 7 * 86400 * 20000000000 ≤ d.wall
      let u := 500000000000
      (d.leastSlack ≤ d.f AGE_MON_SLACK_SLACK 0 ∧ (∀ k, k ∈ [0, 1, 2, 3, 7] → s0 ≤ d.f AGE_MON_SLACK_SLACK k) ∧ ∃ k, k ∈ [0, 1, 2, 3, 7] ∧ s0 = d.f AGE_MON_SLACK_SLACK k) ∧
      (¬due → same (.plannerRun x)) ∧
      (due → x.late = true → Runs (.plannerRun x) s (fun t => t.dev.b AGE_STAT_LATE = true ∧ t.dev.age = { d.age with planAt := d.wall } ∧ Quiet [AGE_STAT.base] { d with age := t.dev.age } t.dev)) ∧
      (due → x.late = false → Runs (.plannerRun x) s (fun t => t.dev.age.planAt = d.wall ∧ t.dev.mem = d.mem ∧ RegsKept [.age, .clk, .time, .brg, .evt, .mem, .sys] d t.dev ∧
        (raiseV → t.dev.f AGE_AVS_VOUT = min (v + 10) top ∧ t.dev.age.vout = some (min (v + 10) top)) ∧
        (lowerV → t.dev.f AGE_AVS_VOUT = max (v - 5) low ∧ t.dev.age.vout = some (max (v - 5) low)) ∧
        (¬raiseV → ¬lowerV → t.dev.rd AGE_AVS = d.rd AGE_AVS ∧ t.dev.age.vout = d.age.vout) ∧
        (lowerBin → t.dev.rd CLK_ENGPLL = BitVec.ofNat 32 (bin - 1) ∧ flag AGE_STAT_AVSMAXED t) ∧ (raiseBin → t.dev.rd CLK_ENGPLL = BitVec.ofNat 32 (bin + 1)) ∧
        (¬lowerBin → ¬raiseBin → t.dev.rd CLK_ENGPLL = d.rd CLK_ENGPLL) ∧
        (∀ p : Fin 24,
          (d.b AGE_CTL_DLYEN = false → t.dev.rd TIME_LMODTX p = d.rd TIME_LMODTX p ∧ t.dev.rd TIME_LMODRX p = d.rd TIME_LMODRX p) ∧
          (d.b AGE_CTL_DLYEN = true → d.calState p = 1 → t.dev.rd TIME_LMODTX p = d.rd TIME_CALTX p ∧ t.dev.rd TIME_LMODRX p = d.rd TIME_CALRX p) ∧
          (d.b AGE_CTL_DLYEN = true → d.calState p ≠ 1 →
            t.dev.rd TIME_LMODTX p = BitVec.ofInt 32 ((Tab.look d.age.d0 (Config.factoryLmodTx p) (2 * p.val)).toInt + term true p) ∧
            t.dev.rd TIME_LMODRX p = BitVec.ofInt 32 ((Tab.look d.age.d0 (Config.factoryLmodRx p) (2 * p.val + 1)).toInt + term false p))) ∧
        (∀ n : Fin 8,
          (d.b BRG_CTL_EN n = false → t.dev.rd AGE_KERF n = d.rd AGE_KERF n) ∧
          (d.b BRG_CTL_EN n = true →
            let pr := x.rings.getD n (0, 0)
            let gap := d.syncGap n
            let need := 2 * (pr.1 * (u / 1000) + gap * (120000 + pr.2) * (u / 1000000000) + 20 * u + gap * d.f AGE_KAG_KAG * d.f AGE_MON_DEG_DEG 7 * (u / 100000000) / 1000)
            (∃ up, up ≤ 1 ∧ (need % u = 0 → up = 0) ∧ t.dev.f AGE_KERF_REQ n = min 65535 (need / u + up)) ∧
            (let a := (d.rd AGE_KERFSRC n).toNat
             let w := a / 4 * 4
             let k := (d.bytesNat w 4 + 49) / 50 * 50
             d.b AGE_CTL_KERFEN = true → a ≠ 0 → d.combFree .sv0 w 4 false = true → d.f BRG_KERF_KERF n < k →
               (d.brgSlotNs n < k * 20 + d.brgFmax n + (2 * d.brgN n - 2) * d.brgHop n ∨ 65535 < k → t.dev.b AGE_STAT_KERFBLK = true) ∧
               (k * 20 + d.brgFmax n + (2 * d.brgN n - 2) * d.brgHop n ≤ d.brgSlotNs n → k ≤ 65535 → t.dev.stgAt BRG_KERF n 0 (BRG_KERF.addr n 0) = BitVec.ofNat 32 k)))) ∧
        (week → t.dev.age.hist = d.age.hist + 1 ∧ t.dev.age.histAt = d.wall) ∧ (¬week → t.dev.age.hist = d.age.hist ∧ t.dev.age.histAt = d.age.histAt ∧ t.dev.jrn = d.jrn) ∧
        (t.dev.age.hist * 7 < 30 → t.dev.rd AGE_MARGIN = d.rd AGE_MARGIN) ∧
        (30 ≤ t.dev.age.hist * 7 → t.dev.f AGE_MARGIN_YEARS = min 9999 x.years ∧ t.dev.f AGE_MARGIN_LIMSITE = x.site.toNat ∧ t.dev.b AGE_STAT_NOHIST = false ∧
          (min 9999 x.years < d.f AGE_CTL_WARNY → d.f AGE_CTL_WARNY ≤ d.f AGE_MARGIN_YEARS → t.dev.evPending 108 = true))))) ∧
    (∀ ack : Bool,
      (d.age.vout = none → same (.avsReadback ack)) ∧
      (d.age.vout ≠ none → ack = true → Runs (.avsReadback ack) s (fun t => t.dev.age = { d.age with vout := none } ∧ Quiet [] { d with age := t.dev.age } t.dev)) ∧
      (d.age.vout ≠ none → ack = false → Runs (.avsReadback ack) s (fun t => flag AGE_STAT_AVSERR t ∧ t.dev.age = { d.age with vout := none } ∧
        Touches [AGE_STAT.base] { d with age := t.dev.age } t.dev)))

/-- R495, R497 to R505: the controller takes the oldest queue entry, not during a row write or FORMAT, and coalesces it, drops or folds it for want of a token, or gives it a row, overwriting the oldest event or trace of a full partition; a row write stores its words and the next starts; an open row whose COUNT changed is rewritten
once per second and closed after COALWIN; summaries, FORMAT, acknowledgements and the push list act as stated. JOURNAL_ENTRY_PROCESS, JOURNAL_ROW_WRITE_DONE, COALESCE_REWRITE, COALESCE_WINDOW_CLOSE, SUMMARY_RECORD, JOURNAL_FORMAT, FORMAT_DONE, ALARM_ACK, PUSH_ACK.
R495 to R498: the journal window. A read returns a row's word, 0 for a row that is empty or whose CRC fails, counted once in JRN_TORN, and waits while the row is being written; protected rows are SV0's; the word at +0x1C submits the banked record through the queue, or an SV0 row directly; a class 0x3 record is a bus error.
JOURNAL_WINDOW_SUBMIT, PROTECTED_ROW_WRITE, JOURNAL_WINDOW_READ. -/
def Obligations.TheJournalKeepsItsRecordsAndItsWindow : Prop :=
  (∀ (s : State) (m : Master), s.dev.blow = [] →
    let d := s.dev
    let j := d.jrn
    let same := fun (i : Instr) => Runs i s (fun t => t = s)
    let quiet := fun (S : List Nat) (t : State) => Quiet S { d with jrn := t.dev.jrn } t.dev
    let grows := fun (r : Reg) (c : Nat) (t : State) => (d.rd r c).toNat < 0xFFFFFFFF → t.dev.rd r c = d.rd r c + 1
    let busy := j.writing ≠ none ∨ j.fmtAt ≠ none
    (busy → same .journalEntryProcess) ∧
    (d.jq = [] → same .journalEntryProcess) ∧
    (2 ≤ d.f PWR_STAT_STATE → (∀ e ∈ d.jq, e.origin ≠ 10) → same .journalEntryProcess) ∧
    (∀ e l, ¬busy → d.f PWR_STAT_STATE < 2 → d.jq = e :: l → e.cls < 3 →
      let c := e.cls
      let rc := d.recOf e
      let p := d.part c
      let hit := if d.coalOn c then d.coalHit rc else none
      let burst := d.f JRN_PART_RATE_BURST c * 20000000000
      let lack := p.lack - (d.wall - p.at') * d.f JRN_PART_RATE_RATE c
      let ok := lack + 20000000000 ≤ burst
      let room := p.freed ≠ [] ∨ p.taken < d.partRows c
      let queue := fun (t : State) => ∀ x ∈ l, x ∈ t.dev.jq
      (rc.cls = c ∧ rc.origin = e.origin ∧ rc.time = e.time ∧ rc.count = 1 ∧ (e.row = none → rc.code = e.origin ∧ rc.src = true)) ∧
      (∀ row, hit = some row → ∃ a, (row, a) ∈ j.alloc ∧ a.isOpen = true ∧ a.r.cls = c ∧ a.r.origin = rc.origin ∧ a.r.code = rc.code ∧ (rc.src = true ∨ a.r.data = rc.data)) ∧
      (∀ row a, hit = some row → d.jrow row = some a → Runs .journalEntryProcess s (fun t => t.dev.jq = l ∧ grows JRN_COAL c t ∧
        (∃ y, t.dev.jrow row = some y ∧ y.r = { a.r with count := min 0xFFFFFF (a.r.count + 1), last := e.time, data := if rc.src then a.r.data ||| rc.data else a.r.data } ∧ y.dirty = true ∧
          y.isOpen = a.isOpen ∧ y.pushed = a.pushed) ∧
        (∀ r, r ≠ row → t.dev.jrow r = d.jrow r) ∧ t.dev.jrn.push = j.push ∧ Quiet [JRN_COAL.addr c 0] { d with jrn := t.dev.jrn, jq := l } t.dev)) ∧
      (hit = none → ¬ok → c ≠ 0 → Runs .journalEntryProcess s (fun t => t.dev.jq = l ∧ grows JRN_DROP c t ∧ t.dev.jrn.alloc = j.alloc ∧ t.dev.jrn.push = j.push ∧ t.dev.jrn.rows = j.rows ∧
        Quiet [JRN_DROP.addr c 0] { d with jrn := t.dev.jrn, jq := l } t.dev)) ∧
      (hit = none → c = 2 → d.partRows 2 = 0 → Runs .journalEntryProcess s (fun t => t.dev.jq = l ∧ grows JRN_DROP 2 t ∧ t.dev.jrn.alloc = j.alloc)) ∧
      (hit = none → c = 0 → ¬ok ∨ ¬room → d.jrow d.ovfRow = none → Runs .journalEntryProcess s (fun t => queue t ∧ grows JRN_DROP 0 t ∧ grows JRN_WR 0 t ∧ t.dev.evPending 110 = true ∧ t.dev.evPending 111 = true ∧
        ∃ y, t.dev.jrow d.ovfRow = some y ∧ y.isOpen = true ∧ y.r.kind = 1 ∧ y.r.count = 1 ∧ y.r.time = e.time ∧ y.r.origin = e.origin ∧ y.r.nfull + y.r.nrate = 1 ∧ (y.r.nrate = 1 ↔ ¬ok))) ∧
      (∀ a, hit = none → c = 0 → ¬ok ∨ ¬room → d.jrow d.ovfRow = some a → a.isOpen = true → Runs .journalEntryProcess s (fun t => t.dev.jq = l ∧ grows JRN_DROP 0 t ∧
        ∃ y, t.dev.jrow d.ovfRow = some y ∧ y.dirty = true ∧ y.r.count = min 0xFFFFFF (a.r.count + 1) ∧ y.r.last = e.time ∧ y.r.time = a.r.time)) ∧
      (hit = none → ok → room → d.partRows c ≠ 0 → (d.cache.length < 32 ∨ d.coalOn c = false) →
        let row := if p.taken < d.partRows c then d.partBase c + p.taken else p.freed.headD 0
        Runs .journalEntryProcess s (fun t => queue t ∧ grows JRN_WR c t ∧ t.dev.f JRN_PART_FILL_NEWEST c = row % 32768 ∧ (t.dev.part c).order = p.order ++ [row] ∧
          (∃ y, t.dev.jrow row = some y ∧ y.r = rc ∧ y.isOpen = d.coalOn c ∧ y.pushed = false ∧ y.acked = false) ∧
          (c = 0 → t.dev.evPending 110 = true ∧ (j.push.length < 256 → t.dev.jrn.push = j.push ++ [row])) ∧ (c ≠ 0 → t.dev.jrn.push = j.push ∧ t.dev.jq = l))) ∧
      (∀ old rest, hit = none → ok → ¬room → c ≠ 0 → d.partRows c ≠ 0 → p.order = old :: rest → old ∉ rest → (d.cache.length < 32 ∨ d.coalOn c = false) →
        Runs .journalEntryProcess s (fun t => t.dev.jq = l ∧ grows JRN_OVW c t ∧ grows JRN_WR c t ∧ (t.dev.part c).order = rest ++ [old] ∧
          (∃ y, t.dev.jrow old = some y ∧ y.r = rc ∧ y.isOpen = d.coalOn c) ∧ (∀ c', c' < 3 → c' ≠ c → t.dev.part c' = d.part c')))) ∧
    (j.writing = none → same .journalRowWriteDone) ∧
    (∀ r ws, j.writing = some (r, ws) → Runs .journalRowWriteDone s (fun t => Tab.look t.dev.jrn.rows [] r = ws ∧ (∀ r', r' ≠ r → Tab.look t.dev.jrn.rows [] r' = Tab.look j.rows [] r') ∧
      r ∉ t.dev.jrn.torn ∧
      (j.direct = [] → j.wq = [] → t.dev.jrn.writing = none) ∧ (∀ y l, j.direct = y :: l → t.dev.jrn.writing = some y ∧ t.dev.jrn.direct = l) ∧
      (∀ y l a, j.direct = [] → j.wq = y :: l → d.jrow y = some a → t.dev.jrn.writing = some (y, recWords a.r ((j.seq + 1) % 65536)) ∧ t.dev.jrn.wq = l ∧ t.dev.jrn.seq = (j.seq + 1) % 65536) ∧
      quiet [] t)) ∧
    (∀ row : Nat,
      let a := (d.jrow row).getD { r := { cls := 0, origin := 0, code := 0, data := 0, src := false, time := 0, last := 0 } }
      let due := d.jrow row ≠ none ∧ a.isOpen = true ∧ a.dirty = true ∧ a.lastRw + 20000000000 ≤ d.wall
      let ripe := d.jrow row ≠ none ∧ a.isOpen = true ∧ a.r.kind ≠ 1 ∧ a.opened + d.f JRN_PART_COAL_COALWIN a.r.cls * 2000000000 ≤ d.wall
      let waits := fun (t : State) => row ∈ t.dev.jrn.wq ∨ ∃ ws, t.dev.jrn.writing = some (row, ws)
      (¬due → same (.coalesceRewrite row)) ∧
      (due → row ∈ j.wq → same (.coalesceRewrite row)) ∧
      (due → row ∉ j.wq → Runs (.coalesceRewrite row) s (fun t => waits t ∧ t.dev.jrn.rows = j.rows ∧ quiet [] t)) ∧
      (¬ripe → same (.coalesceWindowClose row)) ∧
      (ripe → a.r.cls ≠ 0 → Runs (.coalesceWindowClose row) s (fun t => (∃ y, t.dev.jrow row = some y ∧ y.isOpen = false ∧ y.r = a.r) ∧ (a.dirty = true → waits t) ∧ t.dev.jrn.push = j.push ∧ quiet [] t)) ∧
      (ripe → a.r.cls = 0 → a.pushed = true → a.pcount < min 0xFFFFFF a.r.count → j.push.length < 256 → row ∉ j.push → Runs (.coalesceWindowClose row) s (fun t =>
        t.dev.jrn.push = j.push ++ [row] ∧ (∃ y, t.dev.jrow row = some y ∧ y.isOpen = false ∧ y.pushed = false ∧ y.acked = false) ∧ quiet [] t)) ∧
      (ripe → a.r.cls = 0 → a.pushed = true → min 0xFFFFFF a.r.count ≤ a.pcount → a.acked = true → d.isReserve row = false → d.ovfOpen = false → Runs (.coalesceWindowClose row) s (fun t =>
        t.dev.jrow row = none ∧ (t.dev.part 0).freed = (d.part 0).freed ++ [row] ∧ quiet [] t)) ∧
      (ripe → a.r.cls = 0 → a.acked = false → a.pushed = false → Runs (.coalesceWindowClose row) s (fun t => (∃ y, t.dev.jrow row = some y ∧ y.isOpen = false ∧ y.r = a.r) ∧ t.dev.jrn.push = j.push ∧ quiet [] t))) ∧
    (let due := d.b JRN_CTL_SUMEN = true ∧ j.sumAt + max 1 (d.f JRN_CTL_SUMPER) * 20000000000 ≤ d.wall ∧ j.fmtAt = none
     let p := d.part 1
     let room := p.freed ≠ [] ∨ p.taken < d.partRows 1
     let row := if room then (if p.taken < d.partRows 1 then d.partBase 1 + p.taken else p.freed.headD 0) else p.order.headD 0
     (¬due → same .summaryRecord) ∧
     (due → j.push.length < 256 → row ∉ j.push → Runs .summaryRecord s (fun t => t.dev.jrn.sumAt = d.wall ∧ t.dev.jrn.sums = [0, 1, 0, 0] ∧ t.dev.jrn.push = j.push ++ [row] ∧ grows JRN_WR 1 t ∧
       (¬room → grows JRN_OVW 1 t) ∧ (∃ y, t.dev.jrow row = some y ∧ y.r.kind = 2 ∧ y.r.cls = 1 ∧ y.r.origin = 0 ∧ y.r.code = 0 ∧ y.isOpen = false ∧
         y.r.data = j.sums.getD 0 0 + j.sums.getD 1 0 * 2 ^ 16 + j.sums.getD 2 0 * 2 ^ 32 + j.sums.getD 3 0 * 2 ^ 48) ∧ quiet [JRN_PART_FILL.addr 1 0, JRN_WR.addr 1 0, JRN_OVW.addr 1 0] t))) ∧
    (d.accepts m JRN_CTL 0 0 ((d.rd JRN_CTL &&& 0xFFFF0002) ||| 1) = true → d.secure m = true →
      let a := d.f JRN_PART_SIZE_SIZE 0
      let e := d.f JRN_PART_SIZE_SIZE 1
      let tr := d.f JRN_PART_SIZE_SIZE 2
      let bad := 32512 < a + e + tr ∨ a < 16 ∨ e < 16
      Runs (.journalFormat m) s (fun t => t.dev.jrn.fmtAt = some d.wall ∧ t.dev.jrn.alloc = [] ∧ t.dev.jrn.push = [] ∧ (∀ c, c < 3 → (t.dev.part c).taken = 0 ∧ (t.dev.part c).order = []) ∧
        (∀ r, r < 256 → Tab.look t.dev.jrn.rows [] r = Tab.look j.rows [] r) ∧ (∀ r, 256 ≤ r → Tab.look t.dev.jrn.rows [] r = []) ∧
        (bad → t.dev.b JRN_STAT_CFGERR = true ∧ (t.dev.part 0).size = 4096 ∧ (t.dev.part 1).size = 12288 ∧ (t.dev.part 2).size = 16128) ∧
        (¬bad → t.dev.b JRN_STAT_CFGERR = d.b JRN_STAT_CFGERR ∧ (t.dev.part 0).size = a ∧ (t.dev.part 1).size = e ∧ (t.dev.part 2).size = tr) ∧
        quiet [JRN_CTL.base, JRN_STAT.base] t ∧ answers t m 0 false)) ∧
    (let due := ∃ u, j.fmtAt = some u ∧ u + 6500000000 ≤ d.wall
     (¬due → same .formatDone) ∧ (due → Runs .formatDone s (fun t => t.dev.jrn.fmtAt = none ∧ t.dev.jrn.rows = j.rows ∧ quiet [] t))) ∧
    (∀ v : Word,
      let r := getBits v 0 15
      (d.accepts m JRN_PUSHACK 0 0 v = true →
        (j.push.head? ≠ some r → Runs (.pushAck m v) s (fun t => Quiet [] d t.dev ∧ answers t m 0 false)) ∧
        (∀ rest a, j.push = r :: rest → d.jrow r = some a → Runs (.pushAck m v) s (fun t => t.dev.jrn.push = rest ∧
          (∃ y, t.dev.jrow r = some y ∧ y.pushed = true ∧ y.r = a.r ∧ y.isOpen = a.isOpen ∧ (Tab.look j.rows [] r = [] ∨ y.pcount = getBits ((Tab.look j.rows [] r).getD 3 0) 0 24)) ∧
          quiet [] t ∧ answers t m 0 false))) ∧
      (m ≠ .sv0 → m ≠ .sv1 → Runs (.alarmAck m v) s (fun t => Quiet [] d t.dev ∧ answers t m 0 true)) ∧
      (d.accepts m JRN_ALMACK 0 0 v = true →
        (r ∉ (d.part 0).order → d.ovfOpen = false ∨ r ≠ d.ovfRow → Runs (.alarmAck m v) s (fun t => Quiet [] d t.dev ∧ answers t m 0 false)) ∧
        (∀ rest a, (d.part 0).order = r :: rest → d.jrow r = some a →
          (a.pushed = false → Runs (.alarmAck m v) s (fun t => Quiet [] d t.dev ∧ answers t m 0 false)) ∧
          (a.pushed = true → a.isOpen = true → Runs (.alarmAck m v) s (fun t => t.dev.jrow r = some { a with acked := true } ∧ (t.dev.part 0) = d.part 0 ∧ quiet [] t ∧ answers t m 0 false)) ∧
          (a.pushed = true → a.isOpen = false → min 0xFFFFFF a.r.count ≤ a.pcount → d.isReserve r = false → d.ovfOpen = false → r ∉ rest → Runs (.alarmAck m v) s (fun t =>
            t.dev.jrow r = none ∧ (t.dev.part 0).order = rest ∧ (t.dev.part 0).freed = (d.part 0).freed ++ [r] ∧ quiet [] t ∧ answers t m 0 false)))))) ∧
  (∀ (s : State) (m : Master), s.dev.blow = [] →
    let d := s.dev
    let j := d.jrn
    let quiet := fun (S : List Nat) (t : State) => Quiet S { d with jrn := t.dev.jrn } t.dev
    let words := fun (num : Nat) (v : Word) => (List.range 8).map (fun k => if k = 7 then v else Tab.look j.banks 0 (8 * num + k))
    let banked := fun (num : Nat) (v : Word) (t : State) => Tab.look t.dev.jrn.banks 0 (8 * num + 7) = v ∧ ∀ k, k ≠ 8 * num + 7 → Tab.look t.dev.jrn.banks 0 k = Tab.look j.banks 0 k
    let direct := fun (r : Nat) (ws : List Word) (t : State) =>
      (j.writing ≠ none → t.dev.jrn.direct = j.direct ++ [(r, ws)] ∧ t.dev.jrn.writing = j.writing) ∧
      (j.writing = none → j.direct = [] → t.dev.jrn.writing = some (r, ws) ∧ t.dev.jrn.direct = [])
    let barred := fun (r : Nat) => m = .stn ∨ (r < 256 ∧ m ≠ .sv0)
    (∀ (row : BitVec 15) (v : Word),
      let r := row.toNat
      let ws := words m.num v
      let cls := getBits (ws.getD 2 0) 0 2
      (barred r → Runs (.journalWindowSubmit m row v) s (fun t => Quiet [] d t.dev ∧ answers t m 0 true)) ∧
      (¬barred r → 256 ≤ r → cls = 3 → Runs (.journalWindowSubmit m row v) s (fun t => banked m.num v t ∧ t.dev.jq = d.jq ∧ quiet [] t ∧ answers t m 0 true)) ∧
      (¬barred r → 256 ≤ r → cls ≠ 3 → d.jq.length < 256 → Runs (.journalWindowSubmit m row v) s (fun t => banked m.num v t ∧ answers t m 0 false ∧
        t.dev.jq = d.jq ++ [{ origin := 256 + m.num, time := d.jtime, cls := cls, row := some ws }] ∧ Quiet [EVT_QSTAT.base] { d with jrn := t.dev.jrn, jq := t.dev.jq } t.dev)) ∧
      (¬barred r → r < 256 → Runs (.journalWindowSubmit m row v) s (fun t => banked m.num v t ∧ direct r ws t ∧ quiet [] t ∧ answers t m 0 false))) ∧
    (∀ (row : BitVec 8) (v : Word), Runs (.protectedRowWrite row v) s (fun t => banked 1 v t ∧ direct row.toNat (words 1 v) t ∧ quiet [] t ∧ answers t .sv0 0 false)) ∧
    (∀ (row : BitVec 15) (i : Fin 8),
      let r := row.toNat
      let ws := Tab.look j.rows [] r
      let reading := ∃ x, j.writing = some (r, x)
      (barred r → Runs (.journalWindowRead m row i) s (fun t => Quiet [] d t.dev ∧ answers t m 0 true)) ∧
      (¬barred r → reading → Runs (.journalWindowRead m row i) s (fun t => t.dev = { d with resp := [], waiting := d.waiting ++ [⟨⟨m, BitVec.ofNat 32 (0x60000000 + 32 * r + 4 * i), .b4, none⟩, 0⟩] })) ∧
      (¬barred r → ¬reading → rowGood ws = true → Runs (.journalWindowRead m row i) s (fun t => answers t m (ws.getD i 0).toNat false ∧ Quiet [] d t.dev)) ∧
      (¬barred r → ¬reading → j.rows.all (fun e => e.1 != r) = true ∨ (rowGood ws = false ∧ r ∈ j.torn) → Runs (.journalWindowRead m row i) s (fun t => answers t m 0 false ∧ Quiet [] d t.dev)) ∧
      (¬barred r → ¬reading → j.rows.all (fun e => e.1 != r) = false → rowGood ws = false → r ∉ j.torn → (d.rd JRN_TORN).toNat < 0xFFFFFFFF → Runs (.journalWindowRead m row i) s (fun t =>
        answers t m 0 false ∧ t.dev.rd JRN_TORN = d.rd JRN_TORN + 1 ∧ t.dev.jrn = { j with torn := r :: j.torn } ∧ quiet [JRN_TORN.base] t))))

end
end

