-- ==== Sys2Proof/Laws/Tab.lean ====
section
/-!
SUPPORT. Reading a sparse table after a write, and the canonical form that every write keeps.
-/

namespace Sys2Proof.Machine

variable {α : Type}

/-- A key that is not listed reads as the default. -/
theorem Tab.look_drop (t : Tab α) (d : α) (k : Nat) : Tab.look (Tab.drop t k) d k = d := by
  induction t with
  | nil => rfl
  | cons e t ih =>
    by_cases h : e.1 = k
    · simpa [Tab.drop, h] using ih
    · simpa [Tab.drop, h, Tab.look] using ih

/-- Dropping a key leaves the others. -/
theorem Tab.look_drop_ne (t : Tab α) (d : α) (k k' : Nat) (h : k' ≠ k) : Tab.look (Tab.drop t k) d k' = Tab.look t d k' := by
  induction t with
  | nil => rfl
  | cons e t ih =>
    by_cases hk : e.1 = k
    · have h' : ¬e.1 = k' := fun e' => h (e'.symm.trans hk)
      simpa [Tab.drop, hk, Tab.look, h', h.symm] using ih
    · by_cases hk' : e.1 = k'
      · simp [Tab.drop, Tab.look, hk', h]
      · simpa [Tab.drop, hk, Tab.look, hk'] using ih

/-- An inserted key reads as inserted where it was not listed before. -/
theorem Tab.look_ins (t : Tab α) (d : α) (k : Nat) (v : α) (h : ∀ e ∈ t, e.1 ≠ k) : Tab.look (Tab.ins t k v) d k = v := by
  induction t with
  | nil => simp [Tab.ins, Tab.look]
  | cons e t ih =>
    by_cases hk : k < e.1
    · simp [Tab.ins, hk, Tab.look]
    · simpa [Tab.ins, hk, Tab.look, h e (by simp)] using ih (fun x hx => h x (by simp [hx]))

/-- Inserting a key leaves the others. -/
theorem Tab.look_ins_ne (t : Tab α) (d : α) (k k' : Nat) (v : α) (h : k' ≠ k) :
    Tab.look (Tab.ins t k v) d k' = Tab.look t d k' := by
  induction t with
  | nil => simp [Tab.ins, Tab.look, h.symm]
  | cons e t ih =>
    by_cases hk : k < e.1
    · simp [Tab.ins, hk, Tab.look, h.symm]
    · simp [Tab.ins, hk, Tab.look, ih]

/-- A key reads as written. -/
theorem Tab.look_set (t : Tab α) (d : α) (k : Nat) (v : α) : Tab.look (Tab.set t k v) d k = v :=
  Tab.look_ins _ _ _ _ (fun e he => by simpa using (List.mem_filter.mp he).2)

/-- A write leaves the other keys. -/
theorem Tab.look_set_ne (t : Tab α) (d : α) (k k' : Nat) (v : α) (h : k' ≠ k) :
    Tab.look (Tab.set t k v) d k' = Tab.look t d k' :=
  (Tab.look_ins_ne _ _ _ _ _ h).trans (Tab.look_drop_ne _ _ _ _ h)

variable [DecidableEq α]

/-- A key reads as written, in a table kept canonical. -/
theorem Tab.look_put (t : Tab α) (d : α) (k : Nat) (v : α) : Tab.look (Tab.put t d k v) d k = v := by
  by_cases h : v = d
  · simp [Tab.put, h, Tab.look_drop]
  · simp [Tab.put, h, Tab.look_set]

/-- A write leaves the other keys, whatever their default. -/
theorem Tab.look_put_ne (t : Tab α) (d d' : α) (k k' : Nat) (v : α) (h : k' ≠ k) :
    Tab.look (Tab.put t d k v) d' k' = Tab.look t d' k' := by
  by_cases hv : v = d
  · simp [Tab.put, hv, Tab.look_drop_ne _ _ _ _ h]
  · simp [Tab.put, hv, Tab.look_set_ne _ _ _ _ _ h]

/-! ### The canonical form -/

omit [DecidableEq α] in
/-- Keys rise strictly exactly when they are sorted. -/
theorem Tab.rising_iff (t : Tab α) : Tab.rising t = true ↔ t.Pairwise (fun x y => x.1 < y.1) := by
  induction t with
  | nil => simp [Tab.rising]
  | cons e t ih =>
    cases t with
    | nil => simp [Tab.rising]
    | cons e' t =>
      simp only [Tab.rising, Bool.and_eq_true, decide_eq_true_eq, ih, List.pairwise_cons]
      constructor
      · rintro ⟨h1, h2, h3⟩
        refine ⟨fun x hx => ?_, h2, h3⟩
        rcases List.mem_cons.mp hx with rfl | hx
        · exact h1
        · exact Nat.lt_trans h1 (h2 x hx)
      · rintro ⟨h1, h2, h3⟩
        exact ⟨h1 e' (by simp), h2, h3⟩

omit [DecidableEq α] in
/-- What is listed after an insertion. -/
theorem Tab.mem_ins (t : Tab α) (k : Nat) (v : α) (e : Nat × α) : e ∈ Tab.ins t k v ↔ e = (k, v) ∨ e ∈ t := by
  induction t with
  | nil => simp [Tab.ins]
  | cons x t ih =>
    by_cases h : k < x.1
    · simp [Tab.ins, h]
    · simp only [Tab.ins, h, if_false, List.mem_cons, ih]
      constructor
      · rintro (h | h | h) <;> simp [h]
      · rintro (h | h | h) <;> simp [h]

omit [DecidableEq α] in
/-- An insertion keeps the keys sorted. -/
theorem Tab.ins_sorted (t : Tab α) (k : Nat) (v : α) (h : t.Pairwise (fun x y => x.1 < y.1)) (hk : ∀ e ∈ t, e.1 ≠ k) :
    (Tab.ins t k v).Pairwise (fun x y => x.1 < y.1) := by
  induction t with
  | nil => simp [Tab.ins]
  | cons x t ih =>
    have hx := List.pairwise_cons.mp h
    by_cases hl : k < x.1
    · simp only [Tab.ins, hl, if_true, List.pairwise_cons]
      refine ⟨fun y hy => ?_, hx.1, hx.2⟩
      rcases List.mem_cons.mp hy with rfl | hy
      · exact hl
      · exact Nat.lt_trans hl (hx.1 y hy)
    · simp only [Tab.ins, hl, if_false, List.pairwise_cons]
      refine ⟨fun y hy => ?_, ih hx.2 (fun e he => hk e (by simp [he]))⟩
      rcases (Tab.mem_ins t k v y).mp hy with rfl | hy
      · have := hk x (by simp)
        show x.1 < k
        omega
      · exact hx.1 y hy

/-- A write keeps the canonical form. -/
theorem Tab.canon_put (f : Nat → α) (t : Tab α) (k : Nat) (v : α) (h : Tab.canon f t = true) :
    Tab.canon f (Tab.put t (f k) k v) = true := by
  simp only [Tab.canon, Bool.and_eq_true, Tab.rising_iff, List.all_eq_true, Bool.not_eq_true', decide_eq_false_iff_not] at h ⊢
  have hd : (Tab.drop t k).Pairwise (fun x y => x.1 < y.1) := h.1.filter _
  have ha : ∀ e ∈ Tab.drop t k, ¬e.2 = f e.1 := fun e he => h.2 e (List.mem_filter.mp he).1
  by_cases hv : v = f k
  · simpa [Tab.put, hv] using ⟨hd, fun a b hm => ha (a, b) hm⟩
  · simp only [Tab.put, hv, if_false, Tab.set]
    refine ⟨Tab.ins_sorted _ _ _ hd (fun e he => by simpa using (List.mem_filter.mp he).2), fun e he => ?_⟩
    rcases (Tab.mem_ins _ _ _ _).mp he with rfl | he
    · exact hv
    · exact ha e he

/-- Leaving entries out keeps the canonical form. -/
theorem Tab.canon_filter (f : Nat → α) (t : Tab α) (p : Nat × α → Bool) (h : Tab.canon f t = true) :
    Tab.canon f (t.filter p) = true := by
  simp only [Tab.canon, Bool.and_eq_true, Tab.rising_iff, List.all_eq_true] at h ⊢
  exact ⟨h.1.filter _, fun e he => h.2 e (List.mem_filter.mp he).1⟩

omit [DecidableEq α] in
/-- Dropping a key twice. -/
theorem Tab.drop_drop (t : Tab α) (k : Nat) : Tab.drop (Tab.drop t k) k = Tab.drop t k := by
  unfold Tab.drop
  rw [List.filter_filter]
  congr 1
  funext e
  exact Bool.and_self _

omit [DecidableEq α] in
theorem Tab.drop_ins (t : Tab α) (k : Nat) (v : α) : Tab.drop (Tab.ins t k v) k = Tab.drop t k := by
  induction t with
  | nil => unfold Tab.drop; simp [Tab.ins]
  | cons e t ih =>
    unfold Tab.ins
    split
    · simp [Tab.drop]
    · unfold Tab.drop at ih ⊢
      rw [List.filter_cons, List.filter_cons, ih]

/-- The last write of a key counts. -/
theorem Tab.put_put (t : Tab α) (d : α) (k : Nat) (v w : α) : Tab.put (Tab.put t d k v) d k w = Tab.put t d k w := by
  have h : Tab.drop (Tab.put t d k v) k = Tab.drop t k := by
    unfold Tab.put
    split
    · exact Tab.drop_drop _ _
    · exact (Tab.drop_ins _ _ _).trans (Tab.drop_drop _ _)
  rw [Tab.put.eq_1 (Tab.put t d k v), Tab.put.eq_1 t d k w]
  unfold Tab.set
  rw [h]

end Sys2Proof.Machine
end

