-- ==== Sys2Proof/Laws/State.lean ====
section
/-!
SUPPORT. What the plainest updates of the state leave as it was, field by field, and what they set.
-/

namespace Sys2Proof.Machine

/-! ### Dev.wr -/

@[simp] theorem Dev.wr_wall (d : Dev) (r : Reg) (v : Word) (i j : Nat) : (d.wr r v i j).wall = d.wall := (rfl)
@[simp] theorem Dev.wr_stg (d : Dev) (r : Reg) (v : Word) (i j : Nat) : (d.wr r v i j).stg = d.stg := (rfl)
@[simp] theorem Dev.wr_hist (d : Dev) (r : Reg) (v : Word) (i j : Nat) : (d.wr r v i j).hist = d.hist := (rfl)
@[simp] theorem Dev.wr_cmt (d : Dev) (r : Reg) (v : Word) (i j : Nat) : (d.wr r v i j).cmt = d.cmt := (rfl)
@[simp] theorem Dev.wr_tbank (d : Dev) (r : Reg) (v : Word) (i j : Nat) : (d.wr r v i j).tbank = d.tbank := (rfl)
@[simp] theorem Dev.wr_mem (d : Dev) (r : Reg) (v : Word) (i j : Nat) : (d.wr r v i j).mem = d.mem := (rfl)
@[simp] theorem Dev.wr_free (d : Dev) (r : Reg) (v : Word) (i j : Nat) : (d.wr r v i j).free = d.free := (rfl)
@[simp] theorem Dev.wr_resp (d : Dev) (r : Reg) (v : Word) (i j : Nat) : (d.wr r v i j).resp = d.resp := (rfl)
@[simp] theorem Dev.wr_msix (d : Dev) (r : Reg) (v : Word) (i j : Nat) : (d.wr r v i j).msix = d.msix := (rfl)
@[simp] theorem Dev.wr_jq (d : Dev) (r : Reg) (v : Word) (i j : Nat) : (d.wr r v i j).jq = d.jq := (rfl)
@[simp] theorem Dev.wr_jrn (d : Dev) (r : Reg) (v : Word) (i j : Nat) : (d.wr r v i j).jrn = d.jrn := (rfl)
@[simp] theorem Dev.wr_boot (d : Dev) (r : Reg) (v : Word) (i j : Nat) : (d.wr r v i j).boot = d.boot := (rfl)
@[simp] theorem Dev.wr_blow (d : Dev) (r : Reg) (v : Word) (i j : Nat) : (d.wr r v i j).blow = d.blow := (rfl)
@[simp] theorem Dev.wr_mbx (d : Dev) (r : Reg) (v : Word) (i j : Nat) : (d.wr r v i j).mbx = d.mbx := (rfl)
@[simp] theorem Dev.wr_postings (d : Dev) (r : Reg) (v : Word) (i j : Nat) : (d.wr r v i j).postings = d.postings := (rfl)
@[simp] theorem Dev.wr_mbxLast (d : Dev) (r : Reg) (v : Word) (i j : Nat) : (d.wr r v i j).mbxLast = d.mbxLast := (rfl)
@[simp] theorem Dev.wr_power (d : Dev) (r : Reg) (v : Word) (i j : Nat) : (d.wr r v i j).power = d.power := (rfl)
@[simp] theorem Dev.wr_ownPend (d : Dev) (r : Reg) (v : Word) (i j : Nat) : (d.wr r v i j).ownPend = d.ownPend := (rfl)
@[simp] theorem Dev.wr_waiting (d : Dev) (r : Reg) (v : Word) (i j : Nat) : (d.wr r v i j).waiting = d.waiting := (rfl)
@[simp] theorem Dev.wr_badPar (d : Dev) (r : Reg) (v : Word) (i j : Nat) : (d.wr r v i j).badPar = d.badPar := (rfl)
@[simp] theorem Dev.wr_poison (d : Dev) (r : Reg) (v : Word) (i j : Nat) : (d.wr r v i j).poison = d.poison := (rfl)
@[simp] theorem Dev.wr_hashed (d : Dev) (r : Reg) (v : Word) (i j : Nat) : (d.wr r v i j).hashed = d.hashed := (rfl)
@[simp] theorem Dev.wr_unhashed (d : Dev) (r : Reg) (v : Word) (i j : Nat) : (d.wr r v i j).unhashed = d.unhashed := (rfl)
@[simp] theorem Dev.wr_failed (d : Dev) (r : Reg) (v : Word) (i j : Nat) : (d.wr r v i j).failed = d.failed := (rfl)
@[simp] theorem Dev.wr_reloads (d : Dev) (r : Reg) (v : Word) (i j : Nat) : (d.wr r v i j).reloads = d.reloads := (rfl)
@[simp] theorem Dev.wr_dma (d : Dev) (r : Reg) (v : Word) (i j : Nat) : (d.wr r v i j).dma = d.dma := (rfl)
@[simp] theorem Dev.wr_dmaLast (d : Dev) (r : Reg) (v : Word) (i j : Nat) : (d.wr r v i j).dmaLast = d.dmaLast := (rfl)
@[simp] theorem Dev.wr_pcieOut (d : Dev) (r : Reg) (v : Word) (i j : Nat) : (d.wr r v i j).pcieOut = d.pcieOut := (rfl)
@[simp] theorem Dev.wr_eng (d : Dev) (r : Reg) (v : Word) (i j : Nat) : (d.wr r v i j).eng = d.eng := (rfl)
@[simp] theorem Dev.wr_sv0 (d : Dev) (r : Reg) (v : Word) (i j : Nat) : (d.wr r v i j).sv0 = d.sv0 := (rfl)
@[simp] theorem Dev.wr_sv1 (d : Dev) (r : Reg) (v : Word) (i j : Nat) : (d.wr r v i j).sv1 = d.sv1 := (rfl)
@[simp] theorem Dev.wr_groups (d : Dev) (r : Reg) (v : Word) (i j : Nat) : (d.wr r v i j).groups = d.groups := (rfl)
@[simp] theorem Dev.wr_tb (d : Dev) (r : Reg) (v : Word) (i j : Nat) : (d.wr r v i j).tb = d.tb := (rfl)
@[simp] theorem Dev.wr_tm (d : Dev) (r : Reg) (v : Word) (i j : Nat) : (d.wr r v i j).tm = d.tm := (rfl)
@[simp] theorem Dev.wr_frames (d : Dev) (r : Reg) (v : Word) (i j : Nat) : (d.wr r v i j).frames = d.frames := (rfl)
@[simp] theorem Dev.wr_nextFr (d : Dev) (r : Reg) (v : Word) (i j : Nat) : (d.wr r v i j).nextFr = d.nextFr := (rfl)
@[simp] theorem Dev.wr_eth (d : Dev) (r : Reg) (v : Word) (i j : Nat) : (d.wr r v i j).eth = d.eth := (rfl)
@[simp] theorem Dev.wr_mdio (d : Dev) (r : Reg) (v : Word) (i j : Nat) : (d.wr r v i j).mdio = d.mdio := (rfl)
@[simp] theorem Dev.wr_swc (d : Dev) (r : Reg) (v : Word) (i j : Nat) : (d.wr r v i j).swc = d.swc := (rfl)
@[simp] theorem Dev.wr_rings (d : Dev) (r : Reg) (v : Word) (i j : Nat) : (d.wr r v i j).rings = d.rings := (rfl)
@[simp] theorem Dev.wr_mb (d : Dev) (r : Reg) (v : Word) (i j : Nat) : (d.wr r v i j).mb = d.mb := (rfl)
@[simp] theorem Dev.wr_sl (d : Dev) (r : Reg) (v : Word) (i j : Nat) : (d.wr r v i j).sl = d.sl := (rfl)
@[simp] theorem Dev.wr_pio (d : Dev) (r : Reg) (v : Word) (i j : Nat) : (d.wr r v i j).pio = d.pio := (rfl)
@[simp] theorem Dev.wr_stn (d : Dev) (r : Reg) (v : Word) (i j : Nat) : (d.wr r v i j).stn = d.stn := (rfl)
@[simp] theorem Dev.wr_wakes (d : Dev) (r : Reg) (v : Word) (i j : Nat) : (d.wr r v i j).wakes = d.wakes := (rfl)
@[simp] theorem Dev.wr_powerTo (d : Dev) (r : Reg) (v : Word) (i j : Nat) : (d.wr r v i j).powerTo = d.powerTo := (rfl)
@[simp] theorem Dev.wr_pw (d : Dev) (r : Reg) (v : Word) (i j : Nat) : (d.wr r v i j).pw = d.pw := (rfl)
@[simp] theorem Dev.wr_age (d : Dev) (r : Reg) (v : Word) (i j : Nat) : (d.wr r v i j).age = d.age := (rfl)

/-! ### Dev.setByte -/

@[simp] theorem Dev.setByte_wall (d : Dev) (a : Nat) (v : Byte) : (d.setByte a v).wall = d.wall := (rfl)
@[simp] theorem Dev.setByte_regs (d : Dev) (a : Nat) (v : Byte) : (d.setByte a v).regs = d.regs := (rfl)
@[simp] theorem Dev.setByte_stg (d : Dev) (a : Nat) (v : Byte) : (d.setByte a v).stg = d.stg := (rfl)
@[simp] theorem Dev.setByte_hist (d : Dev) (a : Nat) (v : Byte) : (d.setByte a v).hist = d.hist := (rfl)
@[simp] theorem Dev.setByte_cmt (d : Dev) (a : Nat) (v : Byte) : (d.setByte a v).cmt = d.cmt := (rfl)
@[simp] theorem Dev.setByte_tbank (d : Dev) (a : Nat) (v : Byte) : (d.setByte a v).tbank = d.tbank := (rfl)
@[simp] theorem Dev.setByte_free (d : Dev) (a : Nat) (v : Byte) : (d.setByte a v).free = d.free := (rfl)
@[simp] theorem Dev.setByte_resp (d : Dev) (a : Nat) (v : Byte) : (d.setByte a v).resp = d.resp := (rfl)
@[simp] theorem Dev.setByte_msix (d : Dev) (a : Nat) (v : Byte) : (d.setByte a v).msix = d.msix := (rfl)
@[simp] theorem Dev.setByte_jq (d : Dev) (a : Nat) (v : Byte) : (d.setByte a v).jq = d.jq := (rfl)
@[simp] theorem Dev.setByte_jrn (d : Dev) (a : Nat) (v : Byte) : (d.setByte a v).jrn = d.jrn := (rfl)
@[simp] theorem Dev.setByte_boot (d : Dev) (a : Nat) (v : Byte) : (d.setByte a v).boot = d.boot := (rfl)
@[simp] theorem Dev.setByte_blow (d : Dev) (a : Nat) (v : Byte) : (d.setByte a v).blow = d.blow := (rfl)
@[simp] theorem Dev.setByte_mbx (d : Dev) (a : Nat) (v : Byte) : (d.setByte a v).mbx = d.mbx := (rfl)
@[simp] theorem Dev.setByte_postings (d : Dev) (a : Nat) (v : Byte) : (d.setByte a v).postings = d.postings := (rfl)
@[simp] theorem Dev.setByte_mbxLast (d : Dev) (a : Nat) (v : Byte) : (d.setByte a v).mbxLast = d.mbxLast := (rfl)
@[simp] theorem Dev.setByte_power (d : Dev) (a : Nat) (v : Byte) : (d.setByte a v).power = d.power := (rfl)
@[simp] theorem Dev.setByte_ownPend (d : Dev) (a : Nat) (v : Byte) : (d.setByte a v).ownPend = d.ownPend := (rfl)
@[simp] theorem Dev.setByte_waiting (d : Dev) (a : Nat) (v : Byte) : (d.setByte a v).waiting = d.waiting := (rfl)
@[simp] theorem Dev.setByte_badPar (d : Dev) (a : Nat) (v : Byte) : (d.setByte a v).badPar = d.badPar := (rfl)
@[simp] theorem Dev.setByte_poison (d : Dev) (a : Nat) (v : Byte) : (d.setByte a v).poison = d.poison := (rfl)
@[simp] theorem Dev.setByte_hashed (d : Dev) (a : Nat) (v : Byte) : (d.setByte a v).hashed = d.hashed := (rfl)
@[simp] theorem Dev.setByte_unhashed (d : Dev) (a : Nat) (v : Byte) : (d.setByte a v).unhashed = d.unhashed := (rfl)
@[simp] theorem Dev.setByte_failed (d : Dev) (a : Nat) (v : Byte) : (d.setByte a v).failed = d.failed := (rfl)
@[simp] theorem Dev.setByte_reloads (d : Dev) (a : Nat) (v : Byte) : (d.setByte a v).reloads = d.reloads := (rfl)
@[simp] theorem Dev.setByte_dma (d : Dev) (a : Nat) (v : Byte) : (d.setByte a v).dma = d.dma := (rfl)
@[simp] theorem Dev.setByte_dmaLast (d : Dev) (a : Nat) (v : Byte) : (d.setByte a v).dmaLast = d.dmaLast := (rfl)
@[simp] theorem Dev.setByte_pcieOut (d : Dev) (a : Nat) (v : Byte) : (d.setByte a v).pcieOut = d.pcieOut := (rfl)
@[simp] theorem Dev.setByte_eng (d : Dev) (a : Nat) (v : Byte) : (d.setByte a v).eng = d.eng := (rfl)
@[simp] theorem Dev.setByte_sv0 (d : Dev) (a : Nat) (v : Byte) : (d.setByte a v).sv0 = d.sv0 := (rfl)
@[simp] theorem Dev.setByte_sv1 (d : Dev) (a : Nat) (v : Byte) : (d.setByte a v).sv1 = d.sv1 := (rfl)
@[simp] theorem Dev.setByte_groups (d : Dev) (a : Nat) (v : Byte) : (d.setByte a v).groups = d.groups := (rfl)
@[simp] theorem Dev.setByte_tb (d : Dev) (a : Nat) (v : Byte) : (d.setByte a v).tb = d.tb := (rfl)
@[simp] theorem Dev.setByte_tm (d : Dev) (a : Nat) (v : Byte) : (d.setByte a v).tm = d.tm := (rfl)
@[simp] theorem Dev.setByte_frames (d : Dev) (a : Nat) (v : Byte) : (d.setByte a v).frames = d.frames := (rfl)
@[simp] theorem Dev.setByte_nextFr (d : Dev) (a : Nat) (v : Byte) : (d.setByte a v).nextFr = d.nextFr := (rfl)
@[simp] theorem Dev.setByte_eth (d : Dev) (a : Nat) (v : Byte) : (d.setByte a v).eth = d.eth := (rfl)
@[simp] theorem Dev.setByte_mdio (d : Dev) (a : Nat) (v : Byte) : (d.setByte a v).mdio = d.mdio := (rfl)
@[simp] theorem Dev.setByte_swc (d : Dev) (a : Nat) (v : Byte) : (d.setByte a v).swc = d.swc := (rfl)
@[simp] theorem Dev.setByte_rings (d : Dev) (a : Nat) (v : Byte) : (d.setByte a v).rings = d.rings := (rfl)
@[simp] theorem Dev.setByte_mb (d : Dev) (a : Nat) (v : Byte) : (d.setByte a v).mb = d.mb := (rfl)
@[simp] theorem Dev.setByte_sl (d : Dev) (a : Nat) (v : Byte) : (d.setByte a v).sl = d.sl := (rfl)
@[simp] theorem Dev.setByte_pio (d : Dev) (a : Nat) (v : Byte) : (d.setByte a v).pio = d.pio := (rfl)
@[simp] theorem Dev.setByte_stn (d : Dev) (a : Nat) (v : Byte) : (d.setByte a v).stn = d.stn := (rfl)
@[simp] theorem Dev.setByte_wakes (d : Dev) (a : Nat) (v : Byte) : (d.setByte a v).wakes = d.wakes := (rfl)
@[simp] theorem Dev.setByte_powerTo (d : Dev) (a : Nat) (v : Byte) : (d.setByte a v).powerTo = d.powerTo := (rfl)
@[simp] theorem Dev.setByte_pw (d : Dev) (a : Nat) (v : Byte) : (d.setByte a v).pw = d.pw := (rfl)
@[simp] theorem Dev.setByte_age (d : Dev) (a : Nat) (v : Byte) : (d.setByte a v).age = d.age := (rfl)

/-! ### Dev.setE -/

@[simp] theorem Dev.setE_wall (d : Dev) (n : Nat) (e : Eng) : (d.setE n e).wall = d.wall := (rfl)
@[simp] theorem Dev.setE_regs (d : Dev) (n : Nat) (e : Eng) : (d.setE n e).regs = d.regs := (rfl)
@[simp] theorem Dev.setE_stg (d : Dev) (n : Nat) (e : Eng) : (d.setE n e).stg = d.stg := (rfl)
@[simp] theorem Dev.setE_hist (d : Dev) (n : Nat) (e : Eng) : (d.setE n e).hist = d.hist := (rfl)
@[simp] theorem Dev.setE_cmt (d : Dev) (n : Nat) (e : Eng) : (d.setE n e).cmt = d.cmt := (rfl)
@[simp] theorem Dev.setE_tbank (d : Dev) (n : Nat) (e : Eng) : (d.setE n e).tbank = d.tbank := (rfl)
@[simp] theorem Dev.setE_mem (d : Dev) (n : Nat) (e : Eng) : (d.setE n e).mem = d.mem := (rfl)
@[simp] theorem Dev.setE_free (d : Dev) (n : Nat) (e : Eng) : (d.setE n e).free = d.free := (rfl)
@[simp] theorem Dev.setE_resp (d : Dev) (n : Nat) (e : Eng) : (d.setE n e).resp = d.resp := (rfl)
@[simp] theorem Dev.setE_msix (d : Dev) (n : Nat) (e : Eng) : (d.setE n e).msix = d.msix := (rfl)
@[simp] theorem Dev.setE_jq (d : Dev) (n : Nat) (e : Eng) : (d.setE n e).jq = d.jq := (rfl)
@[simp] theorem Dev.setE_jrn (d : Dev) (n : Nat) (e : Eng) : (d.setE n e).jrn = d.jrn := (rfl)
@[simp] theorem Dev.setE_boot (d : Dev) (n : Nat) (e : Eng) : (d.setE n e).boot = d.boot := (rfl)
@[simp] theorem Dev.setE_blow (d : Dev) (n : Nat) (e : Eng) : (d.setE n e).blow = d.blow := (rfl)
@[simp] theorem Dev.setE_mbx (d : Dev) (n : Nat) (e : Eng) : (d.setE n e).mbx = d.mbx := (rfl)
@[simp] theorem Dev.setE_postings (d : Dev) (n : Nat) (e : Eng) : (d.setE n e).postings = d.postings := (rfl)
@[simp] theorem Dev.setE_mbxLast (d : Dev) (n : Nat) (e : Eng) : (d.setE n e).mbxLast = d.mbxLast := (rfl)
@[simp] theorem Dev.setE_power (d : Dev) (n : Nat) (e : Eng) : (d.setE n e).power = d.power := (rfl)
@[simp] theorem Dev.setE_ownPend (d : Dev) (n : Nat) (e : Eng) : (d.setE n e).ownPend = d.ownPend := (rfl)
@[simp] theorem Dev.setE_waiting (d : Dev) (n : Nat) (e : Eng) : (d.setE n e).waiting = d.waiting := (rfl)
@[simp] theorem Dev.setE_badPar (d : Dev) (n : Nat) (e : Eng) : (d.setE n e).badPar = d.badPar := (rfl)
@[simp] theorem Dev.setE_poison (d : Dev) (n : Nat) (e : Eng) : (d.setE n e).poison = d.poison := (rfl)
@[simp] theorem Dev.setE_hashed (d : Dev) (n : Nat) (e : Eng) : (d.setE n e).hashed = d.hashed := (rfl)
@[simp] theorem Dev.setE_unhashed (d : Dev) (n : Nat) (e : Eng) : (d.setE n e).unhashed = d.unhashed := (rfl)
@[simp] theorem Dev.setE_failed (d : Dev) (n : Nat) (e : Eng) : (d.setE n e).failed = d.failed := (rfl)
@[simp] theorem Dev.setE_reloads (d : Dev) (n : Nat) (e : Eng) : (d.setE n e).reloads = d.reloads := (rfl)
@[simp] theorem Dev.setE_dma (d : Dev) (n : Nat) (e : Eng) : (d.setE n e).dma = d.dma := (rfl)
@[simp] theorem Dev.setE_dmaLast (d : Dev) (n : Nat) (e : Eng) : (d.setE n e).dmaLast = d.dmaLast := (rfl)
@[simp] theorem Dev.setE_pcieOut (d : Dev) (n : Nat) (e : Eng) : (d.setE n e).pcieOut = d.pcieOut := (rfl)
@[simp] theorem Dev.setE_sv0 (d : Dev) (n : Nat) (e : Eng) : (d.setE n e).sv0 = d.sv0 := (rfl)
@[simp] theorem Dev.setE_sv1 (d : Dev) (n : Nat) (e : Eng) : (d.setE n e).sv1 = d.sv1 := (rfl)
@[simp] theorem Dev.setE_groups (d : Dev) (n : Nat) (e : Eng) : (d.setE n e).groups = d.groups := (rfl)
@[simp] theorem Dev.setE_tb (d : Dev) (n : Nat) (e : Eng) : (d.setE n e).tb = d.tb := (rfl)
@[simp] theorem Dev.setE_tm (d : Dev) (n : Nat) (e : Eng) : (d.setE n e).tm = d.tm := (rfl)
@[simp] theorem Dev.setE_frames (d : Dev) (n : Nat) (e : Eng) : (d.setE n e).frames = d.frames := (rfl)
@[simp] theorem Dev.setE_nextFr (d : Dev) (n : Nat) (e : Eng) : (d.setE n e).nextFr = d.nextFr := (rfl)
@[simp] theorem Dev.setE_eth (d : Dev) (n : Nat) (e : Eng) : (d.setE n e).eth = d.eth := (rfl)
@[simp] theorem Dev.setE_mdio (d : Dev) (n : Nat) (e : Eng) : (d.setE n e).mdio = d.mdio := (rfl)
@[simp] theorem Dev.setE_swc (d : Dev) (n : Nat) (e : Eng) : (d.setE n e).swc = d.swc := (rfl)
@[simp] theorem Dev.setE_rings (d : Dev) (n : Nat) (e : Eng) : (d.setE n e).rings = d.rings := (rfl)
@[simp] theorem Dev.setE_mb (d : Dev) (n : Nat) (e : Eng) : (d.setE n e).mb = d.mb := (rfl)
@[simp] theorem Dev.setE_sl (d : Dev) (n : Nat) (e : Eng) : (d.setE n e).sl = d.sl := (rfl)
@[simp] theorem Dev.setE_pio (d : Dev) (n : Nat) (e : Eng) : (d.setE n e).pio = d.pio := (rfl)
@[simp] theorem Dev.setE_stn (d : Dev) (n : Nat) (e : Eng) : (d.setE n e).stn = d.stn := (rfl)
@[simp] theorem Dev.setE_wakes (d : Dev) (n : Nat) (e : Eng) : (d.setE n e).wakes = d.wakes := (rfl)
@[simp] theorem Dev.setE_powerTo (d : Dev) (n : Nat) (e : Eng) : (d.setE n e).powerTo = d.powerTo := (rfl)
@[simp] theorem Dev.setE_pw (d : Dev) (n : Nat) (e : Eng) : (d.setE n e).pw = d.pw := (rfl)
@[simp] theorem Dev.setE_age (d : Dev) (n : Nat) (e : Eng) : (d.setE n e).age = d.age := (rfl)

/-! ### Dev.setFr -/

@[simp] theorem Dev.setFr_wall (d : Dev) (k : Nat) (f : Frame) : (d.setFr k f).wall = d.wall := (rfl)
@[simp] theorem Dev.setFr_regs (d : Dev) (k : Nat) (f : Frame) : (d.setFr k f).regs = d.regs := (rfl)
@[simp] theorem Dev.setFr_stg (d : Dev) (k : Nat) (f : Frame) : (d.setFr k f).stg = d.stg := (rfl)
@[simp] theorem Dev.setFr_hist (d : Dev) (k : Nat) (f : Frame) : (d.setFr k f).hist = d.hist := (rfl)
@[simp] theorem Dev.setFr_cmt (d : Dev) (k : Nat) (f : Frame) : (d.setFr k f).cmt = d.cmt := (rfl)
@[simp] theorem Dev.setFr_tbank (d : Dev) (k : Nat) (f : Frame) : (d.setFr k f).tbank = d.tbank := (rfl)
@[simp] theorem Dev.setFr_mem (d : Dev) (k : Nat) (f : Frame) : (d.setFr k f).mem = d.mem := (rfl)
@[simp] theorem Dev.setFr_free (d : Dev) (k : Nat) (f : Frame) : (d.setFr k f).free = d.free := (rfl)
@[simp] theorem Dev.setFr_resp (d : Dev) (k : Nat) (f : Frame) : (d.setFr k f).resp = d.resp := (rfl)
@[simp] theorem Dev.setFr_msix (d : Dev) (k : Nat) (f : Frame) : (d.setFr k f).msix = d.msix := (rfl)
@[simp] theorem Dev.setFr_jq (d : Dev) (k : Nat) (f : Frame) : (d.setFr k f).jq = d.jq := (rfl)
@[simp] theorem Dev.setFr_jrn (d : Dev) (k : Nat) (f : Frame) : (d.setFr k f).jrn = d.jrn := (rfl)
@[simp] theorem Dev.setFr_boot (d : Dev) (k : Nat) (f : Frame) : (d.setFr k f).boot = d.boot := (rfl)
@[simp] theorem Dev.setFr_blow (d : Dev) (k : Nat) (f : Frame) : (d.setFr k f).blow = d.blow := (rfl)
@[simp] theorem Dev.setFr_mbx (d : Dev) (k : Nat) (f : Frame) : (d.setFr k f).mbx = d.mbx := (rfl)
@[simp] theorem Dev.setFr_postings (d : Dev) (k : Nat) (f : Frame) : (d.setFr k f).postings = d.postings := (rfl)
@[simp] theorem Dev.setFr_mbxLast (d : Dev) (k : Nat) (f : Frame) : (d.setFr k f).mbxLast = d.mbxLast := (rfl)
@[simp] theorem Dev.setFr_power (d : Dev) (k : Nat) (f : Frame) : (d.setFr k f).power = d.power := (rfl)
@[simp] theorem Dev.setFr_ownPend (d : Dev) (k : Nat) (f : Frame) : (d.setFr k f).ownPend = d.ownPend := (rfl)
@[simp] theorem Dev.setFr_waiting (d : Dev) (k : Nat) (f : Frame) : (d.setFr k f).waiting = d.waiting := (rfl)
@[simp] theorem Dev.setFr_badPar (d : Dev) (k : Nat) (f : Frame) : (d.setFr k f).badPar = d.badPar := (rfl)
@[simp] theorem Dev.setFr_poison (d : Dev) (k : Nat) (f : Frame) : (d.setFr k f).poison = d.poison := (rfl)
@[simp] theorem Dev.setFr_hashed (d : Dev) (k : Nat) (f : Frame) : (d.setFr k f).hashed = d.hashed := (rfl)
@[simp] theorem Dev.setFr_unhashed (d : Dev) (k : Nat) (f : Frame) : (d.setFr k f).unhashed = d.unhashed := (rfl)
@[simp] theorem Dev.setFr_failed (d : Dev) (k : Nat) (f : Frame) : (d.setFr k f).failed = d.failed := (rfl)
@[simp] theorem Dev.setFr_reloads (d : Dev) (k : Nat) (f : Frame) : (d.setFr k f).reloads = d.reloads := (rfl)
@[simp] theorem Dev.setFr_dma (d : Dev) (k : Nat) (f : Frame) : (d.setFr k f).dma = d.dma := (rfl)
@[simp] theorem Dev.setFr_dmaLast (d : Dev) (k : Nat) (f : Frame) : (d.setFr k f).dmaLast = d.dmaLast := (rfl)
@[simp] theorem Dev.setFr_pcieOut (d : Dev) (k : Nat) (f : Frame) : (d.setFr k f).pcieOut = d.pcieOut := (rfl)
@[simp] theorem Dev.setFr_eng (d : Dev) (k : Nat) (f : Frame) : (d.setFr k f).eng = d.eng := (rfl)
@[simp] theorem Dev.setFr_sv0 (d : Dev) (k : Nat) (f : Frame) : (d.setFr k f).sv0 = d.sv0 := (rfl)
@[simp] theorem Dev.setFr_sv1 (d : Dev) (k : Nat) (f : Frame) : (d.setFr k f).sv1 = d.sv1 := (rfl)
@[simp] theorem Dev.setFr_groups (d : Dev) (k : Nat) (f : Frame) : (d.setFr k f).groups = d.groups := (rfl)
@[simp] theorem Dev.setFr_tb (d : Dev) (k : Nat) (f : Frame) : (d.setFr k f).tb = d.tb := (rfl)
@[simp] theorem Dev.setFr_tm (d : Dev) (k : Nat) (f : Frame) : (d.setFr k f).tm = d.tm := (rfl)
@[simp] theorem Dev.setFr_nextFr (d : Dev) (k : Nat) (f : Frame) : (d.setFr k f).nextFr = d.nextFr := (rfl)
@[simp] theorem Dev.setFr_eth (d : Dev) (k : Nat) (f : Frame) : (d.setFr k f).eth = d.eth := (rfl)
@[simp] theorem Dev.setFr_mdio (d : Dev) (k : Nat) (f : Frame) : (d.setFr k f).mdio = d.mdio := (rfl)
@[simp] theorem Dev.setFr_swc (d : Dev) (k : Nat) (f : Frame) : (d.setFr k f).swc = d.swc := (rfl)
@[simp] theorem Dev.setFr_rings (d : Dev) (k : Nat) (f : Frame) : (d.setFr k f).rings = d.rings := (rfl)
@[simp] theorem Dev.setFr_mb (d : Dev) (k : Nat) (f : Frame) : (d.setFr k f).mb = d.mb := (rfl)
@[simp] theorem Dev.setFr_sl (d : Dev) (k : Nat) (f : Frame) : (d.setFr k f).sl = d.sl := (rfl)
@[simp] theorem Dev.setFr_pio (d : Dev) (k : Nat) (f : Frame) : (d.setFr k f).pio = d.pio := (rfl)
@[simp] theorem Dev.setFr_stn (d : Dev) (k : Nat) (f : Frame) : (d.setFr k f).stn = d.stn := (rfl)
@[simp] theorem Dev.setFr_wakes (d : Dev) (k : Nat) (f : Frame) : (d.setFr k f).wakes = d.wakes := (rfl)
@[simp] theorem Dev.setFr_powerTo (d : Dev) (k : Nat) (f : Frame) : (d.setFr k f).powerTo = d.powerTo := (rfl)
@[simp] theorem Dev.setFr_pw (d : Dev) (k : Nat) (f : Frame) : (d.setFr k f).pw = d.pw := (rfl)
@[simp] theorem Dev.setFr_age (d : Dev) (k : Nat) (f : Frame) : (d.setFr k f).age = d.age := (rfl)

/-! ### Dev.answer -/

@[simp] theorem Dev.answer_wall (d : Dev) (num v : Nat) (err : Bool) : (d.answer num v err).wall = d.wall := (rfl)
@[simp] theorem Dev.answer_regs (d : Dev) (num v : Nat) (err : Bool) : (d.answer num v err).regs = d.regs := (rfl)
@[simp] theorem Dev.answer_stg (d : Dev) (num v : Nat) (err : Bool) : (d.answer num v err).stg = d.stg := (rfl)
@[simp] theorem Dev.answer_hist (d : Dev) (num v : Nat) (err : Bool) : (d.answer num v err).hist = d.hist := (rfl)
@[simp] theorem Dev.answer_cmt (d : Dev) (num v : Nat) (err : Bool) : (d.answer num v err).cmt = d.cmt := (rfl)
@[simp] theorem Dev.answer_tbank (d : Dev) (num v : Nat) (err : Bool) : (d.answer num v err).tbank = d.tbank := (rfl)
@[simp] theorem Dev.answer_mem (d : Dev) (num v : Nat) (err : Bool) : (d.answer num v err).mem = d.mem := (rfl)
@[simp] theorem Dev.answer_free (d : Dev) (num v : Nat) (err : Bool) : (d.answer num v err).free = d.free := (rfl)
@[simp] theorem Dev.answer_msix (d : Dev) (num v : Nat) (err : Bool) : (d.answer num v err).msix = d.msix := (rfl)
@[simp] theorem Dev.answer_jq (d : Dev) (num v : Nat) (err : Bool) : (d.answer num v err).jq = d.jq := (rfl)
@[simp] theorem Dev.answer_jrn (d : Dev) (num v : Nat) (err : Bool) : (d.answer num v err).jrn = d.jrn := (rfl)
@[simp] theorem Dev.answer_boot (d : Dev) (num v : Nat) (err : Bool) : (d.answer num v err).boot = d.boot := (rfl)
@[simp] theorem Dev.answer_blow (d : Dev) (num v : Nat) (err : Bool) : (d.answer num v err).blow = d.blow := (rfl)
@[simp] theorem Dev.answer_mbx (d : Dev) (num v : Nat) (err : Bool) : (d.answer num v err).mbx = d.mbx := (rfl)
@[simp] theorem Dev.answer_postings (d : Dev) (num v : Nat) (err : Bool) : (d.answer num v err).postings = d.postings := (rfl)
@[simp] theorem Dev.answer_mbxLast (d : Dev) (num v : Nat) (err : Bool) : (d.answer num v err).mbxLast = d.mbxLast := (rfl)
@[simp] theorem Dev.answer_power (d : Dev) (num v : Nat) (err : Bool) : (d.answer num v err).power = d.power := (rfl)
@[simp] theorem Dev.answer_ownPend (d : Dev) (num v : Nat) (err : Bool) : (d.answer num v err).ownPend = d.ownPend := (rfl)
@[simp] theorem Dev.answer_waiting (d : Dev) (num v : Nat) (err : Bool) : (d.answer num v err).waiting = d.waiting := (rfl)
@[simp] theorem Dev.answer_badPar (d : Dev) (num v : Nat) (err : Bool) : (d.answer num v err).badPar = d.badPar := (rfl)
@[simp] theorem Dev.answer_poison (d : Dev) (num v : Nat) (err : Bool) : (d.answer num v err).poison = d.poison := (rfl)
@[simp] theorem Dev.answer_hashed (d : Dev) (num v : Nat) (err : Bool) : (d.answer num v err).hashed = d.hashed := (rfl)
@[simp] theorem Dev.answer_unhashed (d : Dev) (num v : Nat) (err : Bool) : (d.answer num v err).unhashed = d.unhashed := (rfl)
@[simp] theorem Dev.answer_failed (d : Dev) (num v : Nat) (err : Bool) : (d.answer num v err).failed = d.failed := (rfl)
@[simp] theorem Dev.answer_reloads (d : Dev) (num v : Nat) (err : Bool) : (d.answer num v err).reloads = d.reloads := (rfl)
@[simp] theorem Dev.answer_dma (d : Dev) (num v : Nat) (err : Bool) : (d.answer num v err).dma = d.dma := (rfl)
@[simp] theorem Dev.answer_dmaLast (d : Dev) (num v : Nat) (err : Bool) : (d.answer num v err).dmaLast = d.dmaLast := (rfl)
@[simp] theorem Dev.answer_pcieOut (d : Dev) (num v : Nat) (err : Bool) : (d.answer num v err).pcieOut = d.pcieOut := (rfl)
@[simp] theorem Dev.answer_eng (d : Dev) (num v : Nat) (err : Bool) : (d.answer num v err).eng = d.eng := (rfl)
@[simp] theorem Dev.answer_sv0 (d : Dev) (num v : Nat) (err : Bool) : (d.answer num v err).sv0 = d.sv0 := (rfl)
@[simp] theorem Dev.answer_sv1 (d : Dev) (num v : Nat) (err : Bool) : (d.answer num v err).sv1 = d.sv1 := (rfl)
@[simp] theorem Dev.answer_groups (d : Dev) (num v : Nat) (err : Bool) : (d.answer num v err).groups = d.groups := (rfl)
@[simp] theorem Dev.answer_tb (d : Dev) (num v : Nat) (err : Bool) : (d.answer num v err).tb = d.tb := (rfl)
@[simp] theorem Dev.answer_tm (d : Dev) (num v : Nat) (err : Bool) : (d.answer num v err).tm = d.tm := (rfl)
@[simp] theorem Dev.answer_frames (d : Dev) (num v : Nat) (err : Bool) : (d.answer num v err).frames = d.frames := (rfl)
@[simp] theorem Dev.answer_nextFr (d : Dev) (num v : Nat) (err : Bool) : (d.answer num v err).nextFr = d.nextFr := (rfl)
@[simp] theorem Dev.answer_eth (d : Dev) (num v : Nat) (err : Bool) : (d.answer num v err).eth = d.eth := (rfl)
@[simp] theorem Dev.answer_mdio (d : Dev) (num v : Nat) (err : Bool) : (d.answer num v err).mdio = d.mdio := (rfl)
@[simp] theorem Dev.answer_swc (d : Dev) (num v : Nat) (err : Bool) : (d.answer num v err).swc = d.swc := (rfl)
@[simp] theorem Dev.answer_rings (d : Dev) (num v : Nat) (err : Bool) : (d.answer num v err).rings = d.rings := (rfl)
@[simp] theorem Dev.answer_mb (d : Dev) (num v : Nat) (err : Bool) : (d.answer num v err).mb = d.mb := (rfl)
@[simp] theorem Dev.answer_sl (d : Dev) (num v : Nat) (err : Bool) : (d.answer num v err).sl = d.sl := (rfl)
@[simp] theorem Dev.answer_pio (d : Dev) (num v : Nat) (err : Bool) : (d.answer num v err).pio = d.pio := (rfl)
@[simp] theorem Dev.answer_stn (d : Dev) (num v : Nat) (err : Bool) : (d.answer num v err).stn = d.stn := (rfl)
@[simp] theorem Dev.answer_wakes (d : Dev) (num v : Nat) (err : Bool) : (d.answer num v err).wakes = d.wakes := (rfl)
@[simp] theorem Dev.answer_powerTo (d : Dev) (num v : Nat) (err : Bool) : (d.answer num v err).powerTo = d.powerTo := (rfl)
@[simp] theorem Dev.answer_pw (d : Dev) (num v : Nat) (err : Bool) : (d.answer num v err).pw = d.pw := (rfl)
@[simp] theorem Dev.answer_age (d : Dev) (num v : Nat) (err : Bool) : (d.answer num v err).age = d.age := (rfl)

/-! ### Registers -/

/-- A register reads as it was written. -/
@[simp] theorem Dev.rd_wr (d : Dev) (r : Reg) (v : Word) (i j : Nat) : (d.wr r v i j).rd r i j = v := by
  simp only [Dev.rd, Dev.wr, Tab.look_put]

/-- A write leaves every register at another address as it was. -/
@[simp] theorem Dev.rd_wr_ne (d : Dev) (r r' : Reg) (v : Word) (i j i' j' : Nat) (h : r'.addr i' j' ≠ r.addr i j) :
    (d.wr r v i j).rd r' i' j' = d.rd r' i' j' := by
  simp only [Dev.rd, Dev.wr, Tab.look_put_ne _ _ _ _ _ _ h]

/-- The staged copy a register had stands after a write of the value in force. -/
@[simp] theorem Dev.rdStaged_wr (d : Dev) (r r' : Reg) (v : Word) (i j i' j' : Nat) :
    (d.wr r v i j).rdStaged r' i' j' = d.rdStaged r' i' j' := rfl

/-- An engine reads as it was set. -/
@[simp] theorem Dev.e_setE (d : Dev) (n : Nat) (e : Eng) : (d.setE n e).e n = e := by
  simp only [Dev.e, Dev.setE, Tab.look_put]

/-- Setting one engine leaves the others as they were. -/
@[simp] theorem Dev.e_setE_ne (d : Dev) (n k : Nat) (e : Eng) (h : k ≠ n) : (d.setE n e).e k = d.e k := by
  simp only [Dev.e, Dev.setE, Tab.look_put_ne _ _ _ _ _ _ h]

/-- A register read does not look at the engines. -/
@[simp] theorem Dev.rd_setE (d : Dev) (n : Nat) (e : Eng) (r : Reg) (i j : Nat) : (d.setE n e).rd r i j = d.rd r i j := (rfl)

/-- An engine's state does not look at the registers. -/
@[simp] theorem Dev.e_wr (d : Dev) (r : Reg) (v : Word) (i j k : Nat) : (d.wr r v i j).e k = d.e k := (rfl)

/-- A commit instance reads as it was set. -/
@[simp] theorem Dev.inst_setInst (d : Dev) (k : Nat) (c : CmtInst) : (d.setInst k c).inst k = c := by
  simp only [Dev.inst, Dev.setInst, Tab.look_set]

/-- Setting one commit instance leaves the others as they were. -/
theorem Dev.inst_setInst_ne (d : Dev) (k n : Nat) (c : CmtInst) (h : n ≠ k) : (d.setInst k c).inst n = d.inst n := by
  simp only [Dev.inst, Dev.setInst, Tab.look_set_ne _ _ _ _ _ h]

/-- A register read does not look at the commit instances. -/
@[simp] theorem Dev.rd_setInst (d : Dev) (n : Nat) (c : CmtInst) (r : Reg) (i j : Nat) : (d.setInst n c).rd r i j = d.rd r i j := (rfl)

/-- A memory byte reads as it was stored. -/
@[simp] theorem Dev.byte_setByte (d : Dev) (a : Nat) (v : Byte) : (d.setByte a v).byte a = v := by
  simp only [Dev.byte, Dev.setByte, Tab.look_put]

/-- Storing a byte leaves the others as they were. -/
theorem Dev.byte_setByte_ne (d : Dev) (a b : Nat) (v : Byte) (h : b ≠ a) : (d.setByte a v).byte b = d.byte b := by
  simp only [Dev.byte, Dev.setByte, Tab.look_put_ne _ _ _ _ _ _ h]

end Sys2Proof.Machine
end

