-- ==== Sys2Proof/Laws/Fields.lean ====
section
/-!
SUPPORT. Fields of registers: a field reads as it was set, and setting it leaves the others.
-/

namespace Sys2Proof.Machine

/-- The number a word spells with a field replaced. -/
theorem putBits_toNat (x : Word) (lo w v : Nat) (h : lo + w ≤ 32) :
    (putBits x lo w v).toNat = x.toNat % 2 ^ lo + 2 ^ lo * (v % 2 ^ w + 2 ^ w * (x.toNat / 2 ^ (lo + w))) := by
  have hx := x.isLt
  have e : x.toNat % 2 ^ lo + v % 2 ^ w * 2 ^ lo + x.toNat / 2 ^ (lo + w) * 2 ^ (lo + w)
      = x.toNat % 2 ^ lo + 2 ^ lo * (v % 2 ^ w + 2 ^ w * (x.toNat / 2 ^ (lo + w))) := by
    rw [Nat.pow_add, Nat.mul_add, Nat.mul_comm (v % 2 ^ w), Nat.add_assoc, ← Nat.mul_assoc (2 ^ lo),
      Nat.mul_comm (x.toNat / _)]
  unfold putBits
  rw [BitVec.toNat_ofNat, e, Nat.mod_eq_of_lt]
  have h1 : x.toNat % 2 ^ lo < 2 ^ lo := Nat.mod_lt _ (Nat.two_pow_pos lo)
  have h2 : v % 2 ^ w < 2 ^ w := Nat.mod_lt _ (Nat.two_pow_pos w)
  have h3 : x.toNat / 2 ^ (lo + w) < 2 ^ (32 - (lo + w)) := by
    rw [Nat.div_lt_iff_lt_mul (Nat.two_pow_pos _), ← Nat.pow_add]
    have : 32 - (lo + w) + (lo + w) = 32 := by omega
    rw [this]
    exact hx
  have h4 : v % 2 ^ w + 2 ^ w * (x.toNat / 2 ^ (lo + w)) < 2 ^ w * 2 ^ (32 - (lo + w)) := by
    calc v % 2 ^ w + 2 ^ w * (x.toNat / 2 ^ (lo + w)) < 2 ^ w + 2 ^ w * (x.toNat / 2 ^ (lo + w)) := by omega
      _ = 2 ^ w * (1 + x.toNat / 2 ^ (lo + w)) := by rw [Nat.mul_add, Nat.mul_one]
      _ ≤ 2 ^ w * 2 ^ (32 - (lo + w)) := Nat.mul_le_mul_left _ (by omega)
  calc x.toNat % 2 ^ lo + 2 ^ lo * (v % 2 ^ w + 2 ^ w * (x.toNat / 2 ^ (lo + w)))
      < 2 ^ lo + 2 ^ lo * (v % 2 ^ w + 2 ^ w * (x.toNat / 2 ^ (lo + w))) := by omega
    _ = 2 ^ lo * (1 + (v % 2 ^ w + 2 ^ w * (x.toNat / 2 ^ (lo + w)))) := by rw [Nat.mul_add (2 ^ lo) 1, Nat.mul_one]
    _ ≤ 2 ^ lo * (2 ^ w * 2 ^ (32 - (lo + w))) := Nat.mul_le_mul_left _ (by omega)
    _ = 2 ^ 32 := by rw [← Nat.pow_add, ← Nat.pow_add]; congr 1; omega

/-- A bit of a word after a field of it is set. -/
theorem putBits_getLsbD (x : Word) (lo w v k : Nat) (h : lo + w ≤ 32) :
    (putBits x lo w v).getLsbD k = if lo ≤ k ∧ k < lo + w then v.testBit (k - lo) else x.getLsbD k := by
  have e : (putBits x lo w v).getLsbD k = (putBits x lo w v).toNat.testBit k := rfl
  have e' : x.getLsbD k = x.toNat.testBit k := rfl
  rw [e, e', putBits_toNat x lo w v h, Nat.add_comm, Nat.testBit_two_pow_mul_add _ (Nat.mod_lt _ (Nat.two_pow_pos lo))]
  rw [Nat.add_comm (v % 2 ^ w), Nat.testBit_two_pow_mul_add _ (Nat.mod_lt _ (Nat.two_pow_pos w)), Nat.testBit_mod_two_pow, Nat.testBit_mod_two_pow, Nat.testBit_div_two_pow]
  split
  · rw [if_neg (by omega)]; simp; intro h; omega
  · split
    · rw [if_pos (by omega)]; simp; intro h; omega
    · rw [if_neg (by omega)]; congr 1; omega

/-- A field reads as it was set. -/
theorem getBits_putBits (x : Word) (lo w v : Nat) (h : lo + w ≤ 32) : getBits (putBits x lo w v) lo w = v % 2 ^ w := by
  have h1 : x.toNat % 2 ^ lo < 2 ^ lo := Nat.mod_lt _ (Nat.two_pow_pos lo)
  unfold getBits
  rw [putBits_toNat x lo w v h, Nat.add_mul_div_left _ _ (Nat.two_pow_pos lo), Nat.div_eq_of_lt h1, Nat.zero_add,
    Nat.add_mul_mod_self_left, Nat.mod_mod]

/-- Setting a field leaves a field that it does not meet. -/
theorem getBits_putBits_ne (x : Word) (lo w v lo' w' : Nat) (h : lo + w ≤ 32) (hd : lo' + w' ≤ lo ∨ lo + w ≤ lo') :
    getBits (putBits x lo w v) lo' w' = getBits x lo' w' := by
  have h1 : x.toNat % 2 ^ lo < 2 ^ lo := Nat.mod_lt _ (Nat.two_pow_pos lo)
  have h2 : v % 2 ^ w < 2 ^ w := Nat.mod_lt _ (Nat.two_pow_pos w)
  unfold getBits
  rw [putBits_toNat x lo w v h]
  rcases hd with hd | hd
  · obtain ⟨k, rfl⟩ := Nat.exists_eq_add_of_le hd
    have key : ∀ n : Nat, n / 2 ^ lo' % 2 ^ w' = (n % 2 ^ (lo' + w' + k)) / 2 ^ lo' % 2 ^ w' := by
      intro n
      have e : (2 : Nat) ^ (lo' + w' + k) = 2 ^ lo' * (2 ^ w' * 2 ^ k) := by rw [Nat.pow_add, Nat.pow_add, Nat.mul_assoc]
      rw [e, Nat.mod_mul_right_div_self, Nat.mod_mul_right_mod]
    rw [key, Nat.add_mul_mod_self_left, Nat.mod_mod, ← key]
  · obtain ⟨k, rfl⟩ := Nat.exists_eq_add_of_le hd
    rw [Nat.pow_add 2 (lo + w) k, ← Nat.div_div_eq_div_mul, ← Nat.div_div_eq_div_mul]
    congr 2
    rw [Nat.pow_add, ← Nat.div_div_eq_div_mul, Nat.add_mul_div_left _ _ (Nat.two_pow_pos lo), Nat.div_eq_of_lt h1, Nat.zero_add,
      Nat.add_mul_div_left _ _ (Nat.two_pow_pos w), Nat.div_eq_of_lt h2, Nat.zero_add]

/-- A field of a register reads as it was set. -/
@[simp] theorem Dev.f_setF (d : Dev) (x : RegFld) (v i j : Nat) (h : x.lo + x.w ≤ 32) : (d.setF x v i j).f x i j = v % 2 ^ x.w := by
  simp only [Dev.f, Dev.setF, Dev.rd_wr]
  exact getBits_putBits _ _ _ _ h

/-- Setting a field leaves the other fields of its register. -/
theorem Dev.f_setF_other (d : Dev) (x y : RegFld) (v i j : Nat) (h : x.lo + x.w ≤ 32) (hr : y.reg = x.reg)
    (hd : y.lo + y.w ≤ x.lo ∨ x.lo + x.w ≤ y.lo) : (d.setF x v i j).f y i j = d.f y i j := by
  simp only [Dev.f, Dev.setF, hr, Dev.rd_wr]
  exact getBits_putBits_ne _ _ _ _ _ _ h hd

/-- Setting a field leaves a register at another address. -/
@[simp] theorem Dev.rd_setF_ne (d : Dev) (x : RegFld) (r : Reg) (v i j i' j' : Nat) (h : r.addr i' j' ≠ x.reg.addr i j) :
    (d.setF x v i j).rd r i' j' = d.rd r i' j' := Dev.rd_wr_ne _ _ _ _ _ _ _ _ h

/-- Setting a field leaves the fields of a register at another address. -/
@[simp] theorem Dev.f_setF_ne (d : Dev) (x y : RegFld) (v i j i' j' : Nat) (h : y.reg.addr i' j' ≠ x.reg.addr i j) :
    (d.setF x v i j).f y i' j' = d.f y i' j' := by
  simp only [Dev.f, Dev.rd_setF_ne _ _ _ _ _ _ _ _ h]

/-- A flag reads as it was set. -/
@[simp] theorem Dev.b_setB (d : Dev) (x : RegFld) (v : Bool) (i j : Nat) (h : x.lo + x.w ≤ 32) (hw : x.w ≠ 0) :
    (d.setB x v i j).b x i j = v := by
  unfold Dev.b Dev.setB
  rw [Dev.f_setF d x _ i j h]
  have h1 : 1 < 2 ^ x.w := Nat.one_lt_two_pow hw
  cases v
  · simp
  · simp [Nat.mod_eq_of_lt h1]

end Sys2Proof.Machine
end

