-- ==== Sys2Proof/Laws/Regs.lean ====
section
/-!
SUPPORT. One lemma for each shared operation of the commands: the next state, a register write accepted, refused or plain, a register
read, an event raised.
-/

namespace Sys2Proof.Machine

/-! ### The next state of a command -/

/-- What `act` answers: the part as the command left it, apart from BOOT_ARB and the fuses where it programmed some. -/
theorem act_cases (s : State) (d : Dev) :
    ∃ t, act s d = .next t ∧ t.pending = s.pending ∧
      ((d.blow = [] ∧ t.dev = d ∧ t.otp = s.otp) ∨
        (d.blow ≠ [] ∧ t.otp = d.blow.foldl Otp.burn s.otp ∧ t.dev = { d with blow := [] }.wr BOOT_ARB t.otp.arb)) := by
  unfold act
  split
  · next h => exact ⟨_, rfl, rfl, .inl ⟨h, rfl, rfl⟩⟩
  · next l h => exact ⟨_, rfl, rfl, .inr ⟨h, rfl, rfl⟩⟩

/-- The next state of a command that programs no fuse. -/
theorem act_quiet (s : State) (d : Dev) (h : d.blow = []) : act s d = .next { s with dev := d } := by
  unfold act
  rw [h]

/-- A property of every field but BOOT_ARB and the queue of programmings passes to the next state. -/
theorem Runs.of_act {i : Instr} {s : State} {d : Dev} {p : State → Prop} (h : exec i s = act s d)
    (hp : ∀ o : Otp, p { s with dev := d, otp := o }) (hw : ∀ (o : Otp) (x : Word), p { s with dev := { d with blow := [] }.wr BOOT_ARB x, otp := o }) :
    Runs i s p := by
  unfold Runs
  rw [h]
  unfold act
  split
  · exact ⟨_, rfl, hp s.otp⟩
  · exact ⟨_, rfl, hw _ _⟩

/-! ### Register writes -/

/-- A write that is refused as a whole answers a bus error and changes nothing else (R15, R527). -/
theorem Dev.putReg_refused (d : Dev) (m : Master) (r : Reg) (i j : Nat) (v : Word) (h : d.mayPut m r i j = false) :
    d.putReg m r i j v = { d with resp := [⟨m.num, 0, true⟩] } := by
  have h' : (!d.mayRead m (r.addr i j) || (d.srPage (r.addr i j) && !d.secure m) || !d.mayWrite m r (r.addr i j)
      || (r.allSr && !d.secure m)) = true := by
    simp only [Dev.mayPut, Dev.mayGet] at h
    cases h1 : d.mayRead m (r.addr i j) <;> cases h2 : d.srPage (r.addr i j) <;> cases h3 : d.secure m <;>
      cases h4 : d.mayWrite m r (r.addr i j) <;> cases h5 : r.allSr <;> simp_all
  have e : ({ d with resp := [] } : Dev).regPut (d.wrNow m) r i j v = ({ d with resp := [] }, true) := by
    show (if (!d.mayRead m (r.addr i j) || (d.srPage (r.addr i j) && !d.secure m) || !d.mayWrite m r (r.addr i j)
      || (r.allSr && !d.secure m)) = true then _ else _) = _
    rw [if_pos h']
  unfold Dev.putReg
  rw [e]
  rfl

/-- An accepted write does what the register does with the value (R5). -/
theorem Dev.putReg_ok (d : Dev) (m : Master) (r : Reg) (i j : Nat) (v : Word) (h : d.accepts m r i j v = true) :
    d.putReg m r i j v = (({ d with resp := [] } : Dev).writeReg (d.wrNow m) r i j v).1.answer m.num 0
      (({ d with resp := [] } : Dev).writeReg (d.wrNow m) r i j v).2 := by
  simp only [Dev.accepts, Bool.and_eq_true, beq_iff_eq] at h
  have h' : ¬(!d.mayRead m (r.addr i j) || (d.srPage (r.addr i j) && !d.secure m) || !d.mayWrite m r (r.addr i j)
      || (r.allSr && !d.secure m)) = true := by
    have := h.1
    simp only [Dev.mayPut, Dev.mayGet] at this
    cases h1 : d.mayRead m (r.addr i j) <;> cases h2 : d.srPage (r.addr i j) <;> cases h3 : d.secure m <;>
      cases h4 : d.mayWrite m r (r.addr i j) <;> cases h5 : r.allSr <;> simp_all
  have e : ({ d with resp := [] } : Dev).regPut (d.wrNow m) r i j v =
      ({ d with resp := [] } : Dev).writeReg (d.wrNow m) r i j v := by
    show (if (!d.mayRead m (r.addr i j) || (d.srPage (r.addr i j) && !d.secure m) || !d.mayWrite m r (r.addr i j)
      || (r.allSr && !d.secure m)) = true then _ else
        ((({ d with resp := [] } : Dev).writeReg (d.wrNow m) r i j (d.srLk m r (d.rd r i j) v).1).1,
          (d.srLk m r (d.rd r i j) v).2 || (({ d with resp := [] } : Dev).writeReg (d.wrNow m) r i j (d.srLk m r (d.rd r i j) v).1).2)) = _
    rw [if_neg h', h.2]
    rfl
  unfold Dev.putReg
  rw [e]

/-- A register without SR and LK bits accepts every value from a master that may write it (R527, R528). -/
theorem Dev.accepts_free (d : Dev) (m : Master) (r : Reg) (i j : Nat) (v : Word) (h : d.mayPut m r i j = true)
    (hs : r.srBits = 0) (hl : r.lkBits = 0) : d.accepts m r i j v = true := by
  simp only [Dev.accepts, h, Dev.srLk, hs, hl]
  simp
  have e : (4294967295#32 : Word) = BitVec.allOnes 32 := rfl
  rw [e, BitVec.and_allOnes, BitVec.and_allOnes]

/-- A command that programs no fuse runs to the state its effect gives. -/
theorem Runs.of_quiet {i : Instr} {s : State} {d : Dev} {p : State → Prop} (h : exec i s = act s d) (hb : d.blow = [])
    (hp : p { s with dev := d }) : Runs i s p := ⟨_, h.trans (act_quiet s d hb), hp⟩

/-- The part with no answer given yet, as a command finds it. -/
def Dev.still (d : Dev) : Dev := { d with resp := [] }

/-- A command that is an accepted register write and programs no fuse runs as the register's behaviour says. -/
theorem Runs.put_quiet {c : Instr} {s : State} {m : Master} {r : Reg} {i j : Nat} {v : Word} {d : Dev} {b : Bool} {p : State → Prop}
    (h : exec c s = act s (s.dev.putReg m r i j v)) (ha : s.dev.accepts m r i j v = true)
    (hw : s.dev.still.writeReg (s.dev.wrNow m) r i j v = (d, b)) (hb : d.blow = [])
    (hp : p { s with dev := d.answer m.num 0 b }) : Runs c s p := by
  have hw' : ({ s.dev with resp := [] } : Dev).writeReg (s.dev.wrNow m) r i j v = (d, b) := hw
  rw [Dev.putReg_ok _ _ _ _ _ _ ha, hw'] at h
  exact Runs.of_quiet h hb hp

/-- A command that is a register write with some bits set, accepted and programming no fuse. -/
theorem Runs.poke_quiet {c : Instr} {s : State} {m : Master} {r : Reg} {i j : Nat} {bits v : Word} {d : Dev} {b : Bool}
    {p : State → Prop} (h : exec c s = act s (s.dev.poke m r i j bits)) (hm : s.dev.mayPut m r i j = true) (hs : r.srBits = 0)
    (hl : r.lkBits = 0) (hv : (s.dev.rd r i j &&& r.accBits .rw) ||| bits = v)
    (hw : s.dev.still.writeReg (s.dev.wrNow m) r i j v = (d, b)) (hb : d.blow = [])
    (hp : p { s with dev := d.answer m.num 0 b }) : Runs c s p := by
  subst hv
  exact Runs.put_quiet h (Dev.accepts_free _ _ _ _ _ _ hm hs hl) hw hb hp

/-- The answer of a command that answers once. -/
theorem answers_answer (s : State) (d : Dev) (m : Master) (v : Nat) (err : Bool) (h : d.resp = []) :
    answers { s with dev := d.answer m.num v err } m v err := by
  unfold answers Dev.answer
  rw [h]
  rfl

/-- A command that is an accepted register write runs as the register's behaviour says. -/
theorem Runs.of_put {c : Instr} {s : State} {m : Master} {r : Reg} {i j : Nat} {v : Word} {d : Dev} {b : Bool} {p : State → Prop}
    (h : exec c s = act s (s.dev.putReg m r i j v)) (ha : s.dev.accepts m r i j v = true)
    (hw : ({ s.dev with resp := [] } : Dev).writeReg (s.dev.wrNow m) r i j v = (d, b))
    (hp : ∀ o : Otp, p { s with dev := d.answer m.num 0 b, otp := o })
    (hq : ∀ (o : Otp) (x : Word), p { s with dev := { d.answer m.num 0 b with blow := [] }.wr BOOT_ARB x, otp := o }) :
    Runs c s p := by
  rw [Dev.putReg_ok _ _ _ _ _ _ ha, hw] at h
  exact Runs.of_act h hp hq

/-- A command that is a refused register write runs, answers a bus error and changes nothing else. -/
theorem Runs.of_refused {c : Instr} {s : State} {m : Master} {r : Reg} {i j : Nat} {v : Word} {p : State → Prop}
    (h : exec c s = act s (s.dev.putReg m r i j v)) (ha : s.dev.mayPut m r i j = false)
    (hp : ∀ o : Otp, p { s with dev := { s.dev with resp := [⟨m.num, 0, true⟩] }, otp := o })
    (hq : ∀ (o : Otp) (x : Word),
      p { s with dev := { s.dev with resp := [⟨m.num, 0, true⟩], blow := [] }.wr BOOT_ARB x, otp := o }) : Runs c s p := by
  rw [Dev.putReg_refused _ _ _ _ _ _ ha] at h
  exact Runs.of_act h hp hq

/-- A write of a plain register sets its bits as their access types say (R5). -/
theorem Dev.writeReg_plain (d : Dev) (w : Wr) (r : Reg) (i j : Nat) (v : Word) (h : r.plain = true) :
    d.writeReg w r i j v = (d.plainWrite r i j v, false) := by
  simp only [Reg.plain, actingRegs, List.any_append, List.any_cons, List.any_nil, Bool.and_eq_true, Bool.not_eq_true',
    Bool.or_eq_false_iff] at h
  obtain ⟨hs, h⟩ := h
  unfold Dev.writeReg
  rw [hs]
  cases hb : blkOf r.base with
  | none => simp [Dev.setLanes, loopBank, h]
  | some b => cases b <;> simp [Dev.setCore, Dev.setShared, Dev.setNet, Dev.setLanes, mdioAbsent, loopBank, h]

/-! ### A write at an address -/

/-- A word written in the register space is a register write (R16). -/
theorem Dev.single_peri (d : Dev) (m : Master) (a v : Word) (hr : regionOf a.toNat = .peri) (h4 : a.toNat % 4 = 0) :
    d.single m a.toNat (some v) = (({ d with resp := [] } : Dev).regWrite (d.wrNow m) a.toNat v).1.answer m.num 0
      (({ d with resp := [] } : Dev).regWrite (d.wrNow m) a.toNat v).2 := by
  have e1 : ({ d with resp := [] } : Dev).bus (d.wrNow m) a.toNat 4 (some (BitVec.setWidth 64 v).toNat) =
      (match ({ d with resp := [] } : Dev).regWrite (d.wrNow m) a.toNat v with
        | (d, true) => (d, .err)
        | (d, false) => (d, .done 0)) := by
    have hv : BitVec.ofNat 32 (BitVec.setWidth 64 v).toNat = v := by
      apply BitVec.eq_of_toNat_eq
      have := v.isLt
      simp
      omega
    unfold Dev.bus
    rw [if_pos (by simp [h4])]
    unfold Dev.busOne
    rw [hr]
    simp only [Dev.periAcc, h4, hv]
    simp <;> rfl
  have ha : BitVec.ofNat 32 a.toNat = a := by simp
  unfold Dev.single Dev.serve
  simp only [ha]
  have e2 : ({ d with resp := [] } : Dev).bus (({ d with resp := [] } : Dev).wrNow m) a.toNat Width.b4.bytes
      (Option.map BitVec.toNat (Option.map (fun (x : Word) => BitVec.setWidth 64 x) (some v))) =
      (match ({ d with resp := [] } : Dev).regWrite (d.wrNow m) a.toNat v with
        | (d, true) => (d, .err)
        | (d, false) => (d, .done 0)) := e1
  rw [e2]
  rcases ({ d with resp := [] } : Dev).regWrite (d.wrNow m) a.toNat v with ⟨d', b⟩
  cases b <;> rfl

/-- A register write at the address of register instance (i, j). -/
theorem Dev.regWrite_eq (d : Dev) (w : Wr) (a : Nat) (v : Word) (r : Reg) (i j : Nat) (hc : isCtx a = false)
    (hm : isMsix a = false) (hf : findReg a = some (r, i, j)) (ha : r.addr i j = a) : d.regWrite w a v = d.regPut w r i j v := by
  unfold Dev.regWrite
  split
  · next h =>
    unfold Dev.regPut
    rw [ha]
    dsimp only
    rw [if_pos]
    simp only [Bool.or_eq_true] at h ⊢
    rcases h with h | h <;> simp [h]
  · simp [hc, hm, hf]

/-- A word written at a register's address is the write of that register. -/
theorem Dev.single_putReg (d : Dev) (m : Master) (a v : Word) (r : Reg) (i j : Nat) (hr : regionOf a.toNat = .peri)
    (h4 : a.toNat % 4 = 0) (hc : isCtx a.toNat = false) (hm : isMsix a.toNat = false)
    (hf : findReg a.toNat = some (r, i, j)) (ha : r.addr i j = a.toNat) :
    d.single m a.toNat (some v) = d.putReg m r i j v := by
  rw [Dev.single_peri _ _ _ _ hr h4, Dev.regWrite_eq _ _ _ _ _ _ _ hc hm hf ha]
  rfl

/-! ### Requests of one cycle -/

/-- A request whose write meets no other is served. -/
theorem Dev.serveIn_free (d : Dev) (won : List Waiting) (x : Waiting) (h : colliding won x = none) : d.serveIn won x = d.serve x := by
  unfold Dev.serveIn
  rw [h]

/-- A request alone, with none waiting, is served. -/
theorem Dev.cycle_one (d : Dev) (q : Req) (h : d.waiting = []) : d.cycle [q] = ({ d with resp := [] } : Dev).serve ⟨q, 0⟩ := by
  have h1 : losesTo [(0, (⟨q, 0⟩ : Waiting))] 0 ⟨q, 0⟩ = false := by simp [losesTo]
  have h2 : colliding [(⟨q, 0⟩ : Waiting)] ⟨q, 0⟩ = none := by
    unfold colliding
    split
    · next h0 =>
      simp only [decide_eq_true_eq] at h0
      cases hp : portOf q with
      | none => simp [hp] at h0
      | some k => simp [hp]
    · rfl
  unfold Dev.cycle
  rw [h]
  simp [h1, Dev.serveIn_free _ _ _ h2, insWaiting, List.range, List.range.loop]

/-- An aligned access of comb memory. -/
theorem Dev.bus_comb (d : Dev) (m : Master) (a w : Nat) (q : Option Nat) (h : regionOf a = .comb) (ha : a % w = 0) :
    d.bus (d.wrNow m) a w q = d.combAcc m a w q := by
  unfold Dev.bus
  rw [if_pos (by simp [ha])]
  unfold Dev.busOne
  rw [h]
  rfl

/-! ### Register reads -/

/-- A read that is refused answers a bus error and changes nothing else (R15, R527). -/
theorem Dev.getReg_refused (d : Dev) (m : Master) (r : Reg) (i j : Nat) (h : d.mayGet m r i j = false) :
    d.getReg m r i j = { d with resp := [⟨m.num, 0, true⟩] } := by
  have h' : (!d.mayRead m (r.addr i j) || (d.srPage (r.addr i j) && !d.secure m) || (r.allSr && !d.secure m)) = true := by
    simp only [Dev.mayGet] at h
    cases h1 : d.mayRead m (r.addr i j) <;> cases h2 : d.srPage (r.addr i j) <;> cases h3 : d.secure m <;>
      cases h5 : r.allSr <;> simp_all
  have e : ({ d with resp := [] } : Dev).regGet m r i j = ({ d with resp := [] }, .err) := by
    show (if (!d.mayRead m (r.addr i j) || (d.srPage (r.addr i j) && !d.secure m) || (r.allSr && !d.secure m)) = true
      then _ else _) = _
    rw [if_pos h']
  show (match ({ d with resp := [] } : Dev).regGet m r i j with
    | (d, .done v) => d.answer m.num v false
    | (d, _) => d.answer m.num 0 true) = _
  rw [e] <;> rfl

/-- A read that is let through gives what the register gives. -/
theorem Dev.getReg_ok (d : Dev) (m : Master) (r : Reg) (i j : Nat) (h : d.mayGet m r i j = true) :
    d.getReg m r i j = (match ({ d with resp := [] } : Dev).readReg m r i j with
      | (d, .done v) => d.answer m.num v false
      | (d, _) => d.answer m.num 0 true) := by
  have h' : ¬(!d.mayRead m (r.addr i j) || (d.srPage (r.addr i j) && !d.secure m) || (r.allSr && !d.secure m)) = true := by
    simp only [Dev.mayGet] at h
    cases h1 : d.mayRead m (r.addr i j) <;> cases h2 : d.srPage (r.addr i j) <;> cases h3 : d.secure m <;>
      cases h5 : r.allSr <;> simp_all
  have e : ({ d with resp := [] } : Dev).regGet m r i j = ({ d with resp := [] } : Dev).readReg m r i j := by
    show (if (!d.mayRead m (r.addr i j) || (d.srPage (r.addr i j) && !d.secure m) || (r.allSr && !d.secure m)) = true
      then _ else _) = _
    rw [if_neg h']
  show (match ({ d with resp := [] } : Dev).regGet m r i j with
    | (d, .done v) => d.answer m.num v false
    | (d, _) => d.answer m.num 0 true) = _
  rw [e] <;> rfl

/-- A command that is a register read which takes something from the block runs as the block says. -/
theorem Runs.of_get {c : Instr} {s : State} {m : Master} {r : Reg} {i j : Nat} {d : Dev} {v : Nat} {p : State → Prop}
    (h : exec c s = act s (s.dev.getReg m r i j)) (ha : s.dev.mayGet m r i j = true)
    (hw : ({ s.dev with resp := [] } : Dev).readReg m r i j = (d, .done v))
    (hp : ∀ o : Otp, p { s with dev := d.answer m.num v false, otp := o })
    (hq : ∀ (o : Otp) (x : Word), p { s with dev := { d.answer m.num v false with blow := [] }.wr BOOT_ARB x, otp := o }) :
    Runs c s p := by
  rw [Dev.getReg_ok _ _ _ _ _ ha, hw] at h
  exact Runs.of_act h hp hq

/-- A command that is an accepted register read which takes something from the block, and programs no fuse. -/
theorem Runs.get_quiet {c : Instr} {s : State} {m : Master} {r : Reg} {i j : Nat} {d : Dev} {v : Nat} {p : State → Prop}
    (h : exec c s = act s (s.dev.getReg m r i j)) (ha : s.dev.mayGet m r i j = true)
    (hw : s.dev.still.readReg m r i j = (d, .done v)) (hb : d.blow = [])
    (hp : p { s with dev := d.answer m.num v false }) : Runs c s p := by
  have hw' : ({ s.dev with resp := [] } : Dev).readReg m r i j = (d, .done v) := hw
  rw [Dev.getReg_ok _ _ _ _ _ ha, hw'] at h
  exact Runs.of_quiet h hb hp

end Sys2Proof.Machine
end

