-- ==== Sys2Proof/Laws/Events.lean ====
section
/-!
SUPPORT. Raising an event, in one lemma: it changes registers of the EVT block, the journal queue and the messages sent, nothing else.
-/

namespace Sys2Proof.Machine

/-- The bits of a word with one bit set. -/
theorem getLsbD_bit (k i : Nat) : ((1 <<< k : Nat) : Word).getLsbD i = (decide (i < 32) && decide (i = k)) := by
  show (BitVec.ofNat 32 (1 <<< k)).getLsbD i = _
  rw [BitVec.getLsbD_ofNat, Nat.one_shiftLeft, Nat.testBit_two_pow]
  congr 1
  exact decide_eq_decide.2 eq_comm

/-- `d'` differs from `d` at most in registers of the EVT block, the journal queue and the messages sent. -/
def EvtOnly (d d' : Dev) : Prop :=
  ∃ regs jq msix, d' = { d with regs := regs, jq := jq, msix := msix } ∧
    ∀ (x : Word) (a : Nat), a < 0x40050000 ∨ 0x40060000 ≤ a → Tab.look regs x a = Tab.look d.regs x a

/-- Nothing changed. -/
theorem EvtOnly.refl (d : Dev) : EvtOnly d d := ⟨d.regs, d.jq, d.msix, rfl, fun _ _ _ => rfl⟩

/-- One such change after another. -/
theorem EvtOnly.trans {d d' d'' : Dev} (h : EvtOnly d d') (h' : EvtOnly d' d'') : EvtOnly d d'' := by
  obtain ⟨r, q, m, rfl, hr⟩ := h
  obtain ⟨r', q', m', rfl, hr'⟩ := h'
  exact ⟨r', q', m', rfl, fun x a ha => (hr' x a ha).trans (hr x a ha)⟩

/-- A register outside the EVT block reads as before. -/
theorem EvtOnly.rd {d d' : Dev} (h : EvtOnly d d') (r : Reg) (i j : Nat)
    (ha : r.addr i j < 0x40050000 ∨ 0x40060000 ≤ r.addr i j) : d'.rd r i j = d.rd r i j := by
  obtain ⟨_, _, _, rfl, hr⟩ := h
  exact hr _ _ ha

/-- A write of a register of the EVT block. -/
theorem EvtOnly.wr (d : Dev) (r : Reg) (v : Word) (i j : Nat) (h : 0x40050000 ≤ r.addr i j) (h' : r.addr i j < 0x40060000) :
    EvtOnly d (d.wr r v i j) :=
  ⟨_, d.jq, d.msix, rfl, fun x a ha => Tab.look_put_ne _ _ _ _ _ _ (by omega)⟩

/-- Sending a vector's message. -/
theorem EvtOnly.sendVector (d : Dev) (v : Nat) (h : v < 4096) : EvtOnly d (d.sendVector v) := by
  unfold Dev.sendVector
  dsimp only
  split
  · exact ⟨_, d.jq, d.msix, rfl, fun x a ha => Tab.look_put_ne _ _ _ _ _ _ (by omega)⟩
  · exact ⟨d.regs, d.jq, _, rfl, fun _ _ _ => rfl⟩

/-- Setting a source's pending bit. -/
theorem EvtOnly.setPending (d : Dev) (s : Nat) (h : s < 256) : EvtOnly d (d.setPending s) := by
  unfold Dev.setPending
  split
  · exact .refl d
  · have h1 : EvtOnly d (d.wr EVT_PEND (d.rd EVT_PEND (s / 32) ||| (1 <<< (s % 32))) (s / 32)) := by
      apply EvtOnly.wr <;> simp only [Reg.addr, EVT_PEND] <;> omega
    dsimp only
    split
    · exact h1
    · refine h1.trans ?_
      unfold Dev.sendMsix
      split
      · exact .sendVector _ _ (Nat.lt_of_lt_of_le (Nat.mod_lt _ (by decide)) (by decide))
      · exact .refl _

/-- Placing an entry in the journal queue. -/
theorem EvtOnly.jqPut (d : Dev) (e : JEnt) (h : e.origin < 1024) : EvtOnly d (d.jqPut e).1 := by
  unfold Dev.jqPut
  split
  · refine EvtOnly.trans (d' := { d with jq := d.jq ++ [e] }) ⟨d.regs, _, d.msix, rfl, fun _ _ _ => rfl⟩ ?_
    exact .wr _ _ _ _ _ (by decide) (by decide)
  · unfold Dev.countOvr
    apply EvtOnly.wr <;> simp only [Reg.addr, EVT_OVR] <;> omega

/-- A raise without the overrun's own. -/
theorem EvtOnly.raiseBase (d : Dev) (s inst : Nat) (h : s < 256) : EvtOnly d (d.raiseBase s inst).1 := by
  unfold Dev.raiseBase
  dsimp only
  have h1 : EvtOnly d (if evGrouped s then d.wr EVT_SUB (d.rd EVT_SUB (s - 40) ||| (1 <<< inst)) (s - 40) else d) := by
    split
    · apply EvtOnly.wr <;> simp only [Reg.addr, EVT_SUB] <;> omega
    · exact .refl d
  generalize (if evGrouped s then d.wr EVT_SUB (d.rd EVT_SUB (s - 40) ||| (1 <<< inst)) (s - 40) else d) = d1 at h1 ⊢
  have h2 := h1.trans (.setPending d1 s h)
  split
  · exact h2.trans (.jqPut _ _ (Nat.lt_of_lt_of_le h (by decide)))
  · exact h2

/-- Raising a source. -/
theorem EvtOnly.raise (d : Dev) (s inst : Nat) (h : s < 256) : EvtOnly d (d.raise s inst) := by
  have h1 := EvtOnly.raiseBase d s inst h
  unfold Dev.raise
  split
  · next d' e => rw [e] at h1; exact h1
  · next d' e =>
    rw [e] at h1
    split
    · exact h1
    · exact h1.trans (.raiseBase _ 21 0 (by omega))

/-- Handing a record to the journal queue. -/
theorem EvtOnly.journal (d : Dev) (e : JEnt) (h : e.origin < 1024) : EvtOnly d (d.journal e) := by
  have h1 := EvtOnly.jqPut d e h
  unfold Dev.journal
  split
  · next d' x => rw [x] at h1; exact h1
  · next d' x =>
    rw [x] at h1
    split
    · exact h1
    · exact h1.trans (.raiseBase _ 21 0 (by omega))

/-- Raising an event or handing over a record changes no field but those three. -/
theorem EvtOnly.boot {d d' : Dev} (h : EvtOnly d d') : d'.boot = d.boot ∧ d'.blow = d.blow ∧ d'.mem = d.mem ∧ d'.eng = d.eng
    ∧ d'.wall = d.wall ∧ d'.resp = d.resp := by
  obtain ⟨_, _, _, rfl, _⟩ := h
  exact ⟨rfl, rfl, rfl, rfl, rfl, rfl⟩

/-! ### What a raise sets -/

/-- Sending a vector's message touches no pending bit. -/
theorem Dev.sendVector_pend (d : Dev) (v k : Nat) (h : k < 8) : (d.sendVector v).rd EVT_PEND k = d.rd EVT_PEND k := by
  unfold Dev.sendVector
  dsimp only
  split
  · exact Tab.look_put_ne _ _ _ _ _ _ (by simp only [Reg.addr, EVT_PEND]; omega)
  · rfl

/-- Setting a pending bit sets it and clears none. -/
theorem Dev.setPending_pend (d : Dev) (s k : Nat) (hk : k < 8) :
    (d.setPending s).rd EVT_PEND k = if k = s / 32 then d.rd EVT_PEND k ||| (1 <<< (s % 32)) else d.rd EVT_PEND k := by
  have hw : ∀ v : Word, (d.wr EVT_PEND v (s / 32)).rd EVT_PEND k = if k = s / 32 then v else d.rd EVT_PEND k := by
    intro v
    by_cases e : k = s / 32
    · subst e; simp
    · rw [if_neg e]
      exact Dev.rd_wr_ne _ _ _ _ _ _ _ _ (by simp only [Reg.addr, EVT_PEND]; omega)
  unfold Dev.setPending
  split
  · next h =>
    by_cases e : k = s / 32
    · subst e
      rw [if_pos rfl]
      apply BitVec.eq_of_getLsbD_eq
      intro i hi
      simp only [Dev.evPending] at h
      rw [BitVec.getLsbD_or, getLsbD_bit]
      by_cases hs : i = s % 32
      · rw [hs, h, Bool.true_or]
      · rw [decide_eq_false hs, Bool.and_false, Bool.or_false]
    · rw [if_neg e]
  · dsimp only
    have hv : ∀ x : Word, (if k = s / 32 then d.rd EVT_PEND (s / 32) ||| x else d.rd EVT_PEND k)
        = if k = s / 32 then d.rd EVT_PEND k ||| x else d.rd EVT_PEND k := by
      intro x
      split
      · next e => rw [e]
      · rfl
    split
    · rw [hw, hv]
    · unfold Dev.sendMsix
      split
      · rw [Dev.sendVector_pend _ _ _ hk, hw, hv]
      · rw [hw, hv]

/-- Placing an entry in the journal queue touches no pending bit. -/
theorem Dev.jqPut_pend (d : Dev) (e : JEnt) (k : Nat) (h : k < 8) : (d.jqPut e).1.rd EVT_PEND k = d.rd EVT_PEND k := by
  unfold Dev.jqPut
  split
  · exact Dev.rd_wr_ne _ _ _ _ _ _ _ _ (by simp only [Reg.addr, EVT_PEND, EVT_QSTAT_HIGH, EVT_QSTAT]; omega)
  · exact Dev.rd_wr_ne _ _ _ _ _ _ _ _ (by simp only [Reg.addr, EVT_PEND, EVT_OVR]; omega)

/-- A raise sets its own pending bit. -/
theorem Dev.raiseBase_pend (d : Dev) (s inst k : Nat) (hk : k < 8) :
    (d.raiseBase s inst).1.rd EVT_PEND k = if k = s / 32 then d.rd EVT_PEND k ||| (1 <<< (s % 32)) else d.rd EVT_PEND k := by
  unfold Dev.raiseBase
  dsimp only
  have h1 : (if evGrouped s then d.wr EVT_SUB (d.rd EVT_SUB (s - 40) ||| (1 <<< inst)) (s - 40) else d).rd EVT_PEND k
      = d.rd EVT_PEND k := by
    split
    · exact Dev.rd_wr_ne _ _ _ _ _ _ _ _ (by simp only [Reg.addr, EVT_PEND, EVT_SUB]; omega)
    · rfl
  generalize (if evGrouped s then d.wr EVT_SUB (d.rd EVT_SUB (s - 40) ||| (1 <<< inst)) (s - 40) else d) = d1 at h1 ⊢
  split
  · rw [Dev.jqPut_pend _ _ _ hk, Dev.setPending_pend _ _ _ hk, h1]
  · rw [Dev.setPending_pend _ _ _ hk, h1]

/-- A raise of source `s` below 256 leaves it pending (R243). -/
theorem Dev.raise_pending (d : Dev) (s inst : Nat) (h : s < 256) : (d.raise s inst).evPending s = true := by
  have hk : s / 32 < 8 := by omega
  have h1 : (d.raiseBase s inst).1.evPending s = true := by
    have hm : s % 32 < 32 := by omega
    unfold Dev.evPending
    rw [Dev.raiseBase_pend d s inst _ hk, if_pos rfl, BitVec.getLsbD_or, getLsbD_bit, decide_eq_true hm, decide_eq_true rfl]
    exact Bool.or_true _
  unfold Dev.raise
  split
  · next d' e => rw [e] at h1; exact h1
  · next d' e =>
    rw [e] at h1
    split
    · exact h1
    · simp only [Dev.evPending, Dev.raiseBase_pend d' 21 0 _ hk] at h1 ⊢
      split <;> simp [h1]

/-- A raise clears no pending bit. -/
theorem Dev.raise_keeps (d : Dev) (s inst k : Nat) (hk : k < 256) (h : d.evPending k = true) : (d.raise s inst).evPending k = true := by
  have hb : ∀ (d : Dev) s inst, d.evPending k = true → (d.raiseBase s inst).1.evPending k = true := by
    intro d s inst h
    unfold Dev.evPending at h ⊢
    rw [Dev.raiseBase_pend _ _ _ _ (by omega)]
    split
    · rw [BitVec.getLsbD_or, h]; rfl
    · exact h
  have h1 := hb d s inst h
  unfold Dev.raise
  split
  · next d' e => rw [e] at h1; exact h1
  · next d' e =>
    rw [e] at h1
    split
    · exact h1
    · exact hb _ _ _ h1

/-- Placing an entry in the journal queue takes none out of it. -/
theorem Dev.jqPut_jq (d : Dev) (e : JEnt) : ∃ l, (d.jqPut e).1.jq = d.jq ++ l := by
  unfold Dev.jqPut
  split
  · exact ⟨[e], rfl⟩
  · exact ⟨[], (List.append_nil _).symm⟩

/-- A raise takes no entry out of the journal queue. -/
theorem Dev.raise_jq (d : Dev) (s inst : Nat) : ∃ l, (d.raise s inst).jq = d.jq ++ l := by
  have hs : ∀ (d : Dev) s, (d.setPending s).jq = d.jq := by
    intro d s
    have hm : ∀ (d : Dev) v, (d.sendVector v).jq = d.jq := by
      intro d v; unfold Dev.sendVector; dsimp only; split <;> rfl
    unfold Dev.setPending
    split
    · rfl
    · dsimp only
      split
      · rfl
      · unfold Dev.sendMsix
        split
        · exact hm _ _
        · rfl
  have hb : ∀ (d : Dev) s inst, ∃ l, (d.raiseBase s inst).1.jq = d.jq ++ l := by
    intro d s inst
    unfold Dev.raiseBase
    dsimp only
    have h1 : (if evGrouped s then d.wr EVT_SUB (d.rd EVT_SUB (s - 40) ||| (1 <<< inst)) (s - 40) else d).jq = d.jq := by split <;> rfl
    generalize (if evGrouped s then d.wr EVT_SUB (d.rd EVT_SUB (s - 40) ||| (1 <<< inst)) (s - 40) else d) = d1 at h1 ⊢
    split
    · obtain ⟨l, hl⟩ := (d1.setPending s).jqPut_jq { origin := s, time := (d1.setPending s).jtime, cls := min 2 ((d1.setPending s).f EVT_MAP_JCLASS s), inst := inst }
      exact ⟨l, by rw [hl, hs, h1]⟩
    · exact ⟨[], by rw [hs, h1, List.append_nil]⟩
  obtain ⟨l, h1⟩ := hb d s inst
  unfold Dev.raise
  split
  · next d' e => rw [e] at h1; exact ⟨l, h1⟩
  · next d' e =>
    rw [e] at h1
    split
    · exact ⟨l, h1⟩
    · obtain ⟨l', h2⟩ := hb d' 21 0
      exact ⟨l ++ l', by rw [h2, h1, List.append_assoc]⟩

end Sys2Proof.Machine
end

