-- ==== Sys2Proof/Laws/Engines.lean ====
section
/-!
SUPPORT. What an engine's own bookkeeping can touch: counting, tagging, rolling back and requesting the token change the engines, the
groups' arbiters, registers of the ENG and EVT blocks, and nothing else.
-/

namespace Sys2Proof.Machine

/-- `d'` differs from `d` at most in the cores, the groups' arbiters, the free values taken, registers of the ENG and EVT blocks, the
journal queue and the messages sent. -/
def EngOnly (d d' : Dev) : Prop :=
  ∃ regs jq msix eng sv0 sv1 groups free,
    d' = { d with regs := regs, jq := jq, msix := msix, eng := eng, sv0 := sv0, sv1 := sv1, groups := groups, free := free } ∧
    ∀ (x : Word) (a : Nat), (a < 0x40050000 ∨ 0x40060000 ≤ a) → (a < 0x40100000 ∨ 0x40120000 ≤ a) →
      Tab.look regs x a = Tab.look d.regs x a

/-- An address outside the ENG and EVT blocks (Table 1-4). -/
theorem blk_apart (a : Nat) (h1 : blkOf a ≠ some .eng) (h2 : blkOf a ≠ some .evt) :
    (a < 0x40050000 ∨ 0x40060000 ≤ a) ∧ (a < 0x40100000 ∨ 0x40120000 ≤ a) := by
  constructor
  · by_cases c : a < 0x40050000 ∨ 0x40060000 ≤ a
    · exact c
    · exfalso; apply h2; unfold blkOf
      rw [if_neg (by omega), if_neg (by omega), if_neg (by omega), if_neg (by omega), if_neg (by omega), if_neg (by omega), if_neg (by omega), if_pos (by omega)]
  · by_cases c : a < 0x40100000 ∨ 0x40120000 ≤ a
    · exact c
    · exfalso; apply h1; unfold blkOf
      rw [if_neg (by omega), if_neg (by omega), if_neg (by omega), if_neg (by omega), if_neg (by omega), if_neg (by omega), if_neg (by omega), if_neg (by omega), if_neg (by omega), if_neg (by omega), if_neg (by omega), if_pos (by omega)]

/-- The frames stay. -/
theorem EngOnly.frames {d d' : Dev} (h : EngOnly d d') : d'.frames = d.frames := by
  obtain ⟨_, _, _, _, _, _, _, _, rfl, _⟩ := h
  rfl

/-- Nothing changed. -/
theorem EngOnly.refl (d : Dev) : EngOnly d d :=
  ⟨d.regs, d.jq, d.msix, d.eng, d.sv0, d.sv1, d.groups, d.free, rfl, fun _ _ _ _ => rfl⟩

/-- One such change after another. -/
theorem EngOnly.trans {d d' d'' : Dev} (h : EngOnly d d') (h' : EngOnly d' d'') : EngOnly d d'' := by
  obtain ⟨_, _, _, _, _, _, _, _, rfl, hr⟩ := h
  obtain ⟨_, _, _, _, _, _, _, _, rfl, hr'⟩ := h'
  exact ⟨_, _, _, _, _, _, _, _, rfl, fun x a h1 h2 => (hr' x a h1 h2).trans (hr x a h1 h2)⟩

/-- Raising events is such a change. -/
theorem EvtOnly.eng {d d' : Dev} (h : EvtOnly d d') : EngOnly d d' := by
  obtain ⟨_, _, _, rfl, hr⟩ := h
  exact ⟨_, _, _, d.eng, d.sv0, d.sv1, d.groups, d.free, rfl, fun x a h1 _ => hr x a h1⟩

/-- Memory stays. -/
theorem EngOnly.mem {d d' : Dev} (h : EngOnly d d') : d'.mem = d.mem := by
  obtain ⟨_, _, _, _, _, _, _, _, rfl, _⟩ := h; rfl

/-- Every byte stays. -/
theorem EngOnly.byte {d d' : Dev} (h : EngOnly d d') (a : Nat) : d'.byte a = d.byte a := by
  simp only [Dev.byte, h.mem]

/-- No fuse is programmed. -/
theorem EngOnly.blow {d d' : Dev} (h : EngOnly d d') : d'.blow = d.blow := by
  obtain ⟨_, _, _, _, _, _, _, _, rfl, _⟩ := h; rfl

/-- No answer is given. -/
theorem EngOnly.resp {d d' : Dev} (h : EngOnly d d') : d'.resp = d.resp := by
  obtain ⟨_, _, _, _, _, _, _, _, rfl, _⟩ := h; rfl

/-- A register outside the two blocks stays. -/
theorem EngOnly.rd {d d' : Dev} (h : EngOnly d d') (r : Reg) (i j : Nat)
    (h1 : r.addr i j < 0x40050000 ∨ 0x40060000 ≤ r.addr i j) (h2 : r.addr i j < 0x40100000 ∨ 0x40120000 ≤ r.addr i j) :
    d'.rd r i j = d.rd r i j := by
  obtain ⟨_, _, _, _, _, _, _, _, rfl, hr⟩ := h
  exact hr _ _ h1 h2

/-- A write of a register of the ENG block. -/
theorem EngOnly.wr (d : Dev) (r : Reg) (v : Word) (i j : Nat) (h : 0x40100000 ≤ r.addr i j) (h' : r.addr i j < 0x40120000) :
    EngOnly d (d.wr r v i j) :=
  ⟨_, d.jq, d.msix, d.eng, d.sv0, d.sv1, d.groups, d.free, rfl, fun x a _ _ => Tab.look_put_ne _ _ _ _ _ _ (by omega)⟩

/-- Replacing an engine. -/
theorem EngOnly.setE (d : Dev) (n : Nat) (g : Eng) : EngOnly d (d.setE n g) :=
  ⟨d.regs, d.jq, d.msix, _, d.sv0, d.sv1, d.groups, d.free, rfl, fun _ _ _ _ => rfl⟩

/-- Replacing a group's arbiter. -/
theorem EngOnly.setGrp (d : Dev) (k : Nat) (g : Group) : EngOnly d (d.setGrp k g) :=
  ⟨d.regs, d.jq, d.msix, d.eng, d.sv0, d.sv1, _, d.free, rfl, fun _ _ _ _ => rfl⟩

/-- Taking a free value. -/
theorem EngOnly.take (d : Dev) (w : Nat) : EngOnly d (d.take w).2 :=
  ⟨d.regs, d.jq, d.msix, d.eng, d.sv0, d.sv1, d.groups, _, rfl, fun _ _ _ _ => rfl⟩

/-- A fold of such changes. -/
theorem EngOnly.foldl {β : Type} (f : Dev → β → Dev) (l : List β) (hf : ∀ d, ∀ x ∈ l, EngOnly d (f d x)) (d : Dev) :
    EngOnly d (l.foldl f d) := by
  induction l generalizing d with
  | nil => exact .refl d
  | cons x l ih => exact (hf d x (by simp)).trans (ih (fun d y hy => hf d y (by simp [hy])) _)

/-- Adding to a performance counter. -/
theorem EngOnly.pmAdd (n : Nat) (hn : n < 32) (fuel : Nat) : ∀ (d : Dev) (k x : Nat), k < 8 → EngOnly d (d.pmAdd n fuel k x) := by
  induction fuel with
  | zero => exact fun d _ _ _ => .refl d
  | succ fuel ih =>
    intro d k x hk
    unfold Dev.pmAdd
    dsimp only
    have h1 : EngOnly d (d.wr ENG_PMCNT_LO (BitVec.ofNat 32 ((d.rd ENG_PMCNT_LO n k).toNat
        + 2 ^ 32 * getBits (d.rd ENG_PMCNT_HI n k) 0 16 + x)) n k) := by
      apply EngOnly.wr <;> simp only [Reg.addr, ENG_PMCNT_LO] <;> omega
    have h2 := fun (v : Word) => h1.trans (EngOnly.wr _ ENG_PMCNT_HI v n k
      (by simp only [Reg.addr, ENG_PMCNT_HI]; omega) (by simp only [Reg.addr, ENG_PMCNT_HI]; omega))
    split
    · exact h2 _
    · split
      · next h =>
        split
        · exact (h2 _).trans (ih _ _ _ (by simp only [Bool.and_eq_true, decide_eq_true_eq] at h; omega))
        · exact h2 _
      · exact (h2 _).trans (EvtOnly.raise _ 43 n (by omega)).eng

/-- An event of Table 3-7. -/
theorem EngOnly.pm (d : Dev) (n code x : Nat) (hn : n < 32) : EngOnly d (d.pm n code x) := by
  unfold Dev.pm
  split
  · exact .refl d
  · refine EngOnly.foldl _ _ (fun d k hk => ?_) d
    simp only [List.mem_range] at hk
    split
    · exact .pmAdd n hn _ _ _ _ hk
    · exact .refl d

/-- Settling the provisional slots. -/
theorem EngOnly.pmSettle (d : Dev) (n : Nat) (good : Bool) (hn : n < 32) : EngOnly d (d.pmSettle n good) := by
  unfold Dev.pmSettle
  exact (EngOnly.setE _ _ _).trans (.pm _ _ _ _ hn)

/-- A retired slot. -/
theorem EngOnly.pmRetire (d : Dev) (n : Nat) (hn : n < 32) : EngOnly d (d.pmRetire n) := by
  unfold Dev.pmRetire
  dsimp only
  split
  · exact .setE _ _ _
  · exact .pm _ _ _ _ hn

/-- The tagged instruction's record. -/
theorem EngOnly.tagFate (d : Dev) (n fate : Nat) (hn : n < 32) : EngOnly d (d.tagFate n fate) := by
  unfold Dev.tagFate
  dsimp only
  split
  · exact .refl d
  · exact (((((EngOnly.take d 32).trans (.setE _ _ _)).trans
        (.wr _ ENG_TAGREC0 _ n 0 (by simp only [Reg.addr, ENG_TAGREC0]; omega) (by simp only [Reg.addr, ENG_TAGREC0]; omega))).trans
        (.wr _ ENG_TAGREC1 _ n 0 (by simp only [Reg.addr, ENG_TAGREC1]; omega) (by simp only [Reg.addr, ENG_TAGREC1]; omega))).trans
        (.wr _ ENG_TAGREC2 _ n 0 (by simp only [Reg.addr, ENG_TAGREC2]; omega) (by simp only [Reg.addr, ENG_TAGREC2]; omega))).trans
        (EvtOnly.raise _ 44 n (by omega)).eng

/-- Restoring the checkpoint. -/
theorem EngOnly.restore (d : Dev) (n : Nat) (hn : n < 32) : EngOnly d (d.restore n) := by
  unfold Dev.restore
  dsimp only
  split
  · exact .refl d
  · exact ((EngOnly.pmSettle _ _ _ hn).trans (.tagFate _ _ _ hn)).trans (.setE _ _ _)

/-- Requesting the token. -/
theorem EngOnly.requestToken (d : Dev) (n : Nat) : EngOnly d (d.requestToken n) := by
  unfold Dev.requestToken
  dsimp only
  split
  · exact .refl d
  · exact .setGrp _ _ _

/-- Giving the token up. -/
theorem EngOnly.releaseToken (d : Dev) (n : Nat) : EngOnly d (d.releaseToken n) := .setGrp _ _ _

/-- An engine's counter. -/
theorem EngOnly.count (d : Dev) (r : Reg) (i j n : Nat) (h : 0x40100000 ≤ r.addr i j) (h' : r.addr i j < 0x40120000) :
    EngOnly d (d.count r i j n) := .wr _ _ _ _ _ h h'

/-- A conflict rollback (R105, R106). -/
theorem EngOnly.conflict (d : Dev) (n : Nat) (hn : n < 32) : EngOnly d (d.conflict n) := by
  unfold Dev.conflict
  split
  · exact .refl d
  · have h1 := ((EngOnly.restore d n hn).trans
      (.count _ ENG_CNT_CONF n 0 1 (by simp only [Reg.addr, ENG_CNT_CONF]; omega) (by simp only [Reg.addr, ENG_CNT_CONF]; omega))).trans
      (.pm _ n 6 1 hn)
    dsimp only
    split
    · exact (h1.trans (.setE _ _ _)).trans
        (.count _ ENG_CNT_SERIAL n 0 1 (by simp only [Reg.addr, ENG_CNT_SERIAL]; omega) (by simp only [Reg.addr, ENG_CNT_SERIAL]; omega))
    · split
      · exact (h1.trans (.setE _ _ _)).trans (.requestToken _ _)
      · exact h1.trans (.setE _ _ _)

/-- The rollbacks a write causes. -/
theorem EngOnly.conflicts (d : Dev) (me : Option Nat) (ls : List Nat) : EngOnly d (d.conflicts me ls) := by
  unfold Dev.conflicts
  refine EngOnly.foldl _ _ (fun d n hn => ?_) d
  simp only [List.mem_range] at hn
  split
  · exact .conflict d n hn
  · exact .refl d

end Sys2Proof.Machine
end

