-- ==== Sys2Proof/Laws/Memory.lean ====
section
/-!
SUPPORT. Memory: a read after a write, the canonical form that every memory operation keeps, and what a load and a store of memory
come to when nothing stands in their way.
-/

namespace Sys2Proof.Machine

/-! ### Numbers and bytes -/

/-- A number of `n` bytes has `n` of them. -/
@[simp] theorem natLe_length (n v : Nat) : (natLe n v).length = n := by
  induction n generalizing v with
  | zero => rfl
  | succ n ih => simp [natLe, ih]

/-- The bytes of a number spell the number. -/
theorem leNat_natLe (n v : Nat) : leNat (natLe n v) = v % 256 ^ n := by
  induction n generalizing v with
  | zero => simp [natLe, leNat, Nat.mod_one]
  | succ n ih =>
    have e : (BitVec.ofNat 8 v).toNat = v % 256 := by simp
    rw [natLe, leNat, ih, e, Nat.pow_succ', Nat.mod_mul]

/-! ### Reading after a write -/

/-- What is read depends on memory alone. -/
theorem Dev.bytesAt_congr {d d' : Dev} (h : d'.mem = d.mem) (n : Nat) : ∀ a, d'.bytesAt a n = d.bytesAt a n := by
  induction n with
  | zero => exact fun _ => rfl
  | succ n ih =>
    intro a
    simp only [Dev.bytesAt, ih]
    simp only [Dev.byte, h]

/-- The number read depends on memory alone. -/
theorem Dev.bytesNat_congr {d d' : Dev} (h : d'.mem = d.mem) (a w : Nat) : d'.bytesNat a w = d.bytesNat a w := by
  simp only [Dev.bytesNat, Dev.bytesAt_congr h]

/-- Storing bytes leaves the registers, the answers and the fuses. -/
theorem Dev.setBytes_only (l : List Byte) : ∀ (d : Dev) (a : Nat), ∃ m, d.setBytes a l = { d with mem := m } := by
  induction l with
  | nil => exact fun d _ => ⟨d.mem, rfl⟩
  | cons x l ih =>
    intro d a
    obtain ⟨m, h⟩ := ih (d.setByte a x) (a + 1)
    exact ⟨m, h⟩

theorem Dev.setBytes_rest (l : List Byte) : ∀ (d : Dev) (a : Nat),
    (d.setBytes a l).regs = d.regs ∧ (d.setBytes a l).resp = d.resp ∧ (d.setBytes a l).blow = d.blow := by
  induction l with
  | nil => exact fun _ _ => ⟨rfl, rfl, rfl⟩
  | cons x l ih => exact fun d a => ih (d.setByte a x) (a + 1)

/-- A byte below the bytes stored stays. -/
theorem Dev.byte_setBytes_lt (l : List Byte) : ∀ (d : Dev) (a b : Nat), b < a → (d.setBytes a l).byte b = d.byte b := by
  induction l with
  | nil => exact fun _ _ _ _ => rfl
  | cons x l ih =>
    intro d a b h
    show ((d.setByte a x).setBytes (a + 1) l).byte b = _
    rw [ih _ _ _ (by omega)]
    exact Dev.byte_setByte_ne _ _ _ _ (by omega)

/-- A byte past the bytes stored stays. -/
theorem Dev.byte_setBytes_ge (l : List Byte) : ∀ (d : Dev) (a b : Nat), a + l.length ≤ b → (d.setBytes a l).byte b = d.byte b := by
  induction l with
  | nil => exact fun _ _ _ _ => rfl
  | cons x l ih =>
    intro d a b h
    simp only [List.length_cons] at h
    show ((d.setByte a x).setBytes (a + 1) l).byte b = _
    rw [ih _ _ _ (by omega)]
    exact Dev.byte_setByte_ne _ _ _ _ (by omega)

/-- The bytes stored read back. -/
theorem Dev.bytesAt_setBytes (l : List Byte) : ∀ (d : Dev) (a : Nat), (d.setBytes a l).bytesAt a l.length = l := by
  induction l with
  | nil => exact fun _ _ => rfl
  | cons x l ih =>
    intro d a
    show ((d.setByte a x).setBytes (a + 1) l).byte a :: Dev.bytesAt _ (a + 1) l.length = _
    rw [Dev.byte_setBytes_lt _ _ _ _ (by omega)]
    show _ :: ((d.setByte a x).setBytes (a + 1) l).bytesAt (a + 1) l.length = _
    rw [ih]
    simp [Dev.byte_setByte]

/-- A byte outside the bytes stored stays. -/
theorem Dev.byte_putNat (d : Dev) (a w v b : Nat) (h : b < a ∨ a + w ≤ b) : (d.putNat a w v).byte b = d.byte b := by
  unfold Dev.putNat
  rcases h with h | h
  · rw [Dev.byte_setBytes_lt _ _ _ _ h]; rfl
  · rw [Dev.byte_setBytes_ge _ _ _ _ (by simpa using h)]; rfl

/-- The number stored reads back. -/
theorem Dev.bytesNat_putNat (d : Dev) (a w v : Nat) : (d.putNat a w v).bytesNat a w = v % 256 ^ w := by
  have h := Dev.bytesAt_setBytes (natLe w v) (d.cleanUnits a w) a
  rw [natLe_length] at h
  unfold Dev.bytesNat Dev.putNat
  rw [h, leNat_natLe]

/-! ### The canonical form -/

/-- Storing a byte keeps the form. -/
theorem Dev.memWf_setByte (d : Dev) (a : Nat) (v : Byte) (h : d.memWf = true) : (d.setByte a v).memWf = true :=
  Tab.canon_put memDefault _ _ _ h

/-- Storing bytes keeps the form. -/
theorem Dev.memWf_setBytes (l : List Byte) : ∀ (d : Dev) (a : Nat), d.memWf = true → (d.setBytes a l).memWf = true := by
  induction l with
  | nil => exact fun _ _ h => h
  | cons x l ih => exact fun d a h => ih _ _ (d.memWf_setByte a x h)

/-- Forgetting bytes keeps the form. -/
theorem Dev.memWf_forget (d : Dev) (lo hi : Nat) (h : d.memWf = true) : (d.forget lo hi).memWf = true := Tab.canon_filter _ _ _ h

/-- Filling a memory with zeros keeps the form. -/
theorem Dev.memWf_zeroMem (d : Dev) (k : Nat) (h : d.memWf = true) : (d.zeroMem k).memWf = true := Tab.canon_filter _ _ _ h

/-- Storing a number keeps the form. -/
theorem Dev.memWf_putNat (d : Dev) (a w v : Nat) (h : d.memWf = true) : (d.putNat a w v).memWf = true :=
  Dev.memWf_setBytes _ _ _ h

/-- Memory that did not change is in the form it was in. -/
theorem EngOnly.memWf {d d' : Dev} (h : EngOnly d d') (hw : d.memWf = true) : d'.memWf = true := by
  unfold Dev.memWf at *
  rw [h.mem]
  exact hw

/-- Two latch registers written and EV016 raised. -/
theorem Dev.latched (d : Dev) (x y : Word) :
    (((d.wr MEM_ACCERR x).wr MEM_ACCERR_ADDR y).raise 16).rd MEM_ACCERR = x ∧
    (((d.wr MEM_ACCERR x).wr MEM_ACCERR_ADDR y).raise 16).rd MEM_ACCERR_ADDR = y ∧
    (((d.wr MEM_ACCERR x).wr MEM_ACCERR_ADDR y).raise 16).evPending 16 = true ∧
    (((d.wr MEM_ACCERR x).wr MEM_ACCERR_ADDR y).raise 16).mem = d.mem ∧
    (((d.wr MEM_ACCERR x).wr MEM_ACCERR_ADDR y).raise 16).resp = d.resp ∧
    (((d.wr MEM_ACCERR x).wr MEM_ACCERR_ADDR y).raise 16).blow = d.blow ∧
    (∀ r i j, r.addr i j ≠ MEM_ACCERR.addr 0 0 → r.addr i j ≠ MEM_ACCERR_ADDR.addr 0 0 →
      (r.addr i j < 0x40050000 ∨ 0x40060000 ≤ r.addr i j) →
      (((d.wr MEM_ACCERR x).wr MEM_ACCERR_ADDR y).raise 16).rd r i j = d.rd r i j) := by
  have hE := EvtOnly.raise ((d.wr MEM_ACCERR x).wr MEM_ACCERR_ADDR y) 16 0 (by omega)
  refine ⟨?_, ?_, Dev.raise_pending _ _ _ (by omega), hE.eng.mem, hE.eng.resp, hE.eng.blow, fun r i j h1 h2 h3 => ?_⟩
  · rw [hE.rd MEM_ACCERR 0 0 (by decide), Dev.rd_wr_ne _ _ _ _ _ _ _ _ (by decide), Dev.rd_wr]
  · rw [hE.rd MEM_ACCERR_ADDR 0 0 (by decide), Dev.rd_wr]
  · rw [hE.rd r i j h3, Dev.rd_wr_ne _ _ _ _ _ _ _ _ h2, Dev.rd_wr_ne _ _ _ _ _ _ _ _ h1]

/-- The first refused access of memory (MEM_ACCERR, EV016) latches its master, cause and address. -/
theorem Dev.latchAcc_fresh (d : Dev) (n a c : Nat) (w : Bool) (h : d.b MEM_ACCERR_VALID = false) :
    d.latchAcc n a c w = ((d.wr MEM_ACCERR (BitVec.ofNat 32 (n + c * 256 + w.toNat * 1024 + 0x80000000))).wr MEM_ACCERR_ADDR
      (BitVec.ofNat 32 a)).raise 16 := by
  unfold Dev.latchAcc
  rw [if_neg (by rw [h]; simp)]

/-- Latching a refused access touches registers of the MEM and EVT blocks only. -/
theorem Dev.latchAcc_mem (d : Dev) (n a c : Nat) (w : Bool) : (d.latchAcc n a c w).mem = d.mem := by
  unfold Dev.latchAcc
  split
  · rfl
  · dsimp only
    rw [(EvtOnly.raise _ 16 0 (by omega)).eng.mem, Dev.wr_mem, Dev.wr_mem]

/-- Latching an integrity report leaves memory. -/
theorem Dev.latchInteg_mem (d : Dev) (n a c : Nat) : (d.latchInteg n a c).mem = d.mem := by
  unfold Dev.latchInteg
  split
  · rfl
  · dsimp only
    rw [(EvtOnly.raise _ 18 0 (by omega)).eng.mem, Dev.wr_mem, Dev.wr_mem]

/-- A store by a master leaves memory or writes its bytes. -/
theorem Dev.memStore_mem (d : Dev) (n a w v : Nat) :
    (d.memStore n a w v).1.mem = d.mem ∨ (d.memStore n a w v).1.mem = (d.putNat a w v).mem := by
  unfold Dev.memStore
  split
  · exact .inl (Dev.latchAcc_mem _ _ _ _ _)
  · split
    · exact .inl rfl
    · dsimp only
      split
      · exact .inl (Dev.latchAcc_mem _ _ _ _ _)
      · split
        · exact .inl ((Dev.latchInteg_mem _ _ _ _).trans rfl)
        · refine .inr ?_
          split
          · split <;> rfl
          · rfl

/-- A store by a master keeps the form. -/
theorem Dev.memWf_memStore (d : Dev) (n a w v : Nat) (h : d.memWf = true) : (d.memStore n a w v).1.memWf = true := by
  unfold Dev.memWf
  rcases Dev.memStore_mem d n a w v with e | e <;> rw [e]
  · exact h
  · exact Dev.memWf_putNat d a w v h

/-- A comb store keeps the form. -/
theorem Dev.memWf_combStore (d : Dev) (m : Master) (a w v : Nat) (h : d.memWf = true) : (d.combStore m a w v).1.memWf = true := by
  have hb : (d.bankAdmits m a true).1.memWf = true := by
    unfold Dev.bankAdmits
    split
    · exact h
    · unfold Dev.memWf; rw [Dev.latchAcc_mem]; exact h
  unfold Dev.combStore
  split
  · next d' e => rw [e] at hb; exact hb
  · next d' e =>
    rw [e] at hb
    have hs := Dev.memWf_memStore d' m.num a w v hb
    split
    · next d'' x e' => rw [e'] at hs; exact (EngOnly.conflicts _ _ _).memWf hs
    · exact hs

/-! ### An access that nothing stops -/

/-- A load of memory that is on, reloads nothing, holds no poison and no failing word reads its bytes. -/
theorem Dev.memLoad_ok (d : Dev) (n a w : Nat) (h : d.memFree a w = true) : d.memLoad n a w = (d, .done (d.bytesNat a w)) := by
  simp only [Dev.memFree, Bool.and_eq_true, Bool.not_eq_true', List.isEmpty_iff] at h
  obtain ⟨⟨⟨h1, h2⟩, h3⟩, h4⟩ := h
  unfold Dev.memLoad
  rw [if_neg (by rw [h1]; simp), if_neg (by rw [h2]; simp), if_neg (by rw [h3]; simp), h4]

/-- A store outside code memory that nothing stops writes its bytes. -/
theorem Dev.memStore_ok (d : Dev) (n a w v : Nat) (h : d.memFree a w = true) (hc : ∀ k, regionOf a ≠ .code k) :
    d.memStore n a w v = (d.putNat a w v, .done 0) := by
  simp only [Dev.memFree, Bool.and_eq_true, Bool.not_eq_true', List.isEmpty_iff] at h
  obtain ⟨⟨⟨h1, h2⟩, h3⟩, h4⟩ := h
  have hp : (unitsOf a w (poisonUnit a)).any (fun x => d.poison.contains x && !unitFull a w x (poisonUnit a)) = false := by
    rw [List.any_eq_false]
    intro x hx
    have := List.any_eq_false.mp h3 x hx
    simp only [Bool.not_eq_true] at this
    rw [this]; simp
  unfold Dev.memStore
  rw [if_neg (by rw [h1]; simp), if_neg (by rw [h2]; simp), if_neg (by rw [hp]; simp), h4]
  dsimp only [List.find?]
  split
  · next k hk => exact absurd hk (hc k)
  · rfl

/-- A comb load that nothing stops. -/
theorem Dev.combLoad_ok (d : Dev) (m : Master) (a w : Nat) (b : Bool) (h : d.combFree m a w b = true) :
    d.combLoad m a w = (d, .done (d.bytesNat a w)) := by
  simp only [Dev.combFree, Bool.and_eq_true] at h
  unfold Dev.combLoad Dev.bankAdmits
  rw [if_pos h.1.1.2]
  exact Dev.memLoad_ok _ _ _ _ h.1.2

/-- A comb store that nothing stops: its bytes, and the rollbacks it causes (R105). -/
theorem Dev.combStore_ok (d : Dev) (m : Master) (a w v : Nat) (b : Bool) (h : d.combFree m a w b = true) :
    d.combStore m a w v = ((d.putNat a w v).conflicts (engOf m) [lineOf a], .done 0) := by
  simp only [Dev.combFree, Bool.and_eq_true, beq_iff_eq] at h
  unfold Dev.combStore Dev.bankAdmits
  rw [if_pos h.1.1.2]
  dsimp only
  rw [Dev.memStore_ok _ _ _ _ _ h.1.2 (by rw [h.1.1.1.1]; simp)]

/-- Serving a comb load that nothing stops. -/
theorem Dev.serve_load (d : Dev) (m : Master) (a : Word) (w : Width) (k : Nat) (h : d.combFree m a.toNat w.bytes false = true) :
     d.serve ⟨⟨m, a, w, none⟩, k⟩ = d.answer m.num (d.bytesNat a.toNat w.bytes) false := by
  have hc := Dev.combLoad_ok _ _ _ _ _ h
  simp only [Dev.combFree, Bool.and_eq_true, beq_iff_eq, Bool.not_eq_true'] at h
  have e2 : d.combAcc m a.toNat w.bytes none = (d, .done (d.bytesNat a.toNat w.bytes)) := by
    unfold Dev.combAcc
    rw [if_neg (by rw [show (none : Option Nat).isSome = false from rfl, h.2]; simp)]
    dsimp only
    rw [hc]; rfl
  unfold Dev.serve
  dsimp only
  rw [show Option.map BitVec.toNat (none : Option Long) = none from rfl, Dev.bus_comb _ _ _ _ _ h.1.1.1.1 h.1.1.1.2, e2]

/-- Serving a comb store that nothing stops. -/
theorem Dev.serve_store (d : Dev) (m : Master) (a : Word) (w : Width) (v : Long) (k : Nat) (h : d.combFree m a.toNat w.bytes true = true) :
     d.serve ⟨⟨m, a, w, some v⟩, k⟩ = ((d.putNat a.toNat w.bytes v.toNat).conflicts (engOf m) [lineOf a.toNat]).answer m.num 0 false := by
  have hc := Dev.combStore_ok _ _ _ _ v.toNat _ h
  simp only [Dev.combFree, Bool.and_eq_true, beq_iff_eq, Bool.not_eq_true'] at h
  have e2 : d.combAcc m a.toNat w.bytes (some v.toNat) = ((d.putNat a.toNat w.bytes v.toNat).conflicts (engOf m) [lineOf a.toNat], .done 0) := by
    unfold Dev.combAcc
    rw [if_neg (by rw [show (some v.toNat : Option Nat).isSome = true from rfl, h.2]; simp)]
    dsimp only
    rw [hc]; rfl
  unfold Dev.serve
  dsimp only
  rw [show Option.map BitVec.toNat (some v) = some v.toNat from rfl, Dev.bus_comb _ _ _ _ _ h.1.1.1.1 h.1.1.1.2, e2]

/-- Serving a comb request of a master outside the owner code (R201). -/
theorem Dev.serve_refused (d : Dev) (m : Master) (a : Word) (w : Width) (q : Option Long) (k : Nat) (hr : regionOf a.toNat = .comb) (ha : a.toNat % w.bytes = 0)
    (hw : d.combWaits m a.toNat q.isSome = false) (ho : d.ownerIncl (d.f MEM_BANKOWN_OWNER (combBank a.toNat)) m = false) :
     d.serve ⟨⟨m, a, w, q⟩, k⟩ = (d.latchAcc m.num a.toNat 1 q.isSome).answer m.num 0 true := by
  have hq : (q.map BitVec.toNat).isSome = q.isSome := by cases q <;> rfl
  have e2 : d.combAcc m a.toNat w.bytes (q.map BitVec.toNat) = (d.latchAcc m.num a.toNat 1 q.isSome, .err) := by
    unfold Dev.combAcc
    rw [if_neg (by rw [hq, hw]; simp)]
    cases q with
    | none =>
      simp only [Option.map, Option.isSome, Dev.combLoad, Dev.bankAdmits]
      rw [if_neg (by rw [ho]; simp)]
      rfl
    | some v =>
      simp only [Option.map, Option.isSome, Dev.combStore, Dev.bankAdmits]
      rw [if_neg (by rw [ho]; simp)]
      rfl
  unfold Dev.serve
  dsimp only
  rw [Dev.bus_comb _ _ _ _ _ hr ha, e2]

/-- Serving one request alone. -/
theorem fold_alone (f : Dev → Waiting → Dev) (d : Dev) (x : Waiting) :
    (List.foldl (fun acc y => insWaiting y acc) [] [x]).foldl f d = f d x := rfl

/-- Of two loads of one comb bank made in one cycle, the lower master number goes first and the other waits (R13). -/
theorem Dev.cycle_two (d : Dev) (m m' : Master) (a a' : Word) (w w' : Width) (hw : d.waiting = []) (hm : m.num < m'.num)
    (hr : regionOf a.toNat = .comb) (hr' : regionOf a'.toNat = .comb) (hk : combBank a'.toNat = combBank a.toNat) :
    d.cycle [⟨m', a', w', none⟩, ⟨m, a, w, none⟩] =
      ({ d with waiting := [⟨⟨m', a', w', none⟩, 1⟩], resp := [] } : Dev).serve ⟨⟨m, a, w, none⟩, 0⟩ := by
  have g : ∀ q, (portOf q).getD 0 < 100 → ∀ l, colliding l ⟨q, 0⟩ = none := by
    intro q hq l
    unfold colliding
    rw [if_neg]
    simp only [decide_eq_true_eq]; omega
  have e1 : portOf ⟨m, a, w, none⟩ = some (combBank a.toNat) := by simp [portOf, hr]
  have e2 : portOf ⟨m', a', w', none⟩ = some (combBank a.toNat) := by simp [portOf, hr', hk]
  have e3 : combBank a.toNat < 100 := by unfold combBank; omega
  have l1 : losesTo [(0, (⟨⟨m', a', w', none⟩, 0⟩ : Waiting)), (1, ⟨⟨m, a, w, none⟩, 0⟩)] 0 ⟨⟨m', a', w', none⟩, 0⟩ = true := by
    simp [losesTo, e1, e2, ahead, hm]
  have l2 : losesTo [(0, (⟨⟨m', a', w', none⟩, 0⟩ : Waiting)), (1, ⟨⟨m, a, w, none⟩, 0⟩)] 1 ⟨⟨m, a, w, none⟩, 0⟩ = false := by
    simp [losesTo, e1, e2, ahead]; omega
  have f : (List.range ([] ++ [(⟨m', a', w', none⟩ : Req), ⟨m, a, w, none⟩].map (fun q => (⟨q, 0⟩ : Waiting))).length).zip
      ([] ++ [(⟨m', a', w', none⟩ : Req), ⟨m, a, w, none⟩].map (fun q => (⟨q, 0⟩ : Waiting)))
      = [(0, (⟨⟨m', a', w', none⟩, 0⟩ : Waiting)), (1, ⟨⟨m, a, w, none⟩, 0⟩)] := rfl
  have f1 : List.filter (fun (e : Nat × Waiting) =>
      losesTo [(0, (⟨⟨m', a', w', none⟩, 0⟩ : Waiting)), (1, ⟨⟨m, a, w, none⟩, 0⟩)] e.1 e.2)
      [(0, (⟨⟨m', a', w', none⟩, 0⟩ : Waiting)), (1, ⟨⟨m, a, w, none⟩, 0⟩)] = [(0, ⟨⟨m', a', w', none⟩, 0⟩)] := by
    simp only [List.filter, l1, l2]
  have f2 : List.filter (fun (e : Nat × Waiting) =>
      !losesTo [(0, (⟨⟨m', a', w', none⟩, 0⟩ : Waiting)), (1, ⟨⟨m, a, w, none⟩, 0⟩)] e.1 e.2)
      [(0, (⟨⟨m', a', w', none⟩, 0⟩ : Waiting)), (1, ⟨⟨m, a, w, none⟩, 0⟩)] = [(1, ⟨⟨m, a, w, none⟩, 0⟩)] := by
    simp only [List.filter, l1, l2, Bool.not_true, Bool.not_false]
  have m1 : List.map (fun (e : Nat × Waiting) => ({ e.2 with lost := e.2.lost + 1 } : Waiting)) [(0, ⟨⟨m', a', w', none⟩, 0⟩)]
      = [⟨⟨m', a', w', none⟩, 1⟩] := rfl
  have m2 : List.map (fun (e : Nat × Waiting) => e.2) [(1, (⟨⟨m, a, w, none⟩, 0⟩ : Waiting))] = [⟨⟨m, a, w, none⟩, 0⟩] := rfl
  have gg := g _ (show (portOf ⟨m, a, w, none⟩).getD 0 < 100 by rw [e1, Option.getD_some]; exact e3) [⟨⟨m, a, w, none⟩, 0⟩]
  unfold Dev.cycle
  rw [hw]
  dsimp only
  rw [f, f1, f2, m1, m2, fold_alone]
  exact Dev.serveIn_free _ _ _ gg

/-! ### Ranges of the address map -/

/-- An address of comb memory. -/
theorem regionOf_comb (a : Nat) (h : regionOf a = .comb) : 0x20000000 ≤ a ∧ a < 0x20400000 := by
  unfold regionOf at h
  by_cases h0 : a < 0x20000
  · rw [if_pos h0] at h; cases h
  rw [if_neg h0] at h
  by_cases h1 : a < 0x10000000
  · rw [if_pos h1] at h; cases h
  rw [if_neg h1] at h
  by_cases h2 : a < 0x10080000
  · rw [if_pos h2] at h; cases h
  rw [if_neg h2] at h
  by_cases h3 : a < 0x10100000
  · rw [if_pos h3] at h; cases h
  rw [if_neg h3] at h
  by_cases h4 : a < 0x10180000
  · rw [if_pos h4] at h; cases h
  rw [if_neg h4] at h
  by_cases h5 : a < 0x20000000
  · rw [if_pos h5] at h; cases h
  rw [if_neg h5] at h
  by_cases h6 : a < 0x20400000
  · omega
  rw [if_neg h6] at h
  by_cases h7 : a < 0x30000000
  · rw [if_pos h7] at h; cases h
  rw [if_neg h7] at h
  by_cases h8 : a < 0x30400000
  · rw [if_pos h8] at h
    dsimp only at h
    split at h
    · cases h
    · split at h <;> cases h
  rw [if_neg h8] at h
  by_cases h9 : a < 0x40000000
  · rw [if_pos h9] at h; cases h
  rw [if_neg h9] at h
  by_cases h10 : a < 0x40A00000
  · rw [if_pos h10] at h; cases h
  rw [if_neg h10] at h
  by_cases h11 : a < 0x60000000
  · rw [if_pos h11] at h; cases h
  rw [if_neg h11] at h
  by_cases h12 : a < 0x60100000
  · rw [if_pos h12] at h; cases h
  rw [if_neg h12] at h
  by_cases h13 : a < 0x70000000
  · rw [if_pos h13] at h; cases h
  rw [if_neg h13] at h
  by_cases h14 : a < 0x80000000
  · rw [if_pos h14] at h; cases h
  rw [if_neg h14] at h
  by_cases h15 : a < 0x90000000
  · rw [if_pos h15] at h; cases h
  rw [if_neg h15] at h
  cases h

/-- An address of a data memory. -/
theorem regionOf_data (a n : Nat) (h : regionOf a = .data n) : 0x30000000 ≤ a ∧ a < 0x30400000 := by
  unfold regionOf at h
  by_cases h0 : a < 0x20000
  · rw [if_pos h0] at h; cases h
  rw [if_neg h0] at h
  by_cases h1 : a < 0x10000000
  · rw [if_pos h1] at h; cases h
  rw [if_neg h1] at h
  by_cases h2 : a < 0x10080000
  · rw [if_pos h2] at h; cases h
  rw [if_neg h2] at h
  by_cases h3 : a < 0x10100000
  · rw [if_pos h3] at h; cases h
  rw [if_neg h3] at h
  by_cases h4 : a < 0x10180000
  · rw [if_pos h4] at h; cases h
  rw [if_neg h4] at h
  by_cases h5 : a < 0x20000000
  · rw [if_pos h5] at h; cases h
  rw [if_neg h5] at h
  by_cases h6 : a < 0x20400000
  · rw [if_pos h6] at h; cases h
  rw [if_neg h6] at h
  by_cases h7 : a < 0x30000000
  · rw [if_pos h7] at h; cases h
  rw [if_neg h7] at h
  by_cases h8 : a < 0x30400000
  · omega
  rw [if_neg h8] at h
  by_cases h9 : a < 0x40000000
  · rw [if_pos h9] at h; cases h
  rw [if_neg h9] at h
  by_cases h10 : a < 0x40A00000
  · rw [if_pos h10] at h; cases h
  rw [if_neg h10] at h
  by_cases h11 : a < 0x60000000
  · rw [if_pos h11] at h; cases h
  rw [if_neg h11] at h
  by_cases h12 : a < 0x60100000
  · rw [if_pos h12] at h; cases h
  rw [if_neg h12] at h
  by_cases h13 : a < 0x70000000
  · rw [if_pos h13] at h; cases h
  rw [if_neg h13] at h
  by_cases h14 : a < 0x80000000
  · rw [if_pos h14] at h; cases h
  rw [if_neg h14] at h
  by_cases h15 : a < 0x90000000
  · rw [if_pos h15] at h; cases h
  rw [if_neg h15] at h
  cases h

end Sys2Proof.Machine
end

