-- ==== Sys2Proof/Laws/Reading.lean ====
section
/-!
SUPPORT. Reading a field of a register after other fields, other registers or other parts of the state have been set, so that a chain of
updates is read by simp (side conditions by decide).
-/

namespace Sys2Proof.Machine

/-! ### A flag after a field or a flag is set -/

/-- Equal registers read equal fields. -/
theorem Dev.f_congr {d d' : Dev} (x : RegFld) (i j : Nat) (h : d'.rd x.reg i j = d.rd x.reg i j) : d'.f x i j = d.f x i j := by
  unfold Dev.f
  rw [h]

/-- Equal registers read equal flags. -/
theorem Dev.b_congr {d d' : Dev} (x : RegFld) (i j : Nat) (h : d'.rd x.reg i j = d.rd x.reg i j) : d'.b x i j = d.b x i j := by
  unfold Dev.b
  rw [Dev.f_congr x i j h]

/-- Setting a field leaves a field of the same register instance that does not meet it. -/
@[simp] theorem Dev.f_setF_at (d : Dev) (x y : RegFld) (v i j i' j' : Nat) (h : x.lo + x.w ≤ 32) (ha : y.reg.addr i' j' = x.reg.addr i j)
    (hr : y.reg.rst i' j' = x.reg.rst i j) (hd : y.lo + y.w ≤ x.lo ∨ x.lo + x.w ≤ y.lo) : (d.setF x v i j).f y i' j' = d.f y i' j' := by
  have e : ∀ d : Dev, d.rd y.reg i' j' = d.rd x.reg i j := fun d => by unfold Dev.rd; rw [ha, hr]
  unfold Dev.f Dev.setF
  rw [e, e, Dev.rd_wr]
  exact getBits_putBits_ne _ _ _ _ _ _ h hd

@[simp] theorem Dev.b_setF_at (d : Dev) (x y : RegFld) (v i j i' j' : Nat) (h : x.lo + x.w ≤ 32) (ha : y.reg.addr i' j' = x.reg.addr i j)
    (hr : y.reg.rst i' j' = x.reg.rst i j) (hd : y.lo + y.w ≤ x.lo ∨ x.lo + x.w ≤ y.lo) : (d.setF x v i j).b y i' j' = d.b y i' j' := by
  unfold Dev.b
  rw [Dev.f_setF_at d x y v i j i' j' h ha hr hd]

@[simp] theorem Dev.f_setB_at (d : Dev) (x y : RegFld) (v : Bool) (i j i' j' : Nat) (h : x.lo + x.w ≤ 32)
    (ha : y.reg.addr i' j' = x.reg.addr i j) (hr : y.reg.rst i' j' = x.reg.rst i j) (hd : y.lo + y.w ≤ x.lo ∨ x.lo + x.w ≤ y.lo) :
    (d.setB x v i j).f y i' j' = d.f y i' j' := Dev.f_setF_at d x y _ i j i' j' h ha hr hd

@[simp] theorem Dev.b_setB_at (d : Dev) (x y : RegFld) (v : Bool) (i j i' j' : Nat) (h : x.lo + x.w ≤ 32)
    (ha : y.reg.addr i' j' = x.reg.addr i j) (hr : y.reg.rst i' j' = x.reg.rst i j) (hd : y.lo + y.w ≤ x.lo ∨ x.lo + x.w ≤ y.lo) :
    (d.setB x v i j).b y i' j' = d.b y i' j' := Dev.b_setF_at d x y _ i j i' j' h ha hr hd

@[simp] theorem Dev.b_setF (d : Dev) (x : RegFld) (v i j : Nat) (h : x.lo + x.w ≤ 32) : (d.setF x v i j).b x i j = (v % 2 ^ x.w != 0) := by
  unfold Dev.b
  rw [Dev.f_setF d x v i j h]

@[simp] theorem Dev.b_setF_ne (d : Dev) (x y : RegFld) (v i j i' j' : Nat) (h : y.reg.addr i' j' ≠ x.reg.addr i j) :
    (d.setF x v i j).b y i' j' = d.b y i' j' := by
  unfold Dev.b
  rw [Dev.f_setF_ne d x y v i j i' j' h]

@[simp] theorem Dev.b_setB_ne (d : Dev) (x y : RegFld) (v : Bool) (i j i' j' : Nat) (h : y.reg.addr i' j' ≠ x.reg.addr i j) :
    (d.setB x v i j).b y i' j' = d.b y i' j' := Dev.b_setF_ne d x y _ i j i' j' h

@[simp] theorem Dev.f_setB_ne (d : Dev) (x y : RegFld) (v : Bool) (i j i' j' : Nat) (h : y.reg.addr i' j' ≠ x.reg.addr i j) :
    (d.setB x v i j).f y i' j' = d.f y i' j' := Dev.f_setF_ne d x y _ i j i' j' h

@[simp] theorem Dev.rd_setB_ne (d : Dev) (x : RegFld) (r : Reg) (v : Bool) (i j i' j' : Nat) (h : r.addr i' j' ≠ x.reg.addr i j) :
    (d.setB x v i j).rd r i' j' = d.rd r i' j' := Dev.rd_setF_ne d x r _ i j i' j' h

/-! ### A field after a register is set -/

@[simp] theorem Dev.f_wr_ne (d : Dev) (r : Reg) (y : RegFld) (v : Word) (i j i' j' : Nat) (h : y.reg.addr i' j' ≠ r.addr i j) :
    (d.wr r v i j).f y i' j' = d.f y i' j' := Dev.f_congr y i' j' (Dev.rd_wr_ne _ _ _ _ _ _ _ _ h)

@[simp] theorem Dev.b_wr_ne (d : Dev) (r : Reg) (y : RegFld) (v : Word) (i j i' j' : Nat) (h : y.reg.addr i' j' ≠ r.addr i j) :
    (d.wr r v i j).b y i' j' = d.b y i' j' := Dev.b_congr y i' j' (Dev.rd_wr_ne _ _ _ _ _ _ _ _ h)

@[simp] theorem Dev.f_wr (d : Dev) (r : Reg) (y : RegFld) (v : Word) (i j i' j' : Nat) (ha : y.reg.addr i' j' = r.addr i j)
    (hr : y.reg.rst i' j' = r.rst i j) : (d.wr r v i j).f y i' j' = getBits v y.lo y.w := by
  have e : ∀ d : Dev, d.rd y.reg i' j' = d.rd r i j := fun d => by unfold Dev.rd; rw [ha, hr]
  unfold Dev.f
  rw [e, Dev.rd_wr]

@[simp] theorem Dev.b_wr (d : Dev) (r : Reg) (y : RegFld) (v : Word) (i j i' j' : Nat) (ha : y.reg.addr i' j' = r.addr i j)
    (hr : y.reg.rst i' j' = r.rst i j) : (d.wr r v i j).b y i' j' = (getBits v y.lo y.w != 0) := by
  unfold Dev.b
  rw [Dev.f_wr d r y v i j i' j' ha hr]

/-! ### After an event is raised or a record handed over -/

/-- A field outside the EVT block is left. -/
theorem EvtOnly.f {d d' : Dev} (h : EvtOnly d d') (x : RegFld) (i j : Nat)
    (ha : x.reg.addr i j < 0x40050000 ∨ 0x40060000 ≤ x.reg.addr i j) : d'.f x i j = d.f x i j := Dev.f_congr x i j (h.rd x.reg i j ha)

/-- A flag outside the EVT block is left. -/
theorem EvtOnly.b {d d' : Dev} (h : EvtOnly d d') (x : RegFld) (i j : Nat)
    (ha : x.reg.addr i j < 0x40050000 ∨ 0x40060000 ≤ x.reg.addr i j) : d'.b x i j = d.b x i j := Dev.b_congr x i j (h.rd x.reg i j ha)

@[simp] theorem Dev.f_raise (d : Dev) (s n : Nat) (x : RegFld) (i j : Nat) (hs : s < 256)
    (ha : x.reg.addr i j < 0x40050000 ∨ 0x40060000 ≤ x.reg.addr i j) : (d.raise s n).f x i j = d.f x i j := (EvtOnly.raise d s n hs).f x i j ha

@[simp] theorem Dev.b_raise (d : Dev) (s n : Nat) (x : RegFld) (i j : Nat) (hs : s < 256)
    (ha : x.reg.addr i j < 0x40050000 ∨ 0x40060000 ≤ x.reg.addr i j) : (d.raise s n).b x i j = d.b x i j := (EvtOnly.raise d s n hs).b x i j ha

@[simp] theorem Dev.rd_raise (d : Dev) (s n : Nat) (r : Reg) (i j : Nat) (hs : s < 256)
    (ha : r.addr i j < 0x40050000 ∨ 0x40060000 ≤ r.addr i j) : (d.raise s n).rd r i j = d.rd r i j := (EvtOnly.raise d s n hs).rd r i j ha

@[simp] theorem Dev.raise_wall (d : Dev) (s n : Nat) (hs : s < 256) : (d.raise s n).wall = d.wall := by
  obtain ⟨_, _, _, e, _⟩ := EvtOnly.raise d s n hs
  rw [e]
@[simp] theorem Dev.raise_stg (d : Dev) (s n : Nat) (hs : s < 256) : (d.raise s n).stg = d.stg := by
  obtain ⟨_, _, _, e, _⟩ := EvtOnly.raise d s n hs
  rw [e]
@[simp] theorem Dev.raise_hist (d : Dev) (s n : Nat) (hs : s < 256) : (d.raise s n).hist = d.hist := by
  obtain ⟨_, _, _, e, _⟩ := EvtOnly.raise d s n hs
  rw [e]
@[simp] theorem Dev.raise_cmt (d : Dev) (s n : Nat) (hs : s < 256) : (d.raise s n).cmt = d.cmt := by
  obtain ⟨_, _, _, e, _⟩ := EvtOnly.raise d s n hs
  rw [e]
@[simp] theorem Dev.raise_tbank (d : Dev) (s n : Nat) (hs : s < 256) : (d.raise s n).tbank = d.tbank := by
  obtain ⟨_, _, _, e, _⟩ := EvtOnly.raise d s n hs
  rw [e]
@[simp] theorem Dev.raise_mem (d : Dev) (s n : Nat) (hs : s < 256) : (d.raise s n).mem = d.mem := by
  obtain ⟨_, _, _, e, _⟩ := EvtOnly.raise d s n hs
  rw [e]
@[simp] theorem Dev.raise_free (d : Dev) (s n : Nat) (hs : s < 256) : (d.raise s n).free = d.free := by
  obtain ⟨_, _, _, e, _⟩ := EvtOnly.raise d s n hs
  rw [e]
@[simp] theorem Dev.raise_resp (d : Dev) (s n : Nat) (hs : s < 256) : (d.raise s n).resp = d.resp := by
  obtain ⟨_, _, _, e, _⟩ := EvtOnly.raise d s n hs
  rw [e]
@[simp] theorem Dev.raise_jrn (d : Dev) (s n : Nat) (hs : s < 256) : (d.raise s n).jrn = d.jrn := by
  obtain ⟨_, _, _, e, _⟩ := EvtOnly.raise d s n hs
  rw [e]
@[simp] theorem Dev.raise_boot (d : Dev) (s n : Nat) (hs : s < 256) : (d.raise s n).boot = d.boot := by
  obtain ⟨_, _, _, e, _⟩ := EvtOnly.raise d s n hs
  rw [e]
@[simp] theorem Dev.raise_blow (d : Dev) (s n : Nat) (hs : s < 256) : (d.raise s n).blow = d.blow := by
  obtain ⟨_, _, _, e, _⟩ := EvtOnly.raise d s n hs
  rw [e]
@[simp] theorem Dev.raise_mbx (d : Dev) (s n : Nat) (hs : s < 256) : (d.raise s n).mbx = d.mbx := by
  obtain ⟨_, _, _, e, _⟩ := EvtOnly.raise d s n hs
  rw [e]
@[simp] theorem Dev.raise_postings (d : Dev) (s n : Nat) (hs : s < 256) : (d.raise s n).postings = d.postings := by
  obtain ⟨_, _, _, e, _⟩ := EvtOnly.raise d s n hs
  rw [e]
@[simp] theorem Dev.raise_mbxLast (d : Dev) (s n : Nat) (hs : s < 256) : (d.raise s n).mbxLast = d.mbxLast := by
  obtain ⟨_, _, _, e, _⟩ := EvtOnly.raise d s n hs
  rw [e]
@[simp] theorem Dev.raise_power (d : Dev) (s n : Nat) (hs : s < 256) : (d.raise s n).power = d.power := by
  obtain ⟨_, _, _, e, _⟩ := EvtOnly.raise d s n hs
  rw [e]
@[simp] theorem Dev.raise_ownPend (d : Dev) (s n : Nat) (hs : s < 256) : (d.raise s n).ownPend = d.ownPend := by
  obtain ⟨_, _, _, e, _⟩ := EvtOnly.raise d s n hs
  rw [e]
@[simp] theorem Dev.raise_waiting (d : Dev) (s n : Nat) (hs : s < 256) : (d.raise s n).waiting = d.waiting := by
  obtain ⟨_, _, _, e, _⟩ := EvtOnly.raise d s n hs
  rw [e]
@[simp] theorem Dev.raise_badPar (d : Dev) (s n : Nat) (hs : s < 256) : (d.raise s n).badPar = d.badPar := by
  obtain ⟨_, _, _, e, _⟩ := EvtOnly.raise d s n hs
  rw [e]
@[simp] theorem Dev.raise_poison (d : Dev) (s n : Nat) (hs : s < 256) : (d.raise s n).poison = d.poison := by
  obtain ⟨_, _, _, e, _⟩ := EvtOnly.raise d s n hs
  rw [e]
@[simp] theorem Dev.raise_hashed (d : Dev) (s n : Nat) (hs : s < 256) : (d.raise s n).hashed = d.hashed := by
  obtain ⟨_, _, _, e, _⟩ := EvtOnly.raise d s n hs
  rw [e]
@[simp] theorem Dev.raise_unhashed (d : Dev) (s n : Nat) (hs : s < 256) : (d.raise s n).unhashed = d.unhashed := by
  obtain ⟨_, _, _, e, _⟩ := EvtOnly.raise d s n hs
  rw [e]
@[simp] theorem Dev.raise_failed (d : Dev) (s n : Nat) (hs : s < 256) : (d.raise s n).failed = d.failed := by
  obtain ⟨_, _, _, e, _⟩ := EvtOnly.raise d s n hs
  rw [e]
@[simp] theorem Dev.raise_reloads (d : Dev) (s n : Nat) (hs : s < 256) : (d.raise s n).reloads = d.reloads := by
  obtain ⟨_, _, _, e, _⟩ := EvtOnly.raise d s n hs
  rw [e]
@[simp] theorem Dev.raise_dma (d : Dev) (s n : Nat) (hs : s < 256) : (d.raise s n).dma = d.dma := by
  obtain ⟨_, _, _, e, _⟩ := EvtOnly.raise d s n hs
  rw [e]
@[simp] theorem Dev.raise_dmaLast (d : Dev) (s n : Nat) (hs : s < 256) : (d.raise s n).dmaLast = d.dmaLast := by
  obtain ⟨_, _, _, e, _⟩ := EvtOnly.raise d s n hs
  rw [e]
@[simp] theorem Dev.raise_pcieOut (d : Dev) (s n : Nat) (hs : s < 256) : (d.raise s n).pcieOut = d.pcieOut := by
  obtain ⟨_, _, _, e, _⟩ := EvtOnly.raise d s n hs
  rw [e]
@[simp] theorem Dev.raise_eng (d : Dev) (s n : Nat) (hs : s < 256) : (d.raise s n).eng = d.eng := by
  obtain ⟨_, _, _, e, _⟩ := EvtOnly.raise d s n hs
  rw [e]
@[simp] theorem Dev.raise_sv0 (d : Dev) (s n : Nat) (hs : s < 256) : (d.raise s n).sv0 = d.sv0 := by
  obtain ⟨_, _, _, e, _⟩ := EvtOnly.raise d s n hs
  rw [e]
@[simp] theorem Dev.raise_sv1 (d : Dev) (s n : Nat) (hs : s < 256) : (d.raise s n).sv1 = d.sv1 := by
  obtain ⟨_, _, _, e, _⟩ := EvtOnly.raise d s n hs
  rw [e]
@[simp] theorem Dev.raise_groups (d : Dev) (s n : Nat) (hs : s < 256) : (d.raise s n).groups = d.groups := by
  obtain ⟨_, _, _, e, _⟩ := EvtOnly.raise d s n hs
  rw [e]
@[simp] theorem Dev.raise_tb (d : Dev) (s n : Nat) (hs : s < 256) : (d.raise s n).tb = d.tb := by
  obtain ⟨_, _, _, e, _⟩ := EvtOnly.raise d s n hs
  rw [e]
@[simp] theorem Dev.raise_tm (d : Dev) (s n : Nat) (hs : s < 256) : (d.raise s n).tm = d.tm := by
  obtain ⟨_, _, _, e, _⟩ := EvtOnly.raise d s n hs
  rw [e]
@[simp] theorem Dev.raise_frames (d : Dev) (s n : Nat) (hs : s < 256) : (d.raise s n).frames = d.frames := by
  obtain ⟨_, _, _, e, _⟩ := EvtOnly.raise d s n hs
  rw [e]
@[simp] theorem Dev.raise_nextFr (d : Dev) (s n : Nat) (hs : s < 256) : (d.raise s n).nextFr = d.nextFr := by
  obtain ⟨_, _, _, e, _⟩ := EvtOnly.raise d s n hs
  rw [e]
@[simp] theorem Dev.raise_eth (d : Dev) (s n : Nat) (hs : s < 256) : (d.raise s n).eth = d.eth := by
  obtain ⟨_, _, _, e, _⟩ := EvtOnly.raise d s n hs
  rw [e]
@[simp] theorem Dev.raise_mdio (d : Dev) (s n : Nat) (hs : s < 256) : (d.raise s n).mdio = d.mdio := by
  obtain ⟨_, _, _, e, _⟩ := EvtOnly.raise d s n hs
  rw [e]
@[simp] theorem Dev.raise_swc (d : Dev) (s n : Nat) (hs : s < 256) : (d.raise s n).swc = d.swc := by
  obtain ⟨_, _, _, e, _⟩ := EvtOnly.raise d s n hs
  rw [e]
@[simp] theorem Dev.raise_rings (d : Dev) (s n : Nat) (hs : s < 256) : (d.raise s n).rings = d.rings := by
  obtain ⟨_, _, _, e, _⟩ := EvtOnly.raise d s n hs
  rw [e]
@[simp] theorem Dev.raise_mb (d : Dev) (s n : Nat) (hs : s < 256) : (d.raise s n).mb = d.mb := by
  obtain ⟨_, _, _, e, _⟩ := EvtOnly.raise d s n hs
  rw [e]
@[simp] theorem Dev.raise_sl (d : Dev) (s n : Nat) (hs : s < 256) : (d.raise s n).sl = d.sl := by
  obtain ⟨_, _, _, e, _⟩ := EvtOnly.raise d s n hs
  rw [e]
@[simp] theorem Dev.raise_pio (d : Dev) (s n : Nat) (hs : s < 256) : (d.raise s n).pio = d.pio := by
  obtain ⟨_, _, _, e, _⟩ := EvtOnly.raise d s n hs
  rw [e]
@[simp] theorem Dev.raise_stn (d : Dev) (s n : Nat) (hs : s < 256) : (d.raise s n).stn = d.stn := by
  obtain ⟨_, _, _, e, _⟩ := EvtOnly.raise d s n hs
  rw [e]
@[simp] theorem Dev.raise_wakes (d : Dev) (s n : Nat) (hs : s < 256) : (d.raise s n).wakes = d.wakes := by
  obtain ⟨_, _, _, e, _⟩ := EvtOnly.raise d s n hs
  rw [e]
@[simp] theorem Dev.raise_powerTo (d : Dev) (s n : Nat) (hs : s < 256) : (d.raise s n).powerTo = d.powerTo := by
  obtain ⟨_, _, _, e, _⟩ := EvtOnly.raise d s n hs
  rw [e]
@[simp] theorem Dev.raise_pw (d : Dev) (s n : Nat) (hs : s < 256) : (d.raise s n).pw = d.pw := by
  obtain ⟨_, _, _, e, _⟩ := EvtOnly.raise d s n hs
  rw [e]
@[simp] theorem Dev.raise_age (d : Dev) (s n : Nat) (hs : s < 256) : (d.raise s n).age = d.age := by
  obtain ⟨_, _, _, e, _⟩ := EvtOnly.raise d s n hs
  rw [e]

/-! ### Registers after another part is set -/

@[simp] theorem Dev.regs_answer (d : Dev) (num v : Nat) (err : Bool) : (d.answer num v err).regs = d.regs := (rfl)
@[simp] theorem Dev.regs_setBoot (d : Dev) (x : Boot) : (d.setBoot x).regs = d.regs := (rfl)
@[simp] theorem Dev.regs_setPw (d : Dev) (x : PowerSt) : (d.setPw x).regs = d.regs := (rfl)
@[simp] theorem Dev.regs_setE (d : Dev) (n : Nat) (x : Eng) : (d.setE n x).regs = d.regs := (rfl)
@[simp] theorem Dev.regs_setInst (d : Dev) (n : Nat) (x : CmtInst) : (d.setInst n x).regs = d.regs := (rfl)
@[simp] theorem Dev.regs_setDch (d : Dev) (n : Nat) (x : DmaCh) : (d.setDch n x).regs = d.regs := (rfl)
@[simp] theorem Dev.regs_setFr (d : Dev) (n : Nat) (x : Frame) : (d.setFr n x).regs = d.regs := (rfl)
@[simp] theorem Dev.regs_setGrp (d : Dev) (n : Nat) (x : Group) : (d.setGrp n x).regs = d.regs := (rfl)
@[simp] theorem Dev.regs_setJ (d : Dev) (x : Jrn) : (d.setJ x).regs = d.regs := (rfl)
@[simp] theorem Dev.regs_setLp (d : Dev) (n : Nat) (x : LoopSt) : (d.setLp n x).regs = d.regs := (rfl)
@[simp] theorem Dev.regs_setMb (d : Dev) (n : Nat) (x : MbSt) : (d.setMb n x).regs = d.regs := (rfl)
@[simp] theorem Dev.regs_setPg (d : Dev) (n : Nat) (x : PioG) : (d.setPg n x).regs = d.regs := (rfl)
@[simp] theorem Dev.regs_setRing (d : Dev) (n : Nat) (x : RingSt) : (d.setRing n x).regs = d.regs := (rfl)
@[simp] theorem Dev.regs_setCpu (d : Dev) (c : Core) (x : Cpu) : (d.setCpu c x).regs = d.regs := by cases c <;> rfl
@[simp] theorem Dev.regs_setSl (d : Dev) (n : Nat) (x : SlSt) : (d.setSl n x).regs = d.regs := (rfl)
@[simp] theorem Dev.regs_setStn (d : Dev) (x : Stn) : (d.setStn x).regs = d.regs := (rfl)
@[simp] theorem Dev.regs_setDi (d : Dev) (n : Nat) (x : DiSt) : (d.setDi n x).regs = d.regs := (rfl)
@[simp] theorem Dev.regs_setAx (d : Dev) (n : Nat) (x : AxSt) : (d.setAx n x).regs = d.regs := (rfl)
@[simp] theorem Dev.regs_setLane (d : Dev) (n : Nat) (x : EthSt) : (d.setLane n x).regs = d.regs := (rfl)
@[simp] theorem Dev.regs_setMside (d : Dev) (m s : Nat) (x : MbxSide) : (d.setMside m s x).regs = d.regs := (rfl)
@[simp] theorem Dev.regs_setByte (d : Dev) (a : Nat) (x : Byte) : (d.setByte a x).regs = d.regs := (rfl)
@[simp] theorem Dev.regs_setAge (d : Dev) (x : AgeSt) : (d.setAge x).regs = d.regs := (rfl)
@[simp] theorem Dev.regs_setBootRow (d : Dev) (b : Bool) (x : BootRow) : (d.setBootRow b x).regs = d.regs := by cases b <;> rfl
@[simp] theorem Dev.regs_setQ (d : Dev) (n : Nat) (x : List QEnt) : (d.setQ n x).regs = d.regs := (rfl)

@[simp] theorem Dev.f_answer (d : Dev) (num v : Nat) (err : Bool) (y : RegFld) (i j : Nat) : (d.answer num v err).f y i j = d.f y i j := by
  unfold Dev.f Dev.rd
  rw [Dev.regs_answer]
@[simp] theorem Dev.b_answer (d : Dev) (num v : Nat) (err : Bool) (y : RegFld) (i j : Nat) : (d.answer num v err).b y i j = d.b y i j := by
  unfold Dev.b
  rw [Dev.f_answer]
@[simp] theorem Dev.reg_answer (d : Dev) (num v : Nat) (err : Bool) (r : Reg) (i j : Nat) : (d.answer num v err).rd r i j = d.rd r i j := by
  unfold Dev.rd
  rw [Dev.regs_answer]
@[simp] theorem Dev.f_setBoot (d : Dev) (x : Boot) (y : RegFld) (i j : Nat) : (d.setBoot x).f y i j = d.f y i j := by
  unfold Dev.f Dev.rd
  rw [Dev.regs_setBoot]
@[simp] theorem Dev.b_setBoot (d : Dev) (x : Boot) (y : RegFld) (i j : Nat) : (d.setBoot x).b y i j = d.b y i j := by
  unfold Dev.b
  rw [Dev.f_setBoot]
@[simp] theorem Dev.reg_setBoot (d : Dev) (x : Boot) (r : Reg) (i j : Nat) : (d.setBoot x).rd r i j = d.rd r i j := by
  unfold Dev.rd
  rw [Dev.regs_setBoot]
@[simp] theorem Dev.f_setPw (d : Dev) (x : PowerSt) (y : RegFld) (i j : Nat) : (d.setPw x).f y i j = d.f y i j := by
  unfold Dev.f Dev.rd
  rw [Dev.regs_setPw]
@[simp] theorem Dev.b_setPw (d : Dev) (x : PowerSt) (y : RegFld) (i j : Nat) : (d.setPw x).b y i j = d.b y i j := by
  unfold Dev.b
  rw [Dev.f_setPw]
@[simp] theorem Dev.reg_setPw (d : Dev) (x : PowerSt) (r : Reg) (i j : Nat) : (d.setPw x).rd r i j = d.rd r i j := by
  unfold Dev.rd
  rw [Dev.regs_setPw]
@[simp] theorem Dev.f_setE (d : Dev) (n : Nat) (x : Eng) (y : RegFld) (i j : Nat) : (d.setE n x).f y i j = d.f y i j := by
  unfold Dev.f Dev.rd
  rw [Dev.regs_setE]
@[simp] theorem Dev.b_setE (d : Dev) (n : Nat) (x : Eng) (y : RegFld) (i j : Nat) : (d.setE n x).b y i j = d.b y i j := by
  unfold Dev.b
  rw [Dev.f_setE]
@[simp] theorem Dev.reg_setE (d : Dev) (n : Nat) (x : Eng) (r : Reg) (i j : Nat) : (d.setE n x).rd r i j = d.rd r i j := by
  unfold Dev.rd
  rw [Dev.regs_setE]
@[simp] theorem Dev.f_setInst (d : Dev) (n : Nat) (x : CmtInst) (y : RegFld) (i j : Nat) : (d.setInst n x).f y i j = d.f y i j := by
  unfold Dev.f Dev.rd
  rw [Dev.regs_setInst]
@[simp] theorem Dev.b_setInst (d : Dev) (n : Nat) (x : CmtInst) (y : RegFld) (i j : Nat) : (d.setInst n x).b y i j = d.b y i j := by
  unfold Dev.b
  rw [Dev.f_setInst]
@[simp] theorem Dev.reg_setInst (d : Dev) (n : Nat) (x : CmtInst) (r : Reg) (i j : Nat) : (d.setInst n x).rd r i j = d.rd r i j := by
  unfold Dev.rd
  rw [Dev.regs_setInst]
@[simp] theorem Dev.f_setDch (d : Dev) (n : Nat) (x : DmaCh) (y : RegFld) (i j : Nat) : (d.setDch n x).f y i j = d.f y i j := by
  unfold Dev.f Dev.rd
  rw [Dev.regs_setDch]
@[simp] theorem Dev.b_setDch (d : Dev) (n : Nat) (x : DmaCh) (y : RegFld) (i j : Nat) : (d.setDch n x).b y i j = d.b y i j := by
  unfold Dev.b
  rw [Dev.f_setDch]
@[simp] theorem Dev.reg_setDch (d : Dev) (n : Nat) (x : DmaCh) (r : Reg) (i j : Nat) : (d.setDch n x).rd r i j = d.rd r i j := by
  unfold Dev.rd
  rw [Dev.regs_setDch]
@[simp] theorem Dev.f_setFr (d : Dev) (n : Nat) (x : Frame) (y : RegFld) (i j : Nat) : (d.setFr n x).f y i j = d.f y i j := by
  unfold Dev.f Dev.rd
  rw [Dev.regs_setFr]
@[simp] theorem Dev.b_setFr (d : Dev) (n : Nat) (x : Frame) (y : RegFld) (i j : Nat) : (d.setFr n x).b y i j = d.b y i j := by
  unfold Dev.b
  rw [Dev.f_setFr]
@[simp] theorem Dev.reg_setFr (d : Dev) (n : Nat) (x : Frame) (r : Reg) (i j : Nat) : (d.setFr n x).rd r i j = d.rd r i j := by
  unfold Dev.rd
  rw [Dev.regs_setFr]
@[simp] theorem Dev.f_setGrp (d : Dev) (n : Nat) (x : Group) (y : RegFld) (i j : Nat) : (d.setGrp n x).f y i j = d.f y i j := by
  unfold Dev.f Dev.rd
  rw [Dev.regs_setGrp]
@[simp] theorem Dev.b_setGrp (d : Dev) (n : Nat) (x : Group) (y : RegFld) (i j : Nat) : (d.setGrp n x).b y i j = d.b y i j := by
  unfold Dev.b
  rw [Dev.f_setGrp]
@[simp] theorem Dev.reg_setGrp (d : Dev) (n : Nat) (x : Group) (r : Reg) (i j : Nat) : (d.setGrp n x).rd r i j = d.rd r i j := by
  unfold Dev.rd
  rw [Dev.regs_setGrp]
@[simp] theorem Dev.f_setJ (d : Dev) (x : Jrn) (y : RegFld) (i j : Nat) : (d.setJ x).f y i j = d.f y i j := by
  unfold Dev.f Dev.rd
  rw [Dev.regs_setJ]
@[simp] theorem Dev.b_setJ (d : Dev) (x : Jrn) (y : RegFld) (i j : Nat) : (d.setJ x).b y i j = d.b y i j := by
  unfold Dev.b
  rw [Dev.f_setJ]
@[simp] theorem Dev.reg_setJ (d : Dev) (x : Jrn) (r : Reg) (i j : Nat) : (d.setJ x).rd r i j = d.rd r i j := by
  unfold Dev.rd
  rw [Dev.regs_setJ]
@[simp] theorem Dev.f_setLp (d : Dev) (n : Nat) (x : LoopSt) (y : RegFld) (i j : Nat) : (d.setLp n x).f y i j = d.f y i j := by
  unfold Dev.f Dev.rd
  rw [Dev.regs_setLp]
@[simp] theorem Dev.b_setLp (d : Dev) (n : Nat) (x : LoopSt) (y : RegFld) (i j : Nat) : (d.setLp n x).b y i j = d.b y i j := by
  unfold Dev.b
  rw [Dev.f_setLp]
@[simp] theorem Dev.reg_setLp (d : Dev) (n : Nat) (x : LoopSt) (r : Reg) (i j : Nat) : (d.setLp n x).rd r i j = d.rd r i j := by
  unfold Dev.rd
  rw [Dev.regs_setLp]
@[simp] theorem Dev.f_setMb (d : Dev) (n : Nat) (x : MbSt) (y : RegFld) (i j : Nat) : (d.setMb n x).f y i j = d.f y i j := by
  unfold Dev.f Dev.rd
  rw [Dev.regs_setMb]
@[simp] theorem Dev.b_setMb (d : Dev) (n : Nat) (x : MbSt) (y : RegFld) (i j : Nat) : (d.setMb n x).b y i j = d.b y i j := by
  unfold Dev.b
  rw [Dev.f_setMb]
@[simp] theorem Dev.reg_setMb (d : Dev) (n : Nat) (x : MbSt) (r : Reg) (i j : Nat) : (d.setMb n x).rd r i j = d.rd r i j := by
  unfold Dev.rd
  rw [Dev.regs_setMb]
@[simp] theorem Dev.f_setPg (d : Dev) (n : Nat) (x : PioG) (y : RegFld) (i j : Nat) : (d.setPg n x).f y i j = d.f y i j := by
  unfold Dev.f Dev.rd
  rw [Dev.regs_setPg]
@[simp] theorem Dev.b_setPg (d : Dev) (n : Nat) (x : PioG) (y : RegFld) (i j : Nat) : (d.setPg n x).b y i j = d.b y i j := by
  unfold Dev.b
  rw [Dev.f_setPg]
@[simp] theorem Dev.reg_setPg (d : Dev) (n : Nat) (x : PioG) (r : Reg) (i j : Nat) : (d.setPg n x).rd r i j = d.rd r i j := by
  unfold Dev.rd
  rw [Dev.regs_setPg]
@[simp] theorem Dev.f_setRing (d : Dev) (n : Nat) (x : RingSt) (y : RegFld) (i j : Nat) : (d.setRing n x).f y i j = d.f y i j := by
  unfold Dev.f Dev.rd
  rw [Dev.regs_setRing]
@[simp] theorem Dev.b_setRing (d : Dev) (n : Nat) (x : RingSt) (y : RegFld) (i j : Nat) : (d.setRing n x).b y i j = d.b y i j := by
  unfold Dev.b
  rw [Dev.f_setRing]
@[simp] theorem Dev.reg_setRing (d : Dev) (n : Nat) (x : RingSt) (r : Reg) (i j : Nat) : (d.setRing n x).rd r i j = d.rd r i j := by
  unfold Dev.rd
  rw [Dev.regs_setRing]
@[simp] theorem Dev.f_setCpu (d : Dev) (c : Core) (x : Cpu) (y : RegFld) (i j : Nat) : (d.setCpu c x).f y i j = d.f y i j := by
  unfold Dev.f Dev.rd
  rw [Dev.regs_setCpu]
@[simp] theorem Dev.b_setCpu (d : Dev) (c : Core) (x : Cpu) (y : RegFld) (i j : Nat) : (d.setCpu c x).b y i j = d.b y i j := by
  unfold Dev.b
  rw [Dev.f_setCpu]
@[simp] theorem Dev.reg_setCpu (d : Dev) (c : Core) (x : Cpu) (r : Reg) (i j : Nat) : (d.setCpu c x).rd r i j = d.rd r i j := by
  unfold Dev.rd
  rw [Dev.regs_setCpu]
@[simp] theorem Dev.f_setSl (d : Dev) (n : Nat) (x : SlSt) (y : RegFld) (i j : Nat) : (d.setSl n x).f y i j = d.f y i j := by
  unfold Dev.f Dev.rd
  rw [Dev.regs_setSl]
@[simp] theorem Dev.b_setSl (d : Dev) (n : Nat) (x : SlSt) (y : RegFld) (i j : Nat) : (d.setSl n x).b y i j = d.b y i j := by
  unfold Dev.b
  rw [Dev.f_setSl]
@[simp] theorem Dev.reg_setSl (d : Dev) (n : Nat) (x : SlSt) (r : Reg) (i j : Nat) : (d.setSl n x).rd r i j = d.rd r i j := by
  unfold Dev.rd
  rw [Dev.regs_setSl]
@[simp] theorem Dev.f_setStn (d : Dev) (x : Stn) (y : RegFld) (i j : Nat) : (d.setStn x).f y i j = d.f y i j := by
  unfold Dev.f Dev.rd
  rw [Dev.regs_setStn]
@[simp] theorem Dev.b_setStn (d : Dev) (x : Stn) (y : RegFld) (i j : Nat) : (d.setStn x).b y i j = d.b y i j := by
  unfold Dev.b
  rw [Dev.f_setStn]
@[simp] theorem Dev.reg_setStn (d : Dev) (x : Stn) (r : Reg) (i j : Nat) : (d.setStn x).rd r i j = d.rd r i j := by
  unfold Dev.rd
  rw [Dev.regs_setStn]
@[simp] theorem Dev.f_setDi (d : Dev) (n : Nat) (x : DiSt) (y : RegFld) (i j : Nat) : (d.setDi n x).f y i j = d.f y i j := by
  unfold Dev.f Dev.rd
  rw [Dev.regs_setDi]
@[simp] theorem Dev.b_setDi (d : Dev) (n : Nat) (x : DiSt) (y : RegFld) (i j : Nat) : (d.setDi n x).b y i j = d.b y i j := by
  unfold Dev.b
  rw [Dev.f_setDi]
@[simp] theorem Dev.reg_setDi (d : Dev) (n : Nat) (x : DiSt) (r : Reg) (i j : Nat) : (d.setDi n x).rd r i j = d.rd r i j := by
  unfold Dev.rd
  rw [Dev.regs_setDi]
@[simp] theorem Dev.f_setAx (d : Dev) (n : Nat) (x : AxSt) (y : RegFld) (i j : Nat) : (d.setAx n x).f y i j = d.f y i j := by
  unfold Dev.f Dev.rd
  rw [Dev.regs_setAx]
@[simp] theorem Dev.b_setAx (d : Dev) (n : Nat) (x : AxSt) (y : RegFld) (i j : Nat) : (d.setAx n x).b y i j = d.b y i j := by
  unfold Dev.b
  rw [Dev.f_setAx]
@[simp] theorem Dev.reg_setAx (d : Dev) (n : Nat) (x : AxSt) (r : Reg) (i j : Nat) : (d.setAx n x).rd r i j = d.rd r i j := by
  unfold Dev.rd
  rw [Dev.regs_setAx]
@[simp] theorem Dev.f_setLane (d : Dev) (n : Nat) (x : EthSt) (y : RegFld) (i j : Nat) : (d.setLane n x).f y i j = d.f y i j := by
  unfold Dev.f Dev.rd
  rw [Dev.regs_setLane]
@[simp] theorem Dev.b_setLane (d : Dev) (n : Nat) (x : EthSt) (y : RegFld) (i j : Nat) : (d.setLane n x).b y i j = d.b y i j := by
  unfold Dev.b
  rw [Dev.f_setLane]
@[simp] theorem Dev.reg_setLane (d : Dev) (n : Nat) (x : EthSt) (r : Reg) (i j : Nat) : (d.setLane n x).rd r i j = d.rd r i j := by
  unfold Dev.rd
  rw [Dev.regs_setLane]
@[simp] theorem Dev.f_setMside (d : Dev) (m s : Nat) (x : MbxSide) (y : RegFld) (i j : Nat) : (d.setMside m s x).f y i j = d.f y i j := by
  unfold Dev.f Dev.rd
  rw [Dev.regs_setMside]
@[simp] theorem Dev.b_setMside (d : Dev) (m s : Nat) (x : MbxSide) (y : RegFld) (i j : Nat) : (d.setMside m s x).b y i j = d.b y i j := by
  unfold Dev.b
  rw [Dev.f_setMside]
@[simp] theorem Dev.reg_setMside (d : Dev) (m s : Nat) (x : MbxSide) (r : Reg) (i j : Nat) : (d.setMside m s x).rd r i j = d.rd r i j := by
  unfold Dev.rd
  rw [Dev.regs_setMside]
@[simp] theorem Dev.f_setByte (d : Dev) (a : Nat) (x : Byte) (y : RegFld) (i j : Nat) : (d.setByte a x).f y i j = d.f y i j := by
  unfold Dev.f Dev.rd
  rw [Dev.regs_setByte]
@[simp] theorem Dev.b_setByte (d : Dev) (a : Nat) (x : Byte) (y : RegFld) (i j : Nat) : (d.setByte a x).b y i j = d.b y i j := by
  unfold Dev.b
  rw [Dev.f_setByte]
@[simp] theorem Dev.reg_setByte (d : Dev) (a : Nat) (x : Byte) (r : Reg) (i j : Nat) : (d.setByte a x).rd r i j = d.rd r i j := by
  unfold Dev.rd
  rw [Dev.regs_setByte]
@[simp] theorem Dev.f_setAge (d : Dev) (x : AgeSt) (y : RegFld) (i j : Nat) : (d.setAge x).f y i j = d.f y i j := by
  unfold Dev.f Dev.rd
  rw [Dev.regs_setAge]
@[simp] theorem Dev.b_setAge (d : Dev) (x : AgeSt) (y : RegFld) (i j : Nat) : (d.setAge x).b y i j = d.b y i j := by
  unfold Dev.b
  rw [Dev.f_setAge]
@[simp] theorem Dev.reg_setAge (d : Dev) (x : AgeSt) (r : Reg) (i j : Nat) : (d.setAge x).rd r i j = d.rd r i j := by
  unfold Dev.rd
  rw [Dev.regs_setAge]
@[simp] theorem Dev.f_setBootRow (d : Dev) (b : Bool) (x : BootRow) (y : RegFld) (i j : Nat) : (d.setBootRow b x).f y i j = d.f y i j := by
  unfold Dev.f Dev.rd
  rw [Dev.regs_setBootRow]
@[simp] theorem Dev.b_setBootRow (d : Dev) (b : Bool) (x : BootRow) (y : RegFld) (i j : Nat) : (d.setBootRow b x).b y i j = d.b y i j := by
  unfold Dev.b
  rw [Dev.f_setBootRow]
@[simp] theorem Dev.reg_setBootRow (d : Dev) (b : Bool) (x : BootRow) (r : Reg) (i j : Nat) : (d.setBootRow b x).rd r i j = d.rd r i j := by
  unfold Dev.rd
  rw [Dev.regs_setBootRow]
@[simp] theorem Dev.f_setQ (d : Dev) (n : Nat) (x : List QEnt) (y : RegFld) (i j : Nat) : (d.setQ n x).f y i j = d.f y i j := by
  unfold Dev.f Dev.rd
  rw [Dev.regs_setQ]
@[simp] theorem Dev.b_setQ (d : Dev) (n : Nat) (x : List QEnt) (y : RegFld) (i j : Nat) : (d.setQ n x).b y i j = d.b y i j := by
  unfold Dev.b
  rw [Dev.f_setQ]
@[simp] theorem Dev.reg_setQ (d : Dev) (n : Nat) (x : List QEnt) (r : Reg) (i j : Nat) : (d.setQ n x).rd r i j = d.rd r i j := by
  unfold Dev.rd
  rw [Dev.regs_setQ]

/-! ### Parts after another part is set -/

@[simp] theorem Dev.wall_setBoot (d : Dev) (x : Boot) : (d.setBoot x).wall = d.wall := (rfl)
@[simp] theorem Dev.mem_setBoot (d : Dev) (x : Boot) : (d.setBoot x).mem = d.mem := (rfl)
@[simp] theorem Dev.blow_setBoot (d : Dev) (x : Boot) : (d.setBoot x).blow = d.blow := (rfl)
@[simp] theorem Dev.resp_setBoot (d : Dev) (x : Boot) : (d.setBoot x).resp = d.resp := (rfl)
@[simp] theorem Dev.boot_setBoot (d : Dev) (x : Boot) : (d.setBoot x).boot = x := (rfl)
@[simp] theorem Dev.pw_setBoot (d : Dev) (x : Boot) : (d.setBoot x).pw = d.pw := (rfl)
@[simp] theorem Dev.jrn_setBoot (d : Dev) (x : Boot) : (d.setBoot x).jrn = d.jrn := (rfl)
@[simp] theorem Dev.stn_setBoot (d : Dev) (x : Boot) : (d.setBoot x).stn = d.stn := (rfl)
@[simp] theorem Dev.age_setBoot (d : Dev) (x : Boot) : (d.setBoot x).age = d.age := (rfl)
@[simp] theorem Dev.eng_setBoot (d : Dev) (x : Boot) : (d.setBoot x).eng = d.eng := (rfl)
@[simp] theorem Dev.cmt_setBoot (d : Dev) (x : Boot) : (d.setBoot x).cmt = d.cmt := (rfl)
@[simp] theorem Dev.wall_setPw (d : Dev) (x : PowerSt) : (d.setPw x).wall = d.wall := (rfl)
@[simp] theorem Dev.mem_setPw (d : Dev) (x : PowerSt) : (d.setPw x).mem = d.mem := (rfl)
@[simp] theorem Dev.blow_setPw (d : Dev) (x : PowerSt) : (d.setPw x).blow = d.blow := (rfl)
@[simp] theorem Dev.resp_setPw (d : Dev) (x : PowerSt) : (d.setPw x).resp = d.resp := (rfl)
@[simp] theorem Dev.boot_setPw (d : Dev) (x : PowerSt) : (d.setPw x).boot = d.boot := (rfl)
@[simp] theorem Dev.pw_setPw (d : Dev) (x : PowerSt) : (d.setPw x).pw = x := (rfl)
@[simp] theorem Dev.jrn_setPw (d : Dev) (x : PowerSt) : (d.setPw x).jrn = d.jrn := (rfl)
@[simp] theorem Dev.stn_setPw (d : Dev) (x : PowerSt) : (d.setPw x).stn = d.stn := (rfl)
@[simp] theorem Dev.age_setPw (d : Dev) (x : PowerSt) : (d.setPw x).age = d.age := (rfl)
@[simp] theorem Dev.eng_setPw (d : Dev) (x : PowerSt) : (d.setPw x).eng = d.eng := (rfl)
@[simp] theorem Dev.cmt_setPw (d : Dev) (x : PowerSt) : (d.setPw x).cmt = d.cmt := (rfl)
@[simp] theorem Dev.wall_setE (d : Dev) (n : Nat) (x : Eng) : (d.setE n x).wall = d.wall := (rfl)
@[simp] theorem Dev.mem_setE (d : Dev) (n : Nat) (x : Eng) : (d.setE n x).mem = d.mem := (rfl)
@[simp] theorem Dev.blow_setE (d : Dev) (n : Nat) (x : Eng) : (d.setE n x).blow = d.blow := (rfl)
@[simp] theorem Dev.resp_setE (d : Dev) (n : Nat) (x : Eng) : (d.setE n x).resp = d.resp := (rfl)
@[simp] theorem Dev.boot_setE (d : Dev) (n : Nat) (x : Eng) : (d.setE n x).boot = d.boot := (rfl)
@[simp] theorem Dev.pw_setE (d : Dev) (n : Nat) (x : Eng) : (d.setE n x).pw = d.pw := (rfl)
@[simp] theorem Dev.jrn_setE (d : Dev) (n : Nat) (x : Eng) : (d.setE n x).jrn = d.jrn := (rfl)
@[simp] theorem Dev.stn_setE (d : Dev) (n : Nat) (x : Eng) : (d.setE n x).stn = d.stn := (rfl)
@[simp] theorem Dev.age_setE (d : Dev) (n : Nat) (x : Eng) : (d.setE n x).age = d.age := (rfl)
@[simp] theorem Dev.cmt_setE (d : Dev) (n : Nat) (x : Eng) : (d.setE n x).cmt = d.cmt := (rfl)
@[simp] theorem Dev.wall_setInst (d : Dev) (n : Nat) (x : CmtInst) : (d.setInst n x).wall = d.wall := (rfl)
@[simp] theorem Dev.mem_setInst (d : Dev) (n : Nat) (x : CmtInst) : (d.setInst n x).mem = d.mem := (rfl)
@[simp] theorem Dev.blow_setInst (d : Dev) (n : Nat) (x : CmtInst) : (d.setInst n x).blow = d.blow := (rfl)
@[simp] theorem Dev.resp_setInst (d : Dev) (n : Nat) (x : CmtInst) : (d.setInst n x).resp = d.resp := (rfl)
@[simp] theorem Dev.boot_setInst (d : Dev) (n : Nat) (x : CmtInst) : (d.setInst n x).boot = d.boot := (rfl)
@[simp] theorem Dev.pw_setInst (d : Dev) (n : Nat) (x : CmtInst) : (d.setInst n x).pw = d.pw := (rfl)
@[simp] theorem Dev.jrn_setInst (d : Dev) (n : Nat) (x : CmtInst) : (d.setInst n x).jrn = d.jrn := (rfl)
@[simp] theorem Dev.stn_setInst (d : Dev) (n : Nat) (x : CmtInst) : (d.setInst n x).stn = d.stn := (rfl)
@[simp] theorem Dev.age_setInst (d : Dev) (n : Nat) (x : CmtInst) : (d.setInst n x).age = d.age := (rfl)
@[simp] theorem Dev.eng_setInst (d : Dev) (n : Nat) (x : CmtInst) : (d.setInst n x).eng = d.eng := (rfl)
@[simp] theorem Dev.wall_setDch (d : Dev) (n : Nat) (x : DmaCh) : (d.setDch n x).wall = d.wall := (rfl)
@[simp] theorem Dev.mem_setDch (d : Dev) (n : Nat) (x : DmaCh) : (d.setDch n x).mem = d.mem := (rfl)
@[simp] theorem Dev.blow_setDch (d : Dev) (n : Nat) (x : DmaCh) : (d.setDch n x).blow = d.blow := (rfl)
@[simp] theorem Dev.resp_setDch (d : Dev) (n : Nat) (x : DmaCh) : (d.setDch n x).resp = d.resp := (rfl)
@[simp] theorem Dev.boot_setDch (d : Dev) (n : Nat) (x : DmaCh) : (d.setDch n x).boot = d.boot := (rfl)
@[simp] theorem Dev.pw_setDch (d : Dev) (n : Nat) (x : DmaCh) : (d.setDch n x).pw = d.pw := (rfl)
@[simp] theorem Dev.jrn_setDch (d : Dev) (n : Nat) (x : DmaCh) : (d.setDch n x).jrn = d.jrn := (rfl)
@[simp] theorem Dev.stn_setDch (d : Dev) (n : Nat) (x : DmaCh) : (d.setDch n x).stn = d.stn := (rfl)
@[simp] theorem Dev.age_setDch (d : Dev) (n : Nat) (x : DmaCh) : (d.setDch n x).age = d.age := (rfl)
@[simp] theorem Dev.eng_setDch (d : Dev) (n : Nat) (x : DmaCh) : (d.setDch n x).eng = d.eng := (rfl)
@[simp] theorem Dev.cmt_setDch (d : Dev) (n : Nat) (x : DmaCh) : (d.setDch n x).cmt = d.cmt := (rfl)
@[simp] theorem Dev.wall_setFr (d : Dev) (n : Nat) (x : Frame) : (d.setFr n x).wall = d.wall := (rfl)
@[simp] theorem Dev.mem_setFr (d : Dev) (n : Nat) (x : Frame) : (d.setFr n x).mem = d.mem := (rfl)
@[simp] theorem Dev.blow_setFr (d : Dev) (n : Nat) (x : Frame) : (d.setFr n x).blow = d.blow := (rfl)
@[simp] theorem Dev.resp_setFr (d : Dev) (n : Nat) (x : Frame) : (d.setFr n x).resp = d.resp := (rfl)
@[simp] theorem Dev.boot_setFr (d : Dev) (n : Nat) (x : Frame) : (d.setFr n x).boot = d.boot := (rfl)
@[simp] theorem Dev.pw_setFr (d : Dev) (n : Nat) (x : Frame) : (d.setFr n x).pw = d.pw := (rfl)
@[simp] theorem Dev.jrn_setFr (d : Dev) (n : Nat) (x : Frame) : (d.setFr n x).jrn = d.jrn := (rfl)
@[simp] theorem Dev.stn_setFr (d : Dev) (n : Nat) (x : Frame) : (d.setFr n x).stn = d.stn := (rfl)
@[simp] theorem Dev.age_setFr (d : Dev) (n : Nat) (x : Frame) : (d.setFr n x).age = d.age := (rfl)
@[simp] theorem Dev.eng_setFr (d : Dev) (n : Nat) (x : Frame) : (d.setFr n x).eng = d.eng := (rfl)
@[simp] theorem Dev.cmt_setFr (d : Dev) (n : Nat) (x : Frame) : (d.setFr n x).cmt = d.cmt := (rfl)
@[simp] theorem Dev.wall_setGrp (d : Dev) (n : Nat) (x : Group) : (d.setGrp n x).wall = d.wall := (rfl)
@[simp] theorem Dev.mem_setGrp (d : Dev) (n : Nat) (x : Group) : (d.setGrp n x).mem = d.mem := (rfl)
@[simp] theorem Dev.blow_setGrp (d : Dev) (n : Nat) (x : Group) : (d.setGrp n x).blow = d.blow := (rfl)
@[simp] theorem Dev.resp_setGrp (d : Dev) (n : Nat) (x : Group) : (d.setGrp n x).resp = d.resp := (rfl)
@[simp] theorem Dev.boot_setGrp (d : Dev) (n : Nat) (x : Group) : (d.setGrp n x).boot = d.boot := (rfl)
@[simp] theorem Dev.pw_setGrp (d : Dev) (n : Nat) (x : Group) : (d.setGrp n x).pw = d.pw := (rfl)
@[simp] theorem Dev.jrn_setGrp (d : Dev) (n : Nat) (x : Group) : (d.setGrp n x).jrn = d.jrn := (rfl)
@[simp] theorem Dev.stn_setGrp (d : Dev) (n : Nat) (x : Group) : (d.setGrp n x).stn = d.stn := (rfl)
@[simp] theorem Dev.age_setGrp (d : Dev) (n : Nat) (x : Group) : (d.setGrp n x).age = d.age := (rfl)
@[simp] theorem Dev.eng_setGrp (d : Dev) (n : Nat) (x : Group) : (d.setGrp n x).eng = d.eng := (rfl)
@[simp] theorem Dev.cmt_setGrp (d : Dev) (n : Nat) (x : Group) : (d.setGrp n x).cmt = d.cmt := (rfl)
@[simp] theorem Dev.wall_setJ (d : Dev) (x : Jrn) : (d.setJ x).wall = d.wall := (rfl)
@[simp] theorem Dev.mem_setJ (d : Dev) (x : Jrn) : (d.setJ x).mem = d.mem := (rfl)
@[simp] theorem Dev.blow_setJ (d : Dev) (x : Jrn) : (d.setJ x).blow = d.blow := (rfl)
@[simp] theorem Dev.resp_setJ (d : Dev) (x : Jrn) : (d.setJ x).resp = d.resp := (rfl)
@[simp] theorem Dev.boot_setJ (d : Dev) (x : Jrn) : (d.setJ x).boot = d.boot := (rfl)
@[simp] theorem Dev.pw_setJ (d : Dev) (x : Jrn) : (d.setJ x).pw = d.pw := (rfl)
@[simp] theorem Dev.jrn_setJ (d : Dev) (x : Jrn) : (d.setJ x).jrn = x := (rfl)
@[simp] theorem Dev.stn_setJ (d : Dev) (x : Jrn) : (d.setJ x).stn = d.stn := (rfl)
@[simp] theorem Dev.age_setJ (d : Dev) (x : Jrn) : (d.setJ x).age = d.age := (rfl)
@[simp] theorem Dev.eng_setJ (d : Dev) (x : Jrn) : (d.setJ x).eng = d.eng := (rfl)
@[simp] theorem Dev.cmt_setJ (d : Dev) (x : Jrn) : (d.setJ x).cmt = d.cmt := (rfl)
@[simp] theorem Dev.wall_setLp (d : Dev) (n : Nat) (x : LoopSt) : (d.setLp n x).wall = d.wall := (rfl)
@[simp] theorem Dev.mem_setLp (d : Dev) (n : Nat) (x : LoopSt) : (d.setLp n x).mem = d.mem := (rfl)
@[simp] theorem Dev.blow_setLp (d : Dev) (n : Nat) (x : LoopSt) : (d.setLp n x).blow = d.blow := (rfl)
@[simp] theorem Dev.resp_setLp (d : Dev) (n : Nat) (x : LoopSt) : (d.setLp n x).resp = d.resp := (rfl)
@[simp] theorem Dev.boot_setLp (d : Dev) (n : Nat) (x : LoopSt) : (d.setLp n x).boot = d.boot := (rfl)
@[simp] theorem Dev.pw_setLp (d : Dev) (n : Nat) (x : LoopSt) : (d.setLp n x).pw = d.pw := (rfl)
@[simp] theorem Dev.jrn_setLp (d : Dev) (n : Nat) (x : LoopSt) : (d.setLp n x).jrn = d.jrn := (rfl)
@[simp] theorem Dev.age_setLp (d : Dev) (n : Nat) (x : LoopSt) : (d.setLp n x).age = d.age := (rfl)
@[simp] theorem Dev.eng_setLp (d : Dev) (n : Nat) (x : LoopSt) : (d.setLp n x).eng = d.eng := (rfl)
@[simp] theorem Dev.cmt_setLp (d : Dev) (n : Nat) (x : LoopSt) : (d.setLp n x).cmt = d.cmt := (rfl)
@[simp] theorem Dev.wall_setMb (d : Dev) (n : Nat) (x : MbSt) : (d.setMb n x).wall = d.wall := (rfl)
@[simp] theorem Dev.mem_setMb (d : Dev) (n : Nat) (x : MbSt) : (d.setMb n x).mem = d.mem := (rfl)
@[simp] theorem Dev.blow_setMb (d : Dev) (n : Nat) (x : MbSt) : (d.setMb n x).blow = d.blow := (rfl)
@[simp] theorem Dev.resp_setMb (d : Dev) (n : Nat) (x : MbSt) : (d.setMb n x).resp = d.resp := (rfl)
@[simp] theorem Dev.boot_setMb (d : Dev) (n : Nat) (x : MbSt) : (d.setMb n x).boot = d.boot := (rfl)
@[simp] theorem Dev.pw_setMb (d : Dev) (n : Nat) (x : MbSt) : (d.setMb n x).pw = d.pw := (rfl)
@[simp] theorem Dev.jrn_setMb (d : Dev) (n : Nat) (x : MbSt) : (d.setMb n x).jrn = d.jrn := (rfl)
@[simp] theorem Dev.stn_setMb (d : Dev) (n : Nat) (x : MbSt) : (d.setMb n x).stn = d.stn := (rfl)
@[simp] theorem Dev.age_setMb (d : Dev) (n : Nat) (x : MbSt) : (d.setMb n x).age = d.age := (rfl)
@[simp] theorem Dev.eng_setMb (d : Dev) (n : Nat) (x : MbSt) : (d.setMb n x).eng = d.eng := (rfl)
@[simp] theorem Dev.cmt_setMb (d : Dev) (n : Nat) (x : MbSt) : (d.setMb n x).cmt = d.cmt := (rfl)
@[simp] theorem Dev.wall_setPg (d : Dev) (n : Nat) (x : PioG) : (d.setPg n x).wall = d.wall := (rfl)
@[simp] theorem Dev.mem_setPg (d : Dev) (n : Nat) (x : PioG) : (d.setPg n x).mem = d.mem := (rfl)
@[simp] theorem Dev.blow_setPg (d : Dev) (n : Nat) (x : PioG) : (d.setPg n x).blow = d.blow := (rfl)
@[simp] theorem Dev.resp_setPg (d : Dev) (n : Nat) (x : PioG) : (d.setPg n x).resp = d.resp := (rfl)
@[simp] theorem Dev.boot_setPg (d : Dev) (n : Nat) (x : PioG) : (d.setPg n x).boot = d.boot := (rfl)
@[simp] theorem Dev.pw_setPg (d : Dev) (n : Nat) (x : PioG) : (d.setPg n x).pw = d.pw := (rfl)
@[simp] theorem Dev.jrn_setPg (d : Dev) (n : Nat) (x : PioG) : (d.setPg n x).jrn = d.jrn := (rfl)
@[simp] theorem Dev.stn_setPg (d : Dev) (n : Nat) (x : PioG) : (d.setPg n x).stn = d.stn := (rfl)
@[simp] theorem Dev.age_setPg (d : Dev) (n : Nat) (x : PioG) : (d.setPg n x).age = d.age := (rfl)
@[simp] theorem Dev.eng_setPg (d : Dev) (n : Nat) (x : PioG) : (d.setPg n x).eng = d.eng := (rfl)
@[simp] theorem Dev.cmt_setPg (d : Dev) (n : Nat) (x : PioG) : (d.setPg n x).cmt = d.cmt := (rfl)
@[simp] theorem Dev.wall_setRing (d : Dev) (n : Nat) (x : RingSt) : (d.setRing n x).wall = d.wall := (rfl)
@[simp] theorem Dev.mem_setRing (d : Dev) (n : Nat) (x : RingSt) : (d.setRing n x).mem = d.mem := (rfl)
@[simp] theorem Dev.blow_setRing (d : Dev) (n : Nat) (x : RingSt) : (d.setRing n x).blow = d.blow := (rfl)
@[simp] theorem Dev.resp_setRing (d : Dev) (n : Nat) (x : RingSt) : (d.setRing n x).resp = d.resp := (rfl)
@[simp] theorem Dev.boot_setRing (d : Dev) (n : Nat) (x : RingSt) : (d.setRing n x).boot = d.boot := (rfl)
@[simp] theorem Dev.pw_setRing (d : Dev) (n : Nat) (x : RingSt) : (d.setRing n x).pw = d.pw := (rfl)
@[simp] theorem Dev.jrn_setRing (d : Dev) (n : Nat) (x : RingSt) : (d.setRing n x).jrn = d.jrn := (rfl)
@[simp] theorem Dev.stn_setRing (d : Dev) (n : Nat) (x : RingSt) : (d.setRing n x).stn = d.stn := (rfl)
@[simp] theorem Dev.age_setRing (d : Dev) (n : Nat) (x : RingSt) : (d.setRing n x).age = d.age := (rfl)
@[simp] theorem Dev.eng_setRing (d : Dev) (n : Nat) (x : RingSt) : (d.setRing n x).eng = d.eng := (rfl)
@[simp] theorem Dev.cmt_setRing (d : Dev) (n : Nat) (x : RingSt) : (d.setRing n x).cmt = d.cmt := (rfl)
@[simp] theorem Dev.wall_setCpu (d : Dev) (c : Core) (x : Cpu) : (d.setCpu c x).wall = d.wall := by cases c <;> rfl
@[simp] theorem Dev.mem_setCpu (d : Dev) (c : Core) (x : Cpu) : (d.setCpu c x).mem = d.mem := by cases c <;> rfl
@[simp] theorem Dev.blow_setCpu (d : Dev) (c : Core) (x : Cpu) : (d.setCpu c x).blow = d.blow := by cases c <;> rfl
@[simp] theorem Dev.resp_setCpu (d : Dev) (c : Core) (x : Cpu) : (d.setCpu c x).resp = d.resp := by cases c <;> rfl
@[simp] theorem Dev.boot_setCpu (d : Dev) (c : Core) (x : Cpu) : (d.setCpu c x).boot = d.boot := by cases c <;> rfl
@[simp] theorem Dev.pw_setCpu (d : Dev) (c : Core) (x : Cpu) : (d.setCpu c x).pw = d.pw := by cases c <;> rfl
@[simp] theorem Dev.jrn_setCpu (d : Dev) (c : Core) (x : Cpu) : (d.setCpu c x).jrn = d.jrn := by cases c <;> rfl
@[simp] theorem Dev.stn_setCpu (d : Dev) (c : Core) (x : Cpu) : (d.setCpu c x).stn = d.stn := by cases c <;> rfl
@[simp] theorem Dev.age_setCpu (d : Dev) (c : Core) (x : Cpu) : (d.setCpu c x).age = d.age := by cases c <;> rfl
@[simp] theorem Dev.cmt_setCpu (d : Dev) (c : Core) (x : Cpu) : (d.setCpu c x).cmt = d.cmt := by cases c <;> rfl
@[simp] theorem Dev.wall_setSl (d : Dev) (n : Nat) (x : SlSt) : (d.setSl n x).wall = d.wall := (rfl)
@[simp] theorem Dev.mem_setSl (d : Dev) (n : Nat) (x : SlSt) : (d.setSl n x).mem = d.mem := (rfl)
@[simp] theorem Dev.blow_setSl (d : Dev) (n : Nat) (x : SlSt) : (d.setSl n x).blow = d.blow := (rfl)
@[simp] theorem Dev.resp_setSl (d : Dev) (n : Nat) (x : SlSt) : (d.setSl n x).resp = d.resp := (rfl)
@[simp] theorem Dev.boot_setSl (d : Dev) (n : Nat) (x : SlSt) : (d.setSl n x).boot = d.boot := (rfl)
@[simp] theorem Dev.pw_setSl (d : Dev) (n : Nat) (x : SlSt) : (d.setSl n x).pw = d.pw := (rfl)
@[simp] theorem Dev.jrn_setSl (d : Dev) (n : Nat) (x : SlSt) : (d.setSl n x).jrn = d.jrn := (rfl)
@[simp] theorem Dev.stn_setSl (d : Dev) (n : Nat) (x : SlSt) : (d.setSl n x).stn = d.stn := (rfl)
@[simp] theorem Dev.age_setSl (d : Dev) (n : Nat) (x : SlSt) : (d.setSl n x).age = d.age := (rfl)
@[simp] theorem Dev.eng_setSl (d : Dev) (n : Nat) (x : SlSt) : (d.setSl n x).eng = d.eng := (rfl)
@[simp] theorem Dev.cmt_setSl (d : Dev) (n : Nat) (x : SlSt) : (d.setSl n x).cmt = d.cmt := (rfl)
@[simp] theorem Dev.wall_setStn (d : Dev) (x : Stn) : (d.setStn x).wall = d.wall := (rfl)
@[simp] theorem Dev.mem_setStn (d : Dev) (x : Stn) : (d.setStn x).mem = d.mem := (rfl)
@[simp] theorem Dev.blow_setStn (d : Dev) (x : Stn) : (d.setStn x).blow = d.blow := (rfl)
@[simp] theorem Dev.resp_setStn (d : Dev) (x : Stn) : (d.setStn x).resp = d.resp := (rfl)
@[simp] theorem Dev.boot_setStn (d : Dev) (x : Stn) : (d.setStn x).boot = d.boot := (rfl)
@[simp] theorem Dev.pw_setStn (d : Dev) (x : Stn) : (d.setStn x).pw = d.pw := (rfl)
@[simp] theorem Dev.jrn_setStn (d : Dev) (x : Stn) : (d.setStn x).jrn = d.jrn := (rfl)
@[simp] theorem Dev.stn_setStn (d : Dev) (x : Stn) : (d.setStn x).stn = x := (rfl)
@[simp] theorem Dev.age_setStn (d : Dev) (x : Stn) : (d.setStn x).age = d.age := (rfl)
@[simp] theorem Dev.eng_setStn (d : Dev) (x : Stn) : (d.setStn x).eng = d.eng := (rfl)
@[simp] theorem Dev.cmt_setStn (d : Dev) (x : Stn) : (d.setStn x).cmt = d.cmt := (rfl)
@[simp] theorem Dev.wall_setDi (d : Dev) (n : Nat) (x : DiSt) : (d.setDi n x).wall = d.wall := (rfl)
@[simp] theorem Dev.mem_setDi (d : Dev) (n : Nat) (x : DiSt) : (d.setDi n x).mem = d.mem := (rfl)
@[simp] theorem Dev.blow_setDi (d : Dev) (n : Nat) (x : DiSt) : (d.setDi n x).blow = d.blow := (rfl)
@[simp] theorem Dev.resp_setDi (d : Dev) (n : Nat) (x : DiSt) : (d.setDi n x).resp = d.resp := (rfl)
@[simp] theorem Dev.boot_setDi (d : Dev) (n : Nat) (x : DiSt) : (d.setDi n x).boot = d.boot := (rfl)
@[simp] theorem Dev.pw_setDi (d : Dev) (n : Nat) (x : DiSt) : (d.setDi n x).pw = d.pw := (rfl)
@[simp] theorem Dev.jrn_setDi (d : Dev) (n : Nat) (x : DiSt) : (d.setDi n x).jrn = d.jrn := (rfl)
@[simp] theorem Dev.age_setDi (d : Dev) (n : Nat) (x : DiSt) : (d.setDi n x).age = d.age := (rfl)
@[simp] theorem Dev.eng_setDi (d : Dev) (n : Nat) (x : DiSt) : (d.setDi n x).eng = d.eng := (rfl)
@[simp] theorem Dev.cmt_setDi (d : Dev) (n : Nat) (x : DiSt) : (d.setDi n x).cmt = d.cmt := (rfl)
@[simp] theorem Dev.wall_setAx (d : Dev) (n : Nat) (x : AxSt) : (d.setAx n x).wall = d.wall := (rfl)
@[simp] theorem Dev.mem_setAx (d : Dev) (n : Nat) (x : AxSt) : (d.setAx n x).mem = d.mem := (rfl)
@[simp] theorem Dev.blow_setAx (d : Dev) (n : Nat) (x : AxSt) : (d.setAx n x).blow = d.blow := (rfl)
@[simp] theorem Dev.resp_setAx (d : Dev) (n : Nat) (x : AxSt) : (d.setAx n x).resp = d.resp := (rfl)
@[simp] theorem Dev.boot_setAx (d : Dev) (n : Nat) (x : AxSt) : (d.setAx n x).boot = d.boot := (rfl)
@[simp] theorem Dev.pw_setAx (d : Dev) (n : Nat) (x : AxSt) : (d.setAx n x).pw = d.pw := (rfl)
@[simp] theorem Dev.jrn_setAx (d : Dev) (n : Nat) (x : AxSt) : (d.setAx n x).jrn = d.jrn := (rfl)
@[simp] theorem Dev.age_setAx (d : Dev) (n : Nat) (x : AxSt) : (d.setAx n x).age = d.age := (rfl)
@[simp] theorem Dev.eng_setAx (d : Dev) (n : Nat) (x : AxSt) : (d.setAx n x).eng = d.eng := (rfl)
@[simp] theorem Dev.cmt_setAx (d : Dev) (n : Nat) (x : AxSt) : (d.setAx n x).cmt = d.cmt := (rfl)
@[simp] theorem Dev.wall_setLane (d : Dev) (n : Nat) (x : EthSt) : (d.setLane n x).wall = d.wall := (rfl)
@[simp] theorem Dev.mem_setLane (d : Dev) (n : Nat) (x : EthSt) : (d.setLane n x).mem = d.mem := (rfl)
@[simp] theorem Dev.blow_setLane (d : Dev) (n : Nat) (x : EthSt) : (d.setLane n x).blow = d.blow := (rfl)
@[simp] theorem Dev.resp_setLane (d : Dev) (n : Nat) (x : EthSt) : (d.setLane n x).resp = d.resp := (rfl)
@[simp] theorem Dev.boot_setLane (d : Dev) (n : Nat) (x : EthSt) : (d.setLane n x).boot = d.boot := (rfl)
@[simp] theorem Dev.pw_setLane (d : Dev) (n : Nat) (x : EthSt) : (d.setLane n x).pw = d.pw := (rfl)
@[simp] theorem Dev.jrn_setLane (d : Dev) (n : Nat) (x : EthSt) : (d.setLane n x).jrn = d.jrn := (rfl)
@[simp] theorem Dev.stn_setLane (d : Dev) (n : Nat) (x : EthSt) : (d.setLane n x).stn = d.stn := (rfl)
@[simp] theorem Dev.age_setLane (d : Dev) (n : Nat) (x : EthSt) : (d.setLane n x).age = d.age := (rfl)
@[simp] theorem Dev.eng_setLane (d : Dev) (n : Nat) (x : EthSt) : (d.setLane n x).eng = d.eng := (rfl)
@[simp] theorem Dev.cmt_setLane (d : Dev) (n : Nat) (x : EthSt) : (d.setLane n x).cmt = d.cmt := (rfl)
@[simp] theorem Dev.wall_setMside (d : Dev) (m s : Nat) (x : MbxSide) : (d.setMside m s x).wall = d.wall := (rfl)
@[simp] theorem Dev.mem_setMside (d : Dev) (m s : Nat) (x : MbxSide) : (d.setMside m s x).mem = d.mem := (rfl)
@[simp] theorem Dev.blow_setMside (d : Dev) (m s : Nat) (x : MbxSide) : (d.setMside m s x).blow = d.blow := (rfl)
@[simp] theorem Dev.resp_setMside (d : Dev) (m s : Nat) (x : MbxSide) : (d.setMside m s x).resp = d.resp := (rfl)
@[simp] theorem Dev.boot_setMside (d : Dev) (m s : Nat) (x : MbxSide) : (d.setMside m s x).boot = d.boot := (rfl)
@[simp] theorem Dev.pw_setMside (d : Dev) (m s : Nat) (x : MbxSide) : (d.setMside m s x).pw = d.pw := (rfl)
@[simp] theorem Dev.jrn_setMside (d : Dev) (m s : Nat) (x : MbxSide) : (d.setMside m s x).jrn = d.jrn := (rfl)
@[simp] theorem Dev.stn_setMside (d : Dev) (m s : Nat) (x : MbxSide) : (d.setMside m s x).stn = d.stn := (rfl)
@[simp] theorem Dev.age_setMside (d : Dev) (m s : Nat) (x : MbxSide) : (d.setMside m s x).age = d.age := (rfl)
@[simp] theorem Dev.eng_setMside (d : Dev) (m s : Nat) (x : MbxSide) : (d.setMside m s x).eng = d.eng := (rfl)
@[simp] theorem Dev.cmt_setMside (d : Dev) (m s : Nat) (x : MbxSide) : (d.setMside m s x).cmt = d.cmt := (rfl)
@[simp] theorem Dev.wall_setByte (d : Dev) (a : Nat) (x : Byte) : (d.setByte a x).wall = d.wall := (rfl)
@[simp] theorem Dev.blow_setByte (d : Dev) (a : Nat) (x : Byte) : (d.setByte a x).blow = d.blow := (rfl)
@[simp] theorem Dev.resp_setByte (d : Dev) (a : Nat) (x : Byte) : (d.setByte a x).resp = d.resp := (rfl)
@[simp] theorem Dev.boot_setByte (d : Dev) (a : Nat) (x : Byte) : (d.setByte a x).boot = d.boot := (rfl)
@[simp] theorem Dev.pw_setByte (d : Dev) (a : Nat) (x : Byte) : (d.setByte a x).pw = d.pw := (rfl)
@[simp] theorem Dev.jrn_setByte (d : Dev) (a : Nat) (x : Byte) : (d.setByte a x).jrn = d.jrn := (rfl)
@[simp] theorem Dev.stn_setByte (d : Dev) (a : Nat) (x : Byte) : (d.setByte a x).stn = d.stn := (rfl)
@[simp] theorem Dev.age_setByte (d : Dev) (a : Nat) (x : Byte) : (d.setByte a x).age = d.age := (rfl)
@[simp] theorem Dev.eng_setByte (d : Dev) (a : Nat) (x : Byte) : (d.setByte a x).eng = d.eng := (rfl)
@[simp] theorem Dev.cmt_setByte (d : Dev) (a : Nat) (x : Byte) : (d.setByte a x).cmt = d.cmt := (rfl)
@[simp] theorem Dev.wall_setAge (d : Dev) (x : AgeSt) : (d.setAge x).wall = d.wall := (rfl)
@[simp] theorem Dev.mem_setAge (d : Dev) (x : AgeSt) : (d.setAge x).mem = d.mem := (rfl)
@[simp] theorem Dev.blow_setAge (d : Dev) (x : AgeSt) : (d.setAge x).blow = d.blow := (rfl)
@[simp] theorem Dev.resp_setAge (d : Dev) (x : AgeSt) : (d.setAge x).resp = d.resp := (rfl)
@[simp] theorem Dev.boot_setAge (d : Dev) (x : AgeSt) : (d.setAge x).boot = d.boot := (rfl)
@[simp] theorem Dev.pw_setAge (d : Dev) (x : AgeSt) : (d.setAge x).pw = d.pw := (rfl)
@[simp] theorem Dev.jrn_setAge (d : Dev) (x : AgeSt) : (d.setAge x).jrn = d.jrn := (rfl)
@[simp] theorem Dev.stn_setAge (d : Dev) (x : AgeSt) : (d.setAge x).stn = d.stn := (rfl)
@[simp] theorem Dev.age_setAge (d : Dev) (x : AgeSt) : (d.setAge x).age = x := (rfl)
@[simp] theorem Dev.eng_setAge (d : Dev) (x : AgeSt) : (d.setAge x).eng = d.eng := (rfl)
@[simp] theorem Dev.cmt_setAge (d : Dev) (x : AgeSt) : (d.setAge x).cmt = d.cmt := (rfl)
@[simp] theorem Dev.wall_setBootRow (d : Dev) (b : Bool) (x : BootRow) : (d.setBootRow b x).wall = d.wall := by cases b <;> rfl
@[simp] theorem Dev.mem_setBootRow (d : Dev) (b : Bool) (x : BootRow) : (d.setBootRow b x).mem = d.mem := by cases b <;> rfl
@[simp] theorem Dev.blow_setBootRow (d : Dev) (b : Bool) (x : BootRow) : (d.setBootRow b x).blow = d.blow := by cases b <;> rfl
@[simp] theorem Dev.resp_setBootRow (d : Dev) (b : Bool) (x : BootRow) : (d.setBootRow b x).resp = d.resp := by cases b <;> rfl
@[simp] theorem Dev.pw_setBootRow (d : Dev) (b : Bool) (x : BootRow) : (d.setBootRow b x).pw = d.pw := by cases b <;> rfl
@[simp] theorem Dev.jrn_setBootRow (d : Dev) (b : Bool) (x : BootRow) : (d.setBootRow b x).jrn = d.jrn := by cases b <;> rfl
@[simp] theorem Dev.stn_setBootRow (d : Dev) (b : Bool) (x : BootRow) : (d.setBootRow b x).stn = d.stn := by cases b <;> rfl
@[simp] theorem Dev.age_setBootRow (d : Dev) (b : Bool) (x : BootRow) : (d.setBootRow b x).age = d.age := by cases b <;> rfl
@[simp] theorem Dev.eng_setBootRow (d : Dev) (b : Bool) (x : BootRow) : (d.setBootRow b x).eng = d.eng := by cases b <;> rfl
@[simp] theorem Dev.cmt_setBootRow (d : Dev) (b : Bool) (x : BootRow) : (d.setBootRow b x).cmt = d.cmt := by cases b <;> rfl
@[simp] theorem Dev.wall_setQ (d : Dev) (n : Nat) (x : List QEnt) : (d.setQ n x).wall = d.wall := (rfl)
@[simp] theorem Dev.mem_setQ (d : Dev) (n : Nat) (x : List QEnt) : (d.setQ n x).mem = d.mem := (rfl)
@[simp] theorem Dev.blow_setQ (d : Dev) (n : Nat) (x : List QEnt) : (d.setQ n x).blow = d.blow := (rfl)
@[simp] theorem Dev.resp_setQ (d : Dev) (n : Nat) (x : List QEnt) : (d.setQ n x).resp = d.resp := (rfl)
@[simp] theorem Dev.boot_setQ (d : Dev) (n : Nat) (x : List QEnt) : (d.setQ n x).boot = d.boot := (rfl)
@[simp] theorem Dev.pw_setQ (d : Dev) (n : Nat) (x : List QEnt) : (d.setQ n x).pw = d.pw := (rfl)
@[simp] theorem Dev.jrn_setQ (d : Dev) (n : Nat) (x : List QEnt) : (d.setQ n x).jrn = d.jrn := (rfl)
@[simp] theorem Dev.stn_setQ (d : Dev) (n : Nat) (x : List QEnt) : (d.setQ n x).stn = d.stn := (rfl)
@[simp] theorem Dev.age_setQ (d : Dev) (n : Nat) (x : List QEnt) : (d.setQ n x).age = d.age := (rfl)
@[simp] theorem Dev.eng_setQ (d : Dev) (n : Nat) (x : List QEnt) : (d.setQ n x).eng = d.eng := (rfl)
@[simp] theorem Dev.cmt_setQ (d : Dev) (n : Nat) (x : List QEnt) : (d.setQ n x).cmt = d.cmt := (rfl)

/-! ### Before a command answers -/

@[simp] theorem Dev.still_resp (d : Dev) : d.still.resp = [] := (rfl)
@[simp] theorem Dev.still_wall (d : Dev) : d.still.wall = d.wall := (rfl)
@[simp] theorem Dev.still_stg (d : Dev) : d.still.stg = d.stg := (rfl)
@[simp] theorem Dev.still_hist (d : Dev) : d.still.hist = d.hist := (rfl)
@[simp] theorem Dev.still_cmt (d : Dev) : d.still.cmt = d.cmt := (rfl)
@[simp] theorem Dev.still_tbank (d : Dev) : d.still.tbank = d.tbank := (rfl)
@[simp] theorem Dev.still_mem (d : Dev) : d.still.mem = d.mem := (rfl)
@[simp] theorem Dev.still_free (d : Dev) : d.still.free = d.free := (rfl)
@[simp] theorem Dev.still_msix (d : Dev) : d.still.msix = d.msix := (rfl)
@[simp] theorem Dev.still_jq (d : Dev) : d.still.jq = d.jq := (rfl)
@[simp] theorem Dev.still_jrn (d : Dev) : d.still.jrn = d.jrn := (rfl)
@[simp] theorem Dev.still_boot (d : Dev) : d.still.boot = d.boot := (rfl)
@[simp] theorem Dev.still_blow (d : Dev) : d.still.blow = d.blow := (rfl)
@[simp] theorem Dev.still_mbx (d : Dev) : d.still.mbx = d.mbx := (rfl)
@[simp] theorem Dev.still_postings (d : Dev) : d.still.postings = d.postings := (rfl)
@[simp] theorem Dev.still_mbxLast (d : Dev) : d.still.mbxLast = d.mbxLast := (rfl)
@[simp] theorem Dev.still_power (d : Dev) : d.still.power = d.power := (rfl)
@[simp] theorem Dev.still_ownPend (d : Dev) : d.still.ownPend = d.ownPend := (rfl)
@[simp] theorem Dev.still_waiting (d : Dev) : d.still.waiting = d.waiting := (rfl)
@[simp] theorem Dev.still_badPar (d : Dev) : d.still.badPar = d.badPar := (rfl)
@[simp] theorem Dev.still_poison (d : Dev) : d.still.poison = d.poison := (rfl)
@[simp] theorem Dev.still_hashed (d : Dev) : d.still.hashed = d.hashed := (rfl)
@[simp] theorem Dev.still_unhashed (d : Dev) : d.still.unhashed = d.unhashed := (rfl)
@[simp] theorem Dev.still_failed (d : Dev) : d.still.failed = d.failed := (rfl)
@[simp] theorem Dev.still_reloads (d : Dev) : d.still.reloads = d.reloads := (rfl)
@[simp] theorem Dev.still_dma (d : Dev) : d.still.dma = d.dma := (rfl)
@[simp] theorem Dev.still_dmaLast (d : Dev) : d.still.dmaLast = d.dmaLast := (rfl)
@[simp] theorem Dev.still_pcieOut (d : Dev) : d.still.pcieOut = d.pcieOut := (rfl)
@[simp] theorem Dev.still_eng (d : Dev) : d.still.eng = d.eng := (rfl)
@[simp] theorem Dev.still_sv0 (d : Dev) : d.still.sv0 = d.sv0 := (rfl)
@[simp] theorem Dev.still_sv1 (d : Dev) : d.still.sv1 = d.sv1 := (rfl)
@[simp] theorem Dev.still_groups (d : Dev) : d.still.groups = d.groups := (rfl)
@[simp] theorem Dev.still_tb (d : Dev) : d.still.tb = d.tb := (rfl)
@[simp] theorem Dev.still_tm (d : Dev) : d.still.tm = d.tm := (rfl)
@[simp] theorem Dev.still_frames (d : Dev) : d.still.frames = d.frames := (rfl)
@[simp] theorem Dev.still_nextFr (d : Dev) : d.still.nextFr = d.nextFr := (rfl)
@[simp] theorem Dev.still_eth (d : Dev) : d.still.eth = d.eth := (rfl)
@[simp] theorem Dev.still_mdio (d : Dev) : d.still.mdio = d.mdio := (rfl)
@[simp] theorem Dev.still_swc (d : Dev) : d.still.swc = d.swc := (rfl)
@[simp] theorem Dev.still_rings (d : Dev) : d.still.rings = d.rings := (rfl)
@[simp] theorem Dev.still_mb (d : Dev) : d.still.mb = d.mb := (rfl)
@[simp] theorem Dev.still_sl (d : Dev) : d.still.sl = d.sl := (rfl)
@[simp] theorem Dev.still_pio (d : Dev) : d.still.pio = d.pio := (rfl)
@[simp] theorem Dev.still_stn (d : Dev) : d.still.stn = d.stn := (rfl)
@[simp] theorem Dev.still_wakes (d : Dev) : d.still.wakes = d.wakes := (rfl)
@[simp] theorem Dev.still_powerTo (d : Dev) : d.still.powerTo = d.powerTo := (rfl)
@[simp] theorem Dev.still_pw (d : Dev) : d.still.pw = d.pw := (rfl)
@[simp] theorem Dev.still_age (d : Dev) : d.still.age = d.age := (rfl)
@[simp] theorem Dev.rd_still (d : Dev) (r : Reg) (i j : Nat) : d.still.rd r i j = d.rd r i j := (rfl)
@[simp] theorem Dev.f_still (d : Dev) (x : RegFld) (i j : Nat) : d.still.f x i j = d.f x i j := (rfl)
@[simp] theorem Dev.b_still (d : Dev) (x : RegFld) (i j : Nat) : d.still.b x i j = d.b x i j := (rfl)

/-! ### Other parts after a field is set -/

@[simp] theorem Dev.setF_wall (d : Dev) (x : RegFld) (v i j : Nat) : (d.setF x v i j).wall = d.wall := (rfl)
@[simp] theorem Dev.setF_stg (d : Dev) (x : RegFld) (v i j : Nat) : (d.setF x v i j).stg = d.stg := (rfl)
@[simp] theorem Dev.setF_hist (d : Dev) (x : RegFld) (v i j : Nat) : (d.setF x v i j).hist = d.hist := (rfl)
@[simp] theorem Dev.setF_cmt (d : Dev) (x : RegFld) (v i j : Nat) : (d.setF x v i j).cmt = d.cmt := (rfl)
@[simp] theorem Dev.setF_tbank (d : Dev) (x : RegFld) (v i j : Nat) : (d.setF x v i j).tbank = d.tbank := (rfl)
@[simp] theorem Dev.setF_mem (d : Dev) (x : RegFld) (v i j : Nat) : (d.setF x v i j).mem = d.mem := (rfl)
@[simp] theorem Dev.setF_free (d : Dev) (x : RegFld) (v i j : Nat) : (d.setF x v i j).free = d.free := (rfl)
@[simp] theorem Dev.setF_resp (d : Dev) (x : RegFld) (v i j : Nat) : (d.setF x v i j).resp = d.resp := (rfl)
@[simp] theorem Dev.setF_msix (d : Dev) (x : RegFld) (v i j : Nat) : (d.setF x v i j).msix = d.msix := (rfl)
@[simp] theorem Dev.setF_jq (d : Dev) (x : RegFld) (v i j : Nat) : (d.setF x v i j).jq = d.jq := (rfl)
@[simp] theorem Dev.setF_jrn (d : Dev) (x : RegFld) (v i j : Nat) : (d.setF x v i j).jrn = d.jrn := (rfl)
@[simp] theorem Dev.setF_boot (d : Dev) (x : RegFld) (v i j : Nat) : (d.setF x v i j).boot = d.boot := (rfl)
@[simp] theorem Dev.setF_blow (d : Dev) (x : RegFld) (v i j : Nat) : (d.setF x v i j).blow = d.blow := (rfl)
@[simp] theorem Dev.setF_mbx (d : Dev) (x : RegFld) (v i j : Nat) : (d.setF x v i j).mbx = d.mbx := (rfl)
@[simp] theorem Dev.setF_postings (d : Dev) (x : RegFld) (v i j : Nat) : (d.setF x v i j).postings = d.postings := (rfl)
@[simp] theorem Dev.setF_mbxLast (d : Dev) (x : RegFld) (v i j : Nat) : (d.setF x v i j).mbxLast = d.mbxLast := (rfl)
@[simp] theorem Dev.setF_power (d : Dev) (x : RegFld) (v i j : Nat) : (d.setF x v i j).power = d.power := (rfl)
@[simp] theorem Dev.setF_ownPend (d : Dev) (x : RegFld) (v i j : Nat) : (d.setF x v i j).ownPend = d.ownPend := (rfl)
@[simp] theorem Dev.setF_waiting (d : Dev) (x : RegFld) (v i j : Nat) : (d.setF x v i j).waiting = d.waiting := (rfl)
@[simp] theorem Dev.setF_badPar (d : Dev) (x : RegFld) (v i j : Nat) : (d.setF x v i j).badPar = d.badPar := (rfl)
@[simp] theorem Dev.setF_poison (d : Dev) (x : RegFld) (v i j : Nat) : (d.setF x v i j).poison = d.poison := (rfl)
@[simp] theorem Dev.setF_hashed (d : Dev) (x : RegFld) (v i j : Nat) : (d.setF x v i j).hashed = d.hashed := (rfl)
@[simp] theorem Dev.setF_unhashed (d : Dev) (x : RegFld) (v i j : Nat) : (d.setF x v i j).unhashed = d.unhashed := (rfl)
@[simp] theorem Dev.setF_failed (d : Dev) (x : RegFld) (v i j : Nat) : (d.setF x v i j).failed = d.failed := (rfl)
@[simp] theorem Dev.setF_reloads (d : Dev) (x : RegFld) (v i j : Nat) : (d.setF x v i j).reloads = d.reloads := (rfl)
@[simp] theorem Dev.setF_dma (d : Dev) (x : RegFld) (v i j : Nat) : (d.setF x v i j).dma = d.dma := (rfl)
@[simp] theorem Dev.setF_dmaLast (d : Dev) (x : RegFld) (v i j : Nat) : (d.setF x v i j).dmaLast = d.dmaLast := (rfl)
@[simp] theorem Dev.setF_pcieOut (d : Dev) (x : RegFld) (v i j : Nat) : (d.setF x v i j).pcieOut = d.pcieOut := (rfl)
@[simp] theorem Dev.setF_eng (d : Dev) (x : RegFld) (v i j : Nat) : (d.setF x v i j).eng = d.eng := (rfl)
@[simp] theorem Dev.setF_sv0 (d : Dev) (x : RegFld) (v i j : Nat) : (d.setF x v i j).sv0 = d.sv0 := (rfl)
@[simp] theorem Dev.setF_sv1 (d : Dev) (x : RegFld) (v i j : Nat) : (d.setF x v i j).sv1 = d.sv1 := (rfl)
@[simp] theorem Dev.setF_groups (d : Dev) (x : RegFld) (v i j : Nat) : (d.setF x v i j).groups = d.groups := (rfl)
@[simp] theorem Dev.setF_tb (d : Dev) (x : RegFld) (v i j : Nat) : (d.setF x v i j).tb = d.tb := (rfl)
@[simp] theorem Dev.setF_tm (d : Dev) (x : RegFld) (v i j : Nat) : (d.setF x v i j).tm = d.tm := (rfl)
@[simp] theorem Dev.setF_frames (d : Dev) (x : RegFld) (v i j : Nat) : (d.setF x v i j).frames = d.frames := (rfl)
@[simp] theorem Dev.setF_nextFr (d : Dev) (x : RegFld) (v i j : Nat) : (d.setF x v i j).nextFr = d.nextFr := (rfl)
@[simp] theorem Dev.setF_eth (d : Dev) (x : RegFld) (v i j : Nat) : (d.setF x v i j).eth = d.eth := (rfl)
@[simp] theorem Dev.setF_mdio (d : Dev) (x : RegFld) (v i j : Nat) : (d.setF x v i j).mdio = d.mdio := (rfl)
@[simp] theorem Dev.setF_swc (d : Dev) (x : RegFld) (v i j : Nat) : (d.setF x v i j).swc = d.swc := (rfl)
@[simp] theorem Dev.setF_rings (d : Dev) (x : RegFld) (v i j : Nat) : (d.setF x v i j).rings = d.rings := (rfl)
@[simp] theorem Dev.setF_mb (d : Dev) (x : RegFld) (v i j : Nat) : (d.setF x v i j).mb = d.mb := (rfl)
@[simp] theorem Dev.setF_sl (d : Dev) (x : RegFld) (v i j : Nat) : (d.setF x v i j).sl = d.sl := (rfl)
@[simp] theorem Dev.setF_pio (d : Dev) (x : RegFld) (v i j : Nat) : (d.setF x v i j).pio = d.pio := (rfl)
@[simp] theorem Dev.setF_stn (d : Dev) (x : RegFld) (v i j : Nat) : (d.setF x v i j).stn = d.stn := (rfl)
@[simp] theorem Dev.setF_wakes (d : Dev) (x : RegFld) (v i j : Nat) : (d.setF x v i j).wakes = d.wakes := (rfl)
@[simp] theorem Dev.setF_powerTo (d : Dev) (x : RegFld) (v i j : Nat) : (d.setF x v i j).powerTo = d.powerTo := (rfl)
@[simp] theorem Dev.setF_pw (d : Dev) (x : RegFld) (v i j : Nat) : (d.setF x v i j).pw = d.pw := (rfl)
@[simp] theorem Dev.setF_age (d : Dev) (x : RegFld) (v i j : Nat) : (d.setF x v i j).age = d.age := (rfl)
@[simp] theorem Dev.setB_wall (d : Dev) (x : RegFld) (v : Bool) (i j : Nat) : (d.setB x v i j).wall = d.wall := (rfl)
@[simp] theorem Dev.setB_stg (d : Dev) (x : RegFld) (v : Bool) (i j : Nat) : (d.setB x v i j).stg = d.stg := (rfl)
@[simp] theorem Dev.setB_hist (d : Dev) (x : RegFld) (v : Bool) (i j : Nat) : (d.setB x v i j).hist = d.hist := (rfl)
@[simp] theorem Dev.setB_cmt (d : Dev) (x : RegFld) (v : Bool) (i j : Nat) : (d.setB x v i j).cmt = d.cmt := (rfl)
@[simp] theorem Dev.setB_tbank (d : Dev) (x : RegFld) (v : Bool) (i j : Nat) : (d.setB x v i j).tbank = d.tbank := (rfl)
@[simp] theorem Dev.setB_mem (d : Dev) (x : RegFld) (v : Bool) (i j : Nat) : (d.setB x v i j).mem = d.mem := (rfl)
@[simp] theorem Dev.setB_free (d : Dev) (x : RegFld) (v : Bool) (i j : Nat) : (d.setB x v i j).free = d.free := (rfl)
@[simp] theorem Dev.setB_resp (d : Dev) (x : RegFld) (v : Bool) (i j : Nat) : (d.setB x v i j).resp = d.resp := (rfl)
@[simp] theorem Dev.setB_msix (d : Dev) (x : RegFld) (v : Bool) (i j : Nat) : (d.setB x v i j).msix = d.msix := (rfl)
@[simp] theorem Dev.setB_jq (d : Dev) (x : RegFld) (v : Bool) (i j : Nat) : (d.setB x v i j).jq = d.jq := (rfl)
@[simp] theorem Dev.setB_jrn (d : Dev) (x : RegFld) (v : Bool) (i j : Nat) : (d.setB x v i j).jrn = d.jrn := (rfl)
@[simp] theorem Dev.setB_boot (d : Dev) (x : RegFld) (v : Bool) (i j : Nat) : (d.setB x v i j).boot = d.boot := (rfl)
@[simp] theorem Dev.setB_blow (d : Dev) (x : RegFld) (v : Bool) (i j : Nat) : (d.setB x v i j).blow = d.blow := (rfl)
@[simp] theorem Dev.setB_mbx (d : Dev) (x : RegFld) (v : Bool) (i j : Nat) : (d.setB x v i j).mbx = d.mbx := (rfl)
@[simp] theorem Dev.setB_postings (d : Dev) (x : RegFld) (v : Bool) (i j : Nat) : (d.setB x v i j).postings = d.postings := (rfl)
@[simp] theorem Dev.setB_mbxLast (d : Dev) (x : RegFld) (v : Bool) (i j : Nat) : (d.setB x v i j).mbxLast = d.mbxLast := (rfl)
@[simp] theorem Dev.setB_power (d : Dev) (x : RegFld) (v : Bool) (i j : Nat) : (d.setB x v i j).power = d.power := (rfl)
@[simp] theorem Dev.setB_ownPend (d : Dev) (x : RegFld) (v : Bool) (i j : Nat) : (d.setB x v i j).ownPend = d.ownPend := (rfl)
@[simp] theorem Dev.setB_waiting (d : Dev) (x : RegFld) (v : Bool) (i j : Nat) : (d.setB x v i j).waiting = d.waiting := (rfl)
@[simp] theorem Dev.setB_badPar (d : Dev) (x : RegFld) (v : Bool) (i j : Nat) : (d.setB x v i j).badPar = d.badPar := (rfl)
@[simp] theorem Dev.setB_poison (d : Dev) (x : RegFld) (v : Bool) (i j : Nat) : (d.setB x v i j).poison = d.poison := (rfl)
@[simp] theorem Dev.setB_hashed (d : Dev) (x : RegFld) (v : Bool) (i j : Nat) : (d.setB x v i j).hashed = d.hashed := (rfl)
@[simp] theorem Dev.setB_unhashed (d : Dev) (x : RegFld) (v : Bool) (i j : Nat) : (d.setB x v i j).unhashed = d.unhashed := (rfl)
@[simp] theorem Dev.setB_failed (d : Dev) (x : RegFld) (v : Bool) (i j : Nat) : (d.setB x v i j).failed = d.failed := (rfl)
@[simp] theorem Dev.setB_reloads (d : Dev) (x : RegFld) (v : Bool) (i j : Nat) : (d.setB x v i j).reloads = d.reloads := (rfl)
@[simp] theorem Dev.setB_dma (d : Dev) (x : RegFld) (v : Bool) (i j : Nat) : (d.setB x v i j).dma = d.dma := (rfl)
@[simp] theorem Dev.setB_dmaLast (d : Dev) (x : RegFld) (v : Bool) (i j : Nat) : (d.setB x v i j).dmaLast = d.dmaLast := (rfl)
@[simp] theorem Dev.setB_pcieOut (d : Dev) (x : RegFld) (v : Bool) (i j : Nat) : (d.setB x v i j).pcieOut = d.pcieOut := (rfl)
@[simp] theorem Dev.setB_eng (d : Dev) (x : RegFld) (v : Bool) (i j : Nat) : (d.setB x v i j).eng = d.eng := (rfl)
@[simp] theorem Dev.setB_sv0 (d : Dev) (x : RegFld) (v : Bool) (i j : Nat) : (d.setB x v i j).sv0 = d.sv0 := (rfl)
@[simp] theorem Dev.setB_sv1 (d : Dev) (x : RegFld) (v : Bool) (i j : Nat) : (d.setB x v i j).sv1 = d.sv1 := (rfl)
@[simp] theorem Dev.setB_groups (d : Dev) (x : RegFld) (v : Bool) (i j : Nat) : (d.setB x v i j).groups = d.groups := (rfl)
@[simp] theorem Dev.setB_tb (d : Dev) (x : RegFld) (v : Bool) (i j : Nat) : (d.setB x v i j).tb = d.tb := (rfl)
@[simp] theorem Dev.setB_tm (d : Dev) (x : RegFld) (v : Bool) (i j : Nat) : (d.setB x v i j).tm = d.tm := (rfl)
@[simp] theorem Dev.setB_frames (d : Dev) (x : RegFld) (v : Bool) (i j : Nat) : (d.setB x v i j).frames = d.frames := (rfl)
@[simp] theorem Dev.setB_nextFr (d : Dev) (x : RegFld) (v : Bool) (i j : Nat) : (d.setB x v i j).nextFr = d.nextFr := (rfl)
@[simp] theorem Dev.setB_eth (d : Dev) (x : RegFld) (v : Bool) (i j : Nat) : (d.setB x v i j).eth = d.eth := (rfl)
@[simp] theorem Dev.setB_mdio (d : Dev) (x : RegFld) (v : Bool) (i j : Nat) : (d.setB x v i j).mdio = d.mdio := (rfl)
@[simp] theorem Dev.setB_swc (d : Dev) (x : RegFld) (v : Bool) (i j : Nat) : (d.setB x v i j).swc = d.swc := (rfl)
@[simp] theorem Dev.setB_rings (d : Dev) (x : RegFld) (v : Bool) (i j : Nat) : (d.setB x v i j).rings = d.rings := (rfl)
@[simp] theorem Dev.setB_mb (d : Dev) (x : RegFld) (v : Bool) (i j : Nat) : (d.setB x v i j).mb = d.mb := (rfl)
@[simp] theorem Dev.setB_sl (d : Dev) (x : RegFld) (v : Bool) (i j : Nat) : (d.setB x v i j).sl = d.sl := (rfl)
@[simp] theorem Dev.setB_pio (d : Dev) (x : RegFld) (v : Bool) (i j : Nat) : (d.setB x v i j).pio = d.pio := (rfl)
@[simp] theorem Dev.setB_stn (d : Dev) (x : RegFld) (v : Bool) (i j : Nat) : (d.setB x v i j).stn = d.stn := (rfl)
@[simp] theorem Dev.setB_wakes (d : Dev) (x : RegFld) (v : Bool) (i j : Nat) : (d.setB x v i j).wakes = d.wakes := (rfl)
@[simp] theorem Dev.setB_powerTo (d : Dev) (x : RegFld) (v : Bool) (i j : Nat) : (d.setB x v i j).powerTo = d.powerTo := (rfl)
@[simp] theorem Dev.setB_pw (d : Dev) (x : RegFld) (v : Bool) (i j : Nat) : (d.setB x v i j).pw = d.pw := (rfl)
@[simp] theorem Dev.setB_age (d : Dev) (x : RegFld) (v : Bool) (i j : Nat) : (d.setB x v i j).age = d.age := (rfl)
@[simp] theorem Dev.count_wall (d : Dev) (r : Reg) (i j n : Nat) : (d.count r i j n).wall = d.wall := (rfl)
@[simp] theorem Dev.count_stg (d : Dev) (r : Reg) (i j n : Nat) : (d.count r i j n).stg = d.stg := (rfl)
@[simp] theorem Dev.count_hist (d : Dev) (r : Reg) (i j n : Nat) : (d.count r i j n).hist = d.hist := (rfl)
@[simp] theorem Dev.count_cmt (d : Dev) (r : Reg) (i j n : Nat) : (d.count r i j n).cmt = d.cmt := (rfl)
@[simp] theorem Dev.count_tbank (d : Dev) (r : Reg) (i j n : Nat) : (d.count r i j n).tbank = d.tbank := (rfl)
@[simp] theorem Dev.count_mem (d : Dev) (r : Reg) (i j n : Nat) : (d.count r i j n).mem = d.mem := (rfl)
@[simp] theorem Dev.count_free (d : Dev) (r : Reg) (i j n : Nat) : (d.count r i j n).free = d.free := (rfl)
@[simp] theorem Dev.count_resp (d : Dev) (r : Reg) (i j n : Nat) : (d.count r i j n).resp = d.resp := (rfl)
@[simp] theorem Dev.count_msix (d : Dev) (r : Reg) (i j n : Nat) : (d.count r i j n).msix = d.msix := (rfl)
@[simp] theorem Dev.count_jq (d : Dev) (r : Reg) (i j n : Nat) : (d.count r i j n).jq = d.jq := (rfl)
@[simp] theorem Dev.count_jrn (d : Dev) (r : Reg) (i j n : Nat) : (d.count r i j n).jrn = d.jrn := (rfl)
@[simp] theorem Dev.count_boot (d : Dev) (r : Reg) (i j n : Nat) : (d.count r i j n).boot = d.boot := (rfl)
@[simp] theorem Dev.count_blow (d : Dev) (r : Reg) (i j n : Nat) : (d.count r i j n).blow = d.blow := (rfl)
@[simp] theorem Dev.count_mbx (d : Dev) (r : Reg) (i j n : Nat) : (d.count r i j n).mbx = d.mbx := (rfl)
@[simp] theorem Dev.count_postings (d : Dev) (r : Reg) (i j n : Nat) : (d.count r i j n).postings = d.postings := (rfl)
@[simp] theorem Dev.count_mbxLast (d : Dev) (r : Reg) (i j n : Nat) : (d.count r i j n).mbxLast = d.mbxLast := (rfl)
@[simp] theorem Dev.count_power (d : Dev) (r : Reg) (i j n : Nat) : (d.count r i j n).power = d.power := (rfl)
@[simp] theorem Dev.count_ownPend (d : Dev) (r : Reg) (i j n : Nat) : (d.count r i j n).ownPend = d.ownPend := (rfl)
@[simp] theorem Dev.count_waiting (d : Dev) (r : Reg) (i j n : Nat) : (d.count r i j n).waiting = d.waiting := (rfl)
@[simp] theorem Dev.count_badPar (d : Dev) (r : Reg) (i j n : Nat) : (d.count r i j n).badPar = d.badPar := (rfl)
@[simp] theorem Dev.count_poison (d : Dev) (r : Reg) (i j n : Nat) : (d.count r i j n).poison = d.poison := (rfl)
@[simp] theorem Dev.count_hashed (d : Dev) (r : Reg) (i j n : Nat) : (d.count r i j n).hashed = d.hashed := (rfl)
@[simp] theorem Dev.count_unhashed (d : Dev) (r : Reg) (i j n : Nat) : (d.count r i j n).unhashed = d.unhashed := (rfl)
@[simp] theorem Dev.count_failed (d : Dev) (r : Reg) (i j n : Nat) : (d.count r i j n).failed = d.failed := (rfl)
@[simp] theorem Dev.count_reloads (d : Dev) (r : Reg) (i j n : Nat) : (d.count r i j n).reloads = d.reloads := (rfl)
@[simp] theorem Dev.count_dma (d : Dev) (r : Reg) (i j n : Nat) : (d.count r i j n).dma = d.dma := (rfl)
@[simp] theorem Dev.count_dmaLast (d : Dev) (r : Reg) (i j n : Nat) : (d.count r i j n).dmaLast = d.dmaLast := (rfl)
@[simp] theorem Dev.count_pcieOut (d : Dev) (r : Reg) (i j n : Nat) : (d.count r i j n).pcieOut = d.pcieOut := (rfl)
@[simp] theorem Dev.count_eng (d : Dev) (r : Reg) (i j n : Nat) : (d.count r i j n).eng = d.eng := (rfl)
@[simp] theorem Dev.count_sv0 (d : Dev) (r : Reg) (i j n : Nat) : (d.count r i j n).sv0 = d.sv0 := (rfl)
@[simp] theorem Dev.count_sv1 (d : Dev) (r : Reg) (i j n : Nat) : (d.count r i j n).sv1 = d.sv1 := (rfl)
@[simp] theorem Dev.count_groups (d : Dev) (r : Reg) (i j n : Nat) : (d.count r i j n).groups = d.groups := (rfl)
@[simp] theorem Dev.count_tb (d : Dev) (r : Reg) (i j n : Nat) : (d.count r i j n).tb = d.tb := (rfl)
@[simp] theorem Dev.count_tm (d : Dev) (r : Reg) (i j n : Nat) : (d.count r i j n).tm = d.tm := (rfl)
@[simp] theorem Dev.count_frames (d : Dev) (r : Reg) (i j n : Nat) : (d.count r i j n).frames = d.frames := (rfl)
@[simp] theorem Dev.count_nextFr (d : Dev) (r : Reg) (i j n : Nat) : (d.count r i j n).nextFr = d.nextFr := (rfl)
@[simp] theorem Dev.count_eth (d : Dev) (r : Reg) (i j n : Nat) : (d.count r i j n).eth = d.eth := (rfl)
@[simp] theorem Dev.count_mdio (d : Dev) (r : Reg) (i j n : Nat) : (d.count r i j n).mdio = d.mdio := (rfl)
@[simp] theorem Dev.count_swc (d : Dev) (r : Reg) (i j n : Nat) : (d.count r i j n).swc = d.swc := (rfl)
@[simp] theorem Dev.count_rings (d : Dev) (r : Reg) (i j n : Nat) : (d.count r i j n).rings = d.rings := (rfl)
@[simp] theorem Dev.count_mb (d : Dev) (r : Reg) (i j n : Nat) : (d.count r i j n).mb = d.mb := (rfl)
@[simp] theorem Dev.count_sl (d : Dev) (r : Reg) (i j n : Nat) : (d.count r i j n).sl = d.sl := (rfl)
@[simp] theorem Dev.count_pio (d : Dev) (r : Reg) (i j n : Nat) : (d.count r i j n).pio = d.pio := (rfl)
@[simp] theorem Dev.count_stn (d : Dev) (r : Reg) (i j n : Nat) : (d.count r i j n).stn = d.stn := (rfl)
@[simp] theorem Dev.count_wakes (d : Dev) (r : Reg) (i j n : Nat) : (d.count r i j n).wakes = d.wakes := (rfl)
@[simp] theorem Dev.count_powerTo (d : Dev) (r : Reg) (i j n : Nat) : (d.count r i j n).powerTo = d.powerTo := (rfl)
@[simp] theorem Dev.count_pw (d : Dev) (r : Reg) (i j n : Nat) : (d.count r i j n).pw = d.pw := (rfl)
@[simp] theorem Dev.count_age (d : Dev) (r : Reg) (i j n : Nat) : (d.count r i j n).age = d.age := (rfl)
@[simp] theorem Dev.countF_wall (d : Dev) (x : RegFld) (i j n : Nat) : (d.countF x i j n).wall = d.wall := (rfl)
@[simp] theorem Dev.countF_stg (d : Dev) (x : RegFld) (i j n : Nat) : (d.countF x i j n).stg = d.stg := (rfl)
@[simp] theorem Dev.countF_hist (d : Dev) (x : RegFld) (i j n : Nat) : (d.countF x i j n).hist = d.hist := (rfl)
@[simp] theorem Dev.countF_cmt (d : Dev) (x : RegFld) (i j n : Nat) : (d.countF x i j n).cmt = d.cmt := (rfl)
@[simp] theorem Dev.countF_tbank (d : Dev) (x : RegFld) (i j n : Nat) : (d.countF x i j n).tbank = d.tbank := (rfl)
@[simp] theorem Dev.countF_mem (d : Dev) (x : RegFld) (i j n : Nat) : (d.countF x i j n).mem = d.mem := (rfl)
@[simp] theorem Dev.countF_free (d : Dev) (x : RegFld) (i j n : Nat) : (d.countF x i j n).free = d.free := (rfl)
@[simp] theorem Dev.countF_resp (d : Dev) (x : RegFld) (i j n : Nat) : (d.countF x i j n).resp = d.resp := (rfl)
@[simp] theorem Dev.countF_msix (d : Dev) (x : RegFld) (i j n : Nat) : (d.countF x i j n).msix = d.msix := (rfl)
@[simp] theorem Dev.countF_jq (d : Dev) (x : RegFld) (i j n : Nat) : (d.countF x i j n).jq = d.jq := (rfl)
@[simp] theorem Dev.countF_jrn (d : Dev) (x : RegFld) (i j n : Nat) : (d.countF x i j n).jrn = d.jrn := (rfl)
@[simp] theorem Dev.countF_boot (d : Dev) (x : RegFld) (i j n : Nat) : (d.countF x i j n).boot = d.boot := (rfl)
@[simp] theorem Dev.countF_blow (d : Dev) (x : RegFld) (i j n : Nat) : (d.countF x i j n).blow = d.blow := (rfl)
@[simp] theorem Dev.countF_mbx (d : Dev) (x : RegFld) (i j n : Nat) : (d.countF x i j n).mbx = d.mbx := (rfl)
@[simp] theorem Dev.countF_postings (d : Dev) (x : RegFld) (i j n : Nat) : (d.countF x i j n).postings = d.postings := (rfl)
@[simp] theorem Dev.countF_mbxLast (d : Dev) (x : RegFld) (i j n : Nat) : (d.countF x i j n).mbxLast = d.mbxLast := (rfl)
@[simp] theorem Dev.countF_power (d : Dev) (x : RegFld) (i j n : Nat) : (d.countF x i j n).power = d.power := (rfl)
@[simp] theorem Dev.countF_ownPend (d : Dev) (x : RegFld) (i j n : Nat) : (d.countF x i j n).ownPend = d.ownPend := (rfl)
@[simp] theorem Dev.countF_waiting (d : Dev) (x : RegFld) (i j n : Nat) : (d.countF x i j n).waiting = d.waiting := (rfl)
@[simp] theorem Dev.countF_badPar (d : Dev) (x : RegFld) (i j n : Nat) : (d.countF x i j n).badPar = d.badPar := (rfl)
@[simp] theorem Dev.countF_poison (d : Dev) (x : RegFld) (i j n : Nat) : (d.countF x i j n).poison = d.poison := (rfl)
@[simp] theorem Dev.countF_hashed (d : Dev) (x : RegFld) (i j n : Nat) : (d.countF x i j n).hashed = d.hashed := (rfl)
@[simp] theorem Dev.countF_unhashed (d : Dev) (x : RegFld) (i j n : Nat) : (d.countF x i j n).unhashed = d.unhashed := (rfl)
@[simp] theorem Dev.countF_failed (d : Dev) (x : RegFld) (i j n : Nat) : (d.countF x i j n).failed = d.failed := (rfl)
@[simp] theorem Dev.countF_reloads (d : Dev) (x : RegFld) (i j n : Nat) : (d.countF x i j n).reloads = d.reloads := (rfl)
@[simp] theorem Dev.countF_dma (d : Dev) (x : RegFld) (i j n : Nat) : (d.countF x i j n).dma = d.dma := (rfl)
@[simp] theorem Dev.countF_dmaLast (d : Dev) (x : RegFld) (i j n : Nat) : (d.countF x i j n).dmaLast = d.dmaLast := (rfl)
@[simp] theorem Dev.countF_pcieOut (d : Dev) (x : RegFld) (i j n : Nat) : (d.countF x i j n).pcieOut = d.pcieOut := (rfl)
@[simp] theorem Dev.countF_eng (d : Dev) (x : RegFld) (i j n : Nat) : (d.countF x i j n).eng = d.eng := (rfl)
@[simp] theorem Dev.countF_sv0 (d : Dev) (x : RegFld) (i j n : Nat) : (d.countF x i j n).sv0 = d.sv0 := (rfl)
@[simp] theorem Dev.countF_sv1 (d : Dev) (x : RegFld) (i j n : Nat) : (d.countF x i j n).sv1 = d.sv1 := (rfl)
@[simp] theorem Dev.countF_groups (d : Dev) (x : RegFld) (i j n : Nat) : (d.countF x i j n).groups = d.groups := (rfl)
@[simp] theorem Dev.countF_tb (d : Dev) (x : RegFld) (i j n : Nat) : (d.countF x i j n).tb = d.tb := (rfl)
@[simp] theorem Dev.countF_tm (d : Dev) (x : RegFld) (i j n : Nat) : (d.countF x i j n).tm = d.tm := (rfl)
@[simp] theorem Dev.countF_frames (d : Dev) (x : RegFld) (i j n : Nat) : (d.countF x i j n).frames = d.frames := (rfl)
@[simp] theorem Dev.countF_nextFr (d : Dev) (x : RegFld) (i j n : Nat) : (d.countF x i j n).nextFr = d.nextFr := (rfl)
@[simp] theorem Dev.countF_eth (d : Dev) (x : RegFld) (i j n : Nat) : (d.countF x i j n).eth = d.eth := (rfl)
@[simp] theorem Dev.countF_mdio (d : Dev) (x : RegFld) (i j n : Nat) : (d.countF x i j n).mdio = d.mdio := (rfl)
@[simp] theorem Dev.countF_swc (d : Dev) (x : RegFld) (i j n : Nat) : (d.countF x i j n).swc = d.swc := (rfl)
@[simp] theorem Dev.countF_rings (d : Dev) (x : RegFld) (i j n : Nat) : (d.countF x i j n).rings = d.rings := (rfl)
@[simp] theorem Dev.countF_mb (d : Dev) (x : RegFld) (i j n : Nat) : (d.countF x i j n).mb = d.mb := (rfl)
@[simp] theorem Dev.countF_sl (d : Dev) (x : RegFld) (i j n : Nat) : (d.countF x i j n).sl = d.sl := (rfl)
@[simp] theorem Dev.countF_pio (d : Dev) (x : RegFld) (i j n : Nat) : (d.countF x i j n).pio = d.pio := (rfl)
@[simp] theorem Dev.countF_stn (d : Dev) (x : RegFld) (i j n : Nat) : (d.countF x i j n).stn = d.stn := (rfl)
@[simp] theorem Dev.countF_wakes (d : Dev) (x : RegFld) (i j n : Nat) : (d.countF x i j n).wakes = d.wakes := (rfl)
@[simp] theorem Dev.countF_powerTo (d : Dev) (x : RegFld) (i j n : Nat) : (d.countF x i j n).powerTo = d.powerTo := (rfl)
@[simp] theorem Dev.countF_pw (d : Dev) (x : RegFld) (i j n : Nat) : (d.countF x i j n).pw = d.pw := (rfl)
@[simp] theorem Dev.countF_age (d : Dev) (x : RegFld) (i j n : Nat) : (d.countF x i j n).age = d.age := (rfl)

end Sys2Proof.Machine
end

