-- ==== Sys2Proof/Laws/Drop.lean ====
section
/-!
SUPPORT. What is left of an engine whose item has been dropped or committed: nothing else the drop sets off touches it but its transmit
slots, and no fuse is blown.
-/

namespace Sys2Proof.Machine

theorem Dev.e_congr {d d' : Dev} (h : d'.eng = d.eng) (n : Nat) : d'.e n = d.e n := by
  unfold Dev.e
  rw [h]

/-- From `d` to `d'` no fuse is blown, and engine `n`, with no item in hand, changes at most in its transmit slots. -/
def Idle (n : Nat) (d d' : Dev) : Prop := d'.blow = d.blow ∧ ((d.e n).hand = none → ∃ x, d'.e n = { d.e n with slots := x })

theorem Idle.same {n : Nat} {d d' : Dev} (h : d'.blow = d.blow) (h' : d'.eng = d.eng) : Idle n d d' :=
  ⟨h, fun _ => ⟨(d.e n).slots, by unfold Dev.e; rw [h']⟩⟩

theorem Idle.refl (n : Nat) (d : Dev) : Idle n d d := .same rfl rfl

theorem Idle.trans {n : Nat} {d d' d'' : Dev} (h : Idle n d d') (h' : Idle n d' d'') : Idle n d d'' := by
  refine ⟨h'.1.trans h.1, fun hh => ?_⟩
  obtain ⟨x, e⟩ := h.2 hh
  obtain ⟨y, e'⟩ := h'.2 (by rw [e]; exact hh)
  exact ⟨y, by rw [e', e]⟩

theorem Idle.foldl {n : Nat} {β : Type} (f : Dev → β → Dev) (l : List β) (hf : ∀ d, ∀ x ∈ l, Idle n d (f d x)) :
    ∀ d, Idle n d (l.foldl f d) := by
  induction l with
  | nil => exact fun d => .refl n d
  | cons x l ih => exact fun d => (hf d x List.mem_cons_self).trans (ih (fun d y hy => hf d y (List.mem_cons_of_mem _ hy)) _)

theorem Idle.evt {n : Nat} {d d' : Dev} (h : EvtOnly d d') : Idle n d d' := .same h.boot.2.1 h.boot.2.2.2.1

theorem Idle.raise (n : Nat) (d : Dev) (s i : Nat) (h : s < 256) : Idle n d (d.raise s i) := .evt (.raise d s i h)

theorem Idle.setE (n : Nat) (d : Dev) (k : Nat) (g : Eng) (h : k = n → (d.e n).hand = none → ∃ x, g = { d.e n with slots := x }) :
    Idle n d (d.setE k g) := by
  refine ⟨rfl, fun hh => ?_⟩
  by_cases hk : k = n
  · subst hk
    obtain ⟨x, rfl⟩ := h rfl hh
    exact ⟨x, Dev.e_setE _ _ _⟩
  · exact ⟨(d.e n).slots, Dev.e_setE_ne _ _ _ _ (fun e => hk e.symm)⟩

/-! ### The counters -/

theorem Dev.pmAdd_eng (n : Nat) (fuel : Nat) : ∀ (d : Dev) (k x : Nat), (d.pmAdd n fuel k x).eng = d.eng ∧ (d.pmAdd n fuel k x).blow = d.blow := by
  induction fuel with
  | zero => exact fun d k x => ⟨rfl, rfl⟩
  | succ m ih =>
    intro d k x
    unfold Dev.pmAdd
    dsimp only
    split
    · exact ⟨rfl, rfl⟩
    · split
      · split
        · obtain ⟨h1, h2⟩ := ih ((d.wr ENG_PMCNT_LO (BitVec.ofNat 32 ((d.rd ENG_PMCNT_LO n k).toNat + 2 ^ 32 * getBits (d.rd ENG_PMCNT_HI n k) 0 16 + x)) n k).wr ENG_PMCNT_HI (BitVec.ofNat 32 (((d.rd ENG_PMCNT_LO n k).toNat + 2 ^ 32 * getBits (d.rd ENG_PMCNT_HI n k) 0 16 + x) / 2 ^ 32 % 2 ^ 16)) n k) (k + 1) 1
          exact ⟨by rw [h1, Dev.wr_eng, Dev.wr_eng], by rw [h2, Dev.wr_blow, Dev.wr_blow]⟩
        · exact ⟨rfl, rfl⟩
      · have h := (EvtOnly.raise ((d.wr ENG_PMCNT_LO (BitVec.ofNat 32 ((d.rd ENG_PMCNT_LO n k).toNat + 2 ^ 32 * getBits (d.rd ENG_PMCNT_HI n k) 0 16 + x)) n k).wr ENG_PMCNT_HI (BitVec.ofNat 32 (((d.rd ENG_PMCNT_LO n k).toNat + 2 ^ 32 * getBits (d.rd ENG_PMCNT_HI n k) 0 16 + x) / 2 ^ 32 % 2 ^ 16)) n k) 43 n (by omega)).boot
        exact ⟨by rw [h.2.2.2.1, Dev.wr_eng, Dev.wr_eng], by rw [h.2.1, Dev.wr_blow, Dev.wr_blow]⟩

/-- Counting an event changes no engine's state. -/
theorem Dev.pm_eng (d : Dev) (n c x : Nat) : (d.pm n c x).eng = d.eng ∧ (d.pm n c x).blow = d.blow := by
  unfold Dev.pm
  split
  · exact ⟨rfl, rfl⟩
  · generalize List.range 8 = l
    induction l generalizing d with
    | nil => exact ⟨rfl, rfl⟩
    | cons k l ih =>
      rw [List.foldl_cons]
      split
      · have := d.pmAdd_eng n 8 k (if d.b ENG_PMSEL_EDGE n k = true then 1 else x)
        obtain ⟨a, b⟩ := ih (d.pmAdd n 8 k (if d.b ENG_PMSEL_EDGE n k = true then 1 else x))
        exact ⟨a.trans this.1, b.trans this.2⟩
      · exact ih d

/-! ### Rolling back -/

/-- The tag record is written: the engine's tag is gone. -/
theorem Dev.tagFate_e (d : Dev) (n fate : Nat) : (d.tagFate n fate).e n = { d.e n with tag := none } ∧
    (d.tagFate n fate).blow = d.blow ∧ ∀ k, k ≠ n → (d.tagFate n fate).e k = d.e k := by
  unfold Dev.tagFate
  dsimp only
  split
  · next h =>
    refine ⟨?_, rfl, fun _ _ => rfl⟩
    generalize d.e n = g at *
    cases g
    simp only at h
    rw [h]
  · have g : ∀ (x y z : Word) (q : Eng), let t := (((d.take 32).2.setE n q).wr ENG_TAGREC0 x n).wr ENG_TAGREC1 y n
        ((t.wr ENG_TAGREC2 z n).raise 44 n).eng = ((d.take 32).2.setE n q).eng ∧ ((t.wr ENG_TAGREC2 z n).raise 44 n).blow = d.blow := by
      intro x y z q
      have h := (EvtOnly.raise (((((d.take 32).2.setE n q).wr ENG_TAGREC0 x n).wr ENG_TAGREC1 y n).wr ENG_TAGREC2 z n) 44 n (by omega)).boot
      exact ⟨by rw [h.2.2.2.1, Dev.wr_eng, Dev.wr_eng, Dev.wr_eng], by rw [h.2.1, Dev.wr_blow, Dev.wr_blow, Dev.wr_blow]; rfl⟩
    refine ⟨?_, (g _ _ _ _).2, fun k hk => ?_⟩
    · exact (Dev.e_congr (g _ _ _ _).1 n).trans (Dev.e_setE _ _ _)
    · exact (Dev.e_congr (g _ _ _ _).1 k).trans (Dev.e_setE_ne _ _ _ _ hk)

/-- An engine restored to its checkpoint. -/
theorem Dev.restore_e (d : Dev) (n : Nat) (c : Ckpt) (h : (d.e n).ck = some c) :
    (d.restore n).e n = { d.e n with
      cpu := { (d.e n).cpu with g := c.g, pc := c.pc, fl := c.fl, bits := c.bits }
      cbuf := [], rset := [], slots := freeArmed (d.e n).slots, cyc := 0, provRet := 0, tag := none } ∧
    (d.restore n).blow = d.blow ∧ ∀ k, k ≠ n → (d.restore n).e k = d.e k := by
  unfold Dev.restore
  dsimp only
  rw [h]
  dsimp only
  have h1 : (d.pmSettle n false).e n = { d.e n with provRet := 0 } ∧ (d.pmSettle n false).blow = d.blow ∧ ∀ k, k ≠ n → (d.pmSettle n false).e k = d.e k := by
    unfold Dev.pmSettle
    dsimp only
    have hp := (d.setE n { d.e n with provRet := 0 }).pm_eng n (if false = true then 1 else 2) (d.e n).provRet
    refine ⟨?_, hp.2, fun k hk => ?_⟩
    · exact (Dev.e_congr hp.1 n).trans (Dev.e_setE _ _ _)
    · exact (Dev.e_congr hp.1 k).trans (Dev.e_setE_ne _ _ _ _ hk)
  have h2 := (d.pmSettle n false).tagFate_e n 1
  refine ⟨?_, h2.2.1.trans h1.2.1, fun k hk => (Dev.e_setE_ne _ _ _ _ hk).trans ((h2.2.2 k hk).trans (h1.2.2 k hk))⟩
  rw [Dev.e_setE, h2.1, h1.1]
  simp only [h]

/-- A conflict rollback leaves an engine with no item in hand, and every other engine. -/
theorem Idle.conflict (n : Nat) (d : Dev) (k : Nat) : Idle n d (d.conflict k) := by
  unfold Dev.conflict
  split
  · exact .refl n d
  · next h hh =>
    dsimp only
    have hk : ∀ D : Dev, D.blow = d.blow → (∀ j, j ≠ k → D.e j = d.e j) → Idle n d D := by
      intro D hb he
      refine ⟨hb, fun hn => ?_⟩
      by_cases hj : n = k
      · subst hj; rw [hh] at hn; cases hn
      · exact ⟨(d.e n).slots, he n hj⟩
    have hr : (d.restore k).blow = d.blow ∧ ∀ j, j ≠ k → (d.restore k).e j = d.e j := by
      cases hc : (d.e k).ck with
      | none => unfold Dev.restore; dsimp only; rw [hc]; exact ⟨rfl, fun _ _ => rfl⟩
      | some c => exact ⟨(d.restore_e k c hc).2.1, (d.restore_e k c hc).2.2⟩
    have hd : ∀ D : Dev, D = ((d.restore k).count ENG_CNT_CONF k).pm k 6 → D.blow = d.blow ∧ ∀ j, j ≠ k → D.e j = d.e j := by
      rintro D rfl
      have hp := ((d.restore k).count ENG_CNT_CONF k).pm_eng k 6 1
      refine ⟨hp.2.trans hr.1, fun j hj => ?_⟩
      exact (Dev.e_congr hp.1 j).trans (hr.2 j hj)
    generalize ((d.restore k).count ENG_CNT_CONF k).pm k 6 = D at *
    obtain ⟨b1, b2⟩ := hd D rfl
    split
    · exact hk _ b1 (fun j hj => (Dev.e_setE_ne _ _ _ _ hj).trans (b2 j hj))
    · split
      · refine hk _ ((EngOnly.requestToken _ k).blow.trans b1) (fun j hj => ?_)
        have : ((D.setE k { D.e k with hand := some { h with conf := h.conf + 1, exec := h.exec + 1, soft := none }, run := .token }).requestToken k).e j = (D.setE k { D.e k with hand := some { h with conf := h.conf + 1, exec := h.exec + 1, soft := none }, run := .token }).e j := by
          unfold Dev.requestToken
          dsimp only
          split <;> rfl
        exact this.trans ((Dev.e_setE_ne _ _ _ _ hj).trans (b2 j hj))
      · exact hk _ b1 (fun j hj => (Dev.e_setE_ne _ _ _ _ hj).trans (b2 j hj))

theorem Idle.conflicts (n : Nat) (d : Dev) (me : Option Nat) (ls : List Nat) : Idle n d (d.conflicts me ls) :=
  Idle.foldl _ _ (fun d k _ => by split; exact .conflict n d k; exact .refl n d) d

/-! ### Stores of comb memory, records of captured frames -/

theorem Idle.latchAcc (n : Nat) (d : Dev) (m a c : Nat) (w : Bool) : Idle n d (d.latchAcc m a c w) := by
  unfold Dev.latchAcc
  split
  · exact .refl n d
  · exact (Idle.same (by simp) (by simp)).trans (.raise n _ 16 0 (by omega))

theorem Idle.latchInteg (n : Nat) (d : Dev) (m a c : Nat) : Idle n d (d.latchInteg m a c) := by
  unfold Dev.latchInteg
  split
  · exact .refl n d
  · exact (Idle.same (by simp) (by simp)).trans (.raise n _ 18 0 (by omega))

theorem Idle.setBytes (n : Nat) (l : List Byte) : ∀ (d : Dev) (a : Nat), Idle n d (d.setBytes a l) := by
  induction l with
  | nil => exact fun d _ => .refl n d
  | cons x l ih => exact fun d a => (Idle.same rfl rfl : Idle n d (d.setByte a x)).trans (ih _ _)

theorem Idle.memStore (n : Nat) (d : Dev) (m a w v : Nat) : Idle n d (d.memStore m a w v).1 := by
  unfold Dev.memStore
  split
  · exact .latchAcc n d _ _ _ _
  · split
    · exact .refl n d
    · dsimp only
      split
      · exact .latchAcc n d _ _ _ _
      · split
        · exact (Idle.same (d' := (d.count MEM_CNT_PAR).poisonWord _) (by simp [Dev.poisonWord]) (by simp [Dev.poisonWord])).trans (.latchInteg n _ _ _ _)
        · have : Idle n d (d.putNat a w v) := (Idle.same rfl rfl : Idle n d (d.cleanUnits a w)).trans (Idle.setBytes n _ _ _)
          dsimp only
          split
          · split
            · exact this.trans (.same rfl rfl)
            · exact this
          · exact this

theorem Idle.combStore (n : Nat) (d : Dev) (m : Master) (a w v : Nat) : Idle n d (d.combStore m a w v).1 := by
  unfold Dev.combStore Dev.bankAdmits
  split
  · next d' h =>
    split at h
    · cases h
    · cases h
      exact .latchAcc n d _ _ _ _
  · next d' h =>
    split at h
    · cases h
      have hm := Idle.memStore n d m.num a w v
      split
      · next d2 x h2 =>
        rw [h2] at hm
        exact hm.trans (.conflicts n _ _ _)
      · exact hm
    · cases h

theorem Idle.combWords (n : Nat) (m : Master) (fuel : Nat) : ∀ (d : Dev) (a : Nat) (bs : List Byte), Idle n d (d.combWords m a bs fuel).1 := by
  induction fuel with
  | zero => intro d a bs; unfold Dev.combWords; exact .refl n d
  | succ k ih =>
    intro d a bs
    unfold Dev.combWords
    split
    · exact .refl n d
    · have h := Idle.combStore n d m a 8 (leNat (bs.take 8))
      split
      · next d' x e =>
        rw [e] at h
        exact h.trans (ih _ _ _)
      · next d' x _ e => rw [e] at h; exact h

theorem Idle.forStore (n : Nat) (d : Dev) (f : Frame) (q : Nat) : Idle n d (d.forStore f q) := by
  unfold Dev.forStore
  have h1 : ∀ (D : Dev), Idle n D ((D.count SWC_FORLOST).raise 76) := fun D => (Idle.same (by simp) (by simp)).trans (.raise n _ 76 0 (by omega))
  dsimp only
  split
  · exact h1 d
  · generalize (d.f SWC_FORIDX_HEAD % d.forSize + 1) % d.forSize = x
    split
    · next d' e =>
      have h : Idle n d d' := by
        rw [show d' = _ from (congrArg Prod.fst e).symm]
        exact Idle.combWords n _ _ _ _ _
      exact h.trans (h1 d')
    · next d' e =>
      have h : Idle n d d' := by
        rw [show d' = _ from (congrArg Prod.fst e).symm]
        exact Idle.combWords n _ _ _ _ _
      split
      · exact (h.trans (.same (by simp) (by simp))).trans (.raise n _ 76 0 (by omega))
      · exact h.trans (.same (by simp) (by simp))

theorem Idle.forWrite (n : Nat) (d : Dev) (f : Frame) : Idle n d (d.forWrite f) := by
  unfold Dev.forWrite
  split
  · exact .refl n d
  · exact Idle.trans (.same rfl rfl) (.forStore n _ _ _)

/-! ### Letting frames go -/

theorem Idle.release (n : Nat) (d : Dev) (k : Nat) : Idle n d (d.release k) := by
  unfold Dev.release
  dsimp only
  split
  · exact (Idle.same rfl rfl : Idle n d ((d.setF SWC_BUFSTAT_FREE _).dropFr k)).trans (.forWrite n _ _)
  · exact .same rfl rfl

theorem Idle.releaseItem (n : Nat) (d : Dev) (k : Nat) : Idle n d (d.releaseItem k) := by
  unfold Dev.releaseItem
  dsimp only
  split
  · exact .same rfl rfl
  · exact (Idle.same rfl rfl : Idle n d (d.setPool _ _)).trans (.release n _ k)

theorem Idle.releaseToken (n : Nat) (d : Dev) (k : Nat) : Idle n d (d.releaseToken k) := .same rfl rfl

theorem Idle.dropEnt (n : Nat) (d : Dev) (e : QEnt) : Idle n d (d.dropEnt e) := by
  unfold Dev.dropEnt
  refine Idle.trans ?_ (.release n _ _)
  unfold Dev.freeSrc
  split
  · exact .setE n d _ _ (fun hk _ => by subst hk; exact ⟨_, rfl⟩)
  · exact .refl n d

theorem Idle.ethCount (n : Nat) (d : Dev) (r : Reg) (p x : Nat) (hp : p < 24) : Idle n d (d.ethCount r p x) := by
  unfold Dev.ethCount
  dsimp only
  have h1 : Idle n d (d.count r p 0 x) := .same (by simp) (by simp)
  split
  · refine h1.trans ?_
    unfold Dev.ethEv Dev.evBit
    split
    · exact .refl n _
    · dsimp only
      split
      · exact (Idle.same (by simp) (by simp)).trans (.raise n _ _ _ (by omega))
      · exact .same (by simp) (by simp)
  · exact h1

theorem Idle.poisonTx (n : Nat) (d : Dev) (k : Nat) : Idle n d (d.poisonTx k) := by
  unfold Dev.poisonTx
  exact Idle.foldl _ _ (fun d p _ => by dsimp only; split; exact .same rfl rfl; exact .refl n d) _

theorem Idle.relayBad (n : Nat) (d : Dev) (k : Nat) : Idle n d (d.relayBad k) := by
  unfold Dev.relayBad
  refine Idle.trans (Idle.foldl (n := n) _ _ (fun d q hq => ?_) d) (.poisonTx n _ k)
  rw [List.mem_range] at hq
  dsimp only
  split
  · exact .refl n d
  · refine (Idle.same rfl rfl : Idle n d ((d.credRun (q / 8)).setQ q _)).trans
      (Idle.foldl _ _ (fun d e _ => (Idle.ethCount n d _ _ _ (by omega)).trans (.dropEnt n _ e)) _)

/-! ### The drop -/

theorem dry_off (c : Cpu) (x : Word) (g : Eng) (h : g.cpu = { c.setFl flD false with pc := x }) : g.dry = false := by
  unfold Eng.dry
  rw [h]
  show (putBits c.fl 5 1 0).getLsbD 5 = false
  have := getBits_putBits c.fl 5 1 0 (by decide)
  unfold getBits at this
  rw [BitVec.getLsbD, Nat.testBit, Nat.shiftRight_eq_div_pow]
  simp at this ⊢
  omega

theorem Dev.dropItem_e (d : Dev) (n : Nat) (h : Hand) (c : Ckpt) (h1 : (d.e n).hand = some h) (h2 : (d.e n).ck = some c) :
    Dropped (d.e n) c (d.dropItem n) n ∧ (d.dropItem n).blow = d.blow := by
  obtain ⟨r1, r2, _⟩ := d.restore_e n c h2
  unfold Dev.dropItem Dev.leaveItem
  rw [h2]
  dsimp only
  have hh : ((d.restore n).e n).hand = some h := by rw [r1]; exact h1
  rw [hh]
  dsimp only
  generalize hg : ((d.restore n).setE n { (d.restore n).e n with hand := none, ck := none, cyc := 0 }) = D
  have he : D.e n = { (d.restore n).e n with hand := none, ck := none, cyc := 0 } := by rw [← hg]; exact Dev.e_setE _ _ _
  have hbl : D.blow = d.blow := by rw [← hg]; exact r2
  have q : Idle n D ((D.releaseItem h.item.frame).releaseToken n) := (Idle.releaseItem n D _).trans (.releaseToken n _ n)
  obtain ⟨x, hx⟩ := q.2 (by rw [he])
  have qb := q.1
  generalize (D.releaseItem h.item.frame).releaseToken n = E at *
  rw [he, r1] at hx
  refine ⟨?_, qb.trans hbl⟩
  unfold Dropped
  rw [Dev.e_setE, hx]
  exact ⟨rfl, rfl, rfl, rfl, rfl, dry_off _ c.wq _ rfl, rfl, rfl, rfl⟩

theorem Dev.badDrop_e (d : Dev) (n : Nat) (h : Hand) (c : Ckpt) (h1 : (d.e n).hand = some h) (h2 : (d.e n).ck = some c) :
    Dropped (d.e n) c (d.badDrop n) n ∧ (d.badDrop n).blow = d.blow := by
  unfold Dev.badDrop
  rw [h1]
  dsimp only
  have hp := (d.count ENG_CNT_BAD n).pm_eng n 7 1
  have he : ((d.count ENG_CNT_BAD n).pm n 7).e n = d.e n := by unfold Dev.e; rw [hp.1]; rfl
  have hb : ((d.count ENG_CNT_BAD n).pm n 7).blow = d.blow := hp.2
  generalize (d.count ENG_CNT_BAD n).pm n 7 = D at *
  obtain ⟨a, b⟩ := D.dropItem_e n h c (by rw [he]; exact h1) (by rw [he]; exact h2)
  have q := Idle.relayBad n (D.dropItem n) h.item.frame
  obtain ⟨x, hx⟩ := q.2 a.1
  refine ⟨?_, q.1.trans (b.trans hb)⟩
  unfold Dropped at a ⊢
  rw [he] at a
  rw [hx]
  exact a

theorem Dev.causeDrop_e (d : Dev) (n cause : Nat) (x : Word) (h : Hand) (c : Ckpt) (h1 : (d.e n).hand = some h) (h2 : (d.e n).ck = some c) :
    Dropped (d.e n) c (d.causeDrop n cause x) n ∧ (d.causeDrop n cause x).blow = d.blow := by
  unfold Dev.causeDrop
  have hl : ((d.latchEng n cause x).count ENG_CNT_DROP n).e n = d.e n ∧ ((d.latchEng n cause x).count ENG_CNT_DROP n).blow = d.blow := by
    unfold Dev.latchEng
    split
    · exact ⟨rfl, rfl⟩
    · dsimp only
      have := (EvtOnly.raise ((d.wr ENG_ERR (BitVec.ofNat 32 (cause + 0x80000000)) n).wr ENG_ERRADDR x n) 41 n (by omega)).boot
      refine ⟨Dev.e_congr ?_ n, ?_⟩
      · rw [Dev.count_eng, this.2.2.2.1, Dev.wr_eng, Dev.wr_eng]
      · rw [Dev.count_blow, this.2.1, Dev.wr_blow, Dev.wr_blow]
  generalize (d.latchEng n cause x).count ENG_CNT_DROP n = D at *
  obtain ⟨a, b⟩ := D.dropItem_e n h c (by rw [hl.1]; exact h1) (by rw [hl.1]; exact h2)
  rw [hl.1] at a
  exact ⟨a, b.trans hl.2⟩

end Sys2Proof.Machine
end

