-- ==== Sys2Proof/Laws/Sep.lean ====
section
/-!
SUPPORT. One lemma for the issue of a Septari instruction: what it comes to when it is ready, and what its retirement can touch.
-/

namespace Sys2Proof.Machine

/-! ### What a retirement touches -/

/-- `d'` differs from `d` at most in registers of the ENG and EVT blocks, the journal queue, the messages sent, the free values taken
and, of each engine, its counts and its tag; no event pending and no entry of the journal queue is lost. -/
def Tallies (d d' : Dev) : Prop :=
  (∃ regs jq msix eng free, d' = { d with regs := regs, jq := jq, msix := msix, eng := eng, free := free }) ∧
  (∀ (x : Word) (a : Nat), (a < 0x40050000 ∨ 0x40060000 ≤ a) → (a < 0x40100000 ∨ 0x40120000 ≤ a) →
    Tab.look d'.regs x a = Tab.look d.regs x a) ∧
  (∀ k, ∃ a b c t, d'.e k = { d.e k with cyc := a, provRet := b, tagLeft := c, tag := t }) ∧
  (∃ l, d'.jq = d.jq ++ l) ∧ ∀ k, k < 256 → d.evPending k = true → d'.evPending k = true

theorem Tallies.refl (d : Dev) : Tallies d d :=
  ⟨⟨_, _, _, _, _, rfl⟩, fun _ _ _ _ => rfl, fun _ => ⟨_, _, _, _, rfl⟩, ⟨[], (List.append_nil _).symm⟩, fun _ _ h => h⟩

theorem Tallies.trans {d d' d'' : Dev} (h : Tallies d d') (h' : Tallies d' d'') : Tallies d d'' := by
  obtain ⟨⟨a, b, c, e, f, h1⟩, h2, h3, ⟨l, hl⟩, h4⟩ := h
  obtain ⟨⟨a', b', c', e', f', h1'⟩, h2', h3', ⟨l', hl'⟩, h4'⟩ := h'
  refine ⟨⟨a', b', c', e', f', by rw [h1', h1]⟩, fun x y p q => (h2' x y p q).trans (h2 x y p q), fun k => ?_,
    ⟨l ++ l', by rw [hl', hl, List.append_assoc]⟩, fun k hk h => h4' k hk (h4 k hk h)⟩
  obtain ⟨p, q, r, s, h3⟩ := h3 k
  obtain ⟨p', q', r', s', h3'⟩ := h3' k
  exact ⟨p', q', r', s', by rw [h3', h3]⟩

theorem Tallies.raise (d : Dev) (s i : Nat) (hs : s < 256) : Tallies d (d.raise s i) := by
  have hj := d.raise_jq s i
  have hp := fun k hk => d.raise_keeps s i k hk
  have he := EvtOnly.raise d s i hs
  generalize d.raise s i = d' at *
  obtain ⟨a, b, c, rfl, h⟩ := he
  exact ⟨⟨a, b, c, d.eng, d.free, rfl⟩, fun x y p _ => h x y p, fun _ => ⟨_, _, _, _, rfl⟩, hj, hp⟩

theorem Tallies.wr (d : Dev) (r : Reg) (v : Word) (i j : Nat) (h : 0x40100000 ≤ r.addr i j) (h' : r.addr i j < 0x40120000) :
    Tallies d (d.wr r v i j) := by
  refine ⟨⟨_, _, _, _, _, rfl⟩, fun _ _ _ q => Tab.look_put_ne _ _ _ _ _ _ (by omega), fun _ => ⟨_, _, _, _, rfl⟩,
    ⟨[], (List.append_nil _).symm⟩, fun k hk hp => ?_⟩
  unfold Dev.evPending at hp ⊢
  rw [Dev.rd_wr_ne _ _ _ _ _ _ _ _ (by simp only [Reg.addr, EVT_PEND] at h ⊢; omega)]
  exact hp

theorem Tallies.take (d : Dev) (w : Nat) : Tallies d (d.take w).2 :=
  ⟨⟨d.regs, d.jq, d.msix, d.eng, _, rfl⟩, fun _ _ _ _ => rfl, fun _ => ⟨_, _, _, _, rfl⟩, ⟨[], (List.append_nil _).symm⟩,
    fun _ _ h => h⟩

theorem Tallies.setE (d : Dev) (n : Nat) (g : Eng) (a b c t)
    (h : g = { d.e n with cyc := a, provRet := b, tagLeft := c, tag := t }) : Tallies d (d.setE n g) := by
  subst h
  refine ⟨⟨d.regs, d.jq, d.msix, _, d.free, rfl⟩, fun _ _ _ _ => rfl, fun k => ?_, ⟨[], (List.append_nil _).symm⟩, fun _ _ h => h⟩
  by_cases hk : k = n
  · subst hk
    exact ⟨a, b, c, t, Dev.e_setE _ _ _⟩
  · exact ⟨_, _, _, _, Dev.e_setE_ne _ _ _ _ hk⟩

theorem Tallies.foldl {β : Type} (f : Dev → β → Dev) (l : List β) (hf : ∀ d, ∀ x ∈ l, Tallies d (f d x)) :
    ∀ d, Tallies d (l.foldl f d) := by
  induction l with
  | nil => exact fun d => .refl d
  | cons x l ih => exact fun d => (hf d x List.mem_cons_self).trans (ih (fun d y hy => hf d y (List.mem_cons_of_mem _ hy)) _)

theorem Tallies.pmAdd (n : Nat) (hn : n < 32) (fuel : Nat) : ∀ (d : Dev) (k x : Nat), k < 8 → Tallies d (d.pmAdd n fuel k x) := by
  induction fuel with
  | zero => exact fun d _ _ _ => .refl d
  | succ m ih =>
    intro d k x hk
    unfold Dev.pmAdd
    dsimp only
    generalize hD : (d.wr ENG_PMCNT_LO _ n k).wr ENG_PMCNT_HI _ n k = D
    have h1 : Tallies d D := by
      rw [← hD]
      refine (Tallies.wr _ _ _ _ _ ?_ ?_).trans (Tallies.wr _ _ _ _ _ ?_ ?_) <;>
        (simp only [Reg.addr, ENG_PMCNT_LO, ENG_PMCNT_HI]; omega)
    split
    · exact h1
    · split
      · next hc =>
        simp only [Bool.and_eq_true, decide_eq_true_eq] at hc
        split
        · exact h1.trans (ih _ _ _ (by omega))
        · exact h1
      · exact h1.trans (.raise D 43 n (by decide))

theorem Tallies.pm (d : Dev) (n code x : Nat) (hn : n < 32) : Tallies d (d.pm n code x) := by
  unfold Dev.pm
  split
  · exact .refl d
  · refine Tallies.foldl _ _ (fun d k hk => ?_) d
    simp only [List.mem_range] at hk
    split
    · exact .pmAdd n hn _ _ _ _ hk
    · exact .refl d

theorem Tallies.tagFate (d : Dev) (n fate : Nat) (hn : n < 32) : Tallies d (d.tagFate n fate) := by
  unfold Dev.tagFate
  dsimp only
  split
  · exact .refl d
  · refine (Tallies.take d 32).trans ?_
    generalize (d.take 32).2 = D
    refine (Tallies.setE D n _ (D.e n).cyc (D.e n).provRet (D.e n).tagLeft none rfl).trans ?_
    refine (Tallies.wr _ ENG_TAGREC0 _ n 0 ?_ ?_).trans ((Tallies.wr _ ENG_TAGREC1 _ n 0 ?_ ?_).trans
      ((Tallies.wr _ ENG_TAGREC2 _ n 0 ?_ ?_).trans (.raise _ 44 n (by omega)))) <;>
      (simp only [Reg.addr, ENG_TAGREC0, ENG_TAGREC1, ENG_TAGREC2]; omega)

/-- Retiring an instruction counts, tags and nothing else (R120, R121, R123). -/
theorem Tallies.retire (d : Dev) (n : Nat) (pc : Word) (dry : Bool) (hn : n < 32) : Tallies d (d.retire n pc dry) := by
  unfold Dev.retire
  dsimp only
  have h1 : Tallies d (((d.setE n { d.e n with cyc := if (d.e n).hand.isSome then (d.e n).cyc + 1 else (d.e n).cyc }).pmCycles n 1).pmRetire n) := by
    generalize (if (d.e n).hand.isSome = true then (d.e n).cyc + 1 else (d.e n).cyc) = y
    refine (Tallies.setE d n { d.e n with cyc := y } y (d.e n).provRet (d.e n).tagLeft (d.e n).tag rfl).trans ?_
    generalize d.setE n _ = D
    have h2 : Tallies D (D.pmCycles n 1) := by
      unfold Dev.pmCycles
      refine (Tallies.wr _ _ _ _ _ ?_ ?_).trans (Tallies.wr _ _ _ _ _ ?_ ?_) <;>
        (simp only [Reg.addr, ENG_PMCYC_LO, ENG_PMCYC_HI]; omega)
    refine h2.trans ?_
    generalize D.pmCycles n 1 = G
    unfold Dev.pmRetire
    dsimp only
    split
    · exact .setE G n _ (G.e n).cyc _ (G.e n).tagLeft (G.e n).tag rfl
    · exact .pm _ _ _ _ hn
  revert h1
  generalize Dev.pmRetire _ n = D
  intro h1
  split
  · exact h1
  · split
    · unfold Dev.tagInterval
      dsimp only
      refine h1.trans ((Tallies.take D 32).trans ?_)
      generalize (D.take 32).2 = G
      exact .setE G n _ (G.e n).cyc (G.e n).provRet _ (G.e n).tag rfl
    · generalize hT : (some (Tagged.mk pc dry _) : Option Tagged) = T
      have h2 := Tallies.setE D n { D.e n with tagLeft := 0, tag := T } (D.e n).cyc (D.e n).provRet 0 T rfl
      split
      · exact h1.trans h2
      · exact h1.trans (h2.trans (.tagFate _ _ _ hn))
    · exact h1.trans (.setE D n _ (D.e n).cyc (D.e n).provRet _ (D.e n).tag rfl)

theorem Tallies.cpu {d d' : Dev} (h : Tallies d d') (c : Core) : d'.cpu c = d.cpu c := by
  obtain ⟨⟨_, _, _, _, _, h1⟩, _, h3, _⟩ := h
  cases c with
  | sv0 => rw [h1]; rfl
  | sv1 => rw [h1]; rfl
  | ce n => obtain ⟨_, _, _, _, h⟩ := h3 n; show (d'.e n).cpu = (d.e n).cpu; rw [h]

theorem Tallies.rest {d d' : Dev} (h : Tallies d d') : d'.mem = d.mem ∧ d'.frames = d.frames ∧ d'.sv0 = d.sv0 ∧ d'.sv1 = d.sv1 ∧
    d'.blow = d.blow := by
  obtain ⟨⟨_, _, _, _, _, h1⟩, _, _⟩ := h
  rw [h1]
  exact ⟨rfl, rfl, rfl, rfl, rfl⟩

/-! ### Issue -/

/-- An access that both settings of the protection unit allow. -/
theorem Dev.mpuOk_free (d : Dev) (c : Core) (a kind : Nat) (hs : isS c = true) (h : d.mpuFree c a kind = true) :
    d.mpuOk c a kind = (d, true) := by
  unfold Dev.mpuFree at h
  rw [hs] at h
  simp only [Bool.not_true, Bool.false_or, Bool.and_eq_true] at h
  unfold Dev.mpuOk
  dsimp only
  rw [h.1, h.2, if_pos rfl]

/-- A fetch that the protection unit allows. -/
theorem Dev.fetchMpu_free (d : Dev) (c : Core) (pc : Word) (n : Nat)
    (h : (List.range n).all (fun k => d.mpuFree c (pc.toNat + k) 2) = true) : d.fetchMpu c pc n = .ok d () := by
  unfold Dev.fetchMpu
  split
  · rfl
  · next hs =>
    have hs : isS c = true := by simpa using hs
    rw [List.all_eq_true] at h
    generalize List.range n = l at h
    induction l with
    | nil => rfl
    | cons k l ih =>
      rw [List.foldl_cons]
      refine (congrArg (fun r => List.foldl _ r l) ?_).trans (ih (fun x hx => h x (List.mem_cons_of_mem _ hx)))
      have hk := Dev.mpuOk_free d c _ 2 hs (h k List.mem_cons_self)
      unfold SRes.then
      dsimp only
      split
      · rfl
      · rw [hk]

/-- The bytes examined of an instruction that decodes are its own. -/
theorem decodeFault_len (x : Sx) (i : Ins) (h : (decodeFault x i).2.isNone = true) : decodeFault x i = (insLen x i, none) := by
  have hn : (decodeFault x i).2 = none := by simpa using h
  have h1 : (decodeFault x i).1 = insLen x i := by
    unfold decodeFault at hn ⊢
    unfold insLen
    dsimp only at hn ⊢
    split <;> rename_i hq <;> rw [hq] at hn
    · simp at hn
    · simp at hn
    · dsimp only at hn
      split <;> rename_i hx
      · rw [if_pos hx] at hn; simp at hn
      · repeat' (first | rfl | split)
  rw [← h1, ← hn]

/-- Nothing refuses an instruction that goes. -/
theorem Dev.admitIns_ok (d : Dev) (x : Sx) (i : Ins) (h : d.goes x i = true) : d.admitIns x i (d.cpu x.core).pc = .ok d () := by
  simp only [Dev.goes, Bool.and_eq_true] at h
  obtain ⟨⟨⟨⟨⟨⟨⟨_, _⟩, h3⟩, h4⟩, h5⟩, h6⟩, h7⟩, h8⟩ := h
  unfold Dev.admitIns
  rw [decodeFault_len x i h3]
  dsimp only
  rw [if_neg (by rw [h4]; decide), Dev.fetchMpu_free d _ _ _ h5]
  simp only [Dev.soundAt, Bool.and_eq_true, Bool.not_eq_true', List.isEmpty_iff] at h6
  have hg : d.fetchGuard x.core (d.cpu x.core).pc (insLen x i) = .ok d () := by
    unfold Dev.fetchGuard
    dsimp only
    rw [if_neg (by rw [h6.1.1]; decide), if_neg (by rw [h6.1.2]; decide), h6.2]
  show (d.fetchGuard x.core (d.cpu x.core).pc (insLen x i)).then _ = _
  rw [hg]
  show (if (i.priv && isS x.core && (d.cpu x.core).user) = true then SRes.fault d 4 0 none
    else if (hasPfx x .nodry && !i.stores) = true then .fault d 5 0 none else .ok d ()) = _
  rw [if_neg, if_neg]
  · intro hq
    simp only [Bool.and_eq_true, Bool.not_eq_true'] at hq
    rw [hq.1, hq.2] at h8
    simp at h8
  · intro hq
    rw [hq] at h7
    simp at h7

/-- An instruction that goes does what its body does. -/
theorem Dev.issue_goes (d : Dev) (x : Sx) (i : Ins) (body : Dev → SRes (Option Word)) (h : d.goes x i = true) :
    d.issue x i body = match body d with
      | .ok d' t => d'.complete x.core (d.cpu x.core).pc ((d.cpu x.core).pc + BitVec.ofNat 32 (insLen x i))
        ((d.cpu x.core).flag flT && !d.dryOn x.core) (d.dryOn x.core) t
      | .fault d' vec det a => d'.excp x.core vec det a (d.cpu x.core).pc
      | .stop d' => d' := by
  have ha := d.admitIns_ok x i h
  simp only [Dev.goes, Bool.and_eq_true] at h
  obtain ⟨⟨⟨⟨⟨⟨⟨h1, h2⟩, _⟩, _⟩, _⟩, _⟩, _⟩, _⟩ := h
  unfold Dev.issue
  rw [if_neg (by rw [h1]; decide)]
  dsimp only
  have h2 : d.irqDue x.core = none := by simpa using h2
  rw [h2, ha]
  rfl

/-- What a core's registers are after they are set. -/
theorem Dev.cpu_setCpu (d : Dev) (c : Core) (x : Cpu) : (d.setCpu c x).cpu c = x := by
  cases c with
  | sv0 => rfl
  | sv1 => rfl
  | ce n => exact congrArg Eng.cpu (Dev.e_setE _ _ _)

/-- Another core's registers stay. -/
theorem Dev.cpu_setCpu_ne (d : Dev) (c c' : Core) (x : Cpu) (h : c' ≠ c) : (d.setCpu c x).cpu c' = d.cpu c' := by
  cases c <;> cases c' <;> first
    | rfl
    | exact absurd rfl h
    | exact congrArg Eng.cpu (Dev.e_setE_ne _ _ _ _ (fun e => h (by congr 1; exact Fin.ext e)))

/-- Setting a core's registers changes nothing else. -/
theorem Dev.setCpu_rest (d : Dev) (c : Core) (x : Cpu) : (d.setCpu c x).mem = d.mem ∧ (d.setCpu c x).frames = d.frames ∧
    (d.setCpu c x).regs = d.regs ∧ (d.setCpu c x).blow = d.blow ∧ (d.setCpu c x).sv0.run = d.sv0.run ∧ (d.setCpu c x).sv1.run = d.sv1.run ∧
    ∀ n, ∃ y, (d.setCpu c x).e n = { d.e n with cpu := y } := by
  cases c with
  | sv0 => exact ⟨rfl, rfl, rfl, rfl, rfl, rfl, fun n => ⟨_, rfl⟩⟩
  | sv1 => exact ⟨rfl, rfl, rfl, rfl, rfl, rfl, fun n => ⟨_, rfl⟩⟩
  | ce k =>
    refine ⟨rfl, rfl, rfl, rfl, rfl, rfl, fun n => ?_⟩
    by_cases hk : n = k
    · subst hk; exact ⟨x, Dev.e_setE _ _ _⟩
    · exact ⟨(d.e n).cpu, Dev.e_setE_ne _ _ _ _ hk⟩

/-- Completing an instruction tallies it once the PC is set. -/
theorem Dev.complete_tallies (d : Dev) (x : Sx) (pc next : Word) (dry : Bool) (to' : Option Word)
    (hc : fetchable x.core (to'.getD next).toNat = true) (hn : (x.core == .sv0 && d.nmip && !d.exl .sv0) = false) :
    Tallies (d.setCpu x.core { d.cpu x.core with pc := to'.getD next }) (d.complete x.core pc next false dry to') := by
  unfold Dev.complete
  have hT : Tallies (d.setCpu x.core { d.cpu x.core with pc := to'.getD next })
      ((d.setCpu x.core { d.cpu x.core with pc := to'.getD next }).retireOn x.core pc dry) := by
    generalize d.setCpu x.core { d.cpu x.core with pc := to'.getD next } = G
    cases hx : x.core with
    | sv0 => exact .refl _
    | sv1 => exact .refl _
    | ce n => exact .retire _ _ _ _ n.2
  revert hT
  generalize Dev.retireOn _ x.core pc dry = D
  intro hT
  have hpc : D.cpu x.core = { d.cpu x.core with pc := to'.getD next } := (hT.cpu _).trans (Dev.cpu_setCpu _ _ _)
  have hf : ¬(!fetchable x.core (D.cpu x.core).pc.toNat) = true := by rw [hpc]; simp [hc]
  unfold Dev.boundaryExc
  rw [if_neg (by simp), if_neg, if_neg hf]
  · exact hT
  · intro hq
    have he : D.cpu .sv0 = (d.setCpu x.core { d.cpu x.core with pc := to'.getD next }).cpu .sv0 := hT.cpu _
    have h3 : D.nmip = d.nmip ∧ D.exl .sv0 = d.exl .sv0 := by
      have : (D.cpu .sv0).estat = (d.cpu .sv0).estat := by
        rw [he]
        by_cases hx : x.core = .sv0
        · rw [hx, Dev.cpu_setCpu]
        · rw [Dev.cpu_setCpu_ne _ _ _ _ (fun e => hx e.symm)]
      exact ⟨congrArg (fun v : Word => v.getLsbD 3) this, congrArg (fun v : Word => v.getLsbD 0) this⟩
    rw [h3.1, h3.2, hn] at hq
    cases hq


/-- An instruction that completes with nothing at its boundary. -/
theorem Dev.complete_leaves (s : State) (d : Dev) (x : Sx) (pc next : Word) (dry : Bool) (to' : Option Word)
    (hc : fetchable x.core (to'.getD next).toNat = true) (hn : (x.core == .sv0 && d.nmip && !d.exl .sv0) = false) :
    Leaves d x (to'.getD next) { s with dev := d.complete x.core pc next false dry to' } ∧
      (d.complete x.core pc next false dry to').blow = d.blow := by
  have h1 := d.complete_tallies x pc next dry to' hc hn
  obtain ⟨r1, r2, r3, r4, r5, r6, r7⟩ := d.setCpu_rest x.core { d.cpu x.core with pc := to'.getD next }
  obtain ⟨t1, t2, t3, t4, t5⟩ := h1.rest
  refine ⟨⟨?_, ?_, t1.trans r1, t2.trans r2, ?_, ?_, ?_, ?_⟩, t5.trans r4⟩
  · exact (h1.cpu _).trans (Dev.cpu_setCpu _ _ _)
  · intro c hc; exact (h1.cpu c).trans (Dev.cpu_setCpu_ne _ _ _ _ hc)
  · exact (congrArg Sv.run t3).trans r5
  · exact (congrArg Sv.run t4).trans r6
  · intro n
    obtain ⟨y, h2⟩ := r7 n
    obtain ⟨_, _, _, _, h3⟩ := h1.2.2.1 n
    have h4 : (d.complete x.core pc next false dry to').e n = _ := h3
    rw [h2] at h4
    show _ ∧ _
    dsimp only
    rw [h4]
    exact ⟨rfl, rfl, rfl, rfl, rfl, rfl, rfl⟩
  · intro r i j p q
    show Tab.look _ _ _ = Tab.look _ _ _
    exact (h1.2.1 _ _ p q).trans (by rw [r3])

/-- A command that is an instruction which goes, whose body answers `d'` and which meets nothing at its boundary. -/
theorem Runs.tallies {c : Instr} {s : State} {x : Sx} {i : Ins} {body : Dev → SRes (Option Word)} {d' : Dev} {to' : Option Word}
    (h : exec c s = act s (s.dev.issue x i body)) (hg : s.dev.goes x i = true) (hb : body s.dev = .ok d' to')
    (hc : s.dev.calm x (to'.getD (s.dev.after x i.len)) = true) (he : (d'.cpu .sv0).estat = (s.dev.cpu .sv0).estat) (hbl : d'.blow = []) :
    Runs c s (fun t => Leaves d' x (to'.getD (s.dev.after x i.len)) t ∧
      Tallies (d'.setCpu x.core { d'.cpu x.core with pc := to'.getD (s.dev.after x i.len) }) t.dev) := by
  simp only [Dev.calm, Bool.and_eq_true, Bool.not_eq_true'] at hc
  rw [Dev.issue_goes _ _ _ _ hg, hb] at h
  dsimp only at h
  rw [hc.1.1] at h
  have hn : (x.core == .sv0 && d'.nmip && !d'.exl .sv0) = false := by
    have h1 : d'.nmip = s.dev.nmip := congrArg (fun v : Word => v.getLsbD 3) he
    have h2 : d'.exl .sv0 = s.dev.exl .sv0 := congrArg (fun v : Word => v.getLsbD 0) he
    rw [h1, h2]; exact hc.1.2
  have h3 := Dev.complete_leaves s d' x (s.dev.cpu x.core).pc _ (s.dev.dryOn x.core) to' hc.2 hn
  exact Runs.of_quiet h (h3.2.trans hbl) ⟨h3.1, d'.complete_tallies x _ _ (s.dev.dryOn x.core) to' hc.2 hn⟩

theorem Runs.leaves {c : Instr} {s : State} {x : Sx} {i : Ins} {body : Dev → SRes (Option Word)} {d' : Dev} {to' : Option Word}
    (h : exec c s = act s (s.dev.issue x i body)) (hg : s.dev.goes x i = true) (hb : body s.dev = .ok d' to')
    (hc : s.dev.calm x (to'.getD (s.dev.after x i.len)) = true) (he : (d'.cpu .sv0).estat = (s.dev.cpu .sv0).estat) (hbl : d'.blow = []) :
    Runs c s (Leaves d' x (to'.getD (s.dev.after x i.len))) := by
  obtain ⟨t, h1, h2, _⟩ := Runs.tallies h hg hb hc he hbl
  exact ⟨t, h1, h2⟩

/-- A command that is an instruction which goes, and which stops before it completes. -/
theorem Runs.stops {c : Instr} {s : State} {x : Sx} {i : Ins} {body : Dev → SRes (Option Word)} {d' : Dev} {p : State → Prop}
    (h : exec c s = act s (s.dev.issue x i body)) (hg : s.dev.goes x i = true) (hb : body s.dev = .stop d') (hbl : d'.blow = [])
    (hp : p { s with dev := d' }) : Runs c s p := by
  rw [Dev.issue_goes _ _ _ _ hg, hb] at h
  exact Runs.of_quiet h hbl hp

/-! ### Registers and flags -/

theorem Dev.setE_setE (d : Dev) (n : Nat) (a b : Eng) : (d.setE n a).setE n b = d.setE n b := by
  unfold Dev.setE
  dsimp only
  rw [Tab.put_put]

/-- The last setting of a core's registers counts. -/
theorem Dev.setCpu_setCpu (d : Dev) (c : Core) (x y : Cpu) : (d.setCpu c x).setCpu c y = d.setCpu c y := by
  cases c with
  | sv0 => rfl
  | sv1 => rfl
  | ce n =>
    unfold Dev.setCpu
    dsimp only
    rw [Dev.e_setE, Dev.setE_setE]

theorem Dev.setG_eq (d : Dev) (c : Core) (k : Nat) (v : Word) : d.setG c k v = d.setCpu c ((d.cpu c).setGr k v) := rfl

theorem Dev.setFlags_eq (d : Dev) (c : Core) (f : Flags) : d.setFlags c f = d.setCpu c ((d.cpu c).flags f) := rfl

/-- Setting one flag leaves the rest of the registers. -/
theorem Cpu.flags_eq (c : Cpu) (f : Flags) : ∃ x, c.flags f = { c with fl := x } ∧ ∀ c' : Cpu, c'.fl = c.fl → c'.flags f = { c' with fl := x } := by
  let g : Option Bool → Nat → Word → Word := fun o k x => match o with
    | some b => putBits x k 1 b.toNat
    | none => x
  have h : ∀ (c : Cpu) (k : Nat) (o : Option Bool), c.setOpt k o = { c with fl := g o k c.fl } := by
    intro c k o
    cases o <;> rfl
  refine ⟨g f.h flH (g f.v flV (g f.c flC (g f.n flN (g f.z flZ c.fl)))), ?_, ?_⟩
  · unfold Cpu.flags
    simp only [h]
  · intro c' hc
    unfold Cpu.flags
    simp only [h, hc]

/-- Writing flags and a register commute. -/
theorem Cpu.flags_setGr (c : Cpu) (f : Flags) (k : Nat) (v : Word) : (c.flags f).setGr k v = (c.setGr k v).flags f := by
  obtain ⟨x, h1, h2⟩ := c.flags_eq f
  rw [h1, h2 (c.setGr k v) (by unfold Cpu.setGr; split <;> rfl)]
  unfold Cpu.setGr Cpu.user
  dsimp only
  split <;> rfl

theorem Cpu.estat_setGr (c : Cpu) (k : Nat) (v : Word) : (c.setGr k v).estat = c.estat := by unfold Cpu.setGr; split <;> rfl

theorem Cpu.estat_flags (c : Cpu) (f : Flags) : (c.flags f).estat = c.estat := by
  obtain ⟨x, h1, _⟩ := c.flags_eq f
  rw [h1]

theorem Cpu.estat_wrote (c : Cpu) (w : Bool) (k v : Nat) (f : Flags) : (c.wrote w k v f).estat = c.estat := by
  unfold Cpu.wrote
  rw [Cpu.estat_flags]
  split <;> simp only [Cpu.estat_setGr]

/-- Setting a core's registers with its exception status kept. -/
theorem Dev.setCpu_estat (d : Dev) (c : Core) (x : Cpu) (h : x.estat = (d.cpu c).estat) : ((d.setCpu c x).cpu .sv0).estat = (d.cpu .sv0).estat := by
  by_cases hc : c = .sv0
  · subst hc; rw [Dev.cpu_setCpu]; exact h
  · rw [Dev.cpu_setCpu_ne _ _ _ _ (fun e => hc e.symm)]

/-- The flags and a register operand written. -/
theorem Dev.put_wrote (d : Dev) (x : Sx) (k v : Nat) (f : Flags) :
    (d.setFlags x.core f).setGv x k v = d.setCpu x.core ((d.cpu x.core).wrote (isWide x) k v f) := by
  unfold Dev.setGv Cpu.wrote
  cases isWide x
  · simp only [Bool.false_eq_true, if_false]
    rw [Dev.setG_eq, Dev.setFlags_eq, Dev.cpu_setCpu, Dev.setCpu_setCpu, Cpu.flags_setGr]
  · simp only [if_true]
    rw [Dev.setG_eq, Dev.setG_eq, Dev.setFlags_eq, Dev.cpu_setCpu, Dev.cpu_setCpu, Dev.setCpu_setCpu, Dev.setCpu_setCpu,
      Cpu.flags_setGr, Cpu.flags_setGr]

/-- A register and the flags written. -/
theorem Dev.wrote_put (d : Dev) (c : Core) (k v : Nat) (f : Flags) :
    (d.setG c k (BitVec.ofNat 32 v)).setFlags c f = d.setCpu c ((d.cpu c).wrote false k v f) := by
  rw [Dev.setG_eq, Dev.setFlags_eq, Dev.cpu_setCpu, Dev.setCpu_setCpu]
  rfl

theorem Dev.pairs_ok (d : Dev) (w : Bool) (ks : List (BitVec 4)) (h : evenIf w ks = true) :
    d.pairs w (ks.map BitVec.toNat) = .ok d () := by
  unfold Dev.pairs
  rw [if_neg]
  unfold evenIf at h
  cases w with
  | false => simp
  | true =>
    simp only [Bool.not_true, Bool.false_or, List.all_eq_true] at h
    simp only [Bool.true_and, List.any_eq_true, List.mem_map]
    rintro ⟨_, ⟨k, hk, rfl⟩, h1⟩
    have := h k hk
    simp only [beq_iff_eq] at this h1
    omega

/-! ### Own memory -/

theorem Dev.ownFree_dry {d : Dev} {x : Sx} {a w : Nat} {b : Bool} (h : d.ownFree x a w b = true) : d.dryOn x.core = false := by
  simp only [Dev.ownFree, Bool.and_eq_true, Bool.not_eq_true'] at h
  exact h.1.1.1.2

/-- A load of the core's own memory. -/
theorem Dev.sload_own (d : Dev) (x : Sx) (a : Word) (w : Nat) (b : Bool) (h : d.ownFree x a.toNat w b = true)
    (hm : d.mpuFree x.core a.toNat 0 = true) :
    d.sload x.core a w = .ok d (d.bytesNat a.toNat w) := by
  simp only [Dev.ownFree, Bool.and_eq_true, Bool.not_eq_true', beq_iff_eq] at h
  obtain ⟨⟨⟨⟨⟨h1, h2⟩, h3⟩, h4⟩, h5⟩, h6⟩ := h
  have hl := Dev.memLoad_ok d x.core.master.num a.toNat w h4
  unfold Dev.sload
  rw [if_neg (by simp [h1])]
  have sup : ∀ c : Core, c.master ≠ .stn → x.core = c → isS c = true →
      (d.bus (d.wrNow c.master) a.toNat w none = (d.memAcc c.master.num a.toNat w none)) →
      (match d.mpuOk c a.toNat 0 with
        | (d, false) => SRes.fault d 11 1 (some a)
        | (d, true) => d.coreBus c a w none) = .ok d (d.bytesNat a.toNat w) := by
    intro c _ hc hs hb
    rw [← hc] at hs hb ⊢
    rw [Dev.mpuOk_free d _ _ _ hs hm]
    dsimp only
    unfold Dev.coreBus
    rw [hb]
    unfold Dev.memAcc
    dsimp only
    rw [hl]
    rfl
  cases hx : x.core with
  | sv0 =>
    rw [hx] at h6
    have h6 : regionOf a.toNat = .tcm0 := by simpa using h6
    refine sup .sv0 (by decide) hx rfl ?_
    unfold Dev.bus
    rw [if_pos (by simp [h1])]
    unfold Dev.busOne
    rw [h6]
    rfl
  | sv1 =>
    rw [hx] at h6
    have h6 : regionOf a.toNat = .tcm1 := by simpa using h6
    refine sup .sv1 (by decide) hx rfl ?_
    unfold Dev.bus
    rw [if_pos (by simp [h1])]
    unfold Dev.busOne
    rw [h6]
    rfl
  | ce n =>
    rw [hx] at h6 h3 hl
    have h6 : regionOf a.toNat = .data n.val := by simpa using h6
    have h3 : (d.e n).dry = false := h3
    simp only [Dev.memFree, Bool.and_eq_true, Bool.not_eq_true', List.isEmpty_iff] at h4
    show d.engLoad (.ce n) n a w = _
    unfold Dev.engLoad
    dsimp only
    rw [h3, h6]
    simp only [Bool.false_and, Bool.false_eq_true, if_false, ne_eq, not_true_eq_false]
    unfold Dev.engMem
    rw [h4.2]
    have hl : d.memLoad (n.val + 8) a.toNat w = (d, .done (d.bytesNat a.toNat w)) := hl
    rw [hl]
    unfold SRes.then
    dsimp only

/-- A load operand in the core's own memory. -/
theorem Dev.mload_own (d : Dev) (x : Sx) (a : Word) (w : Nat) (h : d.ownFree x a.toNat w false = true) :
    d.mload x a w = .ok d (d.bytesNat a.toNat w) := by
  have h0 := h
  simp only [Dev.ownFree, Bool.and_eq_true, Bool.not_eq_true', beq_iff_eq] at h
  obtain ⟨⟨⟨⟨⟨h1, h2⟩, h3⟩, h4⟩, h5⟩, h6⟩ := h
  have := d.sload_own x a w false h0 h5
  unfold Dev.mload
  cases coreEng x.core with
  | none => exact this
  | some n =>
    dsimp only
    rw [if_neg (by rw [h2]; decide)]
    exact this

theorem Dev.nodryOk_own (d : Dev) (x : Sx) (a : Word) (w : Nat) (b : Bool) (h : d.ownFree x a.toNat w b = true) : d.nodryOk x a = .ok d () := by
  simp only [Dev.ownFree, Bool.and_eq_true, Bool.not_eq_true', beq_iff_eq] at h
  obtain ⟨⟨⟨⟨⟨h1, h2⟩, h3⟩, h4⟩, h5⟩, h6⟩ := h
  unfold Dev.nodryOk
  cases hx : x.core with
  | sv0 => rfl
  | sv1 => rfl
  | ce n =>
    rw [hx] at h6
    have h6 : regionOf a.toNat = .data n.val := by simpa using h6
    dsimp only [coreEng]
    rw [if_neg]
    unfold ownData
    rw [h2, h6]
    simp

/-- A store in the core's own memory, NODRY or not. -/
theorem Dev.sstore_own (d : Dev) (x : Sx) (nd : Bool) (a : Word) (w v : Nat) (h : d.ownFree x a.toNat w true = true) :
    d.sstore x.core nd a w v = .ok (d.putNat a.toNat w v) () := by
  simp only [Dev.ownFree, Bool.and_eq_true, Bool.not_eq_true', beq_iff_eq] at h
  obtain ⟨⟨⟨⟨⟨h1, h2⟩, h3⟩, h4⟩, h5⟩, h6⟩ := h
  have hc : ∀ k, regionOf a.toNat ≠ .code k := by
    intro k hk
    rw [hk] at h6
    split at h6 <;> cases h6
  have hl := Dev.memStore_ok d x.core.master.num a.toNat w v h4 hc
  have sup : ∀ c : Core, x.core = c → isS c = true →
      (d.bus (d.wrNow c.master) a.toNat w (some v) = (d.memAcc c.master.num a.toNat w (some v))) →
      (match d.mpuOk c a.toNat 1 with
        | (d, false) => SRes.fault d 11 2 (some a)
        | (d, true) => (d.coreBus c a w (some v)).then (fun d _ => .ok d ())) = .ok (d.putNat a.toNat w v) () := by
    intro c hc hs hb
    rw [← hc] at hs hb ⊢
    rw [Dev.mpuOk_free d _ _ 1 hs h5]
    dsimp only
    unfold Dev.coreBus
    rw [hb]
    unfold Dev.memAcc
    dsimp only
    rw [hl]
    rfl
  unfold Dev.sstore
  cases hx : x.core with
  | sv0 =>
    rw [hx] at h6
    have h6 : regionOf a.toNat = .tcm0 := by simpa using h6
    dsimp only [coreEng]
    rw [if_neg (by simp [h1])]
    refine sup .sv0 hx rfl ?_
    unfold Dev.bus
    rw [if_pos (by simp [h1])]
    unfold Dev.busOne
    rw [h6]
    rfl
  | sv1 =>
    rw [hx] at h6
    have h6 : regionOf a.toNat = .tcm1 := by simpa using h6
    dsimp only [coreEng]
    rw [if_neg (by simp [h1])]
    refine sup .sv1 hx rfl ?_
    unfold Dev.bus
    rw [if_pos (by simp [h1])]
    unfold Dev.busOne
    rw [h6]
    rfl
  | ce n =>
    rw [hx] at h6 h3 hl
    have h6 : regionOf a.toNat = .data n.val := by simpa using h6
    have h3 : (d.e n).dry = false := h3
    have ho : ownData n a.toNat = true := by unfold ownData; rw [h6]; simp
    dsimp only [coreEng]
    rw [if_neg (by rw [ho]; simp), if_neg (by simp [h1]), if_pos (by rw [ho, h3]; simp)]
    unfold Dev.ownStore
    have hl : d.memStore (n.val + 8) a.toNat w v = (d.putNat a.toNat w v, .done 0) := hl
    rw [hl]

/-- A store operand in the core's own memory. -/
theorem Dev.mstore_own (d : Dev) (x : Sx) (a : Word) (w v : Nat) (h : d.ownFree x a.toNat w true = true) :
    d.mstore x a w v = .ok (d.putNat a.toNat w v) () := by
  unfold Dev.mstore
  rw [Dev.nodryOk_own d x a w true h]
  have h0 := h
  simp only [Dev.ownFree, Bool.and_eq_true, Bool.not_eq_true', beq_iff_eq] at h
  have h2 := h.1.1.1.1.2
  show (match coreEng x.core with
    | some n => if hasPfx x .lane then d.slotStore n a w v else d.sstore x.core (hasPfx x .nodry) a w v
    | none => d.sstore x.core false a w v) = _
  cases coreEng x.core with
  | none => exact d.sstore_own x false a w v h0
  | some n =>
    dsimp only
    rw [if_neg (by rw [h2]; decide)]
    exact d.sstore_own x _ a w v h0

/-- A read-modify-write in the core's own memory. -/
theorem Dev.rmw_own {α : Type} (d : Dev) (x : Sx) (a : Word) (w : Nat) (f : Nat → Nat × α)
    (h : d.ownFree x a.toNat w true = true) (hr : d.mpuFree x.core a.toNat 0 = true) :
    d.rmw x a w f = .ok (d.putNat a.toNat w (f (d.bytesNat a.toNat w)).1) (f (d.bytesNat a.toNat w)).2 := by
  have h0 := h
  have hl := d.sload_own x a w true h hr
  simp only [Dev.ownFree, Bool.and_eq_true, Bool.not_eq_true', beq_iff_eq] at h
  obtain ⟨⟨⟨⟨⟨h1, h2⟩, h3⟩, h4⟩, h5⟩, h6⟩ := h
  have hat : atomAt x.core a.toNat = true := by
    unfold atomAt
    cases hx : x.core <;> (rw [hx] at h6; simp only [beq_iff_eq] at h6; rw [h6])
    simp
  have ha : d.atomOk x a w = .ok d () := by
    unfold Dev.atomOk
    split
    · rfl
    · rw [if_neg (by rw [hat]; decide)]
      cases hx : x.core with
      | sv0 => rfl
      | sv1 => rfl
      | ce n =>
        rw [hx] at h3
        have h3 : (d.e n).dry = false := h3
        dsimp only [coreEng]
        rw [if_neg (by rw [h3]; simp)]
  have hll : d.rmwLoad x a w = .ok d (d.bytesNat a.toNat w) := by
    unfold Dev.rmwLoad
    cases hx : x.core with
    | sv0 => rw [hx] at hl; exact hl
    | sv1 => rw [hx] at hl; exact hl
    | ce n =>
      dsimp only [coreEng]
      split
      · have h4' := h4
        simp only [Dev.memFree, Bool.and_eq_true, Bool.not_eq_true', List.isEmpty_iff] at h4
        have hm : d.memLoad (n.val + 8) a.toNat w = (d, .done (d.bytesNat a.toNat w)) := Dev.memLoad_ok d _ _ _ h4'
        unfold Dev.engMem
        rw [h4.2, hm]
      · rw [hx] at hl; exact hl
  unfold Dev.rmw
  rw [Dev.nodryOk_own d x a w true h0]
  show (d.atomOk x a w).then _ = _
  rw [ha]
  show (d.rmwLoad x a w).then _ = _
  rw [hll]
  show (d.sstore x.core (hasPfx x .nodry) a w (f (d.bytesNat a.toNat w)).1).then _ = _
  rw [d.sstore_own x _ a w _ h0]
  rfl

/-- A store changes nothing but memory and the marks of its units. -/
theorem Dev.putNat_rest (d : Dev) (a w v : Nat) : ∃ m p b, d.putNat a w v = { d with mem := m, poison := p, badPar := b } := by
  unfold Dev.putNat
  obtain ⟨m, h⟩ := Dev.setBytes_only (natLe w v) (d.cleanUnits a w) a
  rw [h]
  exact ⟨m, _, _, rfl⟩

theorem SRes.then_ok {α β : Type} (d : Dev) (v : α) (f : Dev → α → SRes β) : (SRes.ok d v).then f = f d v := rfl

theorem Dev.setCpu_blow (d : Dev) (c : Core) (x : Cpu) : (d.setCpu c x).blow = d.blow := (d.setCpu_rest c x).2.2.2.1

theorem Dev.setCpu_mem (d : Dev) (c : Core) (x : Cpu) : (d.setCpu c x).mem = d.mem := (d.setCpu_rest c x).1

theorem opBits_bytes (x : Sx) : 2 ^ opBits x = 256 ^ opBytes x := by
  unfold opBits opBytes
  split <;> decide

/-- A command that is an instruction which goes, whose body only sets its core's registers. -/
theorem Runs.sets {c : Instr} {s : State} {x : Sx} {i : Ins} {body : Dev → SRes (Option Word)} {y : Cpu} {to' : Option Word}
    (h : exec c s = act s (s.dev.issue x i body)) (hg : s.dev.goes x i = true) (hb : body s.dev = .ok (s.dev.setCpu x.core y) to')
    (hc : s.dev.calm x (to'.getD (s.dev.after x i.len)) = true) (he : y.estat = (s.dev.cpu x.core).estat) (hbl : s.dev.blow = []) :
    Runs c s (Leaves (s.dev.setCpu x.core y) x (to'.getD (s.dev.after x i.len))) :=
  Runs.leaves h hg hb hc (Dev.setCpu_estat _ _ _ he) ((Dev.setCpu_blow _ _ _).trans hbl)

/-- A command that is an instruction which goes, whose body stores `w` bytes and sets registers. -/
theorem Runs.stores {c : Instr} {s : State} {x : Sx} {i : Ins} {body : Dev → SRes (Option Word)} {a w v : Nat} {d' : Dev} {to' : Option Word}
    (h : exec c s = act s (s.dev.issue x i body)) (hg : s.dev.goes x i = true) (hb : body s.dev = .ok d' to')
    (hd : d' = s.dev.putNat a w v ∨ ∃ y : Cpu, y.estat = (s.dev.cpu x.core).estat ∧ d' = (s.dev.putNat a w v).setCpu x.core y)
    (hc : s.dev.calm x (to'.getD (s.dev.after x i.len)) = true) (hbl : s.dev.blow = []) :
    Runs c s (fun t => Leaves d' x (to'.getD (s.dev.after x i.len)) t ∧ t.dev.bytesNat a w = v % 256 ^ w ∧
      ∀ y, y < a ∨ a + w ≤ y → t.dev.byte y = s.dev.byte y) := by
  obtain ⟨m, p, q, hp⟩ := s.dev.putNat_rest a w v
  have h1 : (d'.cpu .sv0).estat = (s.dev.cpu .sv0).estat ∧ d'.blow = [] ∧ d'.mem = (s.dev.putNat a w v).mem := by
    rcases hd with rfl | ⟨y, hy, rfl⟩
    · refine ⟨?_, ?_, rfl⟩
      · rw [hp]; rfl
      · rw [hp]; exact hbl
    · refine ⟨?_, ?_, Dev.setCpu_mem _ _ _⟩
      · rw [hp]; exact Dev.setCpu_estat { s.dev with mem := m, poison := p, badPar := q } x.core _ hy
      · rw [Dev.setCpu_blow, hp]; exact hbl
  obtain ⟨t, ht, hl⟩ := Runs.leaves h hg hb hc h1.1 h1.2.1
  have hm : t.dev.mem = (s.dev.putNat a w v).mem := hl.2.2.1.trans h1.2.2
  refine ⟨t, ht, hl, ?_, fun y hy => ?_⟩
  · rw [Dev.bytesNat_congr hm, Dev.bytesNat_putNat]
  · have : t.dev.byte y = (s.dev.putNat a w v).byte y := by unfold Dev.byte; rw [hm]
    rw [this, Dev.byte_putNat _ _ _ _ _ hy]

/-! ### Taking an exception (R154) -/

/-- What an exception leaves of its core's registers, and what it leaves of the rest. -/
theorem Dev.excEnter_cpu (d : Dev) (c : Core) (vec det : Nat) (addr : Option Word) (epc : Word) :
    (∃ st ps, (d.excEnter c vec det addr epc).cpu c = { d.cpu c with
      epc := epc, efl := (d.cpu c).fl, ecause := BitVec.ofNat 32 (vec + det * 256), eaddr := addr.getD 0, estat := st
      fl := putBits (d.cpu c).fl flT 1 0, psr := ps, pc := (d.cpu c).vbase + BitVec.ofNat 32 (16 * vec) } ∧ st.getLsbD 0 = true) ∧
    (d.excEnter c vec det addr epc).mem = d.mem ∧ (d.excEnter c vec det addr epc).blow = d.blow ∧
    (d.excEnter c vec det addr epc).regs = d.regs := by
  have bit : ∀ (x : Nat) (v : Word) (p : Bool) (a b : Nat), x = 1 + (if p then a * 2 + b * 4 else 0) → (putBits v 0 3 x).getLsbD 0 = true := by
    intro x v p a b h
    rw [putBits_getLsbD _ _ _ _ _ (by decide), if_pos (by decide)]
    have : x % 2 = 1 := by rw [h]; split <;> omega
    simp [Nat.testBit, this]
  cases c with
  | sv0 => exact ⟨⟨_, _, rfl, bit _ _ (isS .sv0) _ _ rfl⟩, rfl, rfl, rfl⟩
  | sv1 => exact ⟨⟨_, _, rfl, bit _ _ (isS .sv1) _ _ rfl⟩, rfl, rfl, rfl⟩
  | ce n =>
    refine ⟨⟨putBits (d.cpu (.ce n)).estat 0 3 (1 + if isS (.ce n) then ((d.cpu (.ce n)).psr.getLsbD 0).toNat * 2
      + ((d.cpu (.ce n)).psr.getLsbD 1).toNat * 4 else 0), (d.cpu (.ce n)).psr, ?_, bit _ _ (isS (.ce n)) _ _ rfl⟩, rfl, rfl, rfl⟩
    unfold Dev.excEnter
    dsimp only
    rw [Dev.cpu_setCpu]
    rfl

/-! ### Exceptions and faults -/

theorem Dev.excEnter_entered (d : Dev) (c : Core) (vec det : Nat) (addr : Option Word) (epc : Word) :
    Entered (d.cpu c) (isS c) vec det (addr.getD 0) epc ((d.excEnter c vec det addr epc).cpu c) := by
  have bit : ∀ (v : Word) (p : Bool) (a b : Bool), let e := putBits v 0 3 (1 + (if p then a.toNat * 2 + b.toNat * 4 else 0))
      e.getLsbD 0 = true ∧ (p = true → e.getLsbD 1 = a ∧ e.getLsbD 2 = b) := by
    intro v p a b
    dsimp only
    rw [putBits_getLsbD _ _ _ _ _ (by decide), putBits_getLsbD _ _ _ _ _ (by decide), putBits_getLsbD _ _ _ _ _ (by decide)]
    rw [if_pos (show 0 ≤ 0 ∧ 0 < 0 + 3 by decide), if_pos (show 0 ≤ 1 ∧ 1 < 0 + 3 by decide), if_pos (show 0 ≤ 2 ∧ 2 < 0 + 3 by decide)]
    revert p a b
    decide
  have psr : ∀ v : Word, (putBits v 0 2 1).getLsbD 0 = true ∧ (putBits v 0 2 1).getLsbD 1 = false := by
    intro v
    rw [putBits_getLsbD _ _ _ _ _ (by decide), putBits_getLsbD _ _ _ _ _ (by decide), if_pos (by decide), if_pos (by decide)]
    exact ⟨rfl, rfl⟩
  have hfl : ∀ v : Word, putBits v flT 1 0 = v &&& ~~~0x40 := by
    intro v
    apply BitVec.eq_of_getLsbD_eq
    intro i hi
    rw [putBits_getLsbD _ _ _ _ _ (by decide), BitVec.getLsbD_and]
    by_cases h : i = 6
    · subst h; simp [flT]
    · rw [if_neg (by simp only [flT]; omega), BitVec.getLsbD_not]
      have : (0x40 : Word).getLsbD i = false := by
        show (BitVec.twoPow 32 6).getLsbD i = false
        rw [BitVec.getLsbD_twoPow]
        simp; omega
      rw [this]
      simp [hi]
  have key : (d.excEnter c vec det addr epc).cpu c = { d.cpu c with
      epc := epc, efl := (d.cpu c).fl, ecause := BitVec.ofNat 32 (vec + det * 256), eaddr := addr.getD 0
      estat := putBits (d.cpu c).estat 0 3 (1 + (if isS c then ((d.cpu c).psr.getLsbD 0).toNat * 2 + ((d.cpu c).psr.getLsbD 1).toNat * 4 else 0))
      fl := putBits (d.cpu c).fl flT 1 0, psr := if isS c then putBits (d.cpu c).psr 0 2 1 else (d.cpu c).psr
      pc := (d.cpu c).vbase + BitVec.ofNat 32 (16 * vec) } := by
    cases c with
    | sv0 => rfl
    | sv1 => rfl
    | ce n =>
      unfold Dev.excEnter
      dsimp only
      rw [Dev.cpu_setCpu]
  rw [key]
  refine ⟨rfl, rfl, rfl, ?_, rfl, hfl _, rfl, rfl, (bit _ _ _ _).1, fun h => ⟨((bit _ _ _ _).2 h).1, ((bit _ _ _ _).2 h).2, ?_, ?_⟩⟩
  · dsimp only; rw [Nat.mul_comm det 256]
  · dsimp only; rw [if_pos h]; exact (psr _).1
  · dsimp only; rw [if_pos h]; exact (psr _).2

/-- Raising an event changes no core, no memory, no engine. -/
theorem Dev.raise_only (d : Dev) (k n : Nat) (h : k < 256) :
    (∀ c, (d.raise k n).cpu c = d.cpu c) ∧ (d.raise k n).mem = d.mem ∧ (d.raise k n).blow = d.blow ∧ ∀ j, (d.raise k n).e j = d.e j := by
  have h1 := Tallies.raise d k n h
  have h2 := h1.rest
  obtain ⟨a, b, c, h3, _⟩ := EvtOnly.raise d k n h
  exact ⟨h1.cpu, h2.1, h2.2.2.2.2, fun k => by rw [h3]; rfl⟩

theorem Dev.wr_only (d : Dev) (r : Reg) (v : Word) (i j : Nat) :
    (∀ c, (d.wr r v i j).cpu c = d.cpu c) ∧ (d.wr r v i j).mem = d.mem ∧ (d.wr r v i j).blow = d.blow ∧ ∀ k, (d.wr r v i j).e k = d.e k :=
  ⟨fun c => by cases c <;> rfl, rfl, rfl, fun _ => rfl⟩

/-- Latching an engine's error touches its error registers and the event blocks alone. -/
theorem Dev.latchEng_only (d : Dev) (n cause : Nat) (a : Word) :
    (∀ c, (d.latchEng n cause a).cpu c = d.cpu c) ∧ (d.latchEng n cause a).mem = d.mem ∧ (d.latchEng n cause a).blow = d.blow ∧
    ∀ k, (d.latchEng n cause a).e k = d.e k := by
  unfold Dev.latchEng
  by_cases hv : d.b ENG_ERR_VALID n = true
  · rw [if_pos hv]
    exact ⟨fun _ => rfl, rfl, rfl, fun _ => rfl⟩
  · rw [if_neg hv]
    generalize BitVec.ofNat 32 (cause + 0x80000000) = v
    obtain ⟨a1, a2, a3, a4⟩ := d.wr_only ENG_ERR v n 0
    obtain ⟨b1, b2, b3, b4⟩ := (d.wr ENG_ERR v n 0).wr_only ENG_ERRADDR a n 0
    obtain ⟨c1, c2, c3, c4⟩ := ((d.wr ENG_ERR v n 0).wr ENG_ERRADDR a n 0).raise_only 41 n (by decide)
    exact ⟨fun c => (c1 c).trans ((b1 c).trans (a1 c)), c2.trans (b2.trans a2), c3.trans (b3.trans a3),
      fun c => (c4 c).trans ((b4 c).trans (a4 c))⟩

/-- Outside dry-fit and outside a handler an exception is entered, whatever an engine latches for it. -/
theorem Dev.excp_entered (d : Dev) (c : Core) (vec det : Nat) (addr : Option Word) (epc : Word) (hx : d.exl c = false)
    (hd : d.dryOn c = false) :
    Entered (d.cpu c) (isS c) vec det (addr.getD 0) epc ((d.excp c vec det addr epc).cpu c) ∧
    (d.excp c vec det addr epc).mem = d.mem ∧ (d.excp c vec det addr epc).blow = d.blow := by
  have go : ∀ D : Dev, D.cpu c = d.cpu c → D.mem = d.mem → D.blow = d.blow →
      Entered (d.cpu c) (isS c) vec det (addr.getD 0) epc ((D.excEnter c vec det addr epc).cpu c) ∧
      (D.excEnter c vec det addr epc).mem = d.mem ∧ (D.excEnter c vec det addr epc).blow = d.blow := by
    intro D h1 h2 h3
    have h4 := D.excEnter_entered c vec det addr epc
    obtain ⟨_, h5, h6, _⟩ := D.excEnter_cpu c vec det addr epc
    rw [h1] at h4
    exact ⟨h4, h5.trans h2, h6.trans h3⟩
  unfold Dev.excp
  cases hc : coreEng c with
  | none =>
    dsimp only
    rw [if_neg (by rw [hx]; decide)]
    exact go d rfl rfl rfl
  | some n =>
    have hce : ∃ k : Fin 32, c = .ce k ∧ n = k.val := by
      cases c with
      | sv0 => cases hc
      | sv1 => cases hc
      | ce k => exact ⟨k, rfl, by simpa [coreEng] using hc.symm⟩
    obtain ⟨k, rfl, rfl⟩ := hce
    have hd : (d.e k).dry = false := hd
    dsimp only
    rw [hd]
    simp only [Bool.false_eq_true, if_false, Bool.false_or]
    rw [hx]
    simp only [Bool.not_false, if_true, Bool.false_eq_true, if_false]
    split
    · next j _ =>
      obtain ⟨h1, h2, h3, _⟩ := d.latchEng_only k j (addr.getD epc)
      exact go _ (h1 _) h2 h3
    · exact go d rfl rfl rfl

/-- An instruction that decodes to a fault takes it. -/
theorem Dev.issue_faults (d : Dev) (x : Sx) (i : Ins) (body : Dev → SRes (Option Word)) (vec det : Nat) (h : d.fetches x i = true)
    (hb : (decodeFault x i).2 = some (vec, det)) : d.issue x i body = d.excp x.core vec det none (d.cpu x.core).pc := by
  simp only [Dev.fetches, Bool.and_eq_true] at h
  obtain ⟨⟨⟨⟨h1, h2⟩, h4⟩, h5⟩, h6⟩ := h
  have ha : d.admitIns x i (d.cpu x.core).pc = .fault d vec det none := by
    rcases hq : decodeFault x i with ⟨n, bad⟩
    rw [hq] at hb h4 h5 h6
    dsimp only at hb h4 h5 h6
    subst hb
    unfold Dev.admitIns
    rw [hq]
    dsimp only
    rw [if_neg (by rw [h4]; decide), Dev.fetchMpu_free d _ _ _ h5]
    simp only [Dev.soundAt, Bool.and_eq_true, Bool.not_eq_true', List.isEmpty_iff] at h6
    have hg : d.fetchGuard x.core (d.cpu x.core).pc n = .ok d () := by
      unfold Dev.fetchGuard
      dsimp only
      rw [if_neg (by rw [h6.1.1]; decide), if_neg (by rw [h6.1.2]; decide), h6.2]
    show (d.fetchGuard x.core (d.cpu x.core).pc n).then _ = _
    rw [hg]
    rfl
  have h2 : d.irqDue x.core = none := by simpa using h2
  unfold Dev.issue
  rw [if_neg (by rw [h1]; decide)]
  dsimp only
  rw [h2, ha]
  rfl

/-- The fault of an instruction's encoding, outside dry-fit and outside a handler. -/
theorem Runs.faults {c : Instr} {s : State} {x : Sx} {i : Ins} {body : Dev → SRes (Option Word)} {vec det : Nat}
    (h : exec c s = act s (s.dev.issue x i body)) (hg : s.dev.fetches x i = true) (hb : (decodeFault x i).2 = some (vec, det))
    (hx : s.dev.exl x.core = false) (hd : s.dev.dryOn x.core = false) (hbl : s.dev.blow = []) :
    Runs c s (fun t => Entered (s.dev.cpu x.core) (isS x.core) vec det 0 (s.dev.cpu x.core).pc (t.dev.cpu x.core) ∧ t.dev.mem = s.dev.mem) := by
  rw [Dev.issue_faults _ _ _ _ _ _ hg hb] at h
  obtain ⟨h1, h2, h3⟩ := s.dev.excp_entered x.core vec det none (s.dev.cpu x.core).pc hx hd
  exact Runs.of_quiet h (h3.trans hbl) ⟨h1, h2⟩

/-- An exception that the instruction's operation raises, outside dry-fit and outside a handler. -/
theorem Runs.raises {c : Instr} {s : State} {x : Sx} {i : Ins} {body : Dev → SRes (Option Word)} {vec det : Nat} {a : Option Word} {epc : Word}
    (h : exec c s = act s (s.dev.issue x i body)) (hg : s.dev.goes x i = true)
    (hb : body s.dev = .fault s.dev vec det a ∧ epc = (s.dev.cpu x.core).pc ∨ body s.dev = .stop (s.dev.excp x.core vec det a epc))
    (hx : s.dev.exl x.core = false) (hd : s.dev.dryOn x.core = false) (hbl : s.dev.blow = []) :
    Runs c s (fun t => Entered (s.dev.cpu x.core) (isS x.core) vec det (a.getD 0) epc (t.dev.cpu x.core) ∧ t.dev.mem = s.dev.mem) := by
  rw [Dev.issue_goes _ _ _ _ hg] at h
  obtain ⟨h1, h2, h3⟩ := s.dev.excp_entered x.core vec det a epc hx hd
  refine Runs.of_quiet (d := s.dev.excp x.core vec det a epc) ?_ (h3.trans hbl) ⟨h1, h2⟩
  rw [h]
  rcases hb with ⟨hb, rfl⟩ | hb <;> rw [hb]

/-! ### Operands written and memory stored, seen from one another -/

theorem Dev.setGv_eq (d : Dev) (x : Sx) (k v : Nat) : d.setGv x k v = d.setCpu x.core ((d.cpu x.core).wrote (isWide x) k v {}) := by
  unfold Dev.setGv Cpu.wrote
  cases isWide x
  · simp only [Bool.false_eq_true, if_false]; rfl
  · simp only [if_true]
    rw [Dev.setG_eq, Dev.setG_eq, Dev.cpu_setCpu, Dev.setCpu_setCpu]
    rfl

/-- A store leaves the cores' registers. -/
theorem Dev.putNat_cpu (d : Dev) (a w v : Nat) (c : Core) : (d.putNat a w v).cpu c = d.cpu c := by
  obtain ⟨m, p, q, h⟩ := d.putNat_rest a w v
  rw [h]; cases c <;> rfl

theorem Cpu.user_setGr (c : Cpu) (k : Nat) (v : Word) : (c.setGr k v).user = c.user := by unfold Cpu.setGr Cpu.user; split <;> rfl

/-- A general register written reads what was written, and the others as before. -/
theorem Cpu.gr_setGr (c : Cpu) (j k : Nat) (v : Word) : (c.setGr k v).gr j = if j = k then v else c.gr j := by
  have hu := c.user_setGr k v
  unfold Cpu.gr
  rw [hu]
  unfold Cpu.setGr
  by_cases hk : (decide (k = 15) && c.user) = true
  · rw [if_pos hk]
    simp only [Bool.and_eq_true, decide_eq_true_eq] at hk
    by_cases hj : j = k
    · rw [if_pos (by rw [hj, hk.1, hk.2]; rfl), if_pos hj]
    · rw [if_neg hj, if_neg (by simp; intro h; omega), if_neg (by simp; intro h; omega)]
      rfl
  · rw [if_neg hk]
    by_cases hj : j = k
    · subst hj
      rw [if_neg hk, if_pos rfl]
      exact Tab.look_put _ _ _ _
    · rw [if_neg hj]
      by_cases hq : (decide (j = 15) && c.user) = true
      · rw [if_pos hq, if_pos hq]; rfl
      · rw [if_neg hq, if_neg hq]
        exact Tab.look_put_ne _ _ _ _ _ _ hj

/-- The core's own memory stays free while poison and failing words only go. -/
theorem Dev.ownFree_sub (d : Dev) (m : List Host.Cell) (p q : List Nat) (hp : ∀ y, p.contains y = true → d.poison.contains y = true)
    (hq : ∀ y, q.contains y = true → d.badPar.contains y = true) (x : Sx) (a w : Nat) (b : Bool) (h : d.ownFree x a w b = true) :
    Dev.ownFree { d with mem := m, poison := p, badPar := q } x a w b = true := by
  have hdry : Dev.dryOn { d with mem := m, poison := p, badPar := q } x.core = d.dryOn x.core := by cases x.core <;> rfl
  have hcpu : Dev.cpu { d with mem := m, poison := p, badPar := q } x.core = d.cpu x.core := by cases x.core <;> rfl
  have hm : Dev.mpuFree { d with mem := m, poison := p, badPar := q } x.core a b.toNat = d.mpuFree x.core a b.toNat := by
    unfold Dev.mpuFree; rw [hcpu]
  have hon : Dev.onAt { d with mem := m, poison := p, badPar := q } a = d.onAt a := rfl
  have hf : d.memFree a w = true → Dev.memFree { d with mem := m, poison := p, badPar := q } a w = true := by
    unfold Dev.memFree
    simp only [Bool.and_eq_true, Bool.not_eq_true', hon]
    rintro ⟨⟨⟨h1, h2⟩, h3⟩, h4⟩
    refine ⟨⟨⟨h1, h2⟩, ?_⟩, ?_⟩
    · unfold Dev.hitsPoison at h3 ⊢
      rw [List.any_eq_false] at h3 ⊢
      exact fun y hy hc => h3 y hy (hp y hc)
    · unfold Dev.hitsParity at h4 ⊢
      rw [List.isEmpty_iff, List.filter_eq_nil_iff] at h4 ⊢
      exact fun y hy hc => h4 y hy (hq y hc)
  unfold Dev.ownFree at h ⊢
  simp only [Bool.and_eq_true] at h ⊢
  obtain ⟨⟨⟨⟨⟨h1, h2⟩, h3⟩, h4⟩, h5⟩, h6⟩ := h
  exact ⟨⟨⟨⟨⟨h1, h2⟩, by rw [hdry]; exact h3⟩, hf h4⟩, by rw [hm]; exact h5⟩, h6⟩

/-- A store leaves the core's own memory free. -/
theorem Dev.ownFree_putNat (d : Dev) (a' w' v : Nat) (x : Sx) (a w : Nat) (b : Bool) (h : d.ownFree x a w b = true) :
    (d.putNat a' w' v).ownFree x a w b = true := by
  unfold Dev.putNat
  obtain ⟨m, e⟩ := Dev.setBytes_only (natLe w' v) (d.cleanUnits a' w') a'
  rw [e]
  refine d.ownFree_sub m _ _ ?_ ?_ x a w b h <;>
  · intro y hy
    rw [List.contains_iff_mem] at hy ⊢
    exact (List.mem_filter.1 hy).1

end Sys2Proof.Machine
end

