-- ==== Sys2Proof/Laws/Blocks.lean ====
section
/-!
SUPPORT. What the blocks' shared operations touch: raises by software, rollbacks.
-/

namespace Sys2Proof.Machine

/-- A raise by software touches the event block, the journal queue and the messages alone. -/
theorem Dev.softRaise_evt (d : Dev) (v : Nat) (hv : v < 256) : EvtOnly d (d.softRaise v) := by
  unfold Dev.softRaise
  dsimp only
  split
  · exact (EvtOnly.setPending d v hv).trans (.journal _ _ (by show v < 1024; omega))
  · exact .setPending d v hv

/-- A record handed to the queue clears no pending bit. -/
theorem Dev.journal_keeps (d : Dev) (e : JEnt) (v : Nat) (hv : v < 256) (h : d.evPending v = true) : (d.journal e).evPending v = true := by
  unfold Dev.journal
  have hq : (d.jqPut e).1.evPending v = true := by
    unfold Dev.evPending at h ⊢
    rw [Dev.jqPut_pend _ _ _ (by omega)]; exact h
  split
  · next d' e' => rw [e'] at hq; exact hq
  · next d' e' =>
    rw [e'] at hq
    split
    · exact hq
    · unfold Dev.evPending at hq ⊢
      rw [Dev.raiseBase_pend _ _ _ _ (by omega)]
      split
      · rw [BitVec.getLsbD_or, hq]; rfl
      · exact hq

/-- A raise by software leaves its source pending (R245). -/
theorem Dev.softRaise_pending (d : Dev) (v : Nat) (hv : v < 256) : (d.softRaise v).evPending v = true := by
  have h1 : (d.setPending v).evPending v = true := by
    unfold Dev.evPending
    have hm : v % 32 < 32 := by omega
    rw [Dev.setPending_pend _ _ _ (by omega), if_pos rfl, BitVec.getLsbD_or, getLsbD_bit, decide_eq_true hm, decide_eq_true rfl]
    exact Bool.or_true _
  unfold Dev.softRaise
  dsimp only
  split
  · exact Dev.journal_keeps _ _ _ hv h1
  · exact h1

/-- A rollback of one engine leaves the others. -/
theorem Dev.conflict_other (d : Dev) (n k : Nat) (h : k ≠ n) : (d.conflict n).e k = d.e k := by
  unfold Dev.conflict
  cases hh : (d.e n).hand with
  | none => rfl
  | some x =>
    dsimp only
    have hr : (d.restore n).e k = d.e k := by
      cases hc : (d.e n).ck with
      | none => unfold Dev.restore; dsimp only; rw [hc]
      | some c => exact (d.restore_e n c hc).2.2 k h
    have h1 : (((d.restore n).count ENG_CNT_CONF n).pm n 6).e k = d.e k := by
      rw [Dev.e_congr (Dev.pm_eng _ _ _ _).1, Dev.e_congr (Dev.count_eng _ _ _ _ _)]
      exact hr
    generalize ((d.restore n).count ENG_CNT_CONF n).pm n 6 = D at *
    split
    · rw [Dev.e_congr (Dev.count_eng _ _ _ _ _), Dev.e_setE_ne _ _ _ _ h]; exact h1
    · split
      · unfold Dev.requestToken
        dsimp only
        split
        · rw [Dev.e_setE_ne _ _ _ _ h]; exact h1
        · show (Dev.e (D.setE n _) k) = _
          rw [Dev.e_setE_ne _ _ _ _ h]; exact h1
      · rw [Dev.e_setE_ne _ _ _ _ h]; exact h1

/-- A mailbox side that was set. -/
theorem Dev.mside_setMside (d : Dev) (m s : Nat) (x : MbxSide) : (d.setMside m s x).mside m s = x := by
  unfold Dev.setMside Dev.mside Dev.mbox
  dsimp only
  rw [Tab.look_put]
  split <;> rfl

/-- The other side of a mailbox, and other mailboxes, stay. -/
theorem Dev.mside_setMside_ne (d : Dev) (m s m' s' : Nat) (x : MbxSide) (h : m' ≠ m ∨ (s' = 0 ↔ s ≠ 0)) :
    (d.setMside m s x).mside m' s' = d.mside m' s' := by
  unfold Dev.setMside Dev.mside Dev.mbox
  dsimp only
  by_cases hm : m' = m
  · subst hm
    rw [Tab.look_put]
    have h : s' = 0 ↔ s ≠ 0 := h.resolve_left (fun e => e rfl)
    by_cases hs : s = 0
    · rw [if_pos hs, if_neg (fun e => h.1 e hs), if_neg (fun e => h.1 e hs)]
    · rw [if_neg hs, if_pos (h.2 hs), if_pos (h.2 hs)]
  · rw [Tab.look_put_ne _ _ _ _ _ _ hm]

end Sys2Proof.Machine
end

