-- ==== Sys2Proof/Laws/Rows.lean ====
section
/-!
SUPPORT. Instances of registers: when two do not share an address, with side conditions that are closed facts about the two registers;
one-bit fields.
-/

namespace Sys2Proof.Machine

/-- Two registers of one block whose instances step alike do not share an address at equal indices. -/
theorem Reg.addr_ne {x y : Reg} (i j : Nat) (h1 : x.s1 = y.s1) (h2 : x.s2 = y.s2) (hb : x.base ≠ y.base) : x.addr i j ≠ y.addr i j := by
  unfold Reg.addr
  rw [h1, h2]
  omega

/-- A register above the event unit stays above it at every instance. -/
theorem Reg.addr_above {x : Reg} (i j : Nat) (hb : 0x40060000 ≤ x.base) : x.addr i j < 0x40050000 ∨ 0x40060000 ≤ x.addr i j := by
  unfold Reg.addr
  omega

/-- A register above the engines' page stays above it at every instance. -/
theorem Reg.addr_above_eng {x : Reg} (i j : Nat) (hb : 0x40120000 ≤ x.base) : x.addr i j < 0x40100000 ∨ 0x40120000 ≤ x.addr i j := by
  unfold Reg.addr
  omega

/-- A field of one bit is the bit. -/
theorem getBits_one (x : Word) (k : Nat) : getBits x k 1 = (x.getLsbD k).toNat := by
  unfold getBits
  rw [BitVec.getLsbD, Nat.testBit, Nat.shiftRight_eq_div_pow, Nat.and_comm, Nat.and_one_is_mod]
  have : x.toNat / 2 ^ k % 2 = 0 ∨ x.toNat / 2 ^ k % 2 = 1 := by omega
  rcases this with h | h <;> simp [h]

/-- Words with equal bits in a field have equal fields. -/
theorem getBits_ext (x y : Word) (lo w : Nat) (h : ∀ i, i < w → x.getLsbD (lo + i) = y.getLsbD (lo + i)) : getBits x lo w = getBits y lo w := by
  have e : ∀ (z : Word) (i : Nat), (getBits z lo w).testBit i = (decide (i < w) && z.getLsbD (lo + i)) := by
    intro z i
    unfold getBits
    rw [Nat.testBit_mod_two_pow, Nat.testBit_div_two_pow, Nat.add_comm i lo]
    rfl
  apply Nat.eq_of_testBit_eq
  intro i
  rw [e, e]
  by_cases hi : i < w
  · rw [h i hi]
  · simp [hi]

/-- A flag of one bit is the register's bit. -/
theorem Dev.b_bit (d : Dev) (x : RegFld) (i j : Nat) (h : x.w = 1) : d.b x i j = (d.rd x.reg i j).getLsbD x.lo := by
  unfold Dev.b Dev.f
  rw [h, getBits_one]
  cases (d.rd x.reg i j).getLsbD x.lo <;> rfl

/-- The number `w` bytes make fits them. -/
theorem Dev.bytesNat_lt (d : Dev) (w : Nat) : ∀ a, d.bytesNat a w < 256 ^ w := by
  induction w with
  | zero => exact fun _ => Nat.zero_lt_one
  | succ w ih =>
    intro a
    show (d.byte a).toNat + 256 * d.bytesNat (a + 1) w < _
    have := ih (a + 1)
    have := (d.byte a).isLt
    rw [Nat.pow_succ]
    omega

/-! ### Accesses of comb memory -/

/-- A load of comb memory that nothing stops. -/
theorem Dev.bus_load (d : Dev) (m : Master) (a w : Nat) (h : d.combFree m a w false = true) :
    d.bus (d.wrNow m) a w none = (d, .done (d.bytesNat a w)) := by
  have hc := Dev.combLoad_ok _ _ _ _ _ h
  simp only [Dev.combFree, Bool.and_eq_true, beq_iff_eq, Bool.not_eq_true'] at h
  rw [Dev.bus_comb _ _ _ _ _ h.1.1.1.1 h.1.1.1.2]
  unfold Dev.combAcc
  rw [if_neg (by rw [show (none : Option Nat).isSome = false from rfl, h.2]; simp)]
  dsimp only
  rw [hc]; rfl

/-- A store to comb memory that nothing stops. -/
theorem Dev.bus_store (d : Dev) (m : Master) (a w v : Nat) (h : d.combFree m a w true = true) :
    d.bus (d.wrNow m) a w (some v) = ((d.putNat a w v).conflicts (engOf m) [lineOf a], .done 0) := by
  have hc := Dev.combStore_ok _ _ _ _ v _ h
  simp only [Dev.combFree, Bool.and_eq_true, beq_iff_eq, Bool.not_eq_true'] at h
  rw [Dev.bus_comb _ _ _ _ _ h.1.1.1.1 h.1.1.1.2]
  unfold Dev.combAcc
  rw [if_neg (by rw [show (some v : Option Nat).isSome = true from rfl, h.2]; simp)]
  dsimp only
  rw [hc]; rfl

end Sys2Proof.Machine
end

