-- ==== Sys2Proof/Laws/Lanes.lean ====
section
/-!
SUPPORT. What status bits, counters and link changes of the lanes leave alone (chapters 08 to 13).
-/

namespace Sys2Proof.Machine

/-! ### Changes of registers, the journal's queue and MSI-X alone -/

/-- `d'` differs from `d` in registers, in the journal's queue and in MSI-X at most. -/
def RegsOnly (d d' : Dev) : Prop := ∃ r q m, d' = { d with regs := r, jq := q, msix := m }

theorem RegsOnly.refl (d : Dev) : RegsOnly d d := ⟨d.regs, d.jq, d.msix, rfl⟩

theorem RegsOnly.trans {d d' d'' : Dev} (h : RegsOnly d d') (h' : RegsOnly d' d'') : RegsOnly d d'' := by
  obtain ⟨_, _, _, rfl⟩ := h
  obtain ⟨_, _, _, rfl⟩ := h'
  exact ⟨_, _, _, rfl⟩

theorem RegsOnly.wr (d : Dev) (r : Reg) (v : Word) (i j : Nat) : RegsOnly d (d.wr r v i j) := ⟨_, d.jq, d.msix, rfl⟩

theorem RegsOnly.setF (d : Dev) (x : RegFld) (v i j : Nat) : RegsOnly d (d.setF x v i j) := .wr _ _ _ _ _

theorem RegsOnly.setB (d : Dev) (x : RegFld) (v : Bool) (i j : Nat) : RegsOnly d (d.setB x v i j) := .setF _ _ _ _ _

theorem RegsOnly.count (d : Dev) (r : Reg) (i j n : Nat) : RegsOnly d (d.count r i j n) := .wr _ _ _ _ _

theorem RegsOnly.raise (d : Dev) (s n : Nat) (h : s < 256) : RegsOnly d (d.raise s n) := by
  obtain ⟨_, _, _, e, _⟩ := EvtOnly.raise d s n h
  exact ⟨_, _, _, e⟩

theorem RegsOnly.evBit (d : Dev) (st en : RegFld) (i src n : Nat) (h : src < 256) : RegsOnly d (d.evBit st en i src n) := by
  unfold Dev.evBit
  split
  · exact .refl d
  · dsimp only
    split
    · exact (RegsOnly.setB _ _ _ _ _).trans (.raise _ _ _ h)
    · exact .setB _ _ _ _ _

theorem RegsOnly.blow {d d' : Dev} (h : RegsOnly d d') : d'.blow = d.blow := by obtain ⟨_, _, _, rfl⟩ := h; rfl
theorem RegsOnly.resp {d d' : Dev} (h : RegsOnly d d') : d'.resp = d.resp := by obtain ⟨_, _, _, rfl⟩ := h; rfl
theorem RegsOnly.wall {d d' : Dev} (h : RegsOnly d d') : d'.wall = d.wall := by obtain ⟨_, _, _, rfl⟩ := h; rfl
theorem RegsOnly.mem {d d' : Dev} (h : RegsOnly d d') : d'.mem = d.mem := by obtain ⟨_, _, _, rfl⟩ := h; rfl
theorem RegsOnly.eth {d d' : Dev} (h : RegsOnly d d') : d'.eth = d.eth := by obtain ⟨_, _, _, rfl⟩ := h; rfl
theorem RegsOnly.swc {d d' : Dev} (h : RegsOnly d d') : d'.swc = d.swc := by obtain ⟨_, _, _, rfl⟩ := h; rfl
theorem RegsOnly.frames {d d' : Dev} (h : RegsOnly d d') : d'.frames = d.frames := by obtain ⟨_, _, _, rfl⟩ := h; rfl
theorem RegsOnly.wakes {d d' : Dev} (h : RegsOnly d d') : d'.wakes = d.wakes := by obtain ⟨_, _, _, rfl⟩ := h; rfl
theorem RegsOnly.mdio {d d' : Dev} (h : RegsOnly d d') : d'.mdio = d.mdio := by obtain ⟨_, _, _, rfl⟩ := h; rfl
theorem RegsOnly.tm {d d' : Dev} (h : RegsOnly d d') : d'.tm = d.tm := by obtain ⟨_, _, _, rfl⟩ := h; rfl
theorem RegsOnly.tb {d d' : Dev} (h : RegsOnly d d') : d'.tb = d.tb := by obtain ⟨_, _, _, rfl⟩ := h; rfl
theorem RegsOnly.cmt {d d' : Dev} (h : RegsOnly d d') : d'.cmt = d.cmt := by obtain ⟨_, _, _, rfl⟩ := h; rfl
theorem RegsOnly.mb {d d' : Dev} (h : RegsOnly d d') : d'.mb = d.mb := by obtain ⟨_, _, _, rfl⟩ := h; rfl
theorem RegsOnly.sl {d d' : Dev} (h : RegsOnly d d') : d'.sl = d.sl := by obtain ⟨_, _, _, rfl⟩ := h; rfl
theorem RegsOnly.rings {d d' : Dev} (h : RegsOnly d d') : d'.rings = d.rings := by obtain ⟨_, _, _, rfl⟩ := h; rfl
theorem RegsOnly.pio {d d' : Dev} (h : RegsOnly d d') : d'.pio = d.pio := by obtain ⟨_, _, _, rfl⟩ := h; rfl
theorem RegsOnly.stn {d d' : Dev} (h : RegsOnly d d') : d'.stn = d.stn := by obtain ⟨_, _, _, rfl⟩ := h; rfl
theorem RegsOnly.pw {d d' : Dev} (h : RegsOnly d d') : d'.pw = d.pw := by obtain ⟨_, _, _, rfl⟩ := h; rfl
theorem RegsOnly.boot {d d' : Dev} (h : RegsOnly d d') : d'.boot = d.boot := by obtain ⟨_, _, _, rfl⟩ := h; rfl
theorem RegsOnly.jrn {d d' : Dev} (h : RegsOnly d d') : d'.jrn = d.jrn := by obtain ⟨_, _, _, rfl⟩ := h; rfl
theorem RegsOnly.eng {d d' : Dev} (h : RegsOnly d d') : d'.eng = d.eng := by obtain ⟨_, _, _, rfl⟩ := h; rfl
theorem RegsOnly.power {d d' : Dev} (h : RegsOnly d d') : d'.power = d.power := by obtain ⟨_, _, _, rfl⟩ := h; rfl
theorem RegsOnly.powerTo {d d' : Dev} (h : RegsOnly d d') : d'.powerTo = d.powerTo := by obtain ⟨_, _, _, rfl⟩ := h; rfl
theorem RegsOnly.free {d d' : Dev} (h : RegsOnly d d') : d'.free = d.free := by obtain ⟨_, _, _, rfl⟩ := h; rfl
theorem RegsOnly.age {d d' : Dev} (h : RegsOnly d d') : d'.age = d.age := by obtain ⟨_, _, _, rfl⟩ := h; rfl

/-! ### Status bits that raise an event when they set (R270 and its like) -/

/-- A register other than the status register, outside the event unit, stays. -/
theorem Dev.rd_evBit (d : Dev) (st en : RegFld) (i src n : Nat) (r : Reg) (i' j' : Nat) (hs : src < 256)
    (h : r.addr i' j' ≠ st.reg.addr i 0) (ha : r.addr i' j' < 0x40050000 ∨ 0x40060000 ≤ r.addr i' j') :
    (d.evBit st en i src n).rd r i' j' = d.rd r i' j' := by
  unfold Dev.evBit
  split
  · rfl
  · dsimp only
    split
    · rw [Dev.rd_raise _ _ _ _ _ _ hs ha, Dev.rd_setB_ne _ _ _ _ _ _ _ _ h]
    · exact Dev.rd_setB_ne _ _ _ _ _ _ _ _ h

/-- A field of a register other than the status register stays. -/
theorem Dev.f_evBit (d : Dev) (st en : RegFld) (i src n : Nat) (x : RegFld) (i' j' : Nat) (hs : src < 256)
    (h : x.reg.addr i' j' ≠ st.reg.addr i 0) (ha : x.reg.addr i' j' < 0x40050000 ∨ 0x40060000 ≤ x.reg.addr i' j') :
    (d.evBit st en i src n).f x i' j' = d.f x i' j' := Dev.f_congr x i' j' (Dev.rd_evBit _ _ _ _ _ _ _ _ _ hs h ha)

/-- A flag of a register other than the status register stays. -/
theorem Dev.b_evBit (d : Dev) (st en : RegFld) (i src n : Nat) (x : RegFld) (i' j' : Nat) (hs : src < 256)
    (h : x.reg.addr i' j' ≠ st.reg.addr i 0) (ha : x.reg.addr i' j' < 0x40050000 ∨ 0x40060000 ≤ x.reg.addr i' j') :
    (d.evBit st en i src n).b x i' j' = d.b x i' j' := Dev.b_congr x i' j' (Dev.rd_evBit _ _ _ _ _ _ _ _ _ hs h ha)

/-- The status register afterwards: the bit set, the others as before. -/
theorem Dev.evBit_bits (d : Dev) (st en : RegFld) (i src n k : Nat) (hs : src < 256) (hw : st.w = 1) (hl : st.lo < 32)
    (ha : st.reg.addr i 0 < 0x40050000 ∨ 0x40060000 ≤ st.reg.addr i 0) :
    ((d.evBit st en i src n).rd st.reg i).getLsbD k = ((d.rd st.reg i).getLsbD k || decide (k = st.lo)) := by
  have hset : ∀ k, ((d.setB st true i).rd st.reg i).getLsbD k = ((d.rd st.reg i).getLsbD k || decide (k = st.lo)) := by
    intro k
    unfold Dev.setB Dev.setF
    rw [Dev.rd_wr, hw, putBits_getLsbD _ _ _ _ _ (by omega)]
    by_cases hk : k = st.lo
    · subst hk
      rw [if_pos ⟨Nat.le_refl _, Nat.lt_succ_self _⟩]
      simp
    · rw [if_neg (by omega)]
      simp [hk]
  unfold Dev.evBit
  split
  · next hb =>
    have hb' : (d.rd st.reg i).getLsbD st.lo = true := by rw [← Dev.b_bit d st i 0 hw]; exact hb
    by_cases hk : k = st.lo
    · rw [hk, hb']; simp
    · simp [hk]
  · dsimp only
    split
    · rw [Dev.rd_raise _ _ _ _ _ _ hs ha, hset]
    · exact hset k

/-! ### Ethernet lanes -/

theorem RegsOnly.ethEv (d : Dev) (p b : Nat) (h : p < 24) : RegsOnly d (d.ethEv p b) := .evBit _ _ _ _ _ _ (by omega)

theorem RegsOnly.ethCount (d : Dev) (r : Reg) (p n : Nat) (h : p < 24) : RegsOnly d (d.ethCount r p n) := by
  unfold Dev.ethCount
  dsimp only
  split
  · exact (RegsOnly.count _ _ _ _ _).trans (.ethEv _ _ _ h)
  · exact .count _ _ _ _ _

theorem Dev.rd_ethEv (d : Dev) (p b : Nat) (r : Reg) (i j : Nat) (hp : p < 24) (h : r.addr i j ≠ ETH_EVSTAT.addr p 0)
    (ha : r.addr i j < 0x40050000 ∨ 0x40060000 ≤ r.addr i j) : (d.ethEv p b).rd r i j = d.rd r i j :=
  Dev.rd_evBit _ _ _ _ _ _ _ _ _ (by omega) h ha

theorem Dev.f_ethEv (d : Dev) (p b : Nat) (x : RegFld) (i j : Nat) (hp : p < 24) (h : x.reg.addr i j ≠ ETH_EVSTAT.addr p 0)
    (ha : x.reg.addr i j < 0x40050000 ∨ 0x40060000 ≤ x.reg.addr i j) : (d.ethEv p b).f x i j = d.f x i j :=
  Dev.f_congr x i j (Dev.rd_ethEv _ _ _ _ _ _ hp h ha)

theorem Dev.b_ethEv (d : Dev) (p b : Nat) (x : RegFld) (i j : Nat) (hp : p < 24) (h : x.reg.addr i j ≠ ETH_EVSTAT.addr p 0)
    (ha : x.reg.addr i j < 0x40050000 ∨ 0x40060000 ≤ x.reg.addr i j) : (d.ethEv p b).b x i j = d.b x i j :=
  Dev.b_congr x i j (Dev.rd_ethEv _ _ _ _ _ _ hp h ha)

/-- ETH_EVSTAT after a status bit sets. -/
theorem Dev.ethEv_bits (d : Dev) (p b k : Nat) (hp : p < 24) (hb : b < 32) :
    ((d.ethEv p b).rd ETH_EVSTAT p).getLsbD k = ((d.rd ETH_EVSTAT p).getLsbD k || decide (k = b)) :=
  Dev.evBit_bits d ⟨ETH_EVSTAT, b, 1⟩ ⟨ETH_EVEN, b, 1⟩ p (48 + p) 0 k (by omega) rfl hb (Reg.addr_above (x := ETH_EVSTAT) _ _ (by decide))

theorem Dev.rd_count_ne (d : Dev) (r r' : Reg) (i j n i' j' : Nat) (h : r'.addr i' j' ≠ r.addr i j) :
    (d.count r i j n).rd r' i' j' = d.rd r' i' j' := Dev.rd_wr_ne _ _ _ _ _ _ _ _ h

/-- A counter after it counts. -/
theorem Dev.rd_count (d : Dev) (r : Reg) (i j n : Nat) :
    (d.count r i j n).rd r i j = BitVec.ofNat 32 (satAdd 0xFFFFFFFF (d.rd r i j).toNat n) := Dev.rd_wr _ _ _ _ _

theorem Dev.rd_ethCount_ne (d : Dev) (r : Reg) (p n : Nat) (r' : Reg) (i j : Nat) (hp : p < 24) (h : r'.addr i j ≠ r.addr p 0)
    (he : r'.addr i j ≠ ETH_EVSTAT.addr p 0) (ha : r'.addr i j < 0x40050000 ∨ 0x40060000 ≤ r'.addr i j) :
    (d.ethCount r p n).rd r' i j = d.rd r' i j := by
  unfold Dev.ethCount
  dsimp only
  split
  · rw [Dev.rd_ethEv _ _ _ _ _ _ hp he ha, Dev.rd_count_ne _ _ _ _ _ _ _ _ h]
  · exact Dev.rd_count_ne _ _ _ _ _ _ _ _ h

/-- A lane's counter after it counts. -/
theorem Dev.rd_ethCount (d : Dev) (r : Reg) (p n : Nat) (hp : p < 24) (he : r.addr p 0 ≠ ETH_EVSTAT.addr p 0)
    (ha : r.addr p 0 < 0x40050000 ∨ 0x40060000 ≤ r.addr p 0) :
    (d.ethCount r p n).rd r p = BitVec.ofNat 32 (satAdd 0xFFFFFFFF (d.rd r p).toNat n) := by
  unfold Dev.ethCount
  dsimp only
  split
  · rw [Dev.rd_ethEv _ _ _ _ _ _ hp he ha, Dev.rd_count]
  · exact Dev.rd_count _ _ _ _ _

theorem Dev.b_ethCount_ne (d : Dev) (r : Reg) (p n : Nat) (x : RegFld) (i j : Nat) (hp : p < 24) (h : x.reg.addr i j ≠ r.addr p 0)
    (he : x.reg.addr i j ≠ ETH_EVSTAT.addr p 0) (ha : x.reg.addr i j < 0x40050000 ∨ 0x40060000 ≤ x.reg.addr i j) :
    (d.ethCount r p n).b x i j = d.b x i j := Dev.b_congr x i j (Dev.rd_ethCount_ne _ _ _ _ _ _ _ hp h he ha)

/-- What settling EEE_ON changes of ETH_STAT: the flag itself, and without it the two low-power flags. -/
theorem Dev.eeeSettle_b (d : Dev) (p : Nat) (x : RegFld) (hx : x.reg = ETH_STAT) (h6 : x.lo + x.w ≤ 6 ∨ 9 ≤ x.lo) :
    (d.eeeSettle p).b x p = d.b x p ∧ (d.eeeSettle p).f x p = d.f x p := by
  have e : ∀ (y : RegFld) (v : Bool) (D : Dev), y.reg = ETH_STAT → y.w = 1 → 6 ≤ y.lo → y.lo < 9 →
      (D.setB y v p).b x p = D.b x p ∧ (D.setB y v p).f x p = D.f x p := by
    intro y v D h1 h2 h3 h4
    have hd : x.lo + x.w ≤ y.lo ∨ y.lo + y.w ≤ x.lo := by omega
    exact ⟨Dev.b_setB_at D y x v p 0 p 0 (by omega) (by rw [h1, hx]) (by rw [h1, hx]) hd,
      Dev.f_setB_at D y x v p 0 p 0 (by omega) (by rw [h1, hx]) (by rw [h1, hx]) hd⟩
  have e1 := fun v D => e ETH_STAT_EEE_ON v D rfl rfl (by decide) (by decide)
  have e2 := fun v D => e ETH_STAT_LPI_TX v D rfl rfl (by decide) (by decide)
  have e3 := fun v D => e ETH_STAT_LPI_RX v D rfl rfl (by decide) (by decide)
  unfold Dev.eeeSettle
  dsimp only
  split
  · exact e1 _ _
  · rw [(e3 _ _).1, (e3 _ _).2, (e2 _ _).1, (e2 _ _).2]
    exact e1 _ _

theorem RegsOnly.eeeSettle (d : Dev) (p : Nat) : RegsOnly d (d.eeeSettle p) := by
  unfold Dev.eeeSettle
  dsimp only
  split
  · exact .setB _ _ _ _ _
  · exact ((RegsOnly.setB _ _ _ _ _).trans (.setB _ _ _ _ _)).trans (.setB _ _ _ _ _)

theorem Dev.rd_eeeSettle_ne (d : Dev) (p : Nat) (r : Reg) (i j : Nat) (h : r.addr i j ≠ ETH_STAT.addr p 0) :
    (d.eeeSettle p).rd r i j = d.rd r i j := by
  unfold Dev.eeeSettle
  dsimp only
  split
  · exact Dev.rd_setB_ne _ _ _ _ _ _ _ _ h
  · rw [Dev.rd_setB_ne _ _ _ _ _ _ _ _ h, Dev.rd_setB_ne _ _ _ _ _ _ _ _ h, Dev.rd_setB_ne _ _ _ _ _ _ _ _ h]

/-- EEE_ON afterwards is what its rule says (R262). -/
theorem Dev.eeeSettle_on (d : Dev) (p : Nat) : (d.eeeSettle p).b ETH_STAT_EEE_ON p = d.eeeRule p := by
  unfold Dev.eeeSettle
  dsimp only
  split
  · next h => rw [Dev.b_setB _ _ _ _ _ (by decide) (by decide), h]
  · next h =>
    rw [Dev.b_setB_at _ ETH_STAT_LPI_RX ETH_STAT_EEE_ON _ _ _ _ _ (by decide) rfl rfl (by decide),
      Dev.b_setB_at _ ETH_STAT_LPI_TX ETH_STAT_EEE_ON _ _ _ _ _ (by decide) rfl rfl (by decide), Dev.b_setB _ _ _ _ _ (by decide) (by decide)]

end Sys2Proof.Machine
end

