-- ==== Sys2Proof/Laws/MdBus.lean ====
section
/-!
SUPPORT. Multi-drop bus controllers (chapter 11): reading after a change of the controller's record, of its event status and after a wake.
-/

namespace Sys2Proof.Machine

/-! ### The record of a controller -/

theorem Dev.mbus_congr {d d' : Dev} (h : d'.mb = d.mb) (n : Nat) : d'.mbus n = d.mbus n := by unfold Dev.mbus; rw [h]

theorem Dev.mbus_setMb (d : Dev) (n : Nat) (m : MbSt) : (d.setMb n m).mbus n = m := Tab.look_put _ _ _ _

theorem Dev.mbus_setMb_ne (d : Dev) (n k : Nat) (m : MbSt) (h : k ≠ n) : (d.setMb n m).mbus k = d.mbus k := Tab.look_put_ne _ _ _ _ _ _ h

theorem Dev.mbus_setF (d : Dev) (x : RegFld) (v i j k : Nat) : (d.setF x v i j).mbus k = d.mbus k := (rfl)

theorem Dev.mbus_setB (d : Dev) (x : RegFld) (v : Bool) (i j k : Nat) : (d.setB x v i j).mbus k = d.mbus k := (rfl)

theorem Dev.mbus_wr (d : Dev) (r : Reg) (v : Word) (i j k : Nat) : (d.wr r v i j).mbus k = d.mbus k := (rfl)

theorem Dev.mbus_count (d : Dev) (r : Reg) (i j n k : Nat) : (d.count r i j n).mbus k = d.mbus k := (rfl)

theorem Dev.mbus_answer (d : Dev) (i v : Nat) (e : Bool) (k : Nat) : (d.answer i v e).mbus k = d.mbus k := (rfl)

theorem Dev.mbus_still (d : Dev) (k : Nat) : d.still.mbus k = d.mbus k := (rfl)

/-! ### Its event status -/

theorem mdbSource_lt (b : Nat) : mdbSource b < 256 := by
  unfold mdbSource
  split
  · decide
  · split
    · decide
    · split <;> decide

theorem RegsOnly.mbEv (d : Dev) (n b : Nat) : RegsOnly d (d.mbEv n b) := .evBit _ _ _ _ _ _ (mdbSource_lt b)

theorem Dev.rd_mbEv (d : Dev) (n b : Nat) (r : Reg) (i j : Nat) (h : r.addr i j ≠ MDB_EVSTAT.addr n 0)
    (ha : r.addr i j < 0x40050000 ∨ 0x40060000 ≤ r.addr i j) : (d.mbEv n b).rd r i j = d.rd r i j :=
  Dev.rd_evBit _ _ _ _ _ _ _ _ _ (mdbSource_lt b) h ha

theorem Dev.f_mbEv (d : Dev) (n b : Nat) (x : RegFld) (i j : Nat) (h : x.reg.addr i j ≠ MDB_EVSTAT.addr n 0)
    (ha : x.reg.addr i j < 0x40050000 ∨ 0x40060000 ≤ x.reg.addr i j) : (d.mbEv n b).f x i j = d.f x i j :=
  Dev.f_congr x i j (Dev.rd_mbEv _ _ _ _ _ _ h ha)

theorem Dev.b_mbEv (d : Dev) (n b : Nat) (x : RegFld) (i j : Nat) (h : x.reg.addr i j ≠ MDB_EVSTAT.addr n 0)
    (ha : x.reg.addr i j < 0x40050000 ∨ 0x40060000 ≤ x.reg.addr i j) : (d.mbEv n b).b x i j = d.b x i j :=
  Dev.b_congr x i j (Dev.rd_mbEv _ _ _ _ _ _ h ha)

/-- The event status afterwards: bit `b` set, the others as before. -/
theorem Dev.mbEv_bits (d : Dev) (n b k : Nat) (hb : b < 32) :
    ((d.mbEv n b).rd MDB_EVSTAT n).getLsbD k = ((d.rd MDB_EVSTAT n).getLsbD k || decide (k = b)) :=
  Dev.evBit_bits d ⟨MDB_EVSTAT, b, 1⟩ ⟨MDB_EVEN, b, 1⟩ n _ n k (mdbSource_lt b) rfl hb (Reg.addr_above _ _ (show 0x40060000 ≤ MDB_EVSTAT.base by decide))

theorem Dev.mbus_mbEv (d : Dev) (n b k : Nat) : (d.mbEv n b).mbus k = d.mbus k := Dev.mbus_congr (RegsOnly.mbEv d n b).mb k

theorem Dev.blow_mbEv (d : Dev) (n b : Nat) : (d.mbEv n b).blow = d.blow := (RegsOnly.mbEv d n b).blow

theorem Dev.resp_mbEv (d : Dev) (n b : Nat) : (d.mbEv n b).resp = d.resp := (RegsOnly.mbEv d n b).resp

/-! ### A wake signalled to PWR -/

theorem Dev.wake_is (d : Dev) (c i : Nat) : ∃ w, d.wake c i = { d with wakes := w } := by
  unfold Dev.wake
  split
  · exact ⟨_, rfl⟩
  · exact ⟨_, rfl⟩

theorem Dev.rd_wake (d : Dev) (c i : Nat) (r : Reg) (k j : Nat) : (d.wake c i).rd r k j = d.rd r k j := by
  obtain ⟨w, e⟩ := Dev.wake_is d c i
  rw [e]
  rfl

theorem Dev.f_wake (d : Dev) (c i : Nat) (x : RegFld) (k j : Nat) : (d.wake c i).f x k j = d.f x k j := Dev.f_congr x k j (Dev.rd_wake _ _ _ _ _ _)

theorem Dev.b_wake (d : Dev) (c i : Nat) (x : RegFld) (k j : Nat) : (d.wake c i).b x k j = d.b x k j := Dev.b_congr x k j (Dev.rd_wake _ _ _ _ _ _)

theorem Dev.wake_blow (d : Dev) (c i : Nat) : (d.wake c i).blow = d.blow := by obtain ⟨w, e⟩ := Dev.wake_is d c i; rw [e]

theorem Dev.wake_resp (d : Dev) (c i : Nat) : (d.wake c i).resp = d.resp := by obtain ⟨w, e⟩ := Dev.wake_is d c i; rw [e]

theorem Dev.mbus_wake (d : Dev) (c i k : Nat) : (d.wake c i).mbus k = d.mbus k := by
  obtain ⟨w, e⟩ := Dev.wake_is d c i
  exact Dev.mbus_congr (by rw [e]) k

/-- A frame enters an engine's queue or is dropped: the controllers stay. -/
theorem Dev.mbus_raise (d : Dev) (s i k : Nat) (h : s < 256) : (d.raise s i).mbus k = d.mbus k := Dev.mbus_congr (Dev.raise_mb _ _ _ h) k

end Sys2Proof.Machine
end

