-- ==== Sys2Proof/Laws/Changes.lean ====
section
/-!
SUPPORT. Changes of a few named registers: everything a block's command does not name stays, whatever chain of updates made the change.
-/

namespace Sys2Proof.Machine

/-- From `d` to `d'` no register changes but those at the addresses of `S` and those of the event unit, and nothing of what several blocks
share: memory, engines, frames, commit instances, the clocks. -/
structure Ch (S : List Nat) (d d' : Dev) : Prop where
  rd : ∀ r i j, r.addr i j ∉ S → (r.addr i j < 0x40050000 ∨ 0x40060000 ≤ r.addr i j) → d'.rd r i j = d.rd r i j
  blow : d'.blow = d.blow
  resp : d'.resp = d.resp
  cmt : d'.cmt = d.cmt
  wall : d'.wall = d.wall
  tb : d'.tb = d.tb
  eng : d'.eng = d.eng
  frames : d'.frames = d.frames
  nextFr : d'.nextFr = d.nextFr
  mem : d'.mem = d.mem

namespace Ch

variable {S : List Nat} {d d' d'' : Dev}

theorem refl (S : List Nat) (d : Dev) : Ch S d d := ⟨fun _ _ _ _ _ => rfl, rfl, rfl, rfl, rfl, rfl, rfl, rfl, rfl, rfl⟩

theorem trans (h : Ch S d d') (h' : Ch S d' d'') : Ch S d d'' :=
  ⟨fun r i j k l => (h'.rd r i j k l).trans (h.rd r i j k l), h'.blow.trans h.blow, h'.resp.trans h.resp, h'.cmt.trans h.cmt, h'.wall.trans h.wall,
    h'.tb.trans h.tb, h'.eng.trans h.eng, h'.frames.trans h.frames, h'.nextFr.trans h.nextFr, h'.mem.trans h.mem⟩

theorem mono {T : List Nat} (h : Ch S d d') (hs : ∀ a ∈ S, a ∈ T) : Ch T d d' :=
  { h with rd := fun r i j k l => h.rd r i j (fun q => k (hs _ q)) l }

/-- Registers, the journal's queue and messages alone, away from other addresses. -/
theorem only (h : RegsOnly d d') (k : ∀ r i j, r.addr i j ∉ S → (r.addr i j < 0x40050000 ∨ 0x40060000 ≤ r.addr i j) → d'.rd r i j = d.rd r i j) :
    Ch S d d' := by
  obtain ⟨_, _, _, e⟩ := h
  subst e
  exact ⟨k, rfl, rfl, rfl, rfl, rfl, rfl, rfl, rfl, rfl⟩

/-- Registers as before. -/
theorem same (hr : d'.regs = d.regs) (h : d'.blow = d.blow ∧ d'.resp = d.resp ∧ d'.cmt = d.cmt ∧ d'.wall = d.wall ∧ d'.tb = d.tb ∧ d'.eng = d.eng ∧
    d'.frames = d.frames ∧ d'.nextFr = d.nextFr ∧ d'.mem = d.mem) : Ch S d d' := by
  obtain ⟨h1, h2, h3, h4, h5, h6, h7, h8, h9⟩ := h
  exact ⟨fun r i j _ _ => by unfold Dev.rd; rw [hr], h1, h2, h3, h4, h5, h6, h7, h8, h9⟩

theorem wr (d : Dev) (r : Reg) (v : Word) (i j : Nat) (h : r.addr i j ∈ S) : Ch S d (d.wr r v i j) :=
  .only (.wr _ _ _ _ _) (fun _ _ _ k _ => Dev.rd_wr_ne _ _ _ _ _ _ _ _ (fun e => k (e ▸ h)))

theorem setF (d : Dev) (x : RegFld) (v i j : Nat) (h : x.reg.addr i j ∈ S) : Ch S d (d.setF x v i j) := .wr _ _ _ _ _ h

theorem setB (d : Dev) (x : RegFld) (v : Bool) (i j : Nat) (h : x.reg.addr i j ∈ S) : Ch S d (d.setB x v i j) := .wr _ _ _ _ _ h

theorem count (d : Dev) (r : Reg) (i j n : Nat) (h : r.addr i j ∈ S) : Ch S d (d.count r i j n) := .wr _ _ _ _ _ h

theorem raise (S : List Nat) (d : Dev) (s n : Nat) (h : s < 256) : Ch S d (d.raise s n) :=
  .only (.raise _ _ _ h) (fun _ _ _ _ l => Dev.rd_raise _ _ _ _ _ _ h l)

theorem evBit (d : Dev) (st en : RegFld) (i src n : Nat) (hs : src < 256) (h : st.reg.addr i 0 ∈ S) : Ch S d (d.evBit st en i src n) :=
  .only (.evBit _ _ _ _ _ _ hs) (fun _ _ _ k l => Dev.rd_evBit _ _ _ _ _ _ _ _ _ hs (fun e => k (e ▸ h)) l)

theorem wake (S : List Nat) (d : Dev) (c i : Nat) : Ch S d (d.wake c i) := by
  obtain ⟨w, e⟩ := Dev.wake_is d c i
  rw [e]
  exact .same rfl ⟨rfl, rfl, rfl, rfl, rfl, rfl, rfl, rfl, rfl⟩

theorem setRing (S : List Nat) (d : Dev) (n : Nat) (r : RingSt) : Ch S d (d.setRing n r) := .same rfl ⟨rfl, rfl, rfl, rfl, rfl, rfl, rfl, rfl, rfl⟩
theorem setMb (S : List Nat) (d : Dev) (n : Nat) (m : MbSt) : Ch S d (d.setMb n m) := .same rfl ⟨rfl, rfl, rfl, rfl, rfl, rfl, rfl, rfl, rfl⟩

theorem f (h : Ch S d d') (x : RegFld) (i j : Nat) (k : x.reg.addr i j ∉ S) (l : x.reg.addr i j < 0x40050000 ∨ 0x40060000 ≤ x.reg.addr i j) :
    d'.f x i j = d.f x i j := Dev.f_congr x i j (h.rd _ _ _ k l)
theorem b (h : Ch S d d') (x : RegFld) (i j : Nat) (k : x.reg.addr i j ∉ S) (l : x.reg.addr i j < 0x40050000 ∨ 0x40060000 ≤ x.reg.addr i j) :
    d'.b x i j = d.b x i j := Dev.b_congr x i j (h.rd _ _ _ k l)

end Ch

end Sys2Proof.Machine
end

