-- ==== Sys2Proof/Laws/Commit.lean ====
section
/-!
SUPPORT. What a commit takes into force: every staged register of its instance takes its staged value, and nothing else changes (R23).
-/

namespace Sys2Proof.Machine

/-- Applying one staged register touches the registers in force only. -/
theorem Dev.applyReg_eq (d src : Dev) (held : Bool) (a : Nat) : ∃ x, d.applyReg src held a = { d with regs := x } := by
  unfold Dev.applyReg
  split
  · exact ⟨_, rfl⟩
  · exact ⟨d.regs, rfl⟩

/-- So does applying several. -/
theorem Dev.applyRegs_eq (src : Dev) (held : Bool) (l : List Nat) :
    ∀ d : Dev, ∃ x, l.foldl (fun d a => d.applyReg src held a) d = { d with regs := x } := by
  induction l with
  | nil => exact fun d => ⟨d.regs, rfl⟩
  | cons a l ih =>
    intro d
    obtain ⟨x, hx⟩ := d.applyReg_eq src held a
    obtain ⟨y, hy⟩ := ih (d.applyReg src held a)
    exact ⟨y, by rw [List.foldl_cons, hy, hx]⟩

/-- What a register reads after one staged register is applied. -/
theorem Dev.applyReg_rd (d src : Dev) (held : Bool) (a : Nat) (r : Reg) (i j : Nat) (hf : findReg (r.addr i j) = some (r, i, j))
    (hs : ∀ r' i' j', findReg a = some (r', i', j') → r'.addr i' j' = a) :
    (d.applyReg src held a).rd r i j = if a = r.addr i j then
      commitFix a (if held then src.toCommit r i j a else src.stgAt r i j a) else d.rd r i j := by
  unfold Dev.applyReg
  by_cases h : a = r.addr i j
  · subst h
    rw [hf, if_pos rfl]
    dsimp only
    rw [Dev.rd_wr]
  · rw [if_neg h]
    split
    · next r' i' j' e => exact Dev.rd_wr_ne _ _ _ _ _ _ _ _ (by rw [hs r' i' j' e]; exact fun e => h e.symm)
    · rfl

/-- What a register reads after several staged registers are applied. -/
theorem Dev.applyRegs_rd (src : Dev) (held : Bool) (r : Reg) (i j : Nat) (hf : findReg (r.addr i j) = some (r, i, j))
    (l : List Nat) (hs : ∀ a r' i' j', findReg a = some (r', i', j') → r'.addr i' j' = a) : ∀ d : Dev,
    (l.foldl (fun d a => d.applyReg src held a) d).rd r i j = if r.addr i j ∈ l then
      commitFix (r.addr i j) (if held then src.toCommit r i j (r.addr i j) else src.stgAt r i j (r.addr i j)) else d.rd r i j := by
  induction l with
  | nil => exact fun d => rfl
  | cons a l ih =>
    intro d
    rw [List.foldl_cons, ih, d.applyReg_rd src held a r i j hf (hs a)]
    by_cases h : a = r.addr i j
    · subst h; simp
    · by_cases h' : r.addr i j ∈ l
      · simp [h']
      · have : ¬r.addr i j = a := fun e => h e.symm
        simp [h, h', this]

/-! ### A register's address finds the register -/

/-- The instance found stands at the address. -/
theorem Reg.hit_addr (r : Reg) (a i j : Nat) (h : r.hit a = some (i, j)) : r.addr i j = a := by
  unfold Reg.hit at h
  dsimp only at h
  generalize hx : (if r.n1 ≤ 1 then 0 else (a - r.base) / r.s1) = x at h
  generalize (if r.n2 ≤ 1 then 0 else (a - r.base - x * r.s1) / r.s2) = y at h
  have h2 : x * r.s1 ≤ a - r.base := by
    rw [← hx]
    split
    · omega
    · exact Nat.div_mul_le_self _ _
  by_cases hb : a < r.base
  · rw [if_pos hb] at h
    cases h
  · rw [if_neg hb] at h
    by_cases hc : (decide (a - r.base - x * r.s1 = y * r.s2) && decide (x < r.n1) && decide (y < r.n2)) = true
    · rw [if_pos hc] at h
      simp only [Option.some.injEq, Prod.mk.injEq] at h
      simp only [Bool.and_eq_true, decide_eq_true_eq] at hc
      unfold Reg.addr
      rw [← h.1, ← h.2]
      omega
    · rw [if_neg hc] at h
      cases h

/-- So does the register found in a list. -/
theorem findIn_addr (a : Nat) (l : List Reg) (r : Reg) (i j : Nat) (h : findIn a l = some (r, i, j)) : r.addr i j = a := by
  induction l with
  | nil => cases h
  | cons x l ih =>
    unfold findIn at h
    split at h
    · next i' j' e =>
      simp only [Option.some.injEq, Prod.mk.injEq] at h
      obtain ⟨rfl, rfl, rfl⟩ := h
      exact Reg.hit_addr _ _ _ _ e
    · exact ih h

/-- The register found at an address stands there. -/
theorem findReg_addr (a : Nat) (r : Reg) (i j : Nat) (h : findReg a = some (r, i, j)) : r.addr i j = a := by
  unfold findReg at h
  split at h
  · cases h
  · split at h
    · exact findIn_addr _ _ _ _ _ h
    · cases h

/-! ### A commit -/

/-- A key that no entry has reads as the default. -/
theorem Tab.look_absent {α : Type} (t : Tab α) (d : α) (k : Nat) (h : k ∉ t.map (·.1)) : Tab.look t d k = d := by
  induction t with
  | nil => rfl
  | cons e t ih =>
    simp only [List.map_cons, List.mem_cons, not_or] at h
    obtain ⟨k', v⟩ := e
    simp only [Tab.look]
    rw [if_neg (fun e => h.1 e.symm)]
    exact ih h.2

/-- The reset value of a staged register is one that a commit takes as it is. -/
theorem commitFix_rst (r : Reg) (i j : Nat) (h : findReg (r.addr i j) = some (r, i, j)) :
    commitFix (r.addr i j) (r.rst i j) = r.rst i j := by
  unfold commitFix
  by_cases e : r.addr i j = SYS_SCYC_PER.base
  · rw [e] at h
    have h' : findReg SYS_SCYC_PER.base = some (SYS_SCYC_PER, 0, 0) := rfl
    rw [h'] at h
    simp only [Option.some.injEq, Prod.mk.injEq] at h
    obtain ⟨rfl, rfl, rfl⟩ := h
    decide
  · rw [if_neg (fun x => e x.1)]

/-- After a commit of instance `k` every staged register of it has the value committed, and every other register the value it had
(R23, R28). -/
theorem Dev.takeForce_rd (d : Dev) (k : Nat) (held : Bool) (r : Reg) (i j : Nat) (hf : findReg (r.addr i j) = some (r, i, j)) :
    (d.takeForce k held).rd r i j = if r.staged = true ∧ r.instOf i = some k then
      commitFix (r.addr i j) (if held then d.toCommit r i j (r.addr i j) else d.stgAt r i j (r.addr i j)) else d.rd r i j := by
  unfold Dev.takeForce
  dsimp only
  rw [Dev.applyRegs_rd d held r i j hf _ findReg_addr]
  have ha : instAddr k (r.addr i j) = true ↔ (r.staged = true ∧ r.instOf i = some k) := by
    unfold instAddr
    rw [hf]
    simp
  by_cases hi : instAddr k (r.addr i j) = true
  · rw [if_pos (ha.mp hi)]
    by_cases hm : r.addr i j ∈ d.stg.map (·.1) ++ d.regs.map (·.1) ++ d.hist.map (·.addr)
    · rw [if_pos (List.mem_filter.mpr ⟨hm, hi⟩)]
    · rw [if_neg (fun x => hm (List.mem_filter.mp x).1)]
      simp only [List.mem_append, not_or] at hm
      have h1 : d.rd r i j = r.rst i j := Tab.look_absent _ _ _ hm.1.2
      have h2 : d.stgAt r i j (r.addr i j) = r.rst i j := Tab.look_absent _ _ _ hm.1.1
      have h3 : d.toCommit r i j (r.addr i j) = r.rst i j := by
        unfold Dev.toCommit
        split
        · next h e =>
          have := List.find?_some e
          simp only [Bool.and_eq_true, beq_iff_eq] at this
          exact absurd (List.mem_map.mpr ⟨h, List.mem_of_find?_eq_some e, this.1⟩) hm.2
        · exact h2
      rw [h1, h2, h3, ite_self, commitFix_rst r i j hf]
  · rw [if_neg (fun x => hi (ha.mpr x)), if_neg (fun x => hi (List.mem_filter.mp x).2)]

/-- A commit touches the registers in force only. -/
theorem Dev.takeForce_eq (d : Dev) (k : Nat) (held : Bool) : ∃ x, d.takeForce k held = { d with regs := x } :=
  Dev.applyRegs_eq _ _ _ _

/-- A register that no commit of instance `k` names keeps its value. -/
theorem Dev.takeForce_keeps (d : Dev) (k : Nat) (held : Bool) (r : Reg) (i j : Nat) (h : instAddr k (r.addr i j) = false) :
    (d.takeForce k held).rd r i j = d.rd r i j := by
  have key : ∀ (l : List Nat) (D : Dev), (∀ a ∈ l, a ≠ r.addr i j) → (l.foldl (fun x a => x.applyReg d held a) D).rd r i j = D.rd r i j := by
    intro l
    induction l with
    | nil => exact fun _ _ => rfl
    | cons a l ih =>
      intro D ha
      rw [List.foldl_cons, ih _ (fun b hb => ha b (List.mem_cons_of_mem _ hb))]
      unfold Dev.applyReg
      split
      · next r' i' j' hf =>
        have := findReg_addr _ _ _ _ hf
        exact Dev.rd_wr_ne _ _ _ _ _ _ _ _ (by rw [this]; exact (ha a (List.mem_cons_self ..)).symm)
      · rfl
  unfold Dev.takeForce
  refine key _ _ (fun a ha e => ?_)
  have := (List.mem_filter.mp ha).2
  rw [e, h] at this
  cases this

end Sys2Proof.Machine
end

