-- ==== Sys2Proof/Laws/Frame.lean ====
section
/-!
SUPPORT. Changes that stay within some registers and the part's clocks: what a step of the time base can touch.
-/

namespace Sys2Proof.Machine

/-- Everything but the registers, the journal queue, the messages sent, the commit instances, the rings and the clocks. -/
def Dev.core (d : Dev) : Dev := { d with regs := [], jq := [], msix := [], cmt := [], rings := [], tm := {}, tb := 0 }

/-- `d'` differs from `d` at most outside `core` and in registers at addresses of `P`. -/
def Within (P : Nat → Prop) (d d' : Dev) : Prop :=
  d'.core = d.core ∧ ∀ (x : Word) (a : Nat), ¬P a → Tab.look d'.regs x a = Tab.look d.regs x a

/-- Nothing changed. -/
theorem Within.refl (P : Nat → Prop) (d : Dev) : Within P d d := ⟨rfl, fun _ _ _ => rfl⟩

/-- One such change after another. -/
theorem Within.trans {P : Nat → Prop} {d d' d'' : Dev} (h : Within P d d') (h' : Within P d' d'') : Within P d d'' :=
  ⟨h'.1.trans h.1, fun x a ha => (h'.2 x a ha).trans (h.2 x a ha)⟩

/-- Memory stays. -/
theorem Within.mem {P : Nat → Prop} {d d' : Dev} (h : Within P d d') : d'.mem = d.mem := (congrArg Dev.mem h.1 : d'.core.mem = d.core.mem)
/-- The engines stay. -/
theorem Within.eng {P : Nat → Prop} {d d' : Dev} (h : Within P d d') : d'.eng = d.eng := (congrArg Dev.eng h.1 : d'.core.eng = d.core.eng)
/-- No fuse is programmed. -/
theorem Within.blow {P : Nat → Prop} {d d' : Dev} (h : Within P d d') : d'.blow = d.blow := (congrArg Dev.blow h.1 : d'.core.blow = d.core.blow)
/-- No answer is given. -/
theorem Within.resp {P : Nat → Prop} {d d' : Dev} (h : Within P d d') : d'.resp = d.resp := (congrArg Dev.resp h.1 : d'.core.resp = d.core.resp)
/-- The frames stay. -/
theorem Within.frames {P : Nat → Prop} {d d' : Dev} (h : Within P d d') : d'.frames = d.frames := (congrArg Dev.frames h.1 : d'.core.frames = d.core.frames)
/-- The mailboxes stay. -/
theorem Within.mbx {P : Nat → Prop} {d d' : Dev} (h : Within P d d') : d'.mbx = d.mbx := (congrArg Dev.mbx h.1 : d'.core.mbx = d.core.mbx)
/-- The journal stays. -/
theorem Within.jrn {P : Nat → Prop} {d d' : Dev} (h : Within P d d') : d'.jrn = d.jrn := (congrArg Dev.jrn h.1 : d'.core.jrn = d.core.jrn)
/-- A register outside the addresses stays. -/
theorem Within.rd {P : Nat → Prop} {d d' : Dev} (h : Within P d d') (r : Reg) (i j : Nat) (ha : ¬P (r.addr i j)) :
    d'.rd r i j = d.rd r i j := h.2 _ _ ha

/-- A register written. -/
theorem Within.wr {P : Nat → Prop} (d : Dev) (r : Reg) (v : Word) (i j : Nat) (h : P (r.addr i j)) : Within P d (d.wr r v i j) :=
  ⟨rfl, fun _ _ ha => Tab.look_put_ne _ _ _ _ _ _ (fun e => ha (e ▸ h))⟩

/-- A field written. -/
theorem Within.setF {P : Nat → Prop} (d : Dev) (x : RegFld) (v i j : Nat) (h : P (x.reg.addr i j)) : Within P d (d.setF x v i j) :=
  .wr _ _ _ _ _ h

/-- An event raised. -/
theorem Within.raise {P : Nat → Prop} (d : Dev) (s i : Nat) (hs : s < 256) (h : ∀ a, 0x40050000 ≤ a → a < 0x40060000 → P a) :
    Within P d (d.raise s i) := by
  obtain ⟨r, q, m, e, hr⟩ := EvtOnly.raise d s i hs
  rw [e]
  refine ⟨rfl, fun x a ha => hr x a ?_⟩
  by_cases c : a < 0x40050000 ∨ 0x40060000 ≤ a
  · exact c
  · exact absurd (h a (by omega) (by omega)) ha

/-- A commit instance replaced. -/
theorem Within.setInst (P : Nat → Prop) (d : Dev) (k : Nat) (c : CmtInst) : Within P d (d.setInst k c) := ⟨rfl, fun _ _ _ => rfl⟩

/-- A fold of such changes. -/
theorem Within.foldl {P : Nat → Prop} {β : Type} (f : Dev → β → Dev) (l : List β) (hf : ∀ d, ∀ x ∈ l, Within P d (f d x)) (d : Dev) :
    Within P d (l.foldl f d) := by
  induction l generalizing d with
  | nil => exact .refl P d
  | cons x l ih => exact (hf d x (by simp)).trans (ih (fun d y hy => hf d y (by simp [hy])) _)

/-! ### A step of the time base -/

/-- The registers that rings and targets write after a step of the time base: TIME_TGTCTL, and those of BRG and EVT. -/
def ringArea (a : Nat) : Prop :=
  (0x40050000 ≤ a ∧ a < 0x40060000) ∨ a = 0x40400320 ∨ (0x40680000 ≤ a ∧ a < 0x40688000)

/-- The registers a step of the time base can write: TIME_STAT besides. -/
def timeArea (a : Nat) : Prop :=
  (0x40050000 ≤ a ∧ a < 0x40060000) ∨ (a = 0x40400004 ∨ a = 0x40400320) ∨ (0x40680000 ≤ a ∧ a < 0x40688000)

/-- The one area lies in the other. -/
theorem ringArea_time (a : Nat) (h : ringArea a) : timeArea a := by
  unfold ringArea at h
  unfold timeArea
  omega

/-- An event stays in them. -/
theorem timeArea_evt (a : Nat) (h : 0x40050000 ≤ a) (h' : a < 0x40060000) : timeArea a := .inl ⟨h, h'⟩
theorem ringArea_evt (a : Nat) (h : 0x40050000 ≤ a) (h' : a < 0x40060000) : ringArea a := .inl ⟨h, h'⟩

/-- A change within an area is one within a larger area. -/
theorem Within.mono {P Q : Nat → Prop} {d d' : Dev} (h : Within P d d') (hpq : ∀ a, P a → Q a) : Within Q d d' :=
  ⟨h.1, fun x a ha => h.2 x a (fun hp => ha (hpq a hp))⟩

/-- A latched event bit of a ring. -/
theorem Within.brgEv (d : Dev) (n b : Nat) (h : n < 8) : Within ringArea d (d.brgEv n b) := by
  unfold Dev.brgEv Dev.evBit
  dsimp only
  split
  · exact .refl _ _
  · have h1 : Within ringArea d (d.setB ⟨BRG_EVSTAT, b, 1⟩ true n) :=
      .setF d ⟨BRG_EVSTAT, b, 1⟩ true.toNat n 0 (by simp only [ringArea, Reg.addr, BRG_EVSTAT]; omega)
    have h2 : (if b ≤ 3 then 96 else if b ≤ 6 then 97 else 98) < 256 := by
      split
      · omega
      · split <;> omega
    split
    · exact h1.trans (.raise _ _ _ h2 ringArea_evt)
    · exact h1

/-- A change of a ring's state. -/
theorem Within.brgState (d : Dev) (n s : Nat) (h : n < 8) : Within ringArea d (d.brgState n s) := by
  have h0 : ∀ (d : Dev) (x : RegFld) (v : Nat), x.reg = BRG_STAT → Within ringArea d (d.setF x v n) := fun d x v e =>
    .setF d x v n 0 (by rw [e]; simp only [ringArea, Reg.addr, BRG_STAT]; omega)
  unfold Dev.brgState
  split
  · exact .refl _ _
  · have h1 := (h0 d BRG_STAT_STATE s rfl).trans (.brgEv _ n 0 h)
    dsimp only
    generalize (d.setF BRG_STAT_STATE s n).brgEv n 0 = d1 at h1 ⊢
    have h2 : Within ringArea d (if s = 4 then d1.setF BRG_STAT_COLL 0 n else d1) := by
      split
      · exact h1.trans (h0 _ _ _ rfl)
      · exact h1
    generalize (if s = 4 then d1.setF BRG_STAT_COLL 0 n else d1) = d2 at h2 ⊢
    split
    · exact h2.trans ⟨rfl, fun _ _ _ => rfl⟩
    · exact h2

/-- A ring that absorbs a step. -/
theorem Within.ringAbsorb (d : Dev) (n : Nat) (x : Int) (h : n < 8) : Within ringArea d (d.ringAbsorb n x) := by
  have h0 : ∀ (d : Dev) (v : Word), Within ringArea d (d.wr BRG_CORR v n) := fun d v =>
    .wr d _ v n 0 (by simp only [ringArea, Reg.addr, BRG_CORR]; omega)
  unfold Dev.ringAbsorb
  split
  · exact .refl _ _
  · dsimp only
    split
    · exact h0 _ _
    · have h1 : Within ringArea d ((d.wr BRG_CORR 0 n).count BRG_CNT_SYNCLOST n) :=
        (h0 d 0).trans (.wr _ BRG_CNT_SYNCLOST _ n 0 (by simp only [ringArea, Reg.addr, BRG_CNT_SYNCLOST]; omega))
      split
      · exact h1.trans (.brgEv _ _ _ h)
      · exact h1.trans (.brgState _ _ _ h)

/-- Target times that fire. -/
theorem Within.fireTargets (d : Dev) : Within ringArea d d.fireTargets := by
  unfold Dev.fireTargets
  refine Within.foldl _ _ (fun d k _ => ?_) d
  unfold Dev.fireTarget
  split
  · exact (Within.wr d TIME_TGTCTL _ 0 0 (.inr (.inl rfl))).trans (.raise _ 85 0 (by omega) ringArea_evt)
  · exact .refl _ _

/-- Every schedule based anew. -/
theorem Within.rebase (d : Dev) : Within ringArea d d.rebase := by
  unfold Dev.rebase
  exact Within.foldl _ _ (fun d k _ => .setInst _ d k _) d

/-- What follows a step of the time base by `x`. -/
theorem Within.afterStep (d : Dev) (x : Int) :
    Within timeArea d (((List.range 8).foldl (fun d n => d.ringAbsorb n x) ((d.setB TIME_STAT_STEPPED true).raise 84).rebase)).fireTargets := by
  have h2 := (Within.setF d TIME_STAT_STEPPED true.toNat 0 0 (.inr (.inl (by decide)))).trans (.raise _ 84 0 (by omega) timeArea_evt)
  exact h2.trans (Within.mono (((Within.rebase _).trans (Within.foldl _ _ (fun d n hn => .ringAbsorb d n _ (List.mem_range.mp hn)) _)).trans
    (.fireTargets _)) ringArea_time)

/-- A step of the time base (R319, R340, R342, R376). -/
theorem Within.timeStep (d : Dev) (v : Nat) : Within timeArea d (d.timeStep v) := by
  unfold Dev.timeStep
  generalize v % (tbUnit * 2 ^ 64) = w
  exact Within.trans ⟨rfl, fun _ _ _ => rfl⟩ (Within.afterStep ({ d with tb := w } : Dev) _)

/-- SYNC brought up to date. -/
theorem Within.syncSettle (d : Dev) : Within timeArea d d.syncSettle := by
  unfold Dev.syncSettle
  dsimp only
  split
  · exact .refl _ _
  · exact (Within.setF d TIME_STAT_SYNC _ 0 0 (.inr (.inl (by decide)))).trans (.raise _ 84 0 (by omega) timeArea_evt)

/-- A state of the time base entered. -/
theorem Within.timeState (d : Dev) (s : Nat) : Within timeArea d (d.timeState s) := by
  unfold Dev.timeState
  split
  · exact .syncSettle _
  · have h1 : Within timeArea d (if s = 3 then { d with tm := { d.tm with holdAt := d.wall } } else d) := by
      split
      · exact ⟨rfl, fun _ _ _ => rfl⟩
      · exact .refl _ _
    dsimp only
    exact ((h1.trans (.setF _ TIME_STAT_STATE s 0 0 (.inr (.inl (by decide))))).trans
      (.raise _ 84 0 (by omega) timeArea_evt)).trans (.syncSettle _)

/-- The time base loaded from the real-time clock. -/
theorem Within.loadRtc (d : Dev) : Within timeArea d d.loadRtc := by
  unfold Dev.loadRtc
  dsimp only
  have h1 := (Within.timeStep d (d.rtcNow * tbUnit)).trans (.timeState _ 0)
  generalize (d.timeStep (d.rtcNow * tbUnit)).timeState 0 = d1 at h1 ⊢
  have h2 : Within timeArea d1 { d1 with tm := { d1.tm with dc0 := { val := d1.tb }, dc1 := { val := d1.tb } } } :=
    ⟨rfl, fun _ _ _ => rfl⟩
  exact (h1.trans h2).trans (.setF _ TIME_STAT_RTCLOAD _ 0 0 (.inr (.inl (by decide))))

end Sys2Proof.Machine
end

