-- ==== Sys2Proof/Laws/Resets.lean ====
section
/-!
SUPPORT. The wide resets: which registers stay, what the start of the boot ROM and the load of the time base leave as it was.
-/

namespace Sys2Proof.Machine

/-- What the start of the boot ROM sets, and that it touches registers of SEC and BOOT only. -/
theorem Dev.bootStart_rest (d : Dev) (o : Otp) (sel : BitVec 2) : 
   ∃ b x, d.bootStart o sel = { d with regs := x, boot := b } ∧ b.released = d.boot.released ∧
   (∀ r i j, (r.addr i j < 0x40030000 ∨ 0x40040000 ≤ r.addr i j) → (d.bootStart o sel).rd r i j = d.rd r i j) ∧
   (d.bootStart o sel).f BOOT_STAT_BOOTSEL = sel.toNat := by
  unfold Dev.bootStart
  dsimp only
  generalize lmsWord _ = z
  generalize (decide (sel = 3) && decide (o.lifecycle = 2)) = rej
  refine ⟨_, _, rfl, rfl, fun r i j h => ?_, ?_⟩
  · show (((((d.wr BOOT_ARB o.arb).wr SEC_LMS_STAT z).setF BOOT_STAT_BOOTSEL sel.toNat).setB BOOT_STAT_SELREJ rej)).rd r i j = _
    unfold Dev.setB
    rw [Dev.rd_setF_ne _ _ _ _ _ _ _ _ (by intro e; rw [e] at h; revert h; decide), Dev.rd_setF_ne _ _ _ _ _ _ _ _ (by intro e; rw [e] at h; revert h; decide), Dev.rd_wr_ne _ _ _ _ _ _ _ _ (by intro e; rw [e] at h; revert h; decide), Dev.rd_wr_ne _ _ _ _ _ _ _ _ (by intro e; rw [e] at h; revert h; decide)]
  · show (((((d.wr BOOT_ARB o.arb).wr SEC_LMS_STAT z).setF BOOT_STAT_BOOTSEL sel.toNat).setB BOOT_STAT_SELREJ rej)).f BOOT_STAT_BOOTSEL = _
    unfold Dev.setB
    rw [Dev.f_setF_other _ BOOT_STAT_SELREJ BOOT_STAT_BOOTSEL _ 0 0 (by decide) rfl (by decide), Dev.f_setF _ BOOT_STAT_BOOTSEL _ 0 0 (by decide)]
    exact Nat.mod_eq_of_lt sel.isLt

/-- A key whose entries all stay reads as before. -/
theorem Tab.look_filter {α : Type} (t : Tab α) (d : α) (k : Nat) (p : Nat × α → Bool) (h : ∀ v, p (k, v) = true) : Tab.look (t.filter p) d k = Tab.look t d k := by
  induction t with
  | nil => rfl
  | cons e t ih =>
    obtain ⟨k', v⟩ := e
    by_cases hk : k' = k
    · subst hk; rw [List.filter_cons_of_pos (h v)]; simp [Tab.look]
    · by_cases hp : p (k', v) = true
      · rw [List.filter_cons_of_pos hp]; simp only [Tab.look]; rw [if_neg hk, if_neg hk, ih]
      · rw [List.filter_cons_of_neg hp]; simp only [Tab.look]; rw [if_neg hk, ih]

/-- A key whose entries all go reads as the default. -/
theorem Tab.look_filter_none {α : Type} (t : Tab α) (d : α) (k : Nat) (p : Nat × α → Bool) (h : ∀ v, p (k, v) = false) : Tab.look (t.filter p) d k = d := by
  apply Tab.look_absent
  intro hm
  obtain ⟨e, he, hk⟩ := List.mem_map.mp hm
  have := (List.mem_filter.mp he).2
  obtain ⟨k', v⟩ := e
  simp only at hk
  subst hk
  rw [h] at this; cases this

/-- A register read depends on the registers alone. -/
theorem Dev.rd_congr {d d' : Dev} (h : d'.regs = d.regs) (r : Reg) (i j : Nat) : d'.rd r i j = d.rd r i j := by
  unfold Dev.rd; rw [h]
/-- The register at an address is one that `keep` names. -/
def keptAt (keep : Reg → Bool) (a : Nat) : Bool := match findReg a with | some (r,_,_) => keep r | none => false
/-- A register kept through a wide reset. -/
theorem Dev.afterReset_keep (d : Dev) (keep : Reg → Bool) (r : Reg) (i j : Nat) (h : keptAt keep (r.addr i j) = true) : (d.afterReset keep).rd r i j = d.rd r i j := by
  unfold Dev.rd Dev.afterReset
  exact Tab.look_filter _ _ _ _ (fun v => h)
/-- A register a wide reset clears. -/
theorem Dev.afterReset_drop (d : Dev) (keep : Reg → Bool) (r : Reg) (i j : Nat) (h : keptAt keep (r.addr i j) = false) : (d.afterReset keep).rd r i j = r.rst i j := by
  unfold Dev.rd Dev.afterReset
  exact Tab.look_filter_none _ _ _ _ (fun v => h)
/-- What the start of the boot ROM and the load from the real-time clock leave as it was. -/
theorem Dev.load_after (D : Dev) (o : Otp) (sel : BitVec 2) : let t := (D.bootStart o sel).loadRtc
   t.eng = D.eng ∧ t.mbx = D.mbx ∧ t.frames = D.frames ∧ t.swc = D.swc ∧ t.boot.released = D.boot.released ∧ t.f BOOT_STAT_BOOTSEL = sel.toNat ∧ t.mem = D.mem ∧ t.jrn = D.jrn ∧ t.power = D.power ∧ t.blow = D.blow ∧ 
   (∀ r i j, (r.addr i j < 0x40030000 ∨ 0x40040000 ≤ r.addr i j) → (r.addr i j < 0x40050000 ∨ 0x40060000 ≤ r.addr i j) → (r.addr i j < 0x40400000) → t.rd r i j = D.rd r i j) := by
  obtain ⟨b, x, e, hb, hr, hf⟩ := Dev.bootStart_rest D o sel
  have hW := Within.loadRtc (D.bootStart o sel)
  dsimp only
  generalize hB : D.bootStart o sel = B at *
  generalize B.loadRtc = t at *
  have hc := hW.1
  have e' : B.core = ({ D with boot := b} : Dev).core := by rw [e]; rfl
  rw [e'] at hc
  refine ⟨(congrArg Dev.eng hc : t.core.eng = _), (congrArg Dev.mbx hc : t.core.mbx = _), (congrArg Dev.frames hc : t.core.frames = _), (congrArg Dev.swc hc : t.core.swc = _), ?_, ?_, (congrArg Dev.mem hc : t.core.mem = _), (congrArg Dev.jrn hc : t.core.jrn = _), (congrArg Dev.power hc : t.core.power = _), (congrArg Dev.blow hc : t.core.blow = _), fun r i j h1 h2 h3 => ?_⟩
  · exact (congrArg (fun d => d.boot.released) hc : t.core.boot.released = _).trans hb
  · unfold Dev.f at hf ⊢
    rw [hW.rd BOOT_STAT_BOOTSEL.reg 0 0 (by unfold timeArea; decide)]; exact hf
  · rw [hW.rd r i j (by unfold timeArea; omega)]
    exact hr r i j h1

end Sys2Proof.Machine
end

