-- ==== Sys2Proof/Laws/Serial.lean ====
section
/-!
SUPPORT. Serial lanes (chapter 13): reading after a change of the lane's record and of its event status.
-/

namespace Sys2Proof.Machine

/-! ### The record of a lane -/

theorem Dev.sln_congr {d d' : Dev} (h : d'.sl = d.sl) (n : Nat) : d'.sln n = d.sln n := by unfold Dev.sln; rw [h]

theorem Dev.sln_setSl (d : Dev) (n : Nat) (x : SlSt) : (d.setSl n x).sln n = x := Tab.look_put _ _ _ _

theorem Dev.sln_setF (d : Dev) (x : RegFld) (v i j k : Nat) : (d.setF x v i j).sln k = d.sln k := (rfl)

theorem Dev.sln_setB (d : Dev) (x : RegFld) (v : Bool) (i j k : Nat) : (d.setB x v i j).sln k = d.sln k := (rfl)

theorem Dev.sln_wr (d : Dev) (r : Reg) (v : Word) (i j k : Nat) : (d.wr r v i j).sln k = d.sln k := (rfl)

theorem Dev.sln_count (d : Dev) (r : Reg) (i j n k : Nat) : (d.count r i j n).sln k = d.sln k := (rfl)

theorem Dev.sln_answer (d : Dev) (i v : Nat) (e : Bool) (k : Nat) : (d.answer i v e).sln k = d.sln k := (rfl)

theorem Dev.sln_still (d : Dev) (k : Nat) : d.still.sln k = d.sln k := (rfl)

theorem Dev.sln_wake (d : Dev) (c i k : Nat) : (d.wake c i).sln k = d.sln k := by
  obtain ⟨w, e⟩ := Dev.wake_is d c i
  exact Dev.sln_congr (by rw [e]) k

theorem Ch.setSl (S : List Nat) (d : Dev) (n : Nat) (x : SlSt) : Ch S d (d.setSl n x) := .same rfl ⟨rfl, rfl, rfl, rfl, rfl, rfl, rfl, rfl, rfl⟩

/-! ### Its event status -/

theorem slSource_lt (b : Nat) : (if b ≤ 6 then 92 else 93) < 256 := by split <;> decide

theorem RegsOnly.slEv (d : Dev) (n b : Nat) : RegsOnly d (d.slEv n b) := .evBit _ _ _ _ _ _ (slSource_lt b)

theorem Ch.slEv {S : List Nat} (d : Dev) (n b : Nat) (h : SLN_EVSTAT.addr n 0 ∈ S) : Ch S d (d.slEv n b) := .evBit _ _ _ _ _ _ (slSource_lt b) h

theorem Dev.rd_slEv (d : Dev) (n b : Nat) (r : Reg) (i j : Nat) (h : r.addr i j ≠ SLN_EVSTAT.addr n 0)
    (ha : r.addr i j < 0x40050000 ∨ 0x40060000 ≤ r.addr i j) : (d.slEv n b).rd r i j = d.rd r i j :=
  Dev.rd_evBit _ _ _ _ _ _ _ _ _ (slSource_lt b) h ha

theorem Dev.f_slEv (d : Dev) (n b : Nat) (x : RegFld) (i j : Nat) (h : x.reg.addr i j ≠ SLN_EVSTAT.addr n 0)
    (ha : x.reg.addr i j < 0x40050000 ∨ 0x40060000 ≤ x.reg.addr i j) : (d.slEv n b).f x i j = d.f x i j :=
  Dev.f_congr x i j (Dev.rd_slEv _ _ _ _ _ _ h ha)

theorem Dev.b_slEv (d : Dev) (n b : Nat) (x : RegFld) (i j : Nat) (h : x.reg.addr i j ≠ SLN_EVSTAT.addr n 0)
    (ha : x.reg.addr i j < 0x40050000 ∨ 0x40060000 ≤ x.reg.addr i j) : (d.slEv n b).b x i j = d.b x i j :=
  Dev.b_congr x i j (Dev.rd_slEv _ _ _ _ _ _ h ha)

/-- The event status afterwards: bit `b` set, the others as before. -/
theorem Dev.slEv_bits (d : Dev) (n b k : Nat) (hb : b < 32) :
    ((d.slEv n b).rd SLN_EVSTAT n).getLsbD k = ((d.rd SLN_EVSTAT n).getLsbD k || decide (k = b)) :=
  Dev.evBit_bits d ⟨SLN_EVSTAT, b, 1⟩ ⟨SLN_EVEN, b, 1⟩ n _ n k (slSource_lt b) rfl hb
    (Reg.addr_above _ _ (show 0x40060000 ≤ SLN_EVSTAT.base by decide))

theorem Dev.sln_slEv (d : Dev) (n b k : Nat) : (d.slEv n b).sln k = d.sln k := by
  obtain ⟨r, q, m, e⟩ := RegsOnly.slEv d n b
  rw [e]
  rfl

theorem Dev.blow_slEv (d : Dev) (n b : Nat) : (d.slEv n b).blow = d.blow := (RegsOnly.slEv d n b).blow

theorem Dev.resp_slEv (d : Dev) (n b : Nat) : (d.slEv n b).resp = d.resp := (RegsOnly.slEv d n b).resp

end Sys2Proof.Machine
end

