-- ==== Sys2Proof/Tests/Slice0.lean ====
section
/-!
SUPPORT. The model's own tests: ill-formed terms that the check refuses, for each statement a state and operands that meet its premises
together (of a statement with several clauses, for each kind of them), and the effect of single commands as the spec's text and tables
give it.
-/

namespace Sys2Proof.Tests

open Sys2Proof Sys2Proof.Machine

set_option Elab.async false

/-- A part with device state `d`, unprogrammed fuses and an empty queue. -/
def part (d : Dev) : State := { State.reset with dev := d }

/-- The device state after reset. -/
def D : Dev := State.reset.dev

/-- After reset but for engine `n`. -/
def withEng (n : Nat) (g : Eng) : Dev := { D with eng := [(n, g)] }

/-- After reset with time base and wall time at `n` ns. -/
def atNs (n : Nat) : Dev := { D with tb := n * tbUnit, wall := n * 20 }

/-! ### Well-formed commands -/

/-- Ill-formed: two requests of one master in one cycle; a write wider than its width. -/
theorem wf_systemAccess : Instr.wf (.systemAccess [⟨.sv0, 0, .b4, none⟩, ⟨.sv0, 8, .b4, none⟩]) = false ∧
    Instr.wf (.systemAccess [⟨.sv0, 0, .b1, some 0x100⟩]) = false ∧
    Instr.wf (.systemAccess [⟨.sv0, 0, .b1, some 0xFF⟩, ⟨.sv1, 8, .b4, none⟩]) = true := by decide

/-- Ill-formed: host memory that names an address twice. -/
theorem wf_pcie : Instr.wf (.dmaBeat 0 (some [(8, 1), (8, 2)])) = false ∧ Instr.wf (.dmaDescriptor 0 true (some [(8, 1), (8, 2)])) = false ∧
    Instr.wf (.dmaBeat 0 (some [(8, 1), (9, 2)])) = true := by decide

/-- Ill-formed: bus frames with a 12-bit base identifier, a remote frame in the flexible format, BRS without FDF, 9 bytes without FDF. -/
theorem wf_mbFrame : MbFrame.wf { id := 2048, dlc := 0 } = false ∧ MbFrame.wf { id := 1, dlc := 0, rtr := true, fdf := true } = false ∧
    MbFrame.wf { id := 1, dlc := 0, brs := true } = false ∧ MbFrame.wf { id := 1, dlc := 9, data := [1, 2, 3, 4, 5, 6, 7, 8, 9] } = false ∧
    Instr.wf (.mbRxFrame 0 { id := 2048, dlc := 0 } .good) = false ∧ Instr.wf (.mbWakeFrame 0 { id := 2048, dlc := 0 } false) = false ∧
    MbFrame.wf { id := 2047, dlc := 1, data := [7] } = true := by decide

/-- Ill-formed: frames of no byte, a ring message without its header, three conversion results, an ageing measurement of seven sites, a block
difference that names a byte twice. -/
theorem wf_lengths : Instr.wf (.ethRxFrame 0 [] .good 0) = false ∧ Instr.wf (.slRxFrame 0 [] .more) = false ∧
    Instr.wf (.ringCopyReceive 0 true false false [1, 2, 3, 4, 5, 6, 7]) = false ∧ Instr.wf (.afeResult 0 [1, 2, 3]) = false ∧
    Instr.wf (.ageMeasurement [none, none, none, none, none, none, none]) = false ∧
    Instr.wf (.plannerRun ⟨false, [], 0, 0, 0⟩) = false ∧ Instr.wf (.integrityReloadAttempt [(1, 1), (1, 2)]) = false := by decide

/-! ### The premises of the statements can be met -/

theorem witness_StepRunsTheFrontCommand : State.reset.pending = [] ∧ State.reset.dev.blow = [] := by decide

theorem witness_NoStepUndoesAFuse : State.reset.dev.blow = [] ∧ FusesKept {} State.reset.otp :=
  ⟨rfl, rfl, rfl, rfl, rfl, rfl, rfl, fun _ h => h, Nat.le_refl _, Nat.le_refl _⟩

/-- The last word of the last bank, a bank without owner, the two masters of the bank conflict. -/
theorem witness_SystemAccessServesCombMemory :
    (D.waiting = [] ∧ D.blow = []) ∧ (D.wr MEM_BANKOWN 0x3F 15).combFree (.ce 31) 0x203FFFF8 8 true = true ∧
    D.combFree .sv0 0x20000000 4 false = true ∧ regionOf 0x203FFFFF = .comb ∧
    (D.wr MEM_BANKOWN 0 15).ownerIncl ((D.wr MEM_BANKOWN 0 15).f MEM_BANKOWN_OWNER (combBank 0x203FFFF8)) .sv0 = false ∧
    D.combWaits .sv0 0x203FFFF8 true = false ∧ D.b MEM_ACCERR_VALID = false ∧
    Master.sv0.num < (Master.ce 31).num ∧ combBank 0x20000004 = combBank 0x20000000 := by decide +kernel

/-- A plain register; one a non-secure master may not write; an address with no register; a staged register. -/
theorem witness_RegisterWritesAndStagedWrites :
    (∃ r i j, findReg 0x4000_0100 = some (r, i, j) ∧ r.addr i j = 0x4000_0100 ∧ r.staged = true ∧ r.is PIO_PROG = false ∧
      D.accepts .sv0 r i j 0x20 = true) ∧
    (∃ r i j, findReg 0x4003_8008 = some (r, i, j) ∧ r.addr i j = 0x4003_8008 ∧ r.plain = true ∧ D.accepts .sv0 r i j 7 = true ∧
      D.mayPut .host r i j = false) ∧
    (regionOf 0x4000_0100 = .peri ∧ isCtx 0x4000_0100 = false ∧ isMsix 0x4000_0100 = false) ∧
    (findReg 0x4000_0FFC).isNone = true ∧ D.blow = [] :=
  ⟨⟨SYS_SCYC_PER, 0, 0, rfl, by decide +kernel⟩, ⟨BOOT_NEXT, 0, 0, rfl, by decide +kernel⟩, by decide +kernel⟩

/-- Instances 0 and 80; T now and T past; a master that may not arm. -/
theorem witness_ArmsArmCancelOrAreRejected :
    D.mayArm .sv0 0 = true ∧ D.mayArm .sv0 80 = true ∧ D.stamp ≤ D.bankT 1 * 20 ∧ D.instIdle 80 = true ∧ (D.inst 80).timed = none ∧
    D.timedCount < 32 ∧ (atNs 1).bankT 1 * 20 < (atNs 1).stamp ∧ D.mayArm (.ce 0) 80 = false ∧ D.b SYS_CMT_ERR_VALID = false := by
  decide +kernel

/-- At the first cycle's end, an arm that came in time, one inside the freeze window, no arm; an idle instance. -/
theorem witness_BoundariesAndIdleInstancesApplyCommits :
    let d := { atNs 1000000 with boot := { D.boot with released := true }, cmt := [(0, { next := [20000000 - 12800] })] }
    d.boot.released = true ∧ 0 < d.scycNs ∧ (d.inst 0).last < 1 * d.scycNs ∧ 1 * d.scycNs ≤ d.ns ∧ (d.inst 0).timed = none ∧
    (∃ a ∈ (d.inst 0).next, a + d.freezeWin ≤ d.wall) ∧
    (let e := { D with cmt := [(80, { next := [0], timed := some (0, 0) })] }
     e.instIdle 80 = true ∧ (e.inst 80).next ≠ [] ∧ (e.inst 80).timed = some (0, 0) ∧ 0 ≤ e.ns) := by decide +kernel

/-- The window of confirmation ends at this instant; at reset it has not begun. -/
theorem witness_ResetsClearTheirScope :
    ({ D with
      wall := 60 * wallSecond
      boot := { D.boot with phase := .running, img := some ⟨.flashA, 1, 0, 0, 0, 60⟩ } }).confirmDue = true ∧ D.confirmDue = false ∧
    D.blow = [] := by decide +kernel

/-- The last engine: not draining, draining, code memory off. -/
theorem witness_EngineResetAndHalt :
    D.mayPut .sv0 ENG_CTL 31 0 = true ∧ D.memOn (16 + 2 * 31) = true ∧ (D.e 31).draining = false ∧
    ((withEng 31 { run := .drain true }).e 31).draining = true ∧
    ({ D with power := [(78, ⟨.off, none, none⟩)] }).memOn (16 + 2 * 31) = false := by decide +kernel

/-- An item whose verdict is not yet known, and one with a software verdict whose frame has ended good. -/
theorem witness_WqnextWakeTakesTheOldestItem :
    let d := { withEng 31 { run := .idle, wq := [⟨0, 0, none, 1, 0⟩, ⟨0, 3, none, 1, 0⟩] } with frames := [(1, { ended := true })] }
    (d.e 31).run = .idle ∧ (d.e 31).wq = [⟨0, 0, none, 1, 0⟩, ⟨0, 3, none, 1, 0⟩] ∧ d.engHold 31 = false ∧ (d.fr 1).known = false ∧
    (d.fr 1).ended = true ∧ (d.fr 1).good = true := by decide +kernel

/-- The item in hand of the witnesses below. -/
def inHand : Hand := { item := ⟨0, 0, none, 1, 0⟩ }

/-- A good and a bad verdict that come now; an execution one cycle over its limit. -/
theorem witness_VerdictsAndOverrunsDecideTheItem :
    let d := fun good => { withEng 31 { run := .early, hand := some inHand, ck := some ⟨[], 0, 0, [], 0⟩, cpu := { fl := 0x20 } } with
      frames := [(1, { good := good })] }
    ((d true).e 31).hand = some inHand ∧ ((d true).e 31).ck = some ⟨[], 0, 0, [], 0⟩ ∧ ((d true).e 31).dry = true ∧ inHand.item.vsrc ≠ 3 ∧
    ((d true).fr 1).ended = true ∧ ((d true).fr 1).known = false ∧ ((d true).fr 1).good = true ∧ ((d false).fr 1).good = false ∧
    (d true).b SWC_FORCTL_EN = false ∧ (d true).b ENG_ERR_VALID 31 = false ∧
    (let e := (withEng 31 { run := .run, hand := some inHand, ck := some ⟨[], 0, 0, [], 0⟩, cpu := { fl := 0x20 }, cyc := 2 }).setF ENG_DFCTL_HLIM 1 31
     e.f ENG_DFCTL_HLIM 31 ≠ 0 ∧ e.f ENG_DFCTL_HLIM 31 < (e.e 31).cyc ∧ (e.e 31).draining = false) := by decide +kernel

/-- Two engines of group 0 whose items ended good at different times, no token; a token holder at an early commit; an engine that waits
for the token. -/
theorem witness_TheArbiterGrantsDrainsAndTheToken :
    let g := fun k : Nat => ({ run := .atEnd, hand := some { item := ⟨0, 0, none, k, 0⟩ } } : Eng)
    let d := { D with
      eng := [(0, g 1), (31, g 2)]
      frames := [(1, { known := true, fin := true, eof := 9 }), (2, { known := true, fin := true, eof := 8 })] }
    d.grpDrains 0 = false ∧ d.cgrp 31 = 0 ∧ d.ready 31 = true ∧ d.mayDrain 31 = true ∧ (d.grp 0).holder = none ∧ (d.e 31).run = .atEnd ∧
    (∀ x : Fin 32, x ≠ 31 → d.cgrp x = 0 → d.ready x = true → (d.e x).run = .atEnd → d.mayDrain x = true → d.commitKey 31 < d.commitKey x) ∧
    d.ready 0 = true ∧
    (let e := { d with groups := [(0, { holder := some 31, queue := [] })], eng := [(31, { g 2 with run := .early })] }
     (e.grp 0).holder = some 31 ∧ e.ready 31 = true ∧ e.mayDrain 31 = true) ∧
    (let e := { withEng 31 { run := .token } with groups := [(0, { holder := none, queue := [31, 0] })] }
     e.grp 0 = { holder := none, queue := [31, 0] }) := by decide +kernel

/-- The first instant at which the drain of two words ends; one unit before it. -/
theorem witness_DrainWritesItsBufferInOrder :
    let g : Eng := { run := .drain false, hand := some inHand, cbuf := [.word 0x20000000 1 0x0F, .word 0x30010000 2 0xFF] }
    let d := { withEng 0 g with wall := 14 * 200 }
    (d.e 0).run = .drain false ∧ (d.e 0).drainAt + (12 + (d.e 0).cbuf.length) * d.fabCycle = d.wall ∧ (d.e 0).hand = some inHand ∧
    (d.e 0).rstPend = false ∧ d.b SWC_FORCTL_EN = false ∧ regionOf 0x20000000 = .comb ∧ regionOf 0x30010000 = .data 0 ∧
    d.memFree 0x20000000 8 = true ∧ d.memFree 0x30010000 8 = true := by decide +kernel

/-- A slot free again; held relays of a good and of a bad frame that other holders keep. -/
theorem witness_SlotsAndHeldRelaysAreReleased :
    (let d := withEng 31 { run := .slot 3 }
     (d.e 31).run = .slot 3 ∧ (d.slot 31 3).st = .free) ∧
    (∀ good : Bool, let d := (({ D with frames := [(7, { fin := true, holders := 2, relay := some 23, relayHeld := true, good := good })] }).setB
        ETH_STAT_LINK true 23).setB ETH_CTL_EN true 23
     d.heldRelay 23 = some 7 ∧ (d.fr 7).fin = true ∧ 1 < (d.fr 7).holders ∧ (d.fr 7).ended = true ∧ (d.fr 7).good = good ∧
     d.txDead 23 = false ∧ (d.lane 23).cur = none ∧ (d.lane 23).held = none ∧ d.b ETH_STAT_LPI_TX 23 = false) := by decide +kernel

/-- A block whose bytes match the image's, one that does not on its first and on its second attempt. -/
theorem witness_ReloadRestoresRetriesOrFailsTheBlock :
    let d := { D with
      reloads := [⟨0x20000, 1, 1⟩, ⟨0x20000, 2, 1⟩]
      boot := { D.boot with loaded := [(0x20000000, 5)] } }
    d.reloads = ⟨0x20000, 1, 1⟩ :: [⟨0x20000, 2, 1⟩] ∧ Tab.rising d.boot.loaded = true ∧ 0x20000 * 4096 < 0x70000000 ∧
    ([((0 : BitVec 12), (5 : Byte))].all (fun e => Tab.look d.boot.loaded 0 (0x20000 * 4096 + e.1.toNat) == e.2)) = true ∧
    ([((0 : BitVec 12), (6 : Byte))].all (fun e => Tab.look d.boot.loaded 0 (0x20000 * 4096 + e.1.toNat) == e.2)) = false := by decide +kernel

/-- Counter 7 of engine 31, counting execution cycles, at its top. -/
theorem witness_CycleCountsLatchAndWrap :
    let d := ((((withEng 31 { run := .run }).setB ENG_PMSEL_EN true 31 7).setF ENG_PMSEL_EVENT 3 31 7).wr ENG_PMCNT_LO 0xFFFFFFFF 31 7).wr
      ENG_PMCNT_HI 0xFFFF 31 7
    d.mayGet .sv1 ENG_PMCYC_LO 31 0 = true ∧ d.pmOwn 31 7 = true ∧ (d.cycleEvents 31).contains (d.f ENG_PMSEL_EVENT 31 7) = true ∧
    d.rd ENG_PMCNT_LO 31 7 = 0xFFFFFFFF ∧ d.f ⟨ENG_PMCNT_HI, 0, 16⟩ 31 7 = 0xFFFF := by decide +kernel

/-- A check that passes with 200 ppm and fails with 201, the first and the tenth; GO from both ports in each phase it acts in; a third master;
the last range of two. -/
theorem witness_BootRomWaitsAndHostRangesFillTheImage :
    (let d := { D with wall := 20000000 }
     d.boot.phase = .plumb ∧ d.pw.plumbAt + 20000000 ≤ d.wall ∧ d.f CLK_PLUMB_TRIES < 9 ∧ d.plumbOk 200 = true ∧ d.plumbOk (-201) = false ∧
     (d.setF CLK_PLUMB_TRIES 9).f CLK_PLUMB_TRIES = 9) ∧
    (D.mayPut .sv0 BOOT_CTL 0 0 = true ∧ D.mayPut .host BOOT_CTL 0 0 = true ∧ D.mayPut .sv1 BOOT_CTL 0 0 = true ∧
     D.mayPut .host BOOT_HCTL 0 0 = true ∧ (D.setF BOOT_HCTL_MODE 2).f BOOT_HCTL_MODE = 2 ∧ (D.setF BOOT_HCTL_MODE 1).f BOOT_HCTL_MODE = 1) ∧
    (let d := { D with wall := 600 * wallSecond, boot := { D.boot with phase := .safeHold } }
     d.boot.phase = .safeHold ∧ d.boot.since + 600 * wallSecond ≤ d.wall) ∧
    (let d := ({ D with boot := { D.boot with phase := .hostPush, hostAsk := [(0, 4096), (8192, 1)] } }).setB BOOT_HREQ_LEN_REQ true
     d.boot.phase = .hostPush ∧ d.b BOOT_HREQ_LEN_REQ = true ∧ d.boot.hostAsk = (0, 4096) :: [(8192, 1)] ∧ 0 ≠ 4096 ∧ 4096 ≤ 4096) := by
  decide +kernel

/-- Empty flashes, both marked and neither marked. (That an image's signatures pass cannot be shown here: the signature functions have no body.) -/
theorem witness_BootTakesTheBetterImage :
    let d := { D with boot := { D.boot with phase := .select } }
    let A := d.flashImage false true true
    let B := d.flashImage true true true
    d.boot.phase = .select ∧ (A.ok && imgMagic A.f) = false ∧ (B.ok && imgMagic B.f) = false ∧ d.boot.rowA.mark = false ∧
    d.boot.rowB.mark = false ∧ d.f BOOT_NEXT_PREF = 0 ∧ verifyImage {} A = 2 ∧
    (let e := { d with boot := { d.boot with rowA := ⟨imgSeq A.f, false, 2⟩, rowB := ⟨0, true, 0⟩ } }
     e.boot.rowA.seq = imgSeq A.f ∧ e.boot.rowA.count < 3 ∧ e.boot.rowB.mark = true) := by decide +kernel

/-- Engines 0 and 31 bound. -/
theorem witness_ReleaseStartsTheChip :
    let d := { D with boot := { D.boot with phase := .ready, bound := [0, 31] } }
    d.boot.phase = .ready ∧ d.boot.released = false ∧ (∀ n ∈ d.boot.bound, n < 32) ∧ d.boot.bound.Nodup := by decide +kernel

/-- The running image of flash B, confirmed and not; a slot that may be revoked and the image's own; the last leaf, and none left. -/
theorem witness_ConfirmRevokeAndAttest :
    let d := { D with boot := { D.boot with phase := .running, img := some ⟨.flashB, 1, 3, 2, 0, 60⟩ } }
    d.accepts .sv0 BOOT_CTL 0 0 1 = true ∧ d.accepts .sv0 BOOT_CTL 0 0 2 = true ∧ d.boot.phase = .running ∧ d.runningFlash = some true ∧
    (d.setB BOOT_STAT_CONFIRMED true).b BOOT_STAT_CONFIRMED = true ∧ d.b BOOT_STAT_CONFIRMED = false ∧
    d.secure .sv0 = true ∧ d.mayPut .sv0 SEC_OTP_REVOKE 0 0 = true ∧ d.f BOOT_ARB_REVOKED = ({} : Otp).revoked.toNat ∧
    d.revokeRefused {} 1 = false ∧ d.revokeRefused {} 0 = true ∧
    (d.setF SEC_LMS_STAT_NEXT_Q 943717).f SEC_LMS_STAT_NEXT_Q + 1 = 943718 ∧ d.f SEC_LMS_STAT_NEXT_Q < 1048576 ∧
    1048576 ≤ (d.setF SEC_LMS_STAT_NEXT_Q 1048576).f SEC_LMS_STAT_NEXT_Q := by decide +kernel

/-- A command when none is busy and while one is; the last sector, a page, an unaligned address. -/
theorem witness_FlashCommandsActOnTheInactiveFlash :
    D.mayPut .sv1 BOOT_FCMD 0 0 = true ∧ D.b BOOT_FCMD_BUSY = false ∧ (D.setB BOOT_FCMD_BUSY true).b BOOT_FCMD_BUSY = true ∧
    (let d := { D with boot := { D.boot with fcmd := some (1, 0xFFF0000) } }
     d.boot.fcmd = some (1, 0xFFF0000) ∧ 0xFFF0000 < 0x10000000 ∧ 0xFFF0000 % 65536 = 0 ∧ 0xFFFFF00 % 256 = 0 ∧ 0xFFFFF00 + 256 ≤ 0x10000000 ∧
     0xFFFFF01 % 256 ≠ 0) := by decide +kernel

/-- Engine 31 runs at the start of its code memory with registers `g`; an engine's state to vary. -/
def runs (g : Tab Word) : Eng := { run := .run, cpu := { g := g, pc := 0x303E0000 } }

/-- A part whose engine 31 runs. -/
def ce (g : Tab Word) : State := part (withEng 31 (runs g))

/-- A part whose supervisor 0 runs at the start of its memory. -/
def sv (c : Cpu := {}) : State := part { D with sv0 := { cpu := { c with pc := 0x10000000 }, run := .run } }

/-- The core that the witnesses below run on, and supervisor 0, without a prefix. -/
def x31 : Sx := ⟨.ce 31, []⟩
def x0 : Sx := ⟨.sv0, []⟩

/-- Data memory of engine 31. -/
def data31 : Word := 0x303F0000

/-- Registers: the ends of own data memory in G1, G2, a stack, pointers of the string instructions. -/
def st31 : State := ce [(1, data31), (2, data31 + 0x7FF8), (12, data31), (13, data31 + 8), (15, data31 + 0x8000)]

/-- Both instruction sets: register and immediate forms, narrow and under WIDE in even pairs, memory forms at both ends of own memory. -/
theorem witness_ArithmeticRows :
    (st31.goes (.add x31 (.rr 1 2)) = true ∧ st31.falls (.add x31 (.rr 1 2)) = true) ∧
    (st31.goes (.cmp ⟨.ce 31, [.wide]⟩ (.rr 2 14)) = true ∧ st31.falls (.cmp ⟨.ce 31, [.wide]⟩ (.rr 2 14)) = true ∧
      evenIf (isWide ⟨.ce 31, [.wide]⟩) [2, 14] = true) ∧
    ((sv).goes (.sbb x0 (.ri32 0 15 5)) = true ∧ (sv).falls (.sbb x0 (.ri32 0 15 5)) = true) ∧
    (st31.goes (.sub x31 (.mr8 0 2 0)) = true ∧ st31.falls (.sub x31 (.mr8 0 2 0)) = true ∧
      st31.dev.ownFree x31 (st31.dev.ea x31 2 0).toNat 4 true = true ∧ st31.dev.ownFree x31 (st31.dev.ea x31 1 0).toNat 4 false = true ∧
      st31.dev.ownFree ⟨.ce 31, [.wide]⟩ (st31.dev.ea x31 2 0).toNat 8 true = true) := by decide +kernel

/-- One-register instructions, a zero divisor and another, a count of 31 and of 32. -/
theorem witness_OneRegisterProductsAndShifts :
    [Instr.neg x31 1 0, .not x31 1 0, .inc x31 15 0, .dec x31 0 0, .sextb x31 1 0, .sexth x31 1 0, .bswap x31 1 0, .daa x31 1 0, .das x31 1 0,
      .movfl x31 1 0, .lea x31 1 2 4, .movtofl x31 1 0, .clc x31, .stc x31, .nop x31, .mov x31 (.rr 1 2), .mul x31 1 2, .mulh x31 1 2,
      .divu x31 1 2, .remu x31 1 3, .shl x31 (.imm 1 0 31), .shr x31 (.imm 1 0 32), .sar x31 (.reg 1 2), .rol x31 (.reg 1 3)].all
      (fun i => st31.goes i && st31.falls i) = true ∧
    st31.dev.g x31.core 2 ≠ 0 ∧ st31.dev.g x31.core 3 = 0 ∧ st31.dev.exl x31.core = false ∧ st31.dev.dryOn x31.core = false ∧
    (31 : BitVec 8).toNat % 32 ≠ 0 ∧ (32 : BitVec 8).toNat % 32 = 0 := by decide +kernel

/-- Loads and stores at both ends of own memory. -/
theorem witness_LoadsAndStoresOfOwnMemory :
    [Instr.ld x31 1 2 (.d8 0), .ldb x31 1 1 0, .ldbs x31 1 1 0, .ldh x31 1 1 0, .ldhs x31 1 1 0, .st x31 1 2 (.d32 0), .sti x31 0 2 (.d8 0) 9,
      .stb x31 1 1 0, .sth x31 1 1 0, .xchg x31 (.reg 1 2), .xchg x31 (.mem 1 1 0)].all (fun i => st31.goes i && st31.falls i) = true ∧
    (st31.goes (.ld ⟨.ce 31, [.wide]⟩ 2 2 (.d8 0)) = true ∧ evenIf true [2] = true) ∧
    [1, 2, 4, 8].all (fun w => st31.dev.ownFree x31 data31.toNat w true && st31.dev.ownFree x31 (data31 + 0x7FF8).toNat w false) = true := by
  decide +kernel

/-- An odd pair, a misaligned word and halfword, a reserved opcode, a WIDE that the opcode does not accept, a privileged instruction in user state. -/
theorem witness_RefusedInstructionsTakeTheirFault :
    sepOf (.reservedOpcode x31 false) = some (x31, { len := 1, undef := some 1 }) ∧ st31.dev.exl x31.core = false ∧
    st31.dev.dryOn x31.core = false ∧ st31.dev.fetches x31 { len := 1, undef := some 1 } = true ∧
    (decodeFault x31 { len := 1, undef := some 1 }).2 = some (3, 1) ∧ (decodeFault ⟨.ce 31, [.wide]⟩ { len := 1 }).2 = some (2, 3) ∧
    st31.dev.fetches ⟨.ce 31, [.wide]⟩ { len := 1 } = true ∧
    (let u := sv { psr := 0 }
     sepOf (.eret x0) = some (x0, { len := 2, priv := true }) ∧ u.dev.fetches x0 { len := 2, priv := true } = true ∧
     (decodeFault x0 { len := 2, priv := true }).2 = none ∧ (u.dev.cpu .sv0).user = true) ∧
    (st31.goes (.mov ⟨.ce 31, [.wide]⟩ (.rr 1 2)) = true ∧ (1 : BitVec 4).toNat % 2 = 1) ∧
    (st31.goes (.ld x31 0 1 (.d8 1)) = true ∧ (st31.dev.g x31.core 1 + (Disp.d8 1).ext).toNat % opBytes x31 ≠ 0) ∧
    (st31.goes (.sth x31 0 1 1) = true ∧ (st31.dev.g x31.core 1 + (1 : BitVec 8).signExtend 32).toNat % 2 ≠ 0) := by decide +kernel

/-- A branch taken and one not, a jump and a call within the code memory, a return to it. -/
theorem witness_BranchesCallsAndReturns :
    let s := ce [(1, 0x303EFFFF), (15, data31 + 0x8000)]
    let r := { s with dev := { s.dev with mem := [(0x303F0001, 0), (0x303F0002, 0x3E), (0x303F0003, 0x30)] } }
    [Instr.bcc x31 0 (.d8 4), .jmp x31 0 1, .call x31 (.rel 4), .call x31 (.reg 0 1)].all s.goes = true ∧
    (s.dev.cpu x31.core).cond 0 ≠ (s.dev.cpu x31.core).cond 1 ∧ s.falls (.bcc x31 0 (.d8 4)) = true ∧
    s.dev.calm x31 (s.past (.bcc x31 0 (.d8 4)) + 4) = true ∧ s.dev.calm x31 (s.dev.g x31.core 1) = true ∧
    s.dev.ownFree x31 (s.dev.g x31.core 15 - 4).toNat 4 true = true ∧
    (let q := { r with dev := withEng 31 (runs [(15, data31)]) }
     let q := { q with dev := { q.dev with mem := r.dev.mem } }
     q.goes (.ret x31) = true ∧ q.dev.ownFree x31 data31.toNat 4 false = true ∧
     q.dev.calm x31 (BitVec.ofNat 32 (q.dev.bytesNat data31.toNat 4)) = true) := by decide +kernel

/-- The top of the stack; a mask of all registers that may be named, an empty mask, one with bit 15. -/
theorem witness_TheStackKeepsRegisters :
    [Instr.push x31 15 0, .pushm x31 0x7FFF, .popm x31 0].all (fun i => st31.goes i && st31.falls i) = true ∧
    st31.dev.ownFree x31 (st31.dev.g x31.core 15 - 4).toNat 4 true = true ∧
    (List.range 15).all (fun k => st31.dev.ownFree x31 ((st31.dev.g x31.core 15 - 60).toNat + 4 * k) 4 true) = true ∧
    (let s := ce [(15, data31)]
     s.goes (.pop x31 15 0) = true ∧ s.falls (.pop x31 15 0) = true ∧ s.dev.ownFree x31 data31.toNat 4 false = true ∧
     s.goes (.popm x31 0x7FFF) = true ∧ (List.range 15).all (fun k => s.dev.ownFree x31 (data31.toNat + 4 * k) 4 false) = true ∧
     data31.toNat + 60 < 2 ^ 32) ∧
    st31.goes (.pushm x31 0x8000) = true ∧ (0x8000 : BitVec 16).getLsbD 15 = true := by decide +kernel

/-- The first and last general bit, a read-only bit, a branch on a set bit. -/
theorem witness_BitInstructionsChangeOneBit :
    [Instr.bset x31 0x7FF, .bclr x31 0, .bcpl x31 0xFFF, .bst x31 1 0 0x7FF, .bsti x31 1 3, .bmov x31 0xFFF07FF, .band x31 0, .bor x31 0,
      .bxor x31 0, .bandn x31 0, .bld x31 1 0 0xFFF, .bldi x31 1 3, .btst x31 0xC00, .brb x31 4 0, .brnb x31 4 0, .brbc x31 4 0].all
      (fun i => st31.goes i && st31.falls i) = true ∧
    ((st31.dev.g x31.core 3).truncate 12).toNat < 0x800 ∧
    (let s := part (withEng 31 { runs [] with cpu := { (runs []).cpu with bits := [(0x7FF, true)] } })
     s.goes (.brbc x31 4 0x7FF) = true ∧ s.dev.bitRead x31.core 0x7FF = true ∧
     s.dev.calm x31 (s.past (.brbc x31 4 0x7FF) + (4 : BitVec 8).signExtend 32) = true ∧ s.dev.bitRead x31.core 0 = false) := by decide +kernel

/-- Each instruction without a prefix; under REP with G14 = 0, and BBSET with the last bits of the general bits. -/
theorem witness_StringAndBitBlockElements :
    [Instr.movsb x31, .movsw x31, .movsd x31, .cmpsb x31, .cmpsw x31, .scasb x31 1 0, .stosb x31 1 0, .stosw x31 1 0, .bbcmp x31,
      .bbcnt x31 1 0, .bbscan x31 1 0, .bbmov x31, .bbclr x31, .bbset x31, .movsb ⟨.ce 31, [.rep]⟩].all
      (fun i => st31.goes i && st31.falls i) = true ∧
    st31.dev.ownFree x31 (st31.dev.g x31.core 12).toNat 8 false = true ∧ st31.dev.ownFree x31 (st31.dev.g x31.core 13).toNat 8 true = true ∧
    st31.dev.g x31.core 14 = 0 ∧ ((st31.dev.g x31.core 13).truncate 12).toNat < 0x800 ∧
    (let s := ce [(13, 0x7FE), (14, 2)]
     s.goes (.bbset ⟨.ce 31, [.rep]⟩) = true ∧ s.falls (.bbset ⟨.ce 31, [.rep]⟩) = true ∧
     (s.dev.g x31.core 13).toNat + (s.dev.g x31.core 14).toNat ≤ 0x800) := by decide +kernel

/-- One byte, eight in even pairs, none and nine; good and bad digits. -/
theorem witness_PackedDecimal :
    let s := ce [(0, 0x99), (2, 0x0A)]
    [Instr.bcdadc x31 0 0 1, .bcdsbc x31 0 0 8, .bcd2bin x31 0 2 8, .bin2bcd x31 0 2 1, .bcdadc x31 0 0 0, .bcd2bin x31 0 0 9].all
      (fun i => s.goes i && s.falls i) = true ∧
    evenIf (decide (4 < (8 : BitVec 8).toNat)) [0, 2] = true ∧ badDigits 1 (s.dev.g x31.core 0).toNat = false ∧
    badDigits 8 ((s.dev.g x31.core 2).toNat + 2 ^ 32 * (s.dev.g x31.core 3).toNat) = true ∧ s.dev.exl x31.core = false ∧
    s.dev.dryOn x31.core = false := by decide +kernel

/-- An engine without an item, its queue empty and not; a hardware-verdict item under dry-fit; a software-verdict item. -/
theorem witness_ItemsAreTakenJudgedAndEnded :
    let s := fun (h : Option Hand) (q : List Item) => part { (withEng 31 { runs [] with
        hand := h
        wq := q
        ck := some ⟨[], 0, 0, [], 0⟩
        cpu := { (runs []).cpu with fl := if h.isSome then 0x20 else 0 } }) with frames := [(1, {})] }
    let soft : Hand := { item := ⟨0, 3, none, 1, 0⟩ }
    [s none [], s none [inHand.item], s (some inHand) [], s (some soft) []].all (fun s =>
      [Instr.wqnext x31, .dfendPass x31 0, .dfendFail x31 0, .fplen x31 4 0].all (fun i => s.goes i && s.falls i)
        && !s.dev.engHold 31 && !s.dev.b SWC_FORCTL_EN) = true ∧
    ((s (some inHand) []).dev.e 31).dry = true ∧ soft.soft = none ∧
    ((s none []).dev.setB ENG_CTL_HALT true 31).engHold 31 = true ∧ ((s none []).dev.fr 1).ended = true ∧ ((s none []).dev.fr 1).good = true ∧
    ((s none []).dev.fr 1).known = false := by decide +kernel

/-- A bound Ethernet lane; the shortest and longest frame; a slot free and taken; a relay to a faster lane; sources and records. -/
theorem witness_EngineInstructionsSendAndRecord :
    let lane := fun (g : Eng) => ((({ withEng 31 g with frames := [(1, { port := 0, fin := false })], nextFr := 2 }).setF ENG_BIND_LANE 23 31 15).setB
      ENG_BIND_VALID true 31 15).setF ETH_STAT_SPEED 4 23
    let bound := fun (g : Eng) => (List.range 8).foldl (fun d b => d.setF MEM_BANKOWN_OWNER 0x3F b) (lane g)
    let dry := fun (g : Eng) => { g with hand := some inHand, ck := some ⟨[], 0, 0, [], 0⟩, cpu := { g.cpu with fl := 0x20 } }
    let s := part (bound (dry (runs [(1, 60), (2, 0x20000000), (3, data31)])))
    let t := part (bound (runs [(1, 60), (2, 0x20000000), (3, data31)]))
    [s, t].all (fun s => [Instr.txarm x31 1 3 15 0 0, .txarmRelay x31 15 0 0, .txmem x31 1 2 0 15 0 0, .evraise x31 124, .jwrite x31 0 3].all
      (fun i => s.goes i && s.falls i)) = true ∧
    s.dev.b ENG_BIND_VALID 31 15 = true ∧ s.dev.f ENG_BIND_LANE 31 15 = 23 ∧ 60 ≤ s.dev.maxFrame 23 false ∧ 60 ≤ s.dev.maxFrame 23 true ∧
    (s.dev.slot 31 3).st = .free ∧ (s.dev.e 31).hand = some inHand ∧ (s.dev.e 31).cbuf = [] ∧ s.dev.verdict inHand ≠ some true ∧
    (s.dev.fr 1).relay = none ∧ (s.dev.fr 1).port < 24 ∧ (s.dev.fr 1).fin = false ∧ s.dev.kbps 0 < s.dev.kbps 23 ∧
    t.dev.exl x31.core = false ∧ (t.dev.e 31).dry = false ∧ (List.range 8).all (fun k => t.dev.combFree (.ce 31) (0x20000000 + 8 * k) 8 false) = true ∧
    t.dev.qCells (8 * 23) + cellsOf 60 ≤ t.dev.qLimit (8 * 23) ∧ cellsOf 60 ≤ t.dev.sharedFree ∧
    t.dev.frames.all (fun e => e.1 != t.dev.nextFr) = true ∧ t.dev.mayRaise (.ce 31) 124 = true ∧ t.dev.mayRaise (.ce 31) 0 = false ∧
    t.dev.memFree data31.toNat 32 = true ∧ t.dev.jq.length < 64 := by decide +kernel

/-- Instructions of both sets that system code uses, and an ERET to the start of the memory; a WFI without a pending line. -/
theorem witness_SystemInstructions :
    let s := sv { epc := 0x10000000 }
    [Instr.svc x0 3, .eret x0, .movcRead x0 1 0 0x1C, .movcWrite x0 1 0 0x10, .inton x0, .intoff x0, .fence x0, .wfi x0, .brk x0].all
      (fun i => s.goes i && s.falls i) = true ∧
    [Instr.brk x31, .eret x31, .fence x31, .movcRead x31 1 0 8].all (fun i => st31.goes i) = true ∧
    s.dev.exl .sv0 = false ∧ s.dev.dryOn .sv0 = false ∧ s.dev.calm x0 (s.dev.cpu .sv0).epc = true ∧ s.dev.nmip = false ∧
    s.dev.svPending .sv0 = false := by decide +kernel

/-- Line 31 at SV1 with interrupts on and off, no line, an NMI outside and inside a handler. -/
theorem witness_InterruptsAndTheNmi :
    let irq := fun (psr : Word) => { ((D.wr EVT_PEND 1).wr EVT_MASK 0).setF EVT_MAP_CORE 2 with sv1 := { cpu := { psr := psr }, run := .wfi } }
    let d := fun (psr : Word) => (irq psr).setF EVT_MAP_LINE 31
    (d 3).lowLine 2 = some 31 ∧ (d 3).svRun .sv1 = .wfi ∧ ((d 3).cpu .sv1).psr.getLsbD 1 = true ∧ ((d 3).cpu .sv1).estat.getLsbD 0 = false ∧
    ((d 1).cpu .sv1).psr.getLsbD 1 = false ∧ (d 3).f PWR_STAT_STATE < 2 ∧ (D.wr EVT_PEND 0 2).lowLine 1 = none ∧
    (let n := fun (estat : Word) => { D.wr EVT_PEND 0x100 with sv0 := { cpu := { estat := estat }, run := .run } }
     (n 0).nmiRaised = true ∧ (n 0).sv0.run = .run ∧ (n 0).exl .sv0 = false ∧ (n 1).exl .sv0 = true ∧
     (D.wr EVT_PEND 0 2).nmiRaised = false) := by decide +kernel

/-- Owner codes legal and reserved, waiting and not; power commands by SV0; a bank and a code memory in transition. -/
theorem witness_BankOwnersAndMemoryPowerChange :
    D.accepts .sv0 MEM_BANKOWN 15 0 ((0x3F : BitVec 6).setWidth 32) = true ∧ ownerLegal 0x3F = true ∧ ownerLegal 0x30 = false ∧
    D.accepts .host MEM_BANKOWN 0 0 ((1 : BitVec 6).setWidth 32) = true ∧ D.ownerIncl (D.f MEM_BANKOWN_OWNER 0) .host = false ∧
    (let d := { withEng 31 { run := .run, hand := some inHand, ck := some ⟨[], 0, 0, [], 0⟩, cpu := { fl := 0x20 }, rset := [0] } with ownPend := [(0, 0x3F)] }
     d.ownPend.find? (fun e => e.1 == 0) = some (0, 0x3F) ∧ d.bankBusy 0 = false ∧ d.touchesBank 0 31 = true ∧ d.touchesBank 0 0 = false ∧
     d.ownPend.all (fun e => e.1 != 1) = true ∧
     (({ d with eng := [(31, { held := [0] })] }).bankBusy 0 = true)) ∧
    (D.accepts .sv0 PWR_COMBPWR 0 0 0 = true ∧ D.accepts .sv1 PWR_LMPWR 3 0 0 = true ∧ D.engStopped 31 = true ∧
      (withEng 31 { run := .run }).engStopped 31 = false) ∧
    (let d := { D with power := [(0, ⟨.on, some .off, none⟩), (78, ⟨.off, some .on, some .on⟩)] }
     (d.pwr 0).target = some .off ∧ (d.pwr 78).target = some .on ∧ d.bankBusy 0 = false ∧ (d.pwr 78).held = some .on ∧ d.memOn 0 = false ∧
     (∀ n : Fin 32, d.touchesBank 0 n = false)) := by decide +kernel

/-- Channel 15 in copy mode: GO with the shadow free, shut, a length of 0 and of 16; a beat of 8 bytes and one refused; its end. In ring mode: a
descriptor of the core's and one of the host's. -/
theorem witness_DmaCopiesBytesAndCarriesFrames :
    let on := ((D.setB DMA_CTL_EN true 15).setF DMA_LEN_LEN 16 15)
    D.accepts .sv0 DMA_GO 15 0 1 = true ∧ D.shadowShut 15 = false ∧ (D.setB DMA_STAT_SHADOW_VALID true 15).shadowShut 15 = true ∧
    on.b DMA_CTL_EN 15 = true ∧ on.ringMode 15 = false ∧ on.b DMA_STAT_BUSY 15 = false ∧ on.f DMA_LEN_LEN 15 = 16 ∧ D.f DMA_LEN_LEN 15 = 0 ∧
    D.accepts .sv0 DMA_CTL 15 0 (0 ||| 1) = true ∧ D.accepts .sv0 DMA_CTL 15 0 (4 ||| 1) = true ∧
    (let b := fun own => ((((on.setB DMA_STAT_BUSY true 15).setF DMA_ALEN_LEN 16 15).wr DMA_ASRC_LO 0x20000000 15).wr DMA_ADST_LO 0x20000008 15).setF
        MEM_BANKOWN_OWNER own 1
     let c := fun own => (b own).setF MEM_BANKOWN_OWNER 4 0
     (c 4).dmaTurn 15 = true ∧ (c 4).combFree (.dma 15) 0x20000000 8 false = true ∧ (c 4).combFree (.dma 15) 0x20000008 8 true = true ∧
     (c 0).ownerIncl ((c 0).f MEM_BANKOWN_OWNER (combBank 0x20000008)) (.dma 15) = false ∧ (c 0).combWaits (.dma 15) 0x20000008 true = false ∧
     (c 4).f DMA_BYTES_BYTES 15 < (c 4).f DMA_ALEN_LEN 15 ∧ (c 4).f DMA_CTL_SRC_SP 15 = 0 ∧
     ((c 4).setF DMA_BYTES_BYTES 16 15).f DMA_BYTES_BYTES 15 = (c 4).f DMA_ALEN_LEN 15) ∧
    (D.accepts .host DMA_TRIDX 15 0 ((0xFFF : BitVec 12).setWidth 32) = true ∧
     (let d := (((((D.setB DMA_CTL_EN true 15).setF DMA_CTL_MODE 1 15).setF DMA_CTL_SRC_SP 1 15).setF DMA_CTL_RSP 1 15).setF DMA_TRIDX_TAIL 1 15)
      let r := d.ringOf 15 true
      r.rsp = true ∧ r.bsp = true ∧ d.b DMA_CTL_EN 15 = true ∧ d.ringMode 15 = true ∧ d.b DMA_STAT_HALTED 15 = false ∧ r.head < r.size ∧
      r.head ≠ r.tail % r.size ∧ r.base + 16 * (r.head % r.size) + 16 < 2 ^ 64 ∧ (d.dch 15).txStop = false ∧
      d.accepts .sv0 DMA_CTL 15 0 (d.rd DMA_CTL 15 &&& 0x3FE) = true ∧
      leNat ((List.range 16).map (fun i => pcieByte [(8, 59), (12, 7)] (r.base + i))) / 2 ^ 64 % 2 ^ 16 = 59) ∧
     (let d := { (((((D.setB DMA_CTL_EN true 15).setF DMA_CTL_MODE 1 15).setF DMA_CTL_DST_SP 1 15).setF DMA_CTL_RSP 1 15).setF DMA_RRIDX_TAIL 1 15) with
        swc := { D.swc with queues := [(207, [{ fr := 1, cells := 1 }])] }
        frames := [(1, { holders := 2, view := [1, 2, 3] })] }
      d.rxFrame 15 = some (1, [1, 2, 3], true) ∧ (d.fr 1).holders = 2 ∧ (d.dch 15).rxBusy = false ∧ (d.ringOf 15 false).bsp = true)) := by
  decide +kernel

/-- Mailbox 63: words in assembly, a full buffer, a message that fits and one that waits, two postings, a message to read; pegs free, owned, taken back. -/
theorem witness_MailboxesCarryMessagesAndPegsAreTaken :
    let cfg := ((D.setB MBX_CFG_EN true 63).setF MBX_CFG_SIDE0 1 63).setF MBX_CFG_SIDE1 3 63
    let full : MbxSide := { asm := [1, 2, 3, 4, 5, 6, 7, 8] }
    let d := { cfg with
      mbx := [(63, full, { inq := [⟨[9], 1, 0⟩], pend := some [1, 2, 3, 4, 5, 6, 7, 8] })]
      postings := [⟨3, 63, 1, [5]⟩, ⟨1, 62, 0, [6]⟩] }
    d.accepts .sv0 MBX_TX 63 0 7 = true ∧ d.accepts .sv0 MBX_RING 63 0 2 = true ∧ d.accepts .sv0 MBX_RING 63 0 1 = true ∧
    d.accepts .host MBX_TX 63 1 7 = true ∧ d.mayGet .host MBX_RX 63 1 = true ∧ d.mayGet .sv0 MBX_RX 63 0 = true ∧
    (d.mside 63 0).pend = none ∧ 8 ≤ (d.mside 63 0).asm.length ∧ d.b MBX_STAT_ERR_OVF 63 0 = false ∧ d.outRoom 63 0 < 8 ∧
    (d.mside 63 1).pend = some [1, 2, 3, 4, 5, 6, 7, 8] ∧ (d.mside 63 1).inq = [⟨[9], 1, 0⟩] ∧ (d.mside 63 0).inq = [] ∧
    ({ d with postings := [] }).outRoom 63 1 = 8 ∧ ({ d with postings := [] }).flying 63 1 = 0 ∧
    d.postings.find? (fun q => q.num == 1) = some ⟨1, 62, 0, [6]⟩ ∧
    (∀ q ∈ d.postings, q.num ≠ 1 → (1 + 64 - d.mbxLast - 1) % 64 < (q.num + 64 - d.mbxLast - 1) % 64) ∧ d.sideOf 63 1 = 3 ∧
    (D.mayGet (.ce 31) MBX_PEG 63 0 = true ∧ D.f MBX_PEG_OWNER 63 = 0 ∧ (D.setF MBX_PEG_OWNER 39 63).f MBX_PEG_OWNER 63 = (Master.ce 31).num ∧
     D.accepts (.ce 31) MBX_PEG 63 0 ((39 : BitVec 6).setWidth 32) = true ∧
     D.accepts .sv0 MBX_PEGFREE 0 0 (BitVec.ofNat 32 (63 + 0x50460000)) = true ∧ D.b MBX_PEGERR_VALID = false) := by decide +kernel

/-- A source software may raise and one it may not; pending bits cleared; a source unmasked whose message goes to the host. -/
theorem witness_EventsAreRaisedClearedAndMasked :
    D.accepts .sv0 EVT_RAISE 0 0 ((112 : BitVec 8).setWidth 32) = true ∧ D.b EVT_MAP_SWR 112 = true ∧ D.evSecure 112 = false ∧
    D.b EVT_MAP_SWR 255 = false ∧ D.accepts .sv0 EVT_PEND 7 0 0xFFFFFFFF = true ∧ D.accepts .sv1 EVT_MASK 7 0 0 = true ∧
    (let d := (((D.wr EVT_PEND 1).wr EVT_MASK 1).setB EVT_MAP_MSIX true).setMsixWord 0x4005800C 0
     d.evPending 0 = true ∧ d.evMasked 0 = true ∧ 0 = d.rd EVT_MASK &&& ~~~((1 : Word) <<< 0) ∧ d.b EVT_MAP_MSIX 0 = true ∧ d.evSecure 0 = false ∧
     d.secure .sv0 = true ∧ (d.msixWord (0x40058000 + 16 * d.f EVT_MAP_VECTOR 0 + 12)).getLsbD 0 = false) := by decide +kernel

/-- Lane `p` up after reset. -/
def up (p : Nat) : Dev := (D.setB ETH_STAT_LINK true p).setB ETH_CTL_EN true p

/-- A broadcast frame of 64 bytes. -/
def bcast : List Byte := List.replicate 64 0xFF

/-- A lane up, short and full frames, a broadcast frame that the filter refuses, NAP with and without a wake pattern, both windows, MDIO busy and free,
its reply, a lane without it. -/
theorem witness_LanesReceiveAndManagePhys :
    (up 23).f PWR_STAT_STATE < 2 ∧ (up 23).b ETH_STAT_LINK 23 = true ∧ (up 23).b ETH_CTL_EN 23 = true ∧ (up 23).f ETH_CTL_PWR 23 = 0 ∧ (up 23).b ETH_CTL_LOOP 23 = false ∧
    ((up 23).rd ETH_CNT_RXRUNT 23).toNat < 0xFFFFFFFE ∧ 64 ≤ bcast.length ∧ bcast.length ≤ max 64 (min 9216 ((up 23).f ETH_MAXFRM_LEN 23)) ∧
    fieldAt bcast 12 2 ≠ 0x8808 ∧ isReserved bcast = false ∧ isBc bcast = true ∧ (up 23).b TIME_LCFG_TSEN 23 = false ∧ (up 23).f ETH_WAKECTL_PEN 23 = 0 ∧
    ((up 23).setB ETH_RXFILT_DROPBC true 23).b ETH_RXFILT_DROPBC 23 = true ∧ (up 23).b SWC_CTL_EN = false ∧ (up 23).rd ETH_RXFILT 23 = 0 ∧
    (let n := ((((up 23).setF PWR_STAT_STATE 2).setB ETH_WAKECTL_NAPRX true 23).setF ETH_WAKECTL_PEN 8 23).wr ETH_WP_MASK0 1 23 3
     let n := n.setF ETH_WP_CHK_CHECK (crc16 [0xFF]).toNat 23 3
     n.f PWR_STAT_STATE = 2 ∧ n.b ETH_WAKECTL_NAPRX 23 = true ∧ (List.range 4).find? (n.wpMatch 23 bcast) = some 3 ∧
     (List.range 4).find? (n.wpMatch 23 (0 :: bcast)) = none) ∧
    ((up 23).lane 23).window = (up 23).ns / 1000000 ∧ (atNs 1000000).ns / 1000000 ≠ ((atNs 1000000).lane 23).window ∧
    (up 23).accepts .sv0 ETH_MDIOCMD 23 0 ((BitVec.ofNat 32 (31 + 31 * 32 + 1024 + 2048)) ||| 0x1000) = true ∧ (up 23).b ETH_MDIOCMD_BUSY 23 = false ∧
    (∀ c ∈ (up 23).mdio, c.at' < (up 23).wall) ∧ (up 23).mdio = [] ∧ ({ up 23 with mdio := [⟨23, 0, 0, 0⟩] }).mdio = ⟨23, 0, 0, 0⟩ :: [] ∧
    (up 23).mayGet .sv0 ETH_CNT_TXOCT_LO 23 0 = true := by decide +kernel

/-- Link establishment on lanes 0 and 23 that succeeds, and on lane 0 that does not; a link that goes down at a write and with a frame in
transmission; low-power idle entered after its hold, left for a frame; timers and responses. -/
theorem witness_LinksComeUpAndSaveEnergy :
    (D.b ETH_STAT_LINK 23 = false ∧ D.f ETH_CTL_PWR 0 = 0 ∧ (D.setB CLK_STAT_RCACT false).b CLK_STAT_RCACT = false ∧ D.b ETH_ANADV_A100 0 = true ∧
      ((D.setB ETH_CTL_ANEN true).setB ETH_ANADV_A10 false).b ETH_CTL_ANEN = true ∧ ((D.setB ETH_ANADV_A10 false)).b ETH_ANADV_A10 = false) ∧
    (let d := up 0
     (∀ x ∈ d.frames, x.2.port = 0 → x.2.ended = true) ∧ (d.lane 0).cur = none ∧ (d.lane 0).held = none ∧ d.accepts .sv0 ETH_CTL 0 0 0x10 = true ∧
     (0x10 : Word).getLsbD 4 = true ∧ d.accepts .sv0 ETH_CTL 0 0 (d.rd ETH_CTL 0) = true ∧ (d.rd ETH_CTL 0).getLsbD 4 = false ∧
     d.accepts .sv0 ETH_ANADV 0 0 1 = true ∧ d.rd ETH_ANADV 0 ≠ 1 &&& 0x1F ∧ d.accepts .sv0 ETH_CTL 0 0 ((d.rd ETH_CTL 0 &&& 0x3EF) ||| 0x10) = true) ∧
    (let c : TxCur := { ent := { fr := 1, cells := 1 }, cls := 0 }
     let d := { up 0 with eth := [(0, { cur := some c })], frames := [(1, { holders := 2 })] }
     (d.lane 0).cur = some c ∧ c.ent.src = .none ∧ 2 ≤ (d.fr c.ent.fr).holders ∧ (d.rd ETH_CNT_TXDISC 0).toNat < 0xFFFFFFFE) ∧
    (D.setF ETH_CTL_PWR 1 23).f ETH_CTL_PWR 23 = 1 ∧
    (let d := { (up 0).setB ETH_STAT_EEE_ON true with wall := 0x32 * 20000 }
     d.b ETH_STAT_EEE_ON 0 = true ∧ d.b ETH_STAT_LPI_TX 0 = false ∧ (∀ c : Fin 8, d.q (8 * 0 + c) = []) ∧
     (d.lane 0).offer + max 1 (d.f ETH_EEE_HOLD 0) * 20000 ≤ d.wall ∧ (d.lane 0).wakeAt ≤ d.wall ∧ (d.gclSt 0).on = false ∧
     d.b ETH_STAT_LPI_RX 0 = false ∧ (d.rd ETH_CNT_LPIRX 0).toNat < 0xFFFFFFFE) ∧
    (let d := { (D.setB ETH_STAT_LPI_TX true 23) with swc := { D.swc with queues := [(191, [{ fr := 1, cells := 1 }])] } }
     d.b ETH_STAT_LPI_TX 23 = true ∧ ∃ c : Fin 8, d.q (8 * 23 + c) ≠ []) ∧
    (let d := (((((D.setB ETH_STAT_LPI_TX true 23).setB SWC_GCLCTL_EN true 23).setF SWC_GCLE_INTERVAL 500 23).setF SWC_GCLE_INTERVAL 100 23 1).setF
        SWC_GCLE_GATES 0 23).setF SWC_GCLCYC_CYCLE 1000 23
     let d := { d with swc := { D.swc with gcl := [(23, { on := true, start := 0 })] } }
     d.nextOpen 23 = some 500 ∧ 500 * 20 ≤ d.stamp + max (twTxMin 23) (d.f ETH_EEE_TW_TX 23) * 20000) ∧
    (D.setB ETH_EEE_LLDP true 23).b ETH_EEE_LLDP 23 = true ∧
    (let d := (up 23).setF ETH_MMCTL_VSTAT 2 23
     d.f ETH_MMCTL_VSTAT 23 = 2 ∧ (d.lane 23).verifies < 3 ∧ 3 ≤ (({ d with eth := [(23, { verifies := 3 })] }).lane 23).verifies) := by
  decide +kernel

/-- A frame of 64 bytes to the station 02-00-00-00-00-01 of VLAN 1. -/
def fwdFrame : List Byte := [2, 0, 0, 0, 0, 1, 2, 0, 0, 0, 0, 2, 8, 0] ++ List.replicate 50 0

/-- A switch whose database holds that station at lane 23. -/
def fwd : Dev :=
  { (up 0).setB SWC_CTL_EN true with swc := { D.swc with fdb := [(fdbKey 1 0x020000000001, ⟨2 ^ 23, true, 0⟩)] } }.wr SWC_PCFG 0x8001

set_option maxRecDepth 20000 in
theorem witness_FramesAreForwardedByTheDatabase :
    (let d := fwd.setB SWC_CTL_CT false
     let raw := fwdFrame.take (fwdFrame.length - 4)
     let v := d.vlanOf 0 raw
     let i := 8 * 23 + getBits (d.rd SWC_TCMAP 0) (3 * v.pcp) 3
     64 ≤ fwdFrame.length ∧ fwdFrame.length ≤ max 64 (min 9216 (d.f ETH_MAXFRM_LEN 0)) ∧ fieldAt fwdFrame 12 2 ≠ 0x8808 ∧
     isReserved fwdFrame = false ∧ isMc fwdFrame = false ∧ d.f PWR_STAT_STATE = 0 ∧ d.b PWR_STAT_BUSY = false ∧ d.b ETH_STAT_LINK 0 = true ∧
     d.b ETH_CTL_EN 0 = true ∧ d.f ETH_CTL_PWR 0 = 0 ∧ d.b ETH_CTL_LOOP 0 = false ∧ d.rd ETH_RXFILT 0 = 0 ∧ d.f ETH_WAKECTL_PEN 0 = 0 ∧
     d.b TIME_LCFG_TSEN 0 = false ∧ d.b SWC_CTL_EN = true ∧ d.b SWC_CTL_CT = false ∧ d.b SWC_MIRROR_EN = false ∧ d.f SWC_FORSAMP_N 0 = 0 ∧
     (d.rd SWC_PCFG 0).getLsbD 16 = false ∧ (∀ k : Fin 4, d.f SWC_RED_CFG_MODE k = 0) ∧ (∀ k : Fin 4096, d.ctxValid k = false) ∧
     (∀ r : Fin 64, d.b SWC_RULE0_VALID r = false) ∧ (d.members v.vid).testBit 0 = true ∧
     d.fdbFind v.vid (daOf raw) = some ⟨2 ^ 23, true, 0⟩ ∧ (23 : Fin 24) ≠ 0 ∧ (d.members v.vid).testBit 23 = true ∧ d.fr d.nextFr = {} ∧
     d.qCells i + 1 ≤ d.qLimit i ∧ 1 ≤ d.freeCells ∧ 1 - (d.qMin i - d.qCells i) ≤ d.sharedFree) ∧
    (∀ q, ∀ y ∈ (fwd.setB SWC_CTL_CT false).q q, y.fr ≠ (fwd.setB SWC_CTL_CT false).nextFr) :=
  ⟨by decide +kernel, fun q y h => absurd h (by simp [Dev.q, fwd, Dev.setB, Dev.setF, Dev.wr, D, State.reset, Tab.look])⟩

/-- The heads of classes 7 and 0 of lane 23: dead and live, a preemptable frame under way, one held; ends of a good frame held once and twice; a frame
that may yet prove too long. -/
theorem witness_LanesSendTheHighestClass :
    let d := { (up 23) with
      swc := { D.swc with queues := [(184, [{ fr := 1, cells := 1 }]), (191, [{ fr := 2, cells := 1 }])] }
      frames := [(1, { holders := 2 }), (2, { holders := 2 }), (3, { holders := 1, cells := 1 })] }
    let d := d.setF SWC_PSTAT_GATES 0xFF 23
    let r : TxCur := { ent := { fr := 3, cells := 1 }, cls := 0, express := false }
    let run := fun (l : EthSt) => { d.setB ETH_MMCTL_ACTIVE true 23 with eth := [(23, l)] }
    (d.headOf 23 7 = some { fr := 2, cells := 1 } ∧ (d.fr 2).ended = true ∧ 2 ≤ (d.fr 2).holders ∧ (d.fr 2).cellBad = false ∧
      (d.setB ETH_STAT_LINK false 23).b ETH_STAT_LINK 23 = false ∧ (d.rd ETH_CNT_TXDISC 23).toNat < 0xFFFFFFFE) ∧
    (d.b ETH_STAT_LINK 23 = true ∧ d.b ETH_CTL_EN 23 = true ∧ d.b ETH_STAT_LPI_TX 23 = false ∧ (d.lane 23).wakeAt ≤ d.wall ∧
      d.b SWC_GCLCTL_EN 23 = false ∧ d.f SWC_PSTAT_GATES 23 = 0xFF ∧ d.f SWC_PCFG_CBSEN 23 = 0 ∧ (d.lane 23).cur = none ∧
      d.b ETH_MMCTL_ACTIVE 23 = false) ∧
    (let e := run { cur := some r }
     (e.lane 23).cur = some r ∧ e.b ETH_MMCTL_ACTIVE 23 = true ∧ (!(e.f SWC_PREEMPT_PMASK 23).testBit 7) = true ∧ (e.fr 3).ended = true ∧
     e.b SWC_FORCTL_EN = false ∧ (e.rd ETH_CNT_TXOK 23).toNat < 0xFFFFFFFE ∧ (e.fr 3).cells + e.f SWC_BUFSTAT_FREE < 65536 ∧ (e.fr 3).holders ≤ 1) ∧
    (let e := { run { held := some r } with swc := {} }
     (e.lane 23).held = some r ∧ (∀ c : Fin 8, e.headOf 23 c = none)) ∧
    (let e := { up 23 with frames := [(1, { port := 23, late := some 4095, ended := false })] }
     (e.fr 1).late = some 4095 ∧ (e.fr 1).ended = false ∧ (e.fr 1).port = 23 ∧ (e.rd SWC_DROP 23 3).toNat < 0xFFFFFFFF) := by decide +kernel

/-- A cycle start that is due, with and without an arm; the end of an entry of both kinds of list; the database full and not; an entry that has just aged,
a recovery function whose time has just passed. -/
theorem witness_GatesAndTablesOfTheSwitch :
    (let d := ((((atNs 1000).setB SWC_GCLCTL_EN true 23).setF SWC_GCLCYC_CYCLE 1000 23).setF SWC_GCLE_INTERVAL 500 23).setF SWC_GCLE_INTERVAL 500 23 1
     let t0 := wide64 (d.rd SWC_GCLBASE_LO 23) (d.rd SWC_GCLBASE_HI 23) + (d.ns - 0) / d.gclCycle 23 * d.gclCycle 23
     d.b SWC_GCLCTL_EN 23 = true ∧ wide64 (d.rd SWC_GCLBASE_LO 23) (d.rd SWC_GCLBASE_HI 23) ≤ d.ns ∧ (d.inst 24).last < t0 ∧
     (d.inst 24).next = [] ∧ (d.inst 24).timed = none ∧ (d.rd SWC_GCLCUT 23).toNat < 0xFFFFFFFF ∧
     (let e := { d with cmt := [(24, { next := [7200] })], swc := { D.swc with gcl := [(23, { on := true, start := 500 })] } }
      (∃ a ∈ (e.inst 24).next, a + e.freezeWin ≤ e.wall) ∧ (e.gclSt 23).on = true ∧ entryEnd 500 0 (e.gclEnts 23) ≤ e.ns ∧
      (e.gclEnts 23)[1]? = some (0xFF, 500))) ∧
    (let d := { (((atNs 100).setF SWC_SGATE_INTERVAL 100 31).setF SWC_SGATE_INTERVAL 100 31 1) with swc := { D.swc with sgate := [(31, { on := true })] } }
     (Tab.look d.swc.sgate {} 31).on = true ∧ entryEnd 0 0 (d.sgateEnts 31) ≤ d.ns ∧ 0 + 1 < (d.sgateEnts 31).length) ∧
    (D.accepts .sv0 SWC_FDBCMD 0 0 1 = true ∧ D.accepts .sv0 SWC_FDBCMD 0 0 4 = true ∧ D.b SWC_FDBCMD_BUSY = false ∧ D.swc.fdb.length < 8192 ∧
     D.fdbFind 0 0 = none ∧ 8192 ≤ ({ D.swc with fdb := (List.range 8192).map (fun k => (k + 1, ⟨1, true, 0⟩)) }).fdb.length) ∧
    (let d := { (D.setF SWC_CTL_AGE 1) with wall := 20000000000, swc := { D.swc with fdb := [(fdbKey 1 2, ⟨1, false, 0⟩)], srec := [(255, { any := false })] } }
     d.fdbFind 1 2 = some ⟨1, false, 0⟩ ∧ d.f SWC_CTL_AGE ≠ 0 ∧ 0 + d.f SWC_CTL_AGE * 20000000000 ≤ d.wall ∧
     (Tab.look d.swc.srec {} 255).any = false ∧ (Tab.look d.swc.srec {} 255).pass + d.f SWC_SREC_CFG_RESETMS 255 * 20000000 ≤ d.wall) := by
  decide +kernel

/-- FREE, LOCKED and SLEW; a clock invalid, near and far; an adjustment while one runs; the end of a slew; HOLDOVER past its limit. -/
theorem witness_TheTimeBaseFollowsItsTarget :
    let dc := fun (v : Nat) (d : Dev) => { (d.setB DC_CFG_EN true).setB DC_CFG_VALID true with tm := { d.tm with dc0 := { val := v } } }
    let near := dc (atNs 100).tb (atNs 100)
    let far := dc (200000 * tbUnit) (atNs 100)
    let far1 := (far.setF TIME_STAT_STATE 1).setF TIME_CTL_SEL 1
    (∀ n : Fin 8, D.b BRG_CTL_EN n = false) ∧ D.accepts .sv0 TIME_CTL 0 0 9 = true ∧ D.accepts .sv0 TIME_CTL 0 0 0 = true ∧ D.b DC_CFG_VALID 0 = false ∧
    near.b DC_CFG_VALID = true ∧ near.f TIME_STAT_STATE = 0 ∧ (9 : Word).getLsbD 3 = true ∧ (far.dc 0).val = 200000 * tbUnit ∧
    (far.rd TIME_STEPTHR).toNat * tbUnit < 200000 * tbUnit - far.tb ∧ ¬((near.rd TIME_STEPTHR).toNat * tbUnit < 0) ∧
    far1.f TIME_STAT_STATE = 1 ∧ far1.f TIME_STAT_ACTIVE = 0 ∧ far1.f TIME_CTL_SEL = 0 + 1 ∧
    D.accepts .sv0 DC_CFG 1 0 0x3000 = true ∧ (0x3000 : Word).getLsbD 13 = true ∧ (0x3000 : Word).getLsbD 12 = true ∧
    D.accepts .sv0 DC_ADJCTL 1 0 3 = true ∧ D.accepts .sv0 DC_ADJCTL 1 0 1 = true ∧ D.b DC_ADJCTL_BUSY 1 = false ∧
    (D.setB DC_ADJCTL_BUSY true 1).b DC_ADJCTL_BUSY 1 = true ∧ (D.dc 1).slew = 0 ∧
    (far1.rd TIME_STEPTHR).toNat * tbUnit < (((far1.wr DC_ADJ 0x7FFFFFFF).rd DC_ADJ).toInt * (tbUnit : Int)).natAbs ∧
    (near.setF TIME_STAT_STATE 2).f TIME_STAT_STATE = 2 ∧ (near.tb - (near.dc (near.f TIME_STAT_ACTIVE)).val) * 20 ≤ tbUnit ∧
    (let r := { (far1.setF TIME_CTL_SEL 3).setB TIME_STAT_ACTIVE true with wall := 20000000000 * 0x2710 }
     r.f TIME_CTL_SEL = 3 ∧ r.f TIME_STAT_ACTIVE ≠ r.f TIME_CTL_PRI ∧ r.b DC_CFG_VALID (r.f TIME_CTL_PRI) = true ∧
     (r.dc (r.f TIME_CTL_PRI)).validAt + r.f TIME_CTL_REVERTS * 20000000000 ≤ r.wall) ∧
    D.accepts .sv0 TIME_SETCMD 0 0 1 = true ∧ D.f TIME_CTL_SEL = 0 ∧ D.accepts .sv0 TIME_RATE 0 0 5 = true ∧
    (let h := { ((D.setF TIME_STAT_STATE 3).setB TIME_STAT_SYNC true) with wall := 10 ^ 20 }
     h.f TIME_STAT_STATE = 3 ∧ h.b TIME_STAT_SYNC = true ∧
     (h.rd TIME_HOLDLIM).toNat < h.f TIME_HOLD_HRATE * ((h.wall - h.tm.holdAt) / 20) / 10 ^ 9 ∧
     ¬((h.rd TIME_HOLDLIM).toNat < h.f TIME_HOLD_HRATE * ((0 - h.tm.holdAt) / 20) / 10 ^ 9)) := by decide +kernel

/-- The reads; a realignment; a refresh after which the lane may age, and one held; pulses and edges that count and that come too soon; targets now and past. -/
theorem witness_StampsPulsesAndTargets :
    let d := atNs 1000000000
    [(TIME_NOW_LO, 0), (DC_NOW_LO, 1), (TIME_RTC_LO, 0), (TIME_TSQ0, 0), (TIME_TSQ3, 0), (TIME_PPSI_LO, 0), (TIME_EV_LO, 1), (TIME_EV_FRAC, 1)].all
      (fun x => d.mayGet .sv1 x.1 x.2 0) = true ∧
    (d.setB TIME_STAT_SYNC true).b TIME_STAT_SYNC = true ∧ d.ns / 10 ^ 9 ≠ d.tm.rtcSec ∧
    (let u := { (up 23).setF TIME_CALSTAT_STATE 1 23 with wall := 10 ^ 18 }
     u.b ETH_STAT_LPI_TX 23 = false ∧ u.b ETH_STAT_LPI_RX 23 = false ∧ u.b ETH_STAT_LINK 23 = true ∧ u.f PWR_STAT_STATE ≠ 2 ∧
     u.f TIME_CALSTAT_STATE 23 = 1 ∧ max 1 (u.f TIME_CALCTL_AGEMS) ≤ min 0xFFFFFF ((u.wall - Tab.look u.tm.cal 0 23) / 20000000) ∧
     D.b ETH_STAT_LINK 23 = false) ∧
    (let p := ((d.setB TIME_PPSO_CFG_EN true).setF TIME_PPSO_PER_PER 1000).setF TIME_PPSO_WID_WID 100
     p.b TIME_PPSO_CFG_EN = true ∧ p.tm.ppsOut = false ∧ p.tm.ppsLast < (0 + 1000 - 0) / 1000 * 1000 + 0 ∧
     (0 + 1000 - 0) / 1000 * 1000 + 0 ≤ p.srcClock (p.f TIME_PPSO_CFG_SRC) / tbUnit % 2 ^ 64 ∧ p.b TIME_PPSO_CFG_SYNCGATE = true ∧
     (p.setB TIME_PPSO_CFG_SYNCGATE false).b TIME_PPSO_CFG_SYNCGATE = false ∧ p.b TIME_STAT_SYNC = false ∧
     ({ p.tm with ppsOut := true }).ppsEnd ≤ p.ns) ∧
    (let p := d.setB TIME_PPSI_CFG_EN true
     p.b TIME_PPSI_CFG_EN = true ∧ p.f TIME_PPSI_CFG_EDGE = 0 ∧ p.tm.ppsiAt = none ∧ p.wall < p.wall - 1999 + 2000) ∧
    (let e := d.setF TIME_EV_CFG_EDGE 3 1
     e.f TIME_EV_CFG_EDGE 1 = 3 ∧ e.tm.evAt1 = none ∧ (e.evq 1).length < 16 ∧ (e.rd TIME_EV_MISS 1).toNat < 0xFFFFFFFF ∧
     16 ≤ (({ e with tm := { e.tm with ev1 := List.replicate 16 (⟨0, 0⟩, true) } }).evq 1).length) ∧
    (d.accepts .sv0 TIME_TGTCTL 0 0 ((d.rd TIME_TGTCTL &&& 0xF) ||| (1 <<< 3)) = true ∧ (∀ i : Fin 4, i ≠ 3 → (d.rd TIME_TGTCTL).getLsbD i = true → d.ns < d.tgt i) ∧
     wide64 (d.rd TIME_TGT_LO 3) (d.rd TIME_TGT_HI 3) ≤ d.ns ∧
     d.ns < wide64 ((d.wr TIME_TGT_LO 1000000001 3).rd TIME_TGT_LO 3) (d.rd TIME_TGT_HI 3) ∧ ((d.setF TIME_TGTCTL_EN 8).rd TIME_TGTCTL).getLsbD 3 = true) := by
  decide +kernel

/-- Bus 15, error-active and bound, after reset else. -/
def bus : Dev := (((D.setF MDB_STAT_STATE 2 15).setF ENG_BIND_LANE 39 31 15).setB ENG_BIND_VALID true 31 15).setB MDB_CTL_EN true 15

/-- An armed bus frame: 2 bytes, identifier 0x7FF; with the priority bit; timed. -/
def arm0 : Arm := { eng := 31, slot := some 3, bytes := [0, 0, 7, 0xFF, 2, 0, 0, 0, 1, 2] }
def armPs : Arm := { eng := 31, slot := some 3, bytes := [0, 0, 7, 0xFF, 0x22, 0, 0x80, 1, 1, 2] }

/-- Settings good and bad; frames accepted, refused, with every buffer taken; what is offered, sent and fails at either end of the error counter;
held arms; recovery. -/
theorem witness_BusesSendReceiveSleepAndKeepTime :
    (D.accepts .sv0 MDB_CTL 15 0 (0 ||| 1) = true ∧ D.b MDB_CTL_EN 15 = false ∧ ¬(D.f MDB_NBT_NTSEG2 15 < D.f MDB_NBT_NSJW 15) ∧
      (D.setF MDB_NBT_NSJW 127 15).f MDB_NBT_NTSEG2 15 < (D.setF MDB_NBT_NSJW 127 15).f MDB_NBT_NSJW 15) ∧
    (bus.boundEng 39 = some 31 ∧ bus.f MDB_STAT_STATE 15 = 2 ∧ (bus.mbus 15).listen = false ∧ bus.isRef 15 { id := 1, dlc := 0 } = false ∧
      bus.b MDB_FLT_FID_EN 15 31 = false ∧ (bus.rd MDB_CNT_RXFILT 15).toNat < 0xFFFFFFFF ∧ bus.f MDB_STAT_TEC 15 ≤ 127 ∧ bus.f MDB_STAT_REC 15 ≤ 127) ∧
    (let d := { bus.setB MDB_FLT_FID_EN true 15 31 with mb := [(15, { listen := true })] }
     (List.range 32).find? (fun k => d.b MDB_FLT_FID_EN 15 k && d.b MDB_FLT_FID_IDE 15 k == false
       && ((0 ^^^ d.f MDB_FLT_FID_FID 15 k) &&& d.f MDB_FLT_MASK_MASK 15 k) == 0) = some 31 ∧ d.b MDB_FLT_MASK_REJECT 15 31 = false ∧
     (d.mbus 15).listen = true ∧ (d.mbRxUsed 15).length < 32 ∧ (d.e 31).wq.length < 64 ∧
     32 ≤ (({ d with mb := [(15, { rx := List.range 32 })], frames := (List.range 32).map (fun k => (k, {})) }).mbRxUsed 15).length) ∧
    (let d := { (bus.setB MDB_TMSTAT_SYNCED true 15).setB MDB_CTL_TXWAKE false 15 with mb := [(15, { held := [armPs], fifo := [arm0] })] }
     (d.mbus 15).held = armPs :: [] ∧ armPs.slot = some 3 ∧ d.b MDB_CTL_TXWAKE 15 = false ∧ mbPrio armPs.bytes = true ∧ (d.mbus 15).ps = none ∧
     d.b MDB_TMSTAT_SYNCED 15 = true ∧ mbPrio arm0.bytes = false ∧ mbAten arm0.bytes = false ∧ mbAten armPs.bytes = true ∧ (d.mbus 15).fifo = arm0 :: [] ∧
     (d.mbus 15).refDue = false ∧ (d.mbus 15).cur = none ∧ (d.mbus 15).fifo.length < 64) ∧
    (let d := fun tec => { bus.setF MDB_STAT_TEC tec 15 with mb := [(15, { cur := some ⟨.fifo, { id := 1, dlc := 0 }, 0, false⟩, fifo := [arm0] })] }
     ((d 119).mbus 15).cur = some ⟨.fifo, { id := 1, dlc := 0 }, 0, false⟩ ∧ (d 119).f MDB_STAT_TEC 15 + 8 ≤ 127 ∧ 255 < (d 248).f MDB_STAT_TEC 15 + 8) ∧
    (let ctl := bus.rd MDB_CTL 15 &&& 0xFF
     [0x100, 0x200, 0x400, 0x800].all (fun v => bus.accepts .sv0 MDB_CTL 15 0 (ctl ||| v)) = true ∧
     (let d := { (bus.setF MDB_STAT_STATE 4 15).setB MDB_CTL_BOREC true 15 with mb := [(15, { off := 1 })] }
      d.b MDB_CTL_BOREC 15 = true ∧ (d.mbus 15).off = 1 ∧ d.f MDB_STAT_STATE 15 = 4) ∧
     (({ bus.setF MDB_STAT_STATE 5 15 with mb := [(15, { off := 2 })] }).mbus 15).off = 2 ∧
     (let d := bus.setF MDB_CTL_MODE 1 15
      decide (d.f MDB_CTL_MODE 15 ≠ 0) ≠ (d.mbus 15).listen)) := by decide +kernel

/-- Asleep: wakes by level, by frame, by request, chatter, quarantine. Time: a reference message due, received, missed. -/
theorem witness_BusesSendReceiveSleepAndKeepTime_asleep :
    (let d := { bus.setF MDB_STAT_STATE 6 15 with mb := [(15, { dec := true, det := { live := true } })], wall := 10 ^ 15 }
     d.f MDB_STAT_STATE 15 = 6 ∧ d.b MDB_WAKE_QUAR 15 = false ∧ d.b MDB_WAKE_WAKEMODE 15 = false ∧ [d.wall].length ≤ d.f MDB_WAKECHAT_CHATMAX 15 ∧
     (d.setF MDB_WAKECHAT_CHATMAX 0 15).f MDB_WAKECHAT_CHATMAX 15 < [d.wall].length ∧ (d.setB MDB_WAKE_QUAR true 15).b MDB_WAKE_QUAR 15 = true ∧
     (d.mbus 15).det.actAt + 100 * d.f MDB_WAKECHAT_QUIET 15 * 20000000 ≤ d.wall ∧
     (d.mbus 15).det.actAt + 100 * d.f MDB_WAKECHAT_STUCK 15 * 20000000 ≤ d.wall ∧ (d.mbus 15).dec = true ∧
     160 ≤ (d.setF MDB_NBT_NBRP 15 15).mbNominal 15 ∧ (d.rd MDB_WKID 15).getLsbD 30 = false ∧ (d.mbus 15).trim + 20000000000 ≤ d.wall) ∧
    (({ bus with mb := [(15, { sleepReq := true })] }).mbus 15).sleepReq = true ∧ (bus.setF MDB_STAT_STATE 1 15).f MDB_STAT_STATE 15 = 1 ∧
    (let d := { (atNs 100000000).setF MDB_TMCFG_ROLE 2 15 with mb := [(15, { refPend := some (some 63, 9) })] }
     d.f MDB_TMCFG_ROLE 15 = 2 ∧ (d.mbus 15).refLast < 0 + (d.ns - 0 - 0) / d.tmPer 15 * d.tmPer 15 ∧ (d.mbus 15).refPend = some (some 63, 9) ∧
     (d.inst 72).next = [] ∧ 2 * (d.mbus 15).refAt + 3 * d.tmPer 15 ≤ 2 * (atNs 150000000).ns ∧ d.mayGet .sv0 MDB_TMREF_LO 15 0 = true) := by
  decide +kernel

/-- Ring 0 in state `st` as node 1, slot 0 its own and a sync slot, lanes 40 and 41, both bound to engine 31, a round of 1 ms of 64 slots at most. -/
def rg (st : Nat) : Dev :=
  let d := (((D.setF BRG_STAT_STATE st).setF BRG_CFG_EAST 40).setF BRG_CFG_WEST 41).setF BRG_CFG_NODEID 1
  let d := (((d.setB BRG_SLOT_EN true).setB BRG_SLOT_SYNC true).setF BRG_SLOT_OWNER 1).setB BRG_NODE_VALID true 0 1
  let d := (d.setB BRG_NODE_VALID true 0 0).setF BRG_NODE_POS 1 0 1
  let d := ((d.setF ENG_BIND_LANE 40 31 0).setB ENG_BIND_VALID true 31 0).setF ENG_BIND_LANE 41 31 1
  ((d.setB ENG_BIND_VALID true 31 1).setF ENG_LOAD_LOADID 0x000A 31).setF BRG_SCHED_NSLOT 1

/-- The header of a sync frame of node 0, slot 1, sent westward. -/
def hdr0 : List Byte := [0xA0, 1, 0, 5, 0, 0, 0, 0]

/-- An enabling that is refused and one that is not; a round's end; a slot that is ours; a copy that fails, integrates, is out of band, is our own;
silence long enough; PASSIVE by request. -/
theorem witness_RingsKeepTheirSchedule :
    ((rg 0).accepts .sv0 BRG_CTL 0 0 (0 ||| 1) = true ∧ (rg 0).b BRG_CTL_EN = false ∧ (rg 0).f BRG_STAT_STATE = 0 ∧ (rg 0).boundEng 40 = some 31 ∧
      (rg 0).boundEng 41 = some 31 ∧ (rg 0).f ENG_LOAD_LOADID 31 = 0x000A ∧ (rg 0).f BRG_CFG_EAST = 40 ∧ (rg 0).f BRG_CFG_WEST = 41 ∧
      (D.setF BRG_CFG_EAST 39).f BRG_CFG_EAST < 40) ∧
    (let d := { rg 4 with tb := 1000000 * tbUnit, rings := [(0, { start := 0 })] }
     d.f BRG_STAT_STATE = 4 ∧ ((d.ring 0).start / (d.roundLen 0 : Int) + 1) * (d.roundLen 0 : Int) ≤ d.ringNow 0 ∧
     d.roundLen 0 = d.scycNs * 20 / 2 ^ d.f BRG_SCHED_RDIV ∧ (d.inst 49).next = [] ∧ (d.inst 49).timed = none ∧ d.brgError 0 = false) ∧
    (let d := { rg 4 with tb := 1000 * tbUnit, rings := [(0, { bufs := [(0, [7])] })] }
     d.f BRG_STAT_STATE = 4 ∧ 0 ∈ d.brgOwned 0 ∧ d.b BRG_STAT_SCHEDERR = false ∧ 0 ∉ (d.ring 0).done ∧
     (d.ring 0).start + ((d.brgKerf 0 / 2 : Nat) : Int) ≤ d.ringNow 0 ∧ d.ringNow 0 < (d.ring 0).start + (d.brgSlotNs 0 : Int) ∧
     (d.ring 0).bufs.find? (fun e => e.1 == 0) = some (0, [7])) ∧
    (let d := rg 1
     let h := ringHdr hdr0
     (d.rd BRG_CNT_RXFAIL).toNat < 0xFFFFFFFF ∧ h.node ≠ d.brgMe 0 ∧ h.west = true ∧ h.sync = true ∧ d.b BRG_NODE_VALID 0 h.node = true ∧
     (d.brgHops 0 h (h.west == true)).isEmpty = false) ∧
    (let d := { rg 4 with tb := 500000 * tbUnit }
     let h := ringHdr hdr0
     d.brgInBand 0 h (d.brgHops 0 h true) = false ∧ (ringHdr [1, 0, 0, 0, 0, 0, 0, 0]).node = d.brgMe 0 ∧
     (let e := { d with tb := ((d.brgSlotAt 0 h.slot).toNat + d.brgKerf 0 / 2 + 4 * d.brgByte 0 + 1 * d.brgHop 0) / 20 * tbUnit }
      e.brgInBand 0 h (e.brgHops 0 h true) = true ∧ e.boundEng 40 = some 31 ∧ (h.null = false ∨ e.b BRG_CTL_POSTNULL = true) ∧ (e.e 31).wq.length < 64)) ∧
    (let d := { ((rg 1).setB BRG_CTL_CSEN true).setB CLK_STAT_RCACT false with wall := 10 ^ 12 }
     d.b BRG_CTL_CSEN = true ∧ (d.ring 0).since + (2 * d.roundLen 0 + d.brgMe 0 * 8 * d.brgSlotNs 0 + 0) ≤ d.wall ∧ d.b CLK_STAT_RCACT = false ∧
     d.brgError 0 = false ∧ d.brgSyncOwned 0 = 0 :: []) ∧
    (rg 3).f BRG_STAT_STATE = 3 ∧ ((rg 3).setF BRG_STAT_PCAUSE 4).f BRG_STAT_PCAUSE = 4 ∧ (rg 2).f BRG_STAT_STATE = 2 := by decide +kernel

/-- Serial lane 15 bound and running. -/
def sl15 : Dev := ((D.setF SLN_STAT_STATE 1 15).setF ENG_BIND_LANE 55 31 0).setB ENG_BIND_VALID true 31 0

/-- Settings good and bad; a first character with and without room, one more, the end of frames of each framing with a good and a bad check; lock gained
and lost; a frame that starts, ends, its driver off; flush, sleep and wake requests; asleep: an edge, chatter, quarantine, stuck; a held arm. -/
theorem witness_SerialLanesFrameAndDrive :
    (D.accepts .sv0 SLN_CTL 15 0 (0 ||| 1) = true ∧ D.b SLN_CTL_EN 15 = false ∧ D.f SLN_STAT_STATE 15 = 0 ∧ D.f SLN_RATE_DIV 15 ≠ 0 ∧
      (D.setF SLN_RATE_DIV 0 15).f SLN_RATE_DIV 15 = 0) ∧
    (let d := sl15.setB SLN_CTL_DUPLEX true 15
     d.boundEng 55 = some 31 ∧ d.f SLN_STAT_STATE 15 = 1 ∧ d.ringOfLane 55 = none ∧ d.b SLN_CTL_DUPLEX 15 = true ∧ d.slCode 15 = 0 ∧
     d.slFraming 15 < 2 ∧ (d.sln 15).rx = .none ∧ (d.slMem 15).foldl (fun a y => a + y.2) 0 + d.slMax 15 ≤ 8192 ∧ (d.e 31).wq.length < 64 ∧
     (let e := { d with sl := [(15, { mem := [(9, 8192)] })], frames := [(9, {})] }
      8192 < (e.slMem 15).foldl (fun a y => a + y.2) 0 + e.slMax 15) ∧
     (let e := { d with sl := [(15, { rx := .frame 9, rxLast := 0 })], frames := [(9, { bytes := [1, 2], ended := false })], wall := 10 ^ 12 }
      (e.sln 15).rx = .frame 9 ∧ (e.fr 9).bytes.length < e.slMax 15 ∧ (e.sln 15).rxLast + e.f SLN_GAP_IDLEGAP 15 * e.slBit 15 / 2 ≤ e.wall ∧
      e.slFraming 15 = 0 ∧ (e.setF SLN_CTL_FRAMING 3 15).slFraming 15 = 3 ∧ (e.setF SLN_CTL_FRAMING 1 15).slFraming 15 = 1 ∧
      modbusCrc (e.fr 9).bytes ≠ 0 ∧ modbusCrc ([7] ++ slCheck 1 [7]) = 0 ∧
      hdlcFcs ([1] ++ slCheck 3 [1]) = 0xF0B8 ∧ 3 ≤ ([1] ++ slCheck 3 [1]).length ∧ hdlcFcs [1, 2, 3] ≠ 0xF0B8 ∧ [1, 2].length < 3)) ∧
    ((sl15.setF SLN_CTL_CODE 1 15).slCode 15 ≠ 0 ∧ (sl15.setB SLN_STAT_LOCK true 15).b SLN_STAT_LOCK 15 = true ∧ sl15.b SLN_STAT_LOCK 15 = false) ∧
    (let d := { sl15 with sl := [(15, { store := [([1, 2], 0), ([3], 0)] })], wall := 10 ^ 12 }
     (d.sln 15).store = ([1, 2], 0) :: [([3], 0)] ∧ (d.sln 15).cur = none ∧
     max (max (d.sln 15).txLast (d.sln 15).rxLast + d.f SLN_GAP_IFGAP 15 * d.slBit 15 / 2) (0 + d.f SLN_DE_LEAD 15 * d.slBit 15 / 16) ≤ d.wall ∧
     (({ d with sl := [(15, { cur := some (10 ^ 12) })] }).sln 15).cur = some (10 ^ 12) ∧
     (d.sln 15).txLast + d.f SLN_DE_TAIL 15 * d.slBit 15 / 16 ≤ d.wall ∧ sl15.b SLN_CTL_DEHOLD 15 = false ∧ (sl15.sln 15).store = []) ∧
    ([0x10000, 0x20000, 0x40000].all (fun v => sl15.accepts .sv0 SLN_CTL 15 0 ((sl15.rd SLN_CTL 15 &&& 0x3FFF) ||| v)) = true ∧
      (sl15.setB SLN_CTL_EN true 15).b SLN_CTL_EN 15 = true ∧ (({ sl15 with sl := [(15, { sleepReq := true })] }).sln 15).sleepReq = true) ∧
    (let d := { (sl15.setF SLN_STAT_STATE 2 15) with sl := [(15, { det := { live := true } })], wall := 10 ^ 15 }
     d.f SLN_STAT_STATE 15 = 2 ∧ d.b SLN_WAKE_QUAR 15 = false ∧ [d.wall].length ≤ d.f SLN_WAKECHAT_CHATMAX 15 ∧
     (d.setF SLN_WAKECHAT_CHATMAX 0 15).f SLN_WAKECHAT_CHATMAX 15 < [d.wall].length ∧
     (d.sln 15).det.actAt + 100 * d.f SLN_WAKECHAT_STUCK 15 * 20000000 ≤ d.wall ∧ (d.sln 15).det.actAt + 100 * d.f SLN_WAKECHAT_QUIET 15 * 20000000 ≤ d.wall) ∧
    (let d := { sl15.setB SLN_CTL_TXWAKE false 15 with sl := [(15, { held := [{ eng := 31, slot := none, bytes := [1] }] })] }
     (d.sln 15).held = { eng := 31, slot := none, bytes := [1] } :: [] ∧ d.slUsed 15 + 1 ≤ 4096 ∧ d.b SLN_CTL_TXWAKE 15 = false) := by decide +kernel

/-- Group 0: word `w` at PC 0, machine 0 enabled and in state `m`, 1 ms of wall time past. -/
def pg (w : Word) (m : PioM) : Dev :=
  { ((D.wr PIO_PROG w 0 0).setF PIO_CTL_EN 1 0) with pio := [(0, { m := [(0, m)] })], wall := 20000000 }

/-- Machine 0 may take the instruction `w` at its PC. -/
def pgTakes (w : Word) (m : PioM) : Bool :=
  (pg w m).pioM 0 0 == m && m.run && !m.fault && !m.stall && !m.mid && decide (m.due ≤ (pg w m).wall) && (pg w m).rd PIO_PROG 0 m.pc == w
    && pioValid w && m.timed.isNone

/-- Every operation with an instruction word of it at both ends of its fields; queues empty, short and full; a reserved word; shifts in progress; holds. -/
theorem witness_PioGroupsRun :
    [((0x00FFAA : Word), 0), (0x01FFAA, 0), (0x000000, 0), (0x10FFFF, 1), (0x110000, 1), (0x200107, 2), (0x210000, 2), (0x220000, 2), (0x230100, 2), (0x240000, 2),
      (0x300000, 3), (0x300080, 3), (0x3000FF, 3), (0x400000, 4), (0x40009F, 4), (0x500000, 5), (0x530000, 5), (0x54F7FF, 5), (0x551000, 5), (0x551800, 5), (0x523000, 5),
      (0x523800, 5), (0x566000, 5), (0x577000, 5), (0x60003F, 6), (0x69073F, 6), (0x7000FF, 7), (0x7002FF, 7), (0x800000, 8), (0x900000, 9), (0x900007, 9)].all
      (fun x => pgTakes x.1 { run := true } && pioOp x.1 == x.2) = true ∧
    getBits (0x300080 : Word) 5 2 = 0 ∧ getBits (0x00009F : Word) 5 2 = 0 ∧
    (pgTakes 0x110000 { run := true, target := some 10 } = true ∧ (pg 0 {}).stamp < 10 ∧ pgTakes 0x110000 { run := true, target := some 0 } = true ∧ (pg 0 {}).stamp = 0) ∧
    (let m : PioM := { run := true, txq := [5, 6] }
     [(0x300080 : Word), 0x551000, 0x800000].all (fun w => pgTakes w m) = true ∧ m.txq = 5 :: [6] ∧ m.bcnt = 0) ∧
    (let d := (pg 0x523000 { run := true, rxq := List.replicate 8 0 })
     d.rxFull 0 0 = true ∧ (pg 0x523000 { run := true }).rxFull 0 0 = false ∧ d.b PIO_SM_QCFG_FRAME 0 0 = false ∧ 16 - d.txd 0 0 < 8 + 2 ∧ 0 + 2 ≤ 16 - d.txd 0 0) ∧
    (let d := pg 0x900007 { run := true }
     let p := d.pg 0
     (Tab.look p.lvlBy (0, 4) 7).1 ≠ d.wall / 50 ∧ p.markAt ≠ d.wall / 50 ∧
      (let q : PioG := { edges := [(7, { rises := 1 })] }
       ([0, 0, 0, 0, 0, 0, 0, 0].getD 7 0) < (Tab.look q.edges {} 7).rises + (Tab.look q.edges {} 7).falls)) ∧
    (let f := fun (w : Word) (q : List Word) => ({ run := true, mid := true, ph := 2, instr := w, rxq := q } : PioM)
     [(0x300000 : Word), 0x400000, 0x400080].all (fun w => (f w []).run && (f w []).mid && (f w []).ph == 2 && !w.getLsbD 6 && (f w []).bcnt + 1 == shiftBits w) = false ∧
     [(0x300001 : Word), 0x400001, 0x400081].all (fun w => (f w []).run && (f w []).mid && (f w []).ph == 2 && !w.getLsbD 6 && (f w []).bcnt + 1 == shiftBits w) = true ∧
     (pg 0 (f 0x400081 (List.replicate 8 0))).rxFull 0 0 = true ∧ (f 0x400081 []).timed = none) ∧
    (pioValid 0xF00000 = false ∧ (pg 0xF00000 { run := true }).rd PIO_PROG 0 0 = 0xF00000 ∧ pioValid 0x120000 = false ∧ pioValid 0x6A0000 = false) ∧
    (let m : PioM := { run := true, mid := true, stall := true, instr := 0x10FFFF, due := 30000000 }
     let h : PioM := { run := true, mid := true, stall := true, instr := 0x110000, target := some 0 }
     pioOp m.instr = 1 ∧ m.instr.getLsbD 16 = false ∧ (pg 0 m).wall < m.due ∧ { m with due := 0 }.due ≤ (pg 0 m).wall ∧
     pioOp h.instr = 1 ∧ h.instr.getLsbD 16 = true ∧ h.instr.getLsbD 17 = false ∧ 0 ≤ (pg 0 h).stamp) ∧
    (D.accepts .sv0 PIO_CTL 7 0 ((0xF : BitVec 4).setWidth 32 ||| (D.rd PIO_CTL 7 &&& 0x300)) = true ∧ (D.setB CLK_STAT_RCACT false).b CLK_STAT_RCACT = false ∧
      D.accepts .sv0 PIO_CTL 7 0 ((D.rd PIO_CTL 7 &&& 0x30F) ||| 0x10) = true ∧ D.mayArm .sv0 (41 + 7) = true) ∧
    (D.accepts .sv0 PIO_SM_TXQ 7 3 0xFFFFFFFF = true ∧ 0 < min 16 (D.f PIO_SM_QCFG_TXD 7 3) ∧ min 16 (D.f PIO_SM_QCFG_TXD 7 3) ≤ (List.replicate 8 (0 : Word)).length ∧
      D.mayGet .sv0 PIO_SM_RXQ 7 3 = true ∧ D.b PIO_SM_QCFG_FRAME 7 3 = false ∧ D.mayGet (.ce 31) PIO_SM_RXQ 7 3 = true ∧
      D.accepts .sv0 PIO_SM_QCFG 7 3 8 = true ∧ min 16 (getBits 8 0 5) = D.txd 7 3 ∧ D.accepts .sv0 PIO_SM_QCFG 7 3 16 = true ∧ min 16 (getBits 16 0 5) ≠ D.txd 7 3 ∧
      D.accepts .sv0 PIO_SM_TM_LO 7 3 0xFFFFFFFF = true ∧ D.accepts .sv0 PIO_PROG 7 63 0xFFFFFF = true ∧ (D.pioM 7 3).run = false) ∧
    ((D.pg 7).markAt ≠ 20000000 / 50 ∧ (({ D with pio := [(7, { markAt := 0, markSet := 1 })] }).pg 7).markAt = D.wall / 50) ∧
    ((pg 0 { feed := [({ eng := 31, slot := none, bytes := [] }, [9])] }).pioM 0 0).feed = [({ eng := 31, slot := none, bytes := [] }, [9])] ∧
    (D.pg 7).dir.getLsbD 0 = false ∧ (D.pg 7).ext.getLsbD 0 ≠ true := by decide +kernel

/-- A part with `w` of wall time past. -/
def past (d : Dev) (w : Nat) : Dev := { d with wall := w }

/-- A part whose station block is in state `s`. -/
def station (d : Dev) (s : Stn) : Dev := { d with stn := s }

/-- A channel due with a result that is whole, one between codes, one outside its limits; inputs that change, are quarantined, wake, are stuck. -/
theorem witness_StationInputsSentinelAndLastGasp :
    (let d := past (((D.setF AFE_CTL_EN1 1).setF AFE_CH_EN 1 23).setF AFE_CH_AVG 1 23) 20000
     (23 / 12 ≠ 0 ∧ d.afeNext 1 = some 23 ∧ ([7, 7] : List (BitVec 16)).length = 2 ^ d.f AFE_CH_AVG 23 ∧ d.stnRuns = true ∧ d.stn.afeAt1 + 10000 * 2 ≤ d.wall) ∧
     14 % 2 = 0 ∧ 15 % 2 ≠ 0 ∧ (d.setF AFE_LIM_HI 6 23).f AFE_LIM_HI 23 < 7 ∧ 7 < (d.setF AFE_LIM_LO 8 23).f AFE_LIM_LO 23 ∧ d.mayGet .sv0 AFE_RES 23 0 = true) ∧
    (let d := past (station D { diWin := 0, di := [(31, { raw := true, count := 255 })] }) (10 ^ 15)
     let quar := fun (e : Dev) => decide (e.f DI_CFG_CHATMAX 31 ≠ 0) && decide (e.f DI_CFG_CHATMAX 31 < 256) && !(e.rd DI_QUAR).getLsbD 31
     ((d.di 31).raw ≠ false ∧ (d.di 31).count = 255 ∧ quar d = true ∧ quar (d.setF DI_CFG_CHATMAX 0 31) = false ∧ quar (d.wr DI_QUAR 0x80000000) = false) ∧
     ((d.rd DI_STATE).getLsbD 31 ≠ ((d.di 31).raw != d.b DI_CFG_POL 31) ∧ (d.di 31).at' + max 1 (d.f DI_CFG_FILT 31) * 2000000 ≤ d.wall ∧
       (d.rd DI_QUAR).getLsbD 31 = false ∧ ((d.wr DI_QUAR 0x80000000).rd DI_QUAR).getLsbD 31 = true) ∧
     (let e := (d.wr DI_QUAR 0x80000000).wr DI_STATE 0x80000000
      (e.rd DI_QUAR).getLsbD 31 = true ∧ (e.di 31).at' + e.f DI_TIMING_QUIET * 2000000000 ≤ e.wall ∧ (e.rd DI_STATE).getLsbD 31 ≠ (e.di 31).told ∧
        ((d.wr DI_QUAR 0x80000000).rd DI_STATE).getLsbD 31 = (d.di 31).told) ∧
     (let e := (d.wr DI_STATE 0x80000000).setF DI_CFG_STUCK 1 31
      e.f DI_CFG_STUCK 31 ≠ 0 ∧ (e.rd DI_STATE).getLsbD 31 = true ∧ (e.rd DI_STUCK).getLsbD 31 = false ∧ (e.di 31).actAt + e.f DI_CFG_STUCK 31 * 20000000000 < e.wall) ∧
     d.stn.diWin + d.f DI_TIMING_CHATWIN * 2000000000 ≤ d.wall) := by decide +kernel

/-- A half-cycle that sags, that is lost, that is both; each trigger; an entry; each source of the last gasp, its record and its end. -/
theorem witness_StationInputsSentinelAndLastGasp_gasp :
    (let d := ((((D.setB CLK_STAT_RCACT false).setB SENT_CTL_EN true).setB SENT_CMP_T_EN true 1).setF SENT_SAG_SAGLVL 100).setF SENT_SAG_LOSSLVL 50
     (d.b SENT_CTL_EN = true ∧ d.stnAwake = true ∧ d.b CLK_STAT_RCACT = false ∧ d.f SENT_CTL_CH ≠ 1 - 1) ∧
     (d.b SENT_CMP_T_EN 1 = true ∧ (d.sense 1).pos ≠ 0 ∧ (d.sense 1).blank ≤ d.wall ∧ d.wall < ({ d.sense 1 with blank := 1 }).blank) ∧
     (99 < d.f SENT_SAG_SAGLVL ∧ ¬99 < d.f SENT_SAG_LOSSLVL ∧ 0 + 1 ≠ d.f SENT_SAGT_SAGHC ∧ 1 + 1 = d.f SENT_SAGT_SAGHC ∧
       3 + 1 = d.f SENT_SAGT_LOSSHC ∧ (d.setF SENT_SAGT_SAGHC 4).f SENT_SAGT_SAGHC = 4) ∧
     ((d.sense 1).zeroOut = false ∧ (d.sense 1).zeroAt + (if d.b SENT_CTL_FNOM then 250000000 else 300000000) ≤ 300000000)) ∧
    (D.accepts .sv0 SENT_CAP 0 0 ((D.rd SENT_CAP &&& 0x3FFFFF) ||| 0x1000000) = true ∧ D.accepts .sv0 SENT_CAP 0 0 ((D.rd SENT_CAP &&& 0x3FFFFF) ||| 0x2000000) = true ∧
      (let d := (D.setF SENT_CAP_TRIGMASK 0x3F).setF SENT_CAPSTAT_STATE 1
       [0, 1, 2, 3, 4, 5].all (fun b => (d.f SENT_CAP_TRIGMASK).testBit b) = true ∧ d.f SENT_CAPSTAT_STATE = 1 ∧ (d.setF SENT_CAPSTAT_STATE 2).f SENT_CAPSTAT_STATE = 2) ∧
      D.mayGet .sv0 SENT_EVQ2 0 0 = true ∧ D.stn.evq = []) ∧
    (let d := past (station (D.setF SENT_LGCTL_SRC 0xF) { failLow := some 0, in0 := { loss := true }, in1 := { sag := true } }) 20000
     let e := (d.setB SENT_LGCTL_EN true).setB SENT_LG_VALID true 3
     [0, 1, 2, 3].all (fun b => e.b SENT_LGCTL_EN && (e.f SENT_LGCTL_SRC).testBit b && e.gaspCause b) = true ∧ e.stnAwake = true ∧
     e.b SENT_LG_VALID 3 = true ∧ e.f SENT_LG_LEN_LEN 3 = 0 ∧ e.b SENT_LG_VALID 0 = false) ∧
    (let d := past (station D { gasp := { shed := true, outs := [.none, .none, .none, .none], pwr := [(23, 0)] } }) 2000000000
     d.b SENT_LGSTAT_JDONE = false ∧ d.stn.gasp.outs ≠ [] ∧ d.stn.gasp.at' + 2000000000 ≤ d.wall ∧ d.stn.gasp.shed = true ∧
     d.stn.gasp.at' + d.f SENT_LGCTL_LGREC * 20000000 ≤ d.wall ∧ d.stn.gasp.pwr = [((23 : Fin 24).val, (0 : Fin 4).val)]) := by decide +kernel

/-- After reset with every comb bank open to all masters. -/
def openBanks : Dev := (List.range 16).foldl (fun d b => d.setF MEM_BANKOWN_OWNER 0x3F b) D

/-- A capture that ends, its buffer the first 128 KiB of comb memory, all of it free. -/
theorem witness_StationInputsSentinelAndLastGasp_capture :
    (let d := past ((((openBanks.setF SENT_CAPSTAT_STATE 2).setB CLK_STAT_RCACT false).setB SENT_CTL_EN true).wr SENT_BASE 0x20000000) (10 ^ 10)
     d.f SENT_CAPSTAT_STATE = 2 ∧ d.b SENT_CTL_EN = true ∧ d.stnAwake = true ∧ d.b CLK_STAT_RCACT = false ∧ 65536 - d.f SENT_CAP_PRE ≤ 65536 ∧
       d.stn.trigAt + (65536 - d.f SENT_CAP_PRE) * 5000 ≤ d.wall ∧ (d.rd SENT_BASE).toNat / 256 * 256 = 0x20000000) ∧
    (∀ i, i < 65536 → openBanks.combFree .stn (0x20000000 + 2 * i) 2 true = true) := by
  refine ⟨by decide +kernel, fun i hi => ?_⟩
  have ho : ∀ b, b < 16 → openBanks.ownerIncl (openBanks.f MEM_BANKOWN_OWNER b) .stn = true ∧ openBanks.memOn b = true := by decide +kernel
  have hb : combBank (0x20000000 + 2 * i) < 16 := by unfold combBank; omega
  have hr : regionOf (0x20000000 + 2 * i) = .comb := by unfold regionOf; simp only [show ¬(0x20000000 + 2 * i < 0x20000000) by omega,
    show ¬(0x20000000 + 2 * i < 0x20000) by omega, show ¬(0x20000000 + 2 * i < 0x10000000) by omega, show ¬(0x20000000 + 2 * i < 0x10080000) by omega,
    show ¬(0x20000000 + 2 * i < 0x10100000) by omega, show ¬(0x20000000 + 2 * i < 0x10180000) by omega, show 0x20000000 + 2 * i < 0x20400000 by omega, if_true, if_false]
  have hk : pwrKey (0x20000000 + 2 * i) = some (combBank (0x20000000 + 2 * i)) := by unfold pwrKey; rw [hr]
  have he : openBanks.eng = [] ∧ openBanks.poison = [] ∧ openBanks.badPar = [] ∧ openBanks.reloads = [] := by decide +kernel
  have hl : openBanks.combWaits .stn (0x20000000 + 2 * i) true = false := by
    simp [Dev.combWaits, Dev.lineHeld, Dev.lineToken, Dev.reads, Dev.e, he.1, Tab.look]
  simp [Dev.combFree, hr, ho _ hb, hl, Dev.memFree, Dev.onAt, hk, Dev.hitsPoison, Dev.hitsParity, he]

/-- Loop 15 enabled, evaluations `q` waiting, `r` in progress. -/
def loop (q : List (Nat × Nat)) (r : Option LoopRun) : Dev := station (openBanks.setB LOOP_CFG_EN true 15) { evals := q, run := r }

/-- A result of loop 15 to go out. -/
def out15 : LoopRun := ⟨15, 0, 5, 6, 7, true, {}, 1⟩

/-- A sample due, with an evaluation that waits and without; an evaluation of each source, one refused; an output to each destination, alarms; the pokes. -/
theorem witness_LoopsEvaluateTheirLaw :
    (let d := { loop [] none with tb := 1000000 * tbUnit }
     d.stnRuns = true ∧ d.b LOOP_CFG_EN 15 = true ∧ d.loopBase 15 ≤ d.ns ∧ seriesHits (d.loopBase 15) (d.loopPer 15) (d.inst 40).last d.ns = true ∧
     (d.rd LOOP_OVR 15).toNat < 0xFFFFFFFF ∧ (0, 15) ∈ (loop [(0, 15)] none).stn.evals) ∧
    (let d := (((loop [(0, 15)] none).wr LOOP_SRCADDR 0x203FFFFC 15).wr LOOP_SPADDR 0x20000000 15)
     d.stn.run = none ∧ d.stn.evals = (0, 15) :: [] ∧ d.stnRuns = true ∧ d.loopWaits 15 = false ∧ (d.setF LOOP_CFG_SRC 1 15).loopWaits 15 = false ∧
     d.combFree .stn 0x203FFFFC 4 false = true ∧ d.combFree .stn 0x20000000 4 false = true ∧
     (d.setF MEM_BANKOWN_OWNER 1 15).ownerIncl 1 .stn = false ∧ combBank 0x203FFFFC = 15 ∧ (d.setF MEM_BANKOWN_OWNER 1 15).f MEM_BANKOWN_OWNER 15 = 1) ∧
    (let d := loop [] (some out15)
     d.stn.run = some out15 ∧ out15.due ≤ d.wall ∧ d.stnRuns = true ∧ d.destWaits 15 = false ∧ out15.state < 4 ∧ d.f LOOP_CFG_DST 15 = 0 ∧
     (d.setF LOOP_CFG_DST 3 15).f LOOP_CFG_DST 15 = 3 ∧
     (let e := (d.setF LOOP_CFG_DST 1 15).wr LOOP_DSTADDR 0x20000000 15
      e.f LOOP_CFG_DST 15 = 1 ∧ e.destWaits 15 = false ∧ e.combFree .stn ((e.rd LOOP_DSTADDR 15).toNat / 4 * 4) 4 true = true ∧
      (e.setF MEM_BANKOWN_OWNER 1 0).ownerIncl ((e.setF MEM_BANKOWN_OWNER 1 0).f MEM_BANKOWN_OWNER (combBank 0x20000000)) .stn = false) ∧
     (let e := ((d.setF LOOP_CFG_DST 2 15).setF LOOP_CFG_DSTIDX 7 15)
      e.f LOOP_CFG_DST 15 = 2 ∧ e.f LOOP_CFG_DSTIDX 15 = 7 ∧ e.axMode 7 ≠ 2 ∧ (e.setF STP_CFG_MODE 2 7).axMode 7 = 2 ∧ e.f STP_STAT_STATE 7 ≠ 3 ∧ (e.ax 7).wrote = none) ∧
     (let e := (d.setF LOOP_SAT_SATLIM 1 15)
      out15.sat = true ∧ e.f LOOP_SAT_SATLIM 15 ≠ 0 ∧ e.f LOOP_SAT_SATLIM 15 * 100000000 < 100000000 + e.loopPer 15 ∧ e.b LOOP_STAT_SATALM 15 = false)) ∧
    ([0, 1, 2, 3, 4, 5].all (fun v => D.accepts .sv0 LOOP_CTL 15 0 v) = true ∧ ({ safe := true : LoopSt }).safe = true) := by decide +kernel

/-- Axis 7 enabled in mode `mode`, state `st`, moving as `x` says, two thousand ns after reset, with AMAX and VMAX 1000. -/
def axis (mode st : Nat) (x : AxSt) : Dev :=
  past (station ((((((D.setB STP_CFG_EN true 7).setF STP_CFG_MODE mode 7).setF STP_STAT_STATE st 7).wr STP_AMAX 1000 7).wr STP_VMAX 1000 7))
    { axes := [(7, x)] }) 40000

/-- A moving axis at 3 units per second. -/
def ax3 : AxSt := { v := 3 * velUnit, segs := [{ acc := 0, dur := none, v1 := 3 * velUnit }] }

/-- GO and STOP at rest, moving, with AMAX 0; an entry that is bad and one that is not; targets below, above and at the position or the velocity;
boundaries of each kind; a zero-current window; standstill. -/
theorem witness_AxesFollowTablesAndTargets :
    ([1, 2, 4, 8].all (fun v => D.accepts .sv0 STP_CTL 7 0 v) = true ∧ (axis 0 1 {}).f STP_STAT_STATE 7 ≠ 3 ∧ (axis 0 1 {}).b STP_CFG_EN 7 = true ∧
      (axis 0 1 {}).axMode 7 = 0 ∧ (axis 0 3 {}).f STP_STAT_STATE 7 = 3 ∧ (axis 0 2 {}).axNow 7 = (0, 0) ∧ ((axis 0 2 ax3).axNow 7).2 = 3 * velUnit ∧
      0 < (axis 0 2 ax3).axAmax 7 ∧ ((axis 0 2 ax3).wr STP_AMAX 0 7).axAmax 7 = 0) ∧
    ((axis 0 1 {}).rd STP_SEG_T 7 255 = 0 ∧
      (let d := ((((axis 0 1 {}).boundary 80).wr STP_SEG_T 1000000000 7 255).wr STP_SEG_P 10 7 255)
       let c := d.axEntry 7 255 0 0
       d.b STP_CFG_EN 7 = true ∧ (d.rd STP_SEG_T 7 255).toNat ≠ 0 ∧ (d.rd STP_SEG_V 7 255).toInt * velUnit = 0 ∧ cubicFast c (d.axVlim 7) = false ∧ c.c2 = 30 * posUnit)) ∧
    (D.accepts .sv0 STP_TARGET 7 0 5 = true ∧ (axis 1 1 {}).f STP_STAT_STATE 7 ≠ 3 ∧ (axis 1 1 {}).b STP_CFG_EN 7 = true ∧
      (let e := fun (m : Nat) (x : AxSt) (v : Word) => ((axis m 2 x).wr STP_TARGET v 7).boundary 80
       (e 1 {} 5).b STP_CFG_EN 7 = true ∧ 0 < (e 1 {} 5).axAmax 7 ∧ 0 < (e 1 {} 5).axVmax 7 ∧ (e 1 {} 5).axMode 7 = 1 ∧ (e 2 ax3 5).axMode 7 = 2 ∧
       (0 : Word).toInt * posUnit = ((axis 1 1 {}).axNow 7).1 ∧ 2 ≤ (e 1 {} 5).axAmax 7 * ((5 : Word).toInt * posUnit - ((axis 1 1 {}).axNow 7).1).natAbs ∧
       ((-5 : Word).toInt * posUnit - ((axis 1 2 ax3).axNow 7).1) * ((axis 1 2 ax3).axNow 7).2 ≤ 0 ∧
       (let goal := fun (v : Word) => max (-(e 2 ax3 v).axVmax 7) (min ((e 2 ax3 v).axVmax 7) (v.toInt * velUnit))
        let now := ((axis 2 2 ax3).axNow 7).2
        goal 5 ≠ now ∧ goal 5 ≠ 0 ∧ 0 ≤ goal 5 * now ∧ goal (-5) * now < 0 ∧ goal 0 = 0 ∧ now ≠ 0 ∧ goal 3 = now ∧ goal 0x7FFFFFFF = 1000 * velUnit))) ∧
    (let c : AxCubic := ⟨0, 0, 0, 2000, 5, 0, true, 255⟩
     let d := axis 0 2 { cubic := some c }
     (d.ax 7).cubic = some c ∧ c.next < 256 ∧ c.t ≤ d.axTime (d.ax 7) ∧ { c with last := false }.last = false ∧ d.axTime (d.ax 7) < { c with t := 2001 }.t) ∧
    (let y : AxSeg := { acc := 5, dur := some 2000, v1 := 0 }
     let go : AxSeg := { acc := 0, dur := none, v1 := 3 }
     let d := axis 1 2 { segs := [y, go], seek := true }
     (d.ax 7).segs = y :: [go] ∧ y.dur = some 2000 ∧ 2000 ≤ d.axTime (d.ax 7) ∧ (d.ax 7).seek = true ∧ go.dur = none ∧ (d.ax 7).stallAt = none ∧
     (d.boundary 80).b STP_CFG_EN 7 = true ∧ y.dur ≠ none ∧ ¬(d.axTime (d.ax 7) < 2000)) ∧
    (let d := (axis 1 2 ax3).setB STP_CFG_SENSE true 7
     let speed := ((d.axNow 7).2 / velUnit).natAbs
     d.b STP_CFG_SENSE 7 = true ∧ (d.setF STP_STALL_VMIN 0 7).f STP_STALL_VMIN 7 ≤ speed / 256 ∧ speed = 3 ∧
     (d.setF STP_STALL_LA 0 7).f STP_STALL_LA 7 ≤ 256 ∧ (d.setF STP_STALL_N 1 7).f STP_STALL_N 7 = 1 ∧ (d.setF STP_KE_KE 100000 7).f STP_KE_KE 7 * speed ≠ 0) ∧
    (let d := (axis 1 1 {}).setF STP_STBYDLY_MS 0 7
     d.f STP_STAT_STATE 7 ≠ 2 ∧ d.b STP_CFG_EN 7 = true ∧ (d.ax 7).restAt + d.f STP_STBYDLY_MS 7 * 20000000 ≤ d.wall) := by decide +kernel

/-- A running part in power state `st`, on its crystal, 2,000 s after reset. -/
def pwr (st : Nat) : Dev := past ({ ((D.setB CLK_STAT_RCACT false).setF PWR_STAT_STATE st) with boot := { D.boot with released := true } }) (40000 * 10 ^ 9)

/-- In a transition from state 0 to state `to'`, at step `step`. -/
def moving (to' step : Nat) : Dev := { (pwr 0).setB PWR_STAT_BUSY true with powerTo := to', pw := { step := step } }

/-- A failure in RUN and in NAP, a window within its limits, past WARN and past 1 %; a restore check due; the sill crystal lost, and back; a bin; a warning. -/
theorem witness_ClocksFailAndReturn :
    ((pwr 0).b CLK_STAT_CLKFAIL = false ∧ (pwr 0).boot.released = true ∧ (pwr 0).f PWR_STAT_STATE ≠ 3 ∧ (pwr 2).f PWR_STAT_STATE = 2 ∧
      ClkCause.mainFreq.code = 2 ∧ ClkCause.mainNap.code = 6 ∧ ClkCause.fabricPll.code = 4 ∧ ((pwr 0).setB PWR_STAT_BUSY true).b PWR_STAT_BUSY = true ∧
      (pwr 0).f TIME_CTL_SEL = 0 ∧ ((pwr 0).setF TIME_CTL_SEL 1).f TIME_CTL_SEL ≠ 0) ∧
    ((1000 : Int).natAbs ≤ 1000 ∧ 1000 < (-1001 : Int).natAbs ∧ ¬((pwr 0).f CLK_CTL_WARN * 100 < 0) ∧ (pwr 0).f CLK_CTL_WARN * 100 < 1000 ∧
      ((pwr 0).setB CLK_STAT_CLKFAIL true).b CLK_STAT_CLKFAIL = true) ∧
    (let d := (pwr 0).setB CLK_STAT_RCACT true
     d.b CLK_STAT_RCACT = true ∧ d.pw.plumbAt + 20000000000 ≤ d.wall ∧ d.b CLK_CTL_AUTOREST = true ∧ (-200 : Int).natAbs ≤ 200 ∧ ¬((201 : Int).natAbs ≤ 200) ∧
     d.b CLK_STAT_SILLRC = false ∧ (d.setB CLK_STAT_SILLRC true).b CLK_STAT_SILLRC = true ∧ d.pw.sillAt + 20000000000 ≤ d.wall ∧ d.pw.rcAt + 20000000000 ≤ d.wall) ∧
    (D.accepts .sv0 CLK_CTL 0 0 ((D.rd CLK_CTL &&& 0xF01) ||| 2) = true ∧ D.accepts .sv0 CLK_ENGPLL 0 0 ((0xF : BitVec 4).setWidth 32) = true ∧
      (D.rd PWR_SUPSTAT).getLsbD (16 + 8) = false ∧ ((D.wr PWR_SUPSTAT 0x1000000).rd PWR_SUPSTAT).getLsbD (16 + 8) = true) := by decide +kernel

/-- A request of each kind accepted, out of order, with commits waiting, with a failed clock; each step of each transition; abandoned; DRAIN's end. -/
theorem witness_PowerStatesChange :
    (let keeps := (pwr 0).rd PWR_CTL &&& 0xFFFF0020
     [0, 1, 2, 3].all (fun q => (pwr 0).accepts .sv0 PWR_CTL 0 0 (keeps ||| BitVec.ofNat 32 (16 + q)) && (pwr 1).accepts .sv1 PWR_CTL 0 0 (keeps ||| BitVec.ofNat 32 (16 + q))) = true ∧
     (pwr 0).b PWR_STAT_BUSY = false ∧ (pwr 0).f PWR_STAT_STATE = 0 ∧ (pwr 1).f PWR_STAT_STATE = 1 ∧ (pwr 2).f PWR_STAT_STATE = 2 ∧ (moving 1 0).b PWR_STAT_BUSY = true ∧
     ({ pwr 0 with cmt := [(49, { next := [1] })] }).commitsPend = true ∧ (pwr 0).commitsPend = false ∧ (pwr 0).b PWR_CTL_DISCARD = false ∧
     ((pwr 0).setB CLK_STAT_CLKFAIL true).b CLK_STAT_CLKFAIL = true ∧ (pwr 0).b CLK_STAT_CLKFAIL = false) ∧
    (let d := moving 2 3
     d.b PWR_STAT_BUSY = true ∧ d.pw.step = 3 ∧ d.pw.at' + d.f PWR_CTL_DRAIN * 20000 ≤ d.wall ∧ (d.lane 23).cur = none ∧ (d.lane 23).held = none ∧ (d.e 31).wq = [] ∧
     (d.rd PWR_NAPDISC).toNat + 0 < 2 ^ 32 ∧ d.drained = true ∧ ((moving 3 3).setB DMA_STAT_BUSY true 15).drained = false) ∧
    ((moving 2 1).pw.abandon = 0 ∧ ({ moving 2 1 with pw := { abandon := 2, woke := true } }).pw.abandon = 2 ∧ (moving 0 0).powerTo = 0 ∧ (moving 1 0).powerTo = 1 ∧
      (moving 1 0).engStopped 31 = true ∧ (({ moving 1 0 with eng := [(31, { run := .idle })] }).e 31).run = .idle ∧
      ({ moving 1 0 with eng := [(31, { run := .idle })] }).engHold 31 = true ∧ ({ moving 1 0 with eng := [(31, { run := .run })] }).engStopped 31 = false ∧
      (moving 2 1).axMoving 7 = false ∧ ((moving 2 1).setF STP_STAT_STATE 2 7).axMoving 7 = true ∧ (moving 2 7).pw.from' < 2) ∧
    ((let d := { pwr 1 with wakes := [(4, 2), (3, 47)] }
      lowWake d.wakes = some (3, 47) ∧ d.b PWR_STAT_BUSY = false ∧ d.f PWR_STAT_STATE = 1 ∧ d.pw.woke = false ∧ d.pw.wakeAt = none) ∧
     (∃ u, ({ pwr 2 with pw := { wakeAt := some 0 } }).pw.wakeAt = some u ∧ u + 840000 ≤ (pwr 2).wall) ∧ lowWake [(5, 0)] = some (5, 0)) ∧
    (let d := (pwr 0).setB PWR_RTCALMCTL_EN true
     d.b PWR_RTCALMCTL_EN = true ∧ wide64 (d.rd PWR_RTCALM_LO) (d.rd PWR_RTCALM_HI) ≤ d.rtcNow ∧
     ¬(wide64 ((d.wr PWR_RTCALM_HI 0xFFFFFFFF).rd PWR_RTCALM_LO) ((d.wr PWR_RTCALM_HI 0xFFFFFFFF).rd PWR_RTCALM_HI) ≤ d.rtcNow) ∧
     D.accepts .sv0 PWR_RTCALMCTL 0 0 1 = true) := by
  refine ⟨?_, ?_, ?_, ⟨?_, ⟨0, ?_⟩, ?_⟩, ?_⟩ <;> decide +kernel

/-- A set due with sites that count and that do not; the planner's tick; a run with every step of voltage and bin; lanes and rings; a write not acknowledged. -/
theorem witness_AgeingIsMeasuredAndPlanned :
    (([some (1, 2, 881), none, none, none, none, none, none, none] : List (Option (BitVec 16 × BitVec 12 × BitVec 12))).length = 8 ∧
      (pwr 1).f PWR_STAT_STATE < 2 ∧ (pwr 1).boot.released = true ∧ (pwr 1).age.measAt + max 1 ((pwr 1).f AGE_MONCFG_MONPER) * 20000000 ≤ (pwr 1).wall ∧
      880 < (881 : BitVec 12).toNat ∧ (881 : BitVec 12).toNat < 2048) ∧
    (let d := { pwr 0 with sv0 := { cpu := { psr := 3 }, run := .run } }
     d.age.tickAt + 200000000 ≤ d.wall ∧ d.sv0.run = .run ∧ d.sv0.cpu.psr.getLsbD 1 = true ∧ d.sv0.cpu.estat.getLsbD 0 = false ∧ d.lowLine 1 = none) ∧
    (let d := { ((pwr 0).setB AGE_CTL_EN true) with sv0 := { cpu := {}, run := .run } }
     let slack := fun (e : Dev) (v : Nat) => (List.range 8).foldl (fun e k => e.setF AGE_MON_SLACK_SLACK v k) e
     let lim := fun (v : Nat) => max 720 (min 880 v)
     (d.b AGE_CTL_EN = true ∧ d.sv0.run ≠ .reset ∧ d.sv0.run ≠ .dead ∧ d.age.planAt + max 1 (d.f AGE_CTL_PLANPER) * 20000000000 ≤ d.wall ∧
       d.age.histAt + 7 * 86400 * 20000000000 ≤ 7 * 86400 * 20000000000) ∧
     (d.b AGE_STAT_AVSERR = false ∧ d.age.vout = none ∧ d.leastSlack < d.f AGE_GUARD_LO ∧ d.f AGE_AVS_VOUT < lim (d.f AGE_AVSLIM_AVSMAX) ∧ d.b AGE_CTL_AVSEN = true) ∧
     (let e := (d.setF AGE_AVS_VOUT 880).setF CLK_ENGPLL_BIN 8
      e.leastSlack < e.f AGE_GUARD_LO ∧ lim (e.f AGE_AVSLIM_AVSMAX) ≤ e.f AGE_AVS_VOUT ∧ 0 < min 8 (e.f CLK_ENGPLL_BIN) ∧ e.b AGE_CTL_BINEN = true) ∧
     (let e := slack d 4095
      e.f AGE_GUARD_LO ≤ e.leastSlack ∧ e.f AGE_GUARD_HI < e.leastSlack ∧ min 8 (e.f CLK_ENGPLL_BIN) < min 8 (e.f AGE_GUARD_BINMAX) ∧ e.b AGE_CTL_BINEN = true ∧
      e.f AGE_GUARD_HI ≤ 4095 ∧ lim (e.f AGE_AVSLIM_AVSMIN) < e.f AGE_AVS_VOUT ∧ (e.e 31).bin ≤ 0) ∧
     (d.b AGE_CTL_DLYEN = true ∧ d.calState 23 ≠ 1 ∧ (d.setF TIME_CALSTAT_STATE 1 23).f TIME_CALSTAT_STATE 23 = 1 ∧ d.b BRG_CTL_EN 7 = false ∧
       (d.setB BRG_CTL_EN true 7).b BRG_CTL_EN 7 = true ∧ d.b AGE_CTL_KERFEN = true) ∧
     (let e := ({ openBanks with mem := [(0x20000001, 0x20)] }).wr AGE_KERFSRC 0x20000000 7
      (e.rd AGE_KERFSRC 7).toNat ≠ 0 ∧ e.combFree .sv0 0x20000000 4 false = true ∧ (e.bytesNat 0x20000000 4 + 49) / 50 * 50 = 8200 ∧ e.f BRG_KERF_KERF 7 < 8200) ∧
     ({ d.age with vout := some 800 }).vout ≠ none) := by decide +kernel

/-- The record of source 8 in the alarm class. -/
def ent8 : JEnt := { origin := 8, time := 5, cls := 0 }

/-- A record that row `r` holds. -/
def held (c : Nat) (isOpen pushed acked : Bool) : JAlloc :=
  { r := { cls := c, origin := 8, code := 8, data := 0, src := true, time := 5, last := 5 }, isOpen := isOpen, dirty := true, pushed := pushed, acked := acked }

/-- The journal in state `j` with entries `q` waiting. -/
def journal (q : List JEnt) (j : Jrn) : Dev := { pwr 0 with jq := q, jrn := j }

/-- An entry that is taken to a free row, that coalesces, that is dropped, that folds, that overwrites. -/
theorem witness_TheJournalKeepsItsRecordsAndItsWindow :
    (let d := journal [ent8] {}
     d.jrn.writing = none ∧ d.jrn.fmtAt = none ∧ d.f PWR_STAT_STATE < 2 ∧ d.jq = ent8 :: [] ∧ ent8.cls < 3 ∧ (d.part 0).taken < d.partRows 0 ∧ d.partRows 0 ≠ 0 ∧
     d.coalHit (d.recOf ent8) = none ∧ (d.part 0).lack - (d.wall - (d.part 0).at') * d.f JRN_PART_RATE_RATE 0 + 20000000000 ≤ d.f JRN_PART_RATE_BURST 0 * 20000000000 ∧
     d.cache.length < 32 ∧ d.jrn.push.length < 256 ∧ (pwr 2).f PWR_STAT_STATE = 2) ∧
    (let d := (journal [ent8] { alloc := [(300, held 0 true false false)] }).setB JRN_PART_COAL_COALEN true 0
     d.coalOn 0 = true ∧ d.coalHit (d.recOf ent8) = some 300 ∧ d.jrow 300 = some (held 0 true false false) ∧ (d.rd JRN_COAL 0).toNat < 0xFFFFFFFF) ∧
    (let d := (journal [{ ent8 with cls := 1 }] { event := { size := 4096, lack := 10 ^ 20, at' := 40000 * 10 ^ 9 } })
     ¬((d.part 1).lack - (d.wall - (d.part 1).at') * d.f JRN_PART_RATE_RATE 1 + 20000000000 ≤ d.f JRN_PART_RATE_BURST 1 * 20000000000)) ∧
    ((journal [] { trace := { size := 0 } }).partRows 2 = 0 ∧
      (let d := journal [ent8] { alarm := { size := 16, taken := 14 } }
       (d.part 0).freed = [] ∧ ¬((d.part 0).taken < d.partRows 0) ∧ d.jrow d.ovfRow = none ∧
        (journal [] { alarm := { size := 16, taken := 14 }, alloc := [(270, { held 0 true false false with r := { (held 0 true false false).r with kind := 1 } })] }).ovfRow = 270) ∧
      (let d := journal [{ ent8 with cls := 1 }] { event := { size := 16, taken := 16, order := [4400, 4401] } }
       (d.part 1).freed = [] ∧ ¬((d.part 1).taken < d.partRows 1) ∧ (d.part 1).order = 4400 :: [4401] ∧ 4400 ∉ [4401])) := by decide +kernel

/-- Row writes, rewrites and windows that are due; a summary; FORMAT with sizes good and bad; acknowledgements and the push list; the window's reads and
writes, barred and not. -/
theorem witness_TheJournalKeepsItsRecordsAndItsWindow_rows :
    ((journal [] { writing := some (300, []), wq := [300], alloc := [(300, held 0 false false false)] }).jrn.writing = some (300, []) ∧
      (let d := journal [] { alloc := [(300, held 1 true false false)] }
       d.jrow 300 = some (held 1 true false false) ∧ (held 1 true false false).lastRw + 20000000000 ≤ d.wall ∧ 300 ∉ d.jrn.wq ∧
        (held 1 true false false).opened + d.f JRN_PART_COAL_COALWIN 1 * 2000000000 ≤ d.wall) ∧
      (let d := journal [] { alloc := [(300, held 0 true true true)] }
       (held 0 true true true).opened + d.f JRN_PART_COAL_COALWIN 0 * 2000000000 ≤ d.wall ∧ (held 0 true true true).pcount < min 0xFFFFFF 1 ∧ 300 ∉ d.jrn.push ∧
        min 0xFFFFFF 1 ≤ ({ held 0 true true true with pcount := 1 }).pcount ∧ d.isReserve 300 = false ∧ d.ovfOpen = false)) ∧
    (let d := journal [] {}
     d.b JRN_CTL_SUMEN = true ∧ d.jrn.sumAt + max 1 (d.f JRN_CTL_SUMPER) * 20000000000 ≤ d.wall ∧ d.jrn.push.length < 256 ∧
     D.accepts .sv0 JRN_CTL 0 0 ((D.rd JRN_CTL &&& 0xFFFF0002) ||| 1) = true ∧ D.secure .sv0 = true ∧
     ¬(32512 < D.f JRN_PART_SIZE_SIZE 0 + D.f JRN_PART_SIZE_SIZE 1 + D.f JRN_PART_SIZE_SIZE 2) ∧ (D.setF JRN_PART_SIZE_SIZE 15 0).f JRN_PART_SIZE_SIZE 0 < 16 ∧
     16 ≤ D.f JRN_PART_SIZE_SIZE 0 ∧ 16 ≤ D.f JRN_PART_SIZE_SIZE 1 ∧ ({ d.jrn with fmtAt := some 0 }).fmtAt = some 0 ∧ 0 + 6500000000 ≤ d.wall) ∧
    (D.accepts .sv0 JRN_PUSHACK 0 0 300 = true ∧ getBits (300 : Word) 0 15 = 300 ∧ (journal [] { push := [300] }).jrn.push.head? = some 300 ∧
      D.accepts .sv0 JRN_ALMACK 0 0 300 = true ∧ Master.stn ≠ .sv0 ∧ Master.stn ≠ .sv1 ∧
      (let d := journal [] { alarm := { size := 64, order := [300] }, alloc := [(300, { held 0 false true false with pcount := 1 })] }
       (d.part 0).order = 300 :: [] ∧ d.jrow 300 = some { held 0 false true false with pcount := 1 } ∧ d.isReserve 300 = false ∧ d.ovfOpen = false ∧ 300 ∉ ([] : List Nat))) ∧
    ((0x7FFF : BitVec 15).toNat = 32767 ∧ ¬(0x7FFF : BitVec 15).toNat < 256 ∧ getBits (0 : Word) 0 2 ≠ 3 ∧ getBits (3 : Word) 0 2 = 3 ∧ D.jq.length < 256 ∧
      rowGood (recWords (held 0 true false false).r 0) = true ∧ rowGood [] = false ∧
      (let d := journal [] { rows := [(300, [])] }
       d.jrn.rows.all (fun e => e.1 != 300) = false ∧ 300 ∉ d.jrn.torn ∧ (d.rd JRN_TORN).toNat < 0xFFFFFFFF ∧ Tab.look d.jrn.rows [] 300 = [])) := by decide +kernel

/-! ### Single commands, with results from the spec's tables and worked examples -/

/-- What `f` reads of the state after command `i`, where it answers one. -/
def after {α : Type} (i : Instr) (s : State) (f : State → α) : Option α :=
  match exec i s with
  | .next t => some (f t)
  | _ => none

/-- General register `r` and the flags Z, N, C, V, H of engine 31 or supervisor 0. -/
def gOf (c : Core) (r : Nat) (t : State) : Word := t.dev.g c r
def zncvh (c : Core) (t : State) : List Bool := [0, 1, 2, 3, 4].map (fun k => (t.dev.cpu c).flag k)

/-- Table 5-3: a signed overflow out of bit 31 with a carry from bit 3, no carry out. -/
theorem test_add_overflows : after (.add x31 (.rr 1 2)) (ce [(1, 0x7FFFFFFF), (2, 1)]) (fun t => (gOf (.ce 31) 1 t, zncvh (.ce 31) t)) =
    some (0x80000000, [false, true, false, true, true]) := by decide +kernel

/-- Table 5-3: a borrow out of bit 31 and into bit 3. -/
theorem test_sub_borrows : after (.sub x31 (.rr 1 2)) (ce [(1, 0), (2, 1)]) (fun t => (gOf (.ce 31) 1 t, zncvh (.ce 31) t)) =
    some (0xFFFFFFFF, [false, true, true, false, true]) := by decide +kernel

/-- Table 5-12: the meter's bytes in order. -/
theorem test_bswap : after (.bswap x31 4 0) (ce [(4, 0x78563412)]) (gOf (.ce 31) 4) = some 0x12345678 := by decide +kernel

/-- Table 5-12: 12,345,678, with V = 0. -/
theorem test_bcd2bin : after (.bcd2bin x31 5 4 4) (ce [(4, 0x12345678)]) (fun t => (gOf (.ce 31) 5 t, (zncvh (.ce 31) t).getD 3 true)) = some (0x00BC614E, false) := by
  decide +kernel

/-- Table 5-14, pass 2: the carry out of the eighth digit goes into the ninth; H = 1. -/
theorem test_bcdadc_pair : after (.bcdadc x0 0 4 8) (sv { g := [(0, 0x12345678), (4, 0x98765432)] })
    (fun t => (gOf .sv0 1 t, gOf .sv0 0 t, zncvh .sv0 t)) = some (1, 0x11111110, [false, false, false, false, true]) := by decide +kernel

/-- Worked example of chapter 5: with n = 4 pass 2 leaves C = 1 and loses the ninth digit. -/
theorem test_bcdadc_word : after (.bcdadc x0 0 4 4) (sv { g := [(0, 0x12345678), (4, 0x98765432)] }) (fun t => (gOf .sv0 0 t, (zncvh .sv0 t).getD 2 false)) =
    some (0x11111110, true) := by decide +kernel

/-- R182: DAA of 0x99 + 0x01 = 0x9A is 0x00 with C = 1. -/
theorem test_daa : after (.daa x31 1 0) (ce [(1, 0x9A)]) (fun t => (gOf (.ce 31) 1 t, zncvh (.ce 31) t)) = some (0, [true, false, true, false, false]) := by
  decide +kernel

/-- R15: a write of an unimplemented address of a block's space ends in a bus error. -/
theorem test_registerWrite_nowhere : after (.registerWrite .sv0 0x409FFFFC 1) State.reset (fun t => t.dev.resp.map (fun r => (r.num, r.err))) = some [(1, true)] := by
  decide +kernel

/-- A command at the front of the queue is taken, the rest waits. -/
theorem test_step_takes_the_front : (match step { State.reset with pending := [.reservedOpcode x31 false, .lastGaspRecord] } with
    | .next t => t.pending == [.lastGaspRecord]
    | _ => false) = true := by decide +kernel

/-- The table gives no row any bits: no word spells a command. -/
theorem test_no_words (nbits w : Nat) : decodeTableWord nbits w = none := rfl

end Sys2Proof.Tests
end

/-!
The statements of chapter 00: what State.reset holds, what a register write and a staged write change, what the chip reset and the sill
reset clear.
-/

namespace Sys2Proof.Machine

/-! ### State.reset -/

/-- At State.reset three registers differ from their reset values, by address BOOT_ARB, EVT_PEND2 and TIME_STAT (R62, R319). -/
theorem State.reset_rd (r : Reg) (i j : Nat) (ha : r.addr i j ≠ BOOT_ARB.base) (he : r.addr i j ≠ EVT_PEND.addr 2 0)
    (ht : r.addr i j ≠ TIME_STAT.base) : State.reset.dev.rd r i j = r.rst i j := by
  refine Tab.look_absent _ _ _ (fun hm => ?_)
  have hl : r.addr i j ∈ [BOOT_ARB.base, EVT_PEND.addr 2 0, TIME_STAT.base] := hm
  simp [ha, he, ht] at hl

/-- Settles O4: memory is empty, and the three registers that differ from their reset values are the ones named. -/
theorem resetHoldsTheResetValues : Obligations.ResetHoldsTheResetValues :=
  ⟨rfl, rfl, rfl, fun _ => rfl, State.reset_rd, fun _ => rfl, rfl, rfl, rfl, by decide, by decide, by decide,
    rfl, rfl, rfl, rfl, rfl, rfl, fun _ h => h, Nat.le_refl _, Nat.le_refl _⟩

/-! ### Register writes (R5, R7, R20, R526) -/

section Writes

variable {s : State} {m : Master} {a v : Word} {r : Reg} {i j : Nat}

/-- A word written where no register stands answers a bus error and changes nothing else (R526). -/
theorem Dev.single_gap (d : Dev) (hp : regionOf a.toNat = .peri) (h4 : a.toNat % 4 = 0) (hc : isCtx a.toNat = false)
    (hx : isMsix a.toNat = false) (hf : findReg a.toNat = none) :
    d.single m a.toNat (some v) = { d with resp := [⟨m.num, 0, true⟩] } := by
  have hw : d.still.regWrite (d.wrNow m) a.toNat v = (d.still, true) := by
    unfold Dev.regWrite
    split
    · rfl
    · simp [hc, hx, hf]
  rw [Dev.single_peri d m a v hp h4]
  change (d.still.regWrite (d.wrNow m) a.toNat v).1.answer m.num 0 (d.still.regWrite (d.wrNow m) a.toNat v).2 = _
  rw [hw]
  rfl

/-- A word written at a register's address is that register's write, whichever command makes it. -/
theorem act_single (hp : regionOf a.toNat = .peri) (h4 : a.toNat % 4 = 0) (hc : isCtx a.toNat = false)
    (hx : isMsix a.toNat = false) (hf : findReg a.toNat = some (r, i, j)) (ha : r.addr i j = a.toNat) :
    act s (s.dev.single m a.toNat (some v)) = act s (s.dev.putReg m r i j v) := by
  rw [Dev.single_putReg s.dev m a v r i j hp h4 hc hx hf ha]

/-- A staged write reads back from the staged copy. -/
theorem Dev.rdStaged_stage (d : Dev) (arr : Nat) : (d.stage r i j v arr).rdStaged r i j = v := Tab.look_put _ _ _ _

/-- It leaves the staged copies at other addresses. -/
theorem Dev.rdStaged_stage_ne (d : Dev) (arr : Nat) (r' : Reg) (i' j' : Nat) (h : r'.addr i' j' ≠ r.addr i j) :
    (d.stage r i j v arr).rdStaged r' i' j' = d.rdStaged r' i' j' := Tab.look_put_ne _ _ _ _ _ _ h

/-- The write of a staged register other than PIO_PROG stages its defined bits (R20). -/
theorem Dev.writeReg_staged (d : Dev) (w : Wr) (hs : r.staged = true) (hq : r.is PIO_PROG = false) :
    d.writeReg w r i j v = (d.stage r i j (v &&& r.defined) w.arr, false) := by
  simp [Dev.writeReg, hs, hq]

end Writes

/-- Settles O6: an accepted write is the register's own (`Dev.writeReg_plain`, `Dev.writeReg_staged`), a refused one a bus error. -/
theorem registerWritesAndStagedWrites : Obligations.RegisterWritesAndStagedWrites := by
  refine ⟨fun s m a v hp h4 hc hx hb => ⟨?plain, ?refused, ?gap⟩, ?staged⟩
  case plain =>
    intro r i j hf ha hr hacc
    refine Runs.put_quiet (act_single hp h4 hc hx hf ha) hacc (Dev.writeReg_plain _ _ _ _ _ _ hr) hb
      ⟨Dev.rd_wr _ _ _ _ _, fun r' i' j' hne => ?_, fun _ => rfl, answers_answer _ _ _ _ _ rfl⟩
    exact Dev.rd_wr_ne _ _ _ _ _ _ _ _ (by rwa [ha])
  case refused =>
    intro r i j hf hm ha
    exact Runs.of_quiet (act_single hp h4 hc hx hf ha) (by rw [Dev.putReg_refused _ _ _ _ _ _ hm]; exact hb)
      (by rw [Dev.putReg_refused _ _ _ _ _ _ hm])
  case gap =>
    intro hf
    exact Runs.of_quiet (congrArg (act s) (Dev.single_gap s.dev hp h4 hc hx hf)) hb rfl
  case staged =>
    intro s m a v r i j hp h4 hc hx hf ha hs hq hacc hb
    refine Runs.put_quiet (act_single hp h4 hc hx hf ha) hacc (Dev.writeReg_staged _ _ hs hq) hb
      ⟨Dev.rdStaged_stage _ s.dev.wall, fun r' i' j' hne => ?_, fun _ _ _ => rfl, answers_answer _ _ _ _ _ rfl⟩
    exact Dev.rdStaged_stage_ne _ s.dev.wall _ _ _ (by rwa [ha])

/-! ### The start of the boot ROM after a wide reset (R43, R45, R46) -/

/-- The boot ROM's state stays. -/
theorem Within.boot {P : Nat → Prop} {d d' : Dev} (h : Within P d d') : d'.boot = d.boot :=
  (congrArg Dev.boot h.1 : d'.core.boot = d.core.boot)

/-- A flag reads as it was set, whatever is then written of the boot ROM's own state. -/
theorem Dev.b_setB_boot (d : Dev) (x : RegFld) (v : Bool) (b : Boot) (h : x.lo + x.w ≤ 32) (hw : x.w ≠ 0) :
    ({ d.setB x v with boot := b } : Dev).b x = v := Dev.b_setB d x v 0 0 h hw

/-- BOOT_STAT.SELREJ shows whether BOOT_SEL was refused (R46). -/
theorem Dev.bootStart_selrej (d : Dev) (o : Otp) (sel : BitVec 2) :
    (d.bootStart o sel).b BOOT_STAT_SELREJ = decide (sel = 3 ∧ o.lifecycle = 2) :=
  (Dev.b_setB_boot _ BOOT_STAT_SELREJ _ _ (by decide) (by decide)).trans (Bool.decide_and _ _).symm

/-- The start of the boot ROM leaves the phase it starts in. -/
theorem Dev.bootStart_phase (d : Dev) (o : Otp) (sel : BitVec 2) : (d.bootStart o sel).boot.phase = d.boot.phase := by
  simp only [Dev.bootStart, Dev.setB, Dev.setF, Dev.wr_boot]

/-- The engines, mailboxes, frames and the switch hold nothing, and the boot ROM has not released the chip. -/
structure Cleared (d : Dev) : Prop where
  eng : d.eng = []
  mbx : d.mbx = []
  frames : d.frames = []
  swc : d.swc = {}
  released : d.boot.released = false
  phase : d.boot.phase = .plumb
  blow : d.blow = []

/-- The part is cleared and its boot ROM has started, with BOOT_SEL sampled (R45, R46). -/
structure Started (o : Otp) (sel : BitVec 2) (d : Dev) : Prop extends Cleared d where
  bootsel : d.f BOOT_STAT_BOOTSEL = sel.toNat
  selrej : d.b BOOT_STAT_SELREJ = decide (sel = 3 ∧ o.lifecycle = 2)

/-- The boot ROM's start and the load of the time base after it start a cleared part. -/
theorem Cleared.start {d : Dev} (h : Cleared d) (o : Otp) (sel : BitVec 2) : Started o sel (d.bootStart o sel).loadRtc := by
  obtain ⟨heng, hmbx, hfr, hswc, hrel, hsel, -, -, -, hblow, -⟩ := Dev.load_after d o sel
  have hW := Within.loadRtc (d.bootStart o sel)
  exact {
    eng := heng.trans h.eng
    mbx := hmbx.trans h.mbx
    frames := hfr.trans h.frames
    swc := hswc.trans h.swc
    released := hrel.trans h.released
    phase := (congrArg Boot.phase hW.boot).trans ((d.bootStart_phase o sel).trans h.phase)
    blow := hblow.trans h.blow
    bootsel := hsel
    selrej := (Dev.b_congr _ 0 0 (hW.rd BOOT_STAT 0 0 (by unfold timeArea; decide))).trans (d.bootStart_selrej o sel) }

/-- Memory of which the entries that satisfy `p` are kept, the flash among them, reads as before there and 0 elsewhere (log 3). -/
theorem Dev.byte_filter {d t : Dev} {p : Nat → Bool} (h : t.mem = d.mem.filter (fun e => p e.1)) (hp : ∀ a, 0x70000000 ≤ a → p a = true)
    (a : Nat) : t.byte a = if p a = true then d.byte a else 0 := by
  unfold Dev.byte
  rw [h]
  split
  · next hk => exact Tab.look_filter _ _ _ _ (fun _ => hk)
  · next hk =>
    have hlow : ¬0x70000000 ≤ a := fun ha => hk (hp a ha)
    rw [Tab.look_filter_none _ _ _ _ (fun _ => by simpa using hk)]
    simp [memDefault, hlow]

/-! ### What a wide reset clears -/

/-- What a wide reset leaves of a register. -/
theorem Dev.afterReset_rd (d : Dev) (keep : Reg → Bool) (r : Reg) (i j : Nat) (hf : findReg (r.addr i j) = some (r, i, j)) :
    (d.afterReset keep).rd r i j = if keep r then d.rd r i j else r.rst i j := by
  have hk : keptAt keep (r.addr i j) = keep r := by rw [keptAt, hf]
  split
  · next h => exact d.afterReset_keep keep r i j (hk.trans h)
  · next h => exact d.afterReset_drop keep r i j (hk.trans (by simpa using h))

/-- A reset that keeps no register leaves each at its reset value. -/
theorem Dev.afterReset_none (d : Dev) (r : Reg) (i j : Nat) : (d.afterReset (fun _ => false)).rd r i j = r.rst i j :=
  d.afterReset_drop _ r i j (by unfold keptAt; split <;> rfl)

/-- Listing a row for push leaves the rows' contents. -/
theorem Dev.listRow_rows (d : Dev) (r : Nat) : (d.listRow r).jrn.rows = d.jrn.rows := by
  unfold Dev.listRow
  split <;> rfl

/-- So does any fold of updates that each leave them. -/
theorem Dev.foldl_rows (f : Dev → Nat → Dev) (hf : ∀ d r, (f d r).jrn.rows = d.jrn.rows) (l : List Nat) (d : Dev) :
    (l.foldl f d).jrn.rows = d.jrn.rows := by
  induction l generalizing d with
  | nil => rfl
  | cons r l ih => exact (ih (f d r)).trans (hf d r)

/-- A sill reset of the journal while no row is being written leaves the rows' contents (R498). -/
theorem Dev.jrnSill_rows (d : Dev) (h : d.jrn.writing = none) : d.jrnSill.jrn.rows = d.jrn.rows := by
  unfold Dev.jrnSill
  dsimp only
  rw [h]
  refine (Dev.foldl_rows _ (fun d r => ?relist) _ _).trans ?_
  case relist =>
    split
    · split
      · rfl
      · exact d.listRow_rows r
    · rfl
  · dsimp only
    split <;> rfl

/-- What a chip reset does (R8, R43, R209): before the boot ROM starts, the part is cleared, the journal stands, retained banks and the
flash are all that is left of memory, the cause is added, and every register but four is as the clearing leaves it. -/
theorem Dev.chipReset_spec (d : Dev) (o : Otp) (cause : Nat) (sel : BitVec 2) :
    ∃ D : Dev, d.chipReset o cause sel = (D.bootStart o sel).loadRtc ∧ Cleared D ∧ D.jrn = d.jrn ∧
      D.mem = d.mem.filter (fun e => d.inRetained e.1 || decide (0x70000000 ≤ e.1)) ∧
      D.rd PWR_RSTCAUSE = d.rd PWR_RSTCAUSE ||| (1 <<< cause) ∧
      ∀ r i j, r.addr i j ∉ [PWR_COMBPWR.base, PWR_COMBSTAT.base, CLK_STAT.base, PWR_RSTCAUSE.base] →
        D.rd r i j = (d.afterReset (fun r => r.scope == .sill)).rd r i j := by
  refine ⟨_, rfl, ⟨rfl, rfl, rfl, rfl, rfl, rfl, rfl⟩, ?journal, rfl, ?cause, fun r i j h => ?regs⟩
  case journal => simp only [Dev.setB, Dev.setF, Dev.wr_jrn, Dev.afterReset]
  case cause =>
    rw [Dev.rd_wr]
    unfold Dev.setB
    rw [Dev.rd_setF_ne _ _ _ _ _ _ _ _ (by decide), Dev.rd_setF_ne _ _ _ _ _ _ _ _ (by decide),
      Dev.rd_wr_ne _ _ _ _ _ _ _ _ (by decide)]
    exact congrArg (· ||| _) (d.afterReset_keep _ PWR_RSTCAUSE 0 0 (by decide))
  case regs =>
    simp only [List.mem_cons, List.not_mem_nil, or_false, not_or] at h
    obtain ⟨hpwr, hstat, hclk, hrst⟩ := h
    unfold Dev.setB
    rw [Dev.rd_wr_ne _ _ _ _ _ _ _ _ hrst, Dev.rd_setF_ne _ _ _ _ _ _ _ _ hclk, Dev.rd_setF_ne _ _ _ _ _ _ _ _ hstat,
      Dev.rd_wr_ne _ _ _ _ _ _ _ _ hpwr]
    rfl

/-- What a sill reset does (R8, R43, R507): before the boot ROM starts, the part is cleared, the flash is all that is left of memory, the
cause is shown, and every other register is as the clearing leaves it. -/
theorem Dev.sillReset_spec (d : Dev) (o : Otp) (supply : Bool) (sel : BitVec 2) :
    ∃ D : Dev, d.sillReset o supply sel = (D.bootStart o sel).loadRtc ∧ Cleared D ∧ D.jrn = d.jrnSill.jrn ∧
      D.mem = d.mem.filter (fun e => decide (0x70000000 ≤ e.1)) ∧ D.b PWR_RSTCAUSE_SUPPLY = supply ∧
      ∀ r i j, r.addr i j ≠ PWR_RSTCAUSE.base → D.rd r i j = (d.afterReset (fun _ => false)).rd r i j := by
  refine ⟨_, rfl, ⟨rfl, rfl, rfl, rfl, rfl, rfl, rfl⟩, rfl, rfl, ?_, fun r i j h => ?_⟩
  · exact Dev.b_setB _ _ _ _ _ (by decide) (by decide)
  · unfold Dev.setB
    rw [Dev.rd_setF_ne _ _ _ _ _ _ _ _ h]
    rfl

/-! ### What a chip reset leaves -/

section ChipReset

variable (d : Dev) (o : Otp) (cause : Nat) (sel : BitVec 2)

/-- A chip reset clears the part and starts the boot ROM (R43, R45). -/
theorem Dev.chipReset_started : Started o sel (d.chipReset o cause sel) := by
  obtain ⟨D, hD, hcl, -⟩ := d.chipReset_spec o cause sel
  rw [hD]
  exact hcl.start o sel

/-- The journal is kept, waiting writes among it (R43). -/
theorem Dev.chipReset_jrn : (d.chipReset o cause sel).jrn = d.jrn := by
  obtain ⟨D, hD, -, hj, -⟩ := d.chipReset_spec o cause sel
  obtain ⟨-, -, -, -, -, -, -, hjrn, -⟩ := Dev.load_after D o sel
  rw [hD]
  exact hjrn.trans hj

/-- PWR_RSTCAUSE gains the cause (R43). -/
theorem Dev.chipReset_cause : (d.chipReset o cause sel).rd PWR_RSTCAUSE = d.rd PWR_RSTCAUSE ||| (1 <<< cause) := by
  obtain ⟨D, hD, -, -, -, hc, -⟩ := d.chipReset_spec o cause sel
  obtain ⟨-, -, -, -, -, -, -, -, -, -, hrd⟩ := Dev.load_after D o sel
  rw [hD, hrd PWR_RSTCAUSE 0 0 (by decide) (by decide) (by decide), hc]

/-- Retained banks and the flash are kept, other memory is emptied (R43, R209). -/
theorem Dev.chipReset_byte (a : Nat) :
    (d.chipReset o cause sel).byte a = if d.inRetained a = true ∨ 0x70000000 ≤ a then d.byte a else 0 := by
  obtain ⟨D, hD, -, -, hm, -⟩ := d.chipReset_spec o cause sel
  obtain ⟨-, -, -, -, -, -, hmem, -⟩ := Dev.load_after D o sel
  rw [hD, Dev.byte_filter (p := fun a => d.inRetained a || decide (0x70000000 ≤ a)) (hmem.trans hm) (fun a ha => by simp [ha]) a]
  simp only [Bool.or_eq_true, decide_eq_true_eq]

/-- The sill domain's registers are kept, the others reset (R8, R43), those apart that the reset itself, the boot ROM or the load of the
time base writes. -/
theorem Dev.chipReset_rd (r : Reg) (i j : Nat) (hf : findReg (r.addr i j) = some (r, i, j))
    (hreset : r.addr i j ∉ [PWR_COMBPWR.base, PWR_COMBSTAT.base, CLK_STAT.base, PWR_RSTCAUSE.base])
    (hboot : r.addr i j < 0x40030000 ∨ 0x40040000 ≤ r.addr i j) (hevt : r.addr i j < 0x40050000 ∨ 0x40060000 ≤ r.addr i j)
    (htime : r.addr i j < 0x40400000) :
    (d.chipReset o cause sel).rd r i j = if r.scope = .sill then d.rd r i j else r.rst i j := by
  obtain ⟨D, hD, -, -, -, -, hr⟩ := d.chipReset_spec o cause sel
  obtain ⟨-, -, -, -, -, -, -, -, -, -, hrd⟩ := Dev.load_after D o sel
  rw [hD, hrd r i j hboot hevt htime, hr r i j hreset, d.afterReset_rd _ r i j hf]
  simp only [beq_iff_eq]

end ChipReset

/-! ### What a sill reset leaves -/

section SillReset

variable (d : Dev) (o : Otp) (supply : Bool) (sel : BitVec 2)

/-- A sill reset clears the part and starts the boot ROM (R43, R45). -/
theorem Dev.sillReset_started : Started o sel (d.sillReset o supply sel) := by
  obtain ⟨D, hD, hcl, -⟩ := d.sillReset_spec o supply sel
  rw [hD]
  exact hcl.start o sel

/-- PWR_RSTCAUSE shows whether the VSB supply caused it (R511). -/
theorem Dev.sillReset_supply : (d.sillReset o supply sel).b PWR_RSTCAUSE_SUPPLY = supply := by
  obtain ⟨D, hD, -, -, -, hs, -⟩ := d.sillReset_spec o supply sel
  obtain ⟨-, -, -, -, -, -, -, -, -, -, hrd⟩ := Dev.load_after D o sel
  rw [hD, Dev.b_congr PWR_RSTCAUSE_SUPPLY 0 0 (hrd PWR_RSTCAUSE 0 0 (by decide) (by decide) (by decide)), hs]

/-- The journal's rows are kept where none is being written (R498). -/
theorem Dev.sillReset_rows (h : d.jrn.writing = none) : (d.sillReset o supply sel).jrn.rows = d.jrn.rows := by
  obtain ⟨D, hD, -, hj, -⟩ := d.sillReset_spec o supply sel
  obtain ⟨-, -, -, -, -, -, -, hjrn, -⟩ := Dev.load_after D o sel
  rw [hD, hjrn, hj, d.jrnSill_rows h]

/-- The flash is kept, other memory is emptied (R43). -/
theorem Dev.sillReset_byte (a : Nat) : (d.sillReset o supply sel).byte a = if 0x70000000 ≤ a then d.byte a else 0 := by
  obtain ⟨D, hD, -, -, hm, -⟩ := d.sillReset_spec o supply sel
  obtain ⟨-, -, -, -, -, -, hmem, -⟩ := Dev.load_after D o sel
  rw [hD, Dev.byte_filter (p := fun a => decide (0x70000000 ≤ a)) (hmem.trans hm) (fun a ha => by simp [ha]) a]
  simp only [decide_eq_true_eq]

/-- Every register is reset (R8), those apart that the reset itself, the boot ROM or the load of the time base writes. -/
theorem Dev.sillReset_rd (r : Reg) (i j : Nat) (hreset : r.addr i j ≠ PWR_RSTCAUSE.base)
    (hboot : r.addr i j < 0x40030000 ∨ 0x40040000 ≤ r.addr i j) (hevt : r.addr i j < 0x40050000 ∨ 0x40060000 ≤ r.addr i j)
    (htime : r.addr i j < 0x40400000) : (d.sillReset o supply sel).rd r i j = r.rst i j := by
  obtain ⟨D, hD, -, -, -, -, hr⟩ := d.sillReset_spec o supply sel
  obtain ⟨-, -, -, -, -, -, -, -, -, -, hrd⟩ := Dev.load_after D o sel
  rw [hD, hrd r i j hboot hevt htime, hr r i j hreset, d.afterReset_none]

end SillReset

/-- Settles O9: CHIP_RESET and a due CONFIRM_TIMEOUT are the chip reset, SILL_RESET is the sill reset. -/
theorem resetsClearTheirScope : Obligations.ResetsClearTheirScope := by
  intro s hb fresh shown chip
  have hfresh : ∀ (d : Dev) (sel : BitVec 2), Started s.otp sel d → fresh sel { s with dev := d } := fun d sel h =>
    ⟨h.eng, h.mbx, h.frames, h.swc, h.released, h.phase, h.bootsel, h.selrej, rfl⟩
  have hchip : ∀ (c : Instr) (cause : Nat) (sel : BitVec 2), exec c s = act s (s.dev.chipReset s.otp cause sel) →
      Runs c s (chip cause sel) := by
    intro c cause sel hc
    have hstart := s.dev.chipReset_started s.otp cause sel
    refine Runs.of_quiet hc hstart.blow ⟨hfresh _ sel hstart, s.dev.chipReset_jrn _ _ _, s.dev.chipReset_cause _ _ _,
      s.dev.chipReset_byte _ _ _, fun r i j hf ⟨hboot, hevt, htime, hrst⟩ hpwr hstat hclk => ?_⟩
    exact s.dev.chipReset_rd _ _ _ r i j hf (by simp [hpwr, hstat, hclk, hrst]) hboot hevt htime
  refine ⟨fun supply sel => ?sill, fun cause sel => hchip _ _ sel rfl, fun sel => ⟨fun hdue => ?due, fun hdue => ?notDue⟩⟩
  case sill =>
    have hstart := s.dev.sillReset_started s.otp supply sel
    exact Runs.of_quiet rfl hstart.blow ⟨hfresh _ sel hstart, s.dev.sillReset_supply _ _ _,
      fun hw r => congrArg (Tab.look · [] r) (s.dev.sillReset_rows _ _ _ hw), s.dev.sillReset_byte _ _ _,
      fun r i j ⟨hboot, hevt, htime, hrst⟩ => s.dev.sillReset_rd _ _ _ r i j hrst hboot hevt htime⟩
  case due => exact hchip _ 2 sel (congrArg (act s) (if_pos hdue))
  case notDue => exact Runs.of_quiet (congrArg (act s) (if_neg (by simp [hdue]))) hb rfl

end Sys2Proof.Machine

/-!
The statements of chapter 02: what no step undoes of the fuses, what flash commands do, what release starts.
-/

namespace Sys2Proof.Machine

/-! ### The fuses (Table 2-5) -/

/-- Fuses that nothing programs are kept. -/
theorem FusesKept.refl (o : Otp) : FusesKept o o := ⟨rfl, rfl, rfl, rfl, rfl, rfl, fun _ h => h, Nat.le_refl _, Nat.le_refl _⟩

/-- One programming after another keeps the fuses. -/
theorem FusesKept.trans {o p q : Otp} (h : FusesKept o p) (h' : FusesKept p q) : FusesKept o q := by
  obtain ⟨r0, r1, r2, r3, secret, life, revoked, img, load⟩ := h
  obtain ⟨r0', r1', r2', r3', secret', life', revoked', img', load'⟩ := h'
  exact ⟨r0'.trans r0, r1'.trans r1, r2'.trans r2, r3'.trans r3, secret'.trans secret, life'.trans life,
    fun k hk => revoked' k (revoked k hk), Nat.le_trans img img', Nat.le_trans load load'⟩

/-- One programming sets a revoke bit or raises the floors, and undoes nothing (R62, R72). -/
theorem FusesKept.burn (o : Otp) (x : Fuse) : FusesKept o (o.burn x) := by
  cases x with
  | revoke slot =>
    have hrev : ∀ k : Nat, o.revoked.getLsbD k = true → (o.revoked ||| (1 <<< slot)).getLsbD k = true := fun k hk => by
      rw [BitVec.getLsbD_or, hk, Bool.true_or]
    exact ⟨rfl, rfl, rfl, rfl, rfl, rfl, hrev, Nat.le_refl _, Nat.le_refl _⟩
  | floors img load => exact ⟨rfl, rfl, rfl, rfl, rfl, rfl, fun _ h => h, Nat.le_max_left _ _, Nat.le_max_left _ _⟩

/-- So do several programmings. -/
theorem FusesKept.burns (l : List Fuse) (o : Otp) : FusesKept o (l.foldl Otp.burn o) := by
  induction l generalizing o with
  | nil => exact .refl o
  | cons x l ih => exact (FusesKept.burn o x).trans (ih (o.burn x))

/-- Whatever a command leaves of the part, its next state has the queue, no fuse half programmed, and the fuses kept. -/
theorem act_fuses (s : State) (d : Dev) :
    ∃ t, act s d = .next t ∧ t.pending = s.pending ∧ t.dev.blow = [] ∧ FusesKept s.otp t.otp := by
  obtain ⟨t, hact, hpend, ⟨hnone, hdev, hotp⟩ | ⟨-, hotp, hdev⟩⟩ := act_cases s d
  · exact ⟨t, hact, hpend, hdev ▸ hnone, hotp ▸ .refl _⟩
  · exact ⟨t, hact, hpend, by rw [hdev, Dev.wr_blow], hotp ▸ .burns _ _⟩

/-- Every command of the table is an effect on the part, after which the fuses it programmed are blown. -/
theorem exec_act (c : Instr) (s : State) : ∃ d, exec c s = act s d := by
  cases c <;> exact ⟨_, rfl⟩

/-- Every command answers a next state, with the queue, no fuse half programmed, and the fuses kept. -/
theorem exec_fuses (c : Instr) (s : State) :
    Runs c s (fun t => t.pending = s.pending ∧ t.dev.blow = [] ∧ FusesKept s.otp t.otp) := by
  obtain ⟨d, hd⟩ := exec_act c s
  obtain ⟨t, ht⟩ := act_fuses s d
  exact ⟨t, hd ▸ ht⟩

/-- Every step, of a command or of time passing, leaves no fuse half programmed and the fuses kept. -/
theorem step_fuses (s : State) : ∃ t, step s = .next t ∧ t.dev.blow = [] ∧ FusesKept s.otp t.otp := by
  unfold step
  split
  · obtain ⟨t, ht, -, hrest⟩ := act_fuses s s.dev.tick
    exact ⟨t, ht, hrest⟩
  · next c rest _ =>
    obtain ⟨t, ht, -, hrest⟩ := exec_fuses c { s with pending := rest }
    exact ⟨t, ht, hrest⟩

/-- Settles O3: every step programs fuses or leaves them (`step_fuses`), and programmings add up. -/
theorem noStepUndoesAFuse : Obligations.NoStepUndoesAFuse := by
  intro o s _ hkept
  obtain ⟨t, hstep, hblow, hfuses⟩ := step_fuses s
  exact ⟨t, hstep, hblow, hkept.trans hfuses⟩

/-! ### Flash commands (R70, R71) -/

/-- The start of a flash command changes the boot part and BOOT_FCMD only. -/
theorem Dev.wFcmd_idle (d : Dev) (v : Word) (op : Nat) (hv : getBits v 0 3 = op) (hop : 1 ≤ op ∧ op ≤ 4) (hb : d.b BOOT_FCMD_BUSY = false) :
    d.wFcmd v = ((d.setBoot { d.boot with fcmd := some (op, d.f ⟨BOOT_FADDR, 0, 28⟩) }).setB BOOT_FCMD_BUSY true, false) := by
  simp [Dev.wFcmd, hb, hv, hop, Dev.f]

/-- While one is busy the write is refused. -/
theorem Dev.wFcmd_busy (d : Dev) (v : Word) (hb : d.b BOOT_FCMD_BUSY = true) : d.wFcmd v = (d, true) := by
  simp [Dev.wFcmd, hb]

/-- A write of BOOT_FCMD starts a flash command. -/
theorem Dev.writeReg_fcmd (d : Dev) (w : Wr) (v : Word) : d.writeReg w BOOT_FCMD 0 0 v = d.wFcmd v := rfl

/-- Forgotten bytes read as never written, the others as before. -/
theorem Dev.byte_forget (d : Dev) (lo hi y : Nat) : (d.forget lo hi).byte y = if lo ≤ y ∧ y < hi then memDefault y else d.byte y := by
  unfold Dev.forget Dev.byte
  split
  · next h => exact Tab.look_filter_none _ _ _ _ (fun _ => by simp only [Bool.or_eq_false_iff, decide_eq_false_iff_not]; omega)
  · next h => exact Tab.look_filter _ _ _ _ (fun _ => by simp only [Bool.or_eq_true, decide_eq_true_eq]; omega)

/-- Programming changes memory only. -/
theorem Dev.program_only (l : List Byte) (d : Dev) (a : Nat) : ∃ m, d.program a l = { d with mem := m } := by
  induction l generalizing d a with
  | nil => exact ⟨d.mem, rfl⟩
  | cons b l ih =>
    obtain ⟨m, hm⟩ := ih (d.setByte a (d.byte a &&& b)) (a + 1)
    exact ⟨m, hm⟩

/-- Programming clears the bits that are 0 in what is programmed. -/
theorem Dev.byte_program (l : List Byte) (d : Dev) (a y : Nat) :
    (d.program a l).byte y = if a ≤ y ∧ y < a + l.length then d.byte y &&& l.getD (y - a) 0 else d.byte y := by
  induction l generalizing d a with
  | nil => rw [if_neg (by simp)]; rfl
  | cons b l ih =>
    rw [Dev.program, ih, List.length_cons]
    by_cases hy : y = a
    · subst hy
      rw [if_neg (by omega), if_pos (by omega), Nat.sub_self, Dev.byte_setByte, List.getD_cons_zero]
    · rw [Dev.byte_setByte_ne _ _ _ _ hy]
      by_cases h : a + 1 ≤ y ∧ y < a + 1 + l.length
      · obtain ⟨k, rfl⟩ : ∃ k, y = a + 1 + k := ⟨y - (a + 1), by omega⟩
        rw [if_pos h, if_pos (by omega), show a + 1 + k - (a + 1) = k by omega, show a + 1 + k - a = k + 1 by omega, List.getD_cons_succ]
      · rw [if_neg h, if_neg (by omega)]

/-- Words written out as bytes are four bytes each. -/
theorem length_wordBytes (w : Nat → Nat) (l : List Nat) : (l.flatMap (fun k => natLe 4 (w k))).length = 4 * l.length := by
  induction l with
  | nil => rfl
  | cons k l ih =>
    rw [List.flatMap_cons, List.length_append, natLe_length, ih, List.length_cons]
    omega

/-- BOOT_FBUF holds 256 bytes. -/
theorem Dev.fbuf_length (d : Dev) : d.fbuf.length = 256 :=
  (length_wordBytes (fun k => (d.rd BOOT_FBUF k).toNat) (List.range 64)).trans (by rw [List.length_range])

/-- The words of BOOT_FBUF stand at different addresses. -/
theorem fbuf_addr_ne (k n : Nat) (h : k ≠ n) : BOOT_FBUF.addr k 0 ≠ BOOT_FBUF.addr n 0 := by
  simp only [Reg.addr, BOOT_FBUF]
  omega

/-- Filling BOOT_FBUF with words that do not depend on registers changes it and no other register. -/
theorem Dev.fill_fbuf (w : Dev → Nat → Word) (hw : ∀ d x, w { d with regs := x } = w d) (d : Dev) (n : Nat) :
    ∃ x, (List.range n).foldl (fun d k => d.wr BOOT_FBUF (w d k) k) d = { d with regs := x } ∧
      (∀ k, k < n → ({ d with regs := x } : Dev).rd BOOT_FBUF k = w d k) ∧
      ∀ r i j, (∀ k, k < n → r.addr i j ≠ BOOT_FBUF.addr k 0) → ({ d with regs := x } : Dev).rd r i j = d.rd r i j := by
  induction n with
  | zero => exact ⟨d.regs, rfl, fun _ h => absurd h (Nat.not_lt_zero _), fun _ _ _ _ => rfl⟩
  | succ n ih =>
    obtain ⟨x, hfold, hwords, hothers⟩ := ih
    refine ⟨(({ d with regs := x } : Dev).wr BOOT_FBUF (w d n) n).regs, ?_, fun k hk => ?_, fun r i j h => ?_⟩
    · rw [List.range_succ, List.foldl_append, hfold]
      simp only [List.foldl_cons, List.foldl_nil, hw]
      rfl
    · show (({ d with regs := x } : Dev).wr BOOT_FBUF (w d n) n).rd BOOT_FBUF k = w d k
      by_cases hkn : k = n
      · subst hkn
        exact Dev.rd_wr _ _ _ _ _
      · rw [Dev.rd_wr_ne _ _ _ _ _ _ _ _ (fbuf_addr_ne k n hkn)]
        exact hwords k (by omega)
    · show (({ d with regs := x } : Dev).wr BOOT_FBUF (w d n) n).rd r i j = d.rd r i j
      rw [Dev.rd_wr_ne _ _ _ _ _ _ _ _ (h n (Nat.lt_succ_self n))]
      exact hothers r i j (fun k hk => h k (Nat.lt_succ_of_lt hk))

/-- The addresses of the boot block (Table 1-4). -/
theorem blkOf_boot (a : Nat) (h : 0x40038000 ≤ a) (h' : a < 0x40040000) : blkOf a = some .boot := by
  unfold blkOf
  rw [if_neg (by omega), if_neg (by omega), if_neg (by omega), if_neg (by omega), if_neg (by omega), if_pos (by omega)]

/-- The addresses of the event unit (Table 1-4). -/
theorem blkOf_evt (a : Nat) (h : 0x40050000 ≤ a) (h' : a < 0x40060000) : blkOf a = some .evt := by
  unfold blkOf
  rw [if_neg (by omega), if_neg (by omega), if_neg (by omega), if_neg (by omega), if_neg (by omega), if_neg (by omega),
    if_neg (by omega), if_pos (by omega)]

/-- A register of neither the boot block nor the event unit is at none of their addresses. -/
theorem blk_not_boot_evt {a : Nat} (h : ∀ b ∈ [Blk.boot, Blk.evt], blkOf a ≠ some b) :
    (a < 0x40038000 ∨ 0x40040000 ≤ a) ∧ (a < 0x40050000 ∨ 0x40060000 ≤ a) := by
  have hboot := h .boot (by simp)
  have hevt := h .evt (by simp)
  exact ⟨Classical.byContradiction fun hin => hboot (blkOf_boot a (by omega) (by omega)),
    Classical.byContradiction fun hin => hevt (blkOf_evt a (by omega) (by omega))⟩

/-- A flash command that ends clears BUSY, shows its RESULT and is forgotten; nothing else changes (R70). -/
theorem Dev.flashEnd_spec (d : Dev) (r : Nat) :
    ∃ E, ((d.setBoot { d.boot with fcmd := none }).setB BOOT_FCMD_BUSY false).setF BOOT_FCMD_RESULT r = E ∧
      E.f BOOT_FCMD_RESULT = r % 256 ∧ E.b BOOT_FCMD_BUSY = false ∧ E.boot = { d.boot with fcmd := none } ∧ E.mem = d.mem ∧
      E.blow = d.blow ∧ ∀ x i j, x.addr i j ≠ BOOT_FCMD.base → E.rd x i j = d.rd x i j := by
  refine ⟨_, rfl, ?_, ?_, ?_, ?_, ?_, fun x i j hne => ?_⟩
  · exact Dev.f_setF _ BOOT_FCMD_RESULT _ 0 0 (by decide)
  · rw [Dev.b_setF_at _ BOOT_FCMD_RESULT BOOT_FCMD_BUSY _ 0 0 0 0 (by decide) rfl rfl (by decide)]
    exact Dev.b_setB _ BOOT_FCMD_BUSY _ 0 0 (by decide) (by decide)
  · rw [Dev.setF_boot, Dev.setB_boot, Dev.setBoot]
  · rw [Dev.setF_mem, Dev.setB_mem, Dev.setBoot]
  · rw [Dev.setF_blow, Dev.setB_blow, Dev.setBoot]
  · rw [Dev.rd_setF_ne _ _ _ _ _ _ _ _ hne, Dev.rd_setB_ne _ _ _ _ _ _ _ _ hne]
    rfl

/-- What the end of a flash command leaves beside memory: RESULT, BUSY clear, no command left, EV005 (R70). -/
def FlashEnded (s : State) (res : Nat) (t : State) : Prop :=
  t.dev.f BOOT_FCMD_RESULT = res ∧ t.dev.b BOOT_FCMD_BUSY = false ∧ t.dev.boot = { s.dev.boot with fcmd := none } ∧
    t.dev.evPending 5 = true ∧ RegsKept [.boot, .evt] s.dev t.dev ∧ t.otp = s.otp

/-- A flash command that comes to the part `D` and RESULT `r` ends so, with memory and BOOT_FBUF as in `D`. -/
theorem Runs.flash_done {s : State} {bad sfdp : Bool} {op a r : Nat} {D : Dev} {p : State → Prop} (hf : s.dev.boot.fcmd = some (op, a))
    (hdo : s.dev.flashDo s.otp op a bad sfdp = (D, r)) (hboot : D.boot = s.dev.boot) (hblow : D.blow = [])
    (hregs : RegsKept [.boot, .evt] s.dev D)
    (hp : ∀ t, FlashEnded s (r % 256) t → t.dev.mem = D.mem → (∀ k, k < 64 → t.dev.rd BOOT_FBUF k = D.rd BOOT_FBUF k) → p t) :
    Runs (.flashCommandDone bad sfdp) s p := by
  obtain ⟨E, hE, hres, hbusy, hEboot, hEmem, hEblow, hErd⟩ := D.flashEnd_spec r
  have hdone : s.dev.flashDone s.otp bad sfdp = E.raise 5 := by
    unfold Dev.flashDone
    rw [hf]
    dsimp only
    rw [hdo]
    exact congrArg (Dev.raise · 5) hE
  have hev : EvtOnly E (E.raise 5) := EvtOnly.raise E 5 0 (by decide)
  obtain ⟨hrboot, hrblow, hrmem, -⟩ := hev.boot
  refine Runs.of_quiet (congrArg (act s) hdone) (hrblow.trans (hEblow.trans hblow))
    (hp _ ⟨?result, ?busy, hrboot.trans (hboot ▸ hEboot), E.raise_pending 5 0 (by decide), ?regs, rfl⟩ (hrmem.trans hEmem) ?buf)
  case result => exact (hev.f BOOT_FCMD_RESULT 0 0 (by decide)).trans hres
  case busy => exact (hev.b BOOT_FCMD_BUSY 0 0 (by decide)).trans hbusy
  case regs =>
    intro x i j hx
    obtain ⟨hout, hevt⟩ := blk_not_boot_evt hx
    exact ((hev.rd x i j hevt).trans (hErd x i j (by simp only [BOOT_FCMD]; omega))).trans (hregs x i j hx)
  case buf =>
    intro k hk
    exact (hev.rd BOOT_FBUF k 0 (by simp only [Reg.addr, BOOT_FBUF]; omega)).trans
      (hErd BOOT_FBUF k 0 (by simp only [Reg.addr, BOOT_FBUF, BOOT_FCMD]; omega))

/-- Bytes read of equal memory are equal. -/
theorem Dev.byte_congr {d d' : Dev} (h : d'.mem = d.mem) (y : Nat) : d'.byte y = d.byte y := by
  unfold Dev.byte
  rw [h]

/-- A flash command that changes nothing by itself ends with memory as it was. -/
theorem Runs.flash_idle {s : State} {bad sfdp : Bool} {op a r : Nat} (hb : s.dev.blow = []) (hf : s.dev.boot.fcmd = some (op, a))
    (hdo : s.dev.flashDo s.otp op a bad sfdp = (s.dev, r)) :
    Runs (.flashCommandDone bad sfdp) s (fun t => (∀ y, t.dev.byte y = s.dev.byte y) ∧ FlashEnded s (r % 256) t) :=
  Runs.flash_done hf hdo rfl hb (fun _ _ _ _ => rfl) (fun _ ht hmem _ => ⟨Dev.byte_congr hmem, ht⟩)

/-- An erased sector of the inactive flash lies in the flash windows. -/
theorem Dev.memDefault_flash (d : Dev) (a y : Nat) (ha : a < 0x10000000) (hal : a % 65536 = 0)
    (hy : d.flashAddr a ≤ y ∧ y < d.flashAddr a + 65536) : memDefault y = 0xFF := by
  have hin : 0x70000000 ≤ y ∧ y < 0x90000000 := by
    unfold Dev.flashAddr at hy
    split at hy <;> omega
  simp [memDefault, hin]

section FlashDone

variable {s : State} {bad sfdp : Bool} {op a : Nat}

/-- An erase ends with its 64 KiB at 0xFF (R70). -/
theorem Runs.flash_erased (hb : s.dev.blow = []) (hf : s.dev.boot.fcmd = some (1, a)) (ha : a < 0x10000000) (hal : a % 65536 = 0) :
    Runs (.flashCommandDone false sfdp) s (fun t => FlashEnded s 0 t ∧
      ∀ y, t.dev.byte y = if s.dev.flashAddr a ≤ y ∧ y < s.dev.flashAddr a + 65536 then 0xFF else s.dev.byte y) := by
  have hdo : s.dev.flashDo s.otp 1 a false sfdp = (s.dev.forget (s.dev.flashAddr a) (s.dev.flashAddr a + 65536), 0) := by
    simp [Dev.flashDo, hal]
  refine Runs.flash_done hf hdo rfl hb (fun _ _ _ _ => rfl) (fun t ht hmem _ => ⟨ht, fun y => ?_⟩)
  rw [Dev.byte_congr hmem, Dev.byte_forget]
  split
  · next hy => exact s.dev.memDefault_flash a y ha hal hy
  · rfl

/-- A program ends with its 256 bytes ANDed with BOOT_FBUF's (R70). -/
theorem Runs.flash_programmed (hb : s.dev.blow = []) (hf : s.dev.boot.fcmd = some (2, a)) (hal : a % 256 = 0) :
    Runs (.flashCommandDone false sfdp) s (fun t => FlashEnded s 0 t ∧
      ∀ y, t.dev.byte y = if s.dev.flashAddr a ≤ y ∧ y < s.dev.flashAddr a + 256 then
        s.dev.byte y &&& s.dev.fbuf.getD (y - s.dev.flashAddr a) 0 else s.dev.byte y) := by
  have hdo : s.dev.flashDo s.otp 2 a false sfdp = (s.dev.program (s.dev.flashAddr a) s.dev.fbuf, 0) := by
    simp [Dev.flashDo, hal]
  obtain ⟨m, hm⟩ := Dev.program_only s.dev.fbuf s.dev (s.dev.flashAddr a)
  refine Runs.flash_done hf hdo (by rw [hm]) (by rw [hm]; exact hb) (by rw [hm]; exact fun _ _ _ _ => rfl) (fun t ht hmem _ => ⟨ht, fun y => ?_⟩)
  rw [Dev.byte_congr hmem, Dev.byte_program, Dev.fbuf_length]

/-- A read ends with BOOT_FBUF filled from the flash (R70). -/
theorem Runs.flash_read (hb : s.dev.blow = []) (hf : s.dev.boot.fcmd = some (3, a)) (ha : a + 256 ≤ 0x10000000) :
    Runs (.flashCommandDone false sfdp) s (fun t => FlashEnded s 0 t ∧ (∀ y, t.dev.byte y = s.dev.byte y) ∧
      ∀ k, k < 64 → t.dev.rd BOOT_FBUF k = s.dev.word (s.dev.flashAddr a + 4 * k)) := by
  obtain ⟨x, hfold, hwords, hothers⟩ := Dev.fill_fbuf
    (fun d k => BitVec.ofNat 32 (leNat (d.bytesAt (d.flashAddr ((a + 4 * k) % 0x10000000)) 4))) (fun _ _ => rfl) s.dev 64
  have hdo : s.dev.flashDo s.otp 3 a false sfdp = ({ s.dev with regs := x }, 0) := congrArg (·, 0) hfold
  refine Runs.flash_done hf hdo rfl hb (fun r i j hr => hothers r i j (fun k hk => ?_))
    (fun t ht hmem hbuf => ⟨ht, Dev.byte_congr hmem, fun k hk => ?_⟩)
  · obtain ⟨hout, -⟩ := blk_not_boot_evt hr
    simp only [Reg.addr, BOOT_FBUF] at hout ⊢
    omega
  · have haddr : s.dev.flashAddr ((a + 4 * k) % 0x10000000) = s.dev.flashAddr a + 4 * k := by
      rw [Nat.mod_eq_of_lt (by omega)]
      simp only [Dev.flashAddr]
      omega
    rw [hbuf k hk, hwords k hk, haddr]
    rfl

/-- An erase or a program of an unaligned address changes nothing (R70). -/
theorem Dev.flashDo_unaligned (d : Dev) (o : Otp) (h : (op = 1 ∧ a % 65536 ≠ 0) ∨ (op = 2 ∧ a % 256 ≠ 0)) :
    d.flashDo o op a bad sfdp = (d, 3) := by
  rcases h with ⟨rfl, hal⟩ | ⟨rfl, hal⟩ <;> exact if_pos hal

/-- A device error changes nothing (R70). -/
theorem Dev.flashDo_bad (d : Dev) (o : Otp) (h : (op = 1 ∧ a % 65536 = 0) ∨ (op = 2 ∧ a % 256 = 0) ∨ op = 3) :
    d.flashDo o op a true sfdp = (d, 1) := by
  rcases h with ⟨rfl, hal⟩ | ⟨rfl, hal⟩ | rfl
  · exact if_neg (not_not_intro hal)
  · exact if_neg (not_not_intro hal)
  · rfl

end FlashDone

/-- The four commands are the four values of BOOT_FCMD.OP (R70). -/
theorem exec_fcmd (s : State) (m : Master) (c : Instr) (op : Nat)
    (h : (c = .flashErase m ∧ op = 1) ∨ (c = .flashProgram m ∧ op = 2) ∨ (c = .flashRead m ∧ op = 3) ∨ (c = .flashVerify m ∧ op = 4)) :
    ∃ v : Word, exec c s = act s (s.dev.putReg m BOOT_FCMD 0 0 v) ∧ getBits v 0 3 = op ∧ 1 ≤ op ∧ op ≤ 4 := by
  rcases h with ⟨rfl, rfl⟩ | ⟨rfl, rfl⟩ | ⟨rfl, rfl⟩ | ⟨rfl, rfl⟩ <;> exact ⟨_, rfl, by decide, by decide, by decide⟩

/-- Settles O23: a start is a write of BOOT_FCMD (`Dev.wFcmd_idle`, `Dev.wFcmd_busy`), an end what the command comes to. -/
theorem flashCommandsActOnTheInactiveFlash : Obligations.FlashCommandsActOnTheInactiveFlash := by
  intro s m hb
  refine ⟨fun c op hm hc => ?start, fun bad sfdp op a hf ha => ⟨?erase, ?program, ?read, ?verify, ?unaligned, ?error⟩⟩
  case start =>
    obtain ⟨v, hexec, hv, hop⟩ := exec_fcmd s m c op hc
    have hacc : s.dev.accepts m BOOT_FCMD 0 0 v = true := Dev.accepts_free _ _ _ _ _ _ hm (by decide) (by decide)
    have hwrite := s.dev.still.writeReg_fcmd (s.dev.wrNow m) v
    refine ⟨fun hidle => ?_, fun hbusy => ?_⟩
    · refine Runs.put_quiet hexec hacc (hwrite.trans (Dev.wFcmd_idle _ v op hv hop hidle)) hb ⟨rfl, ?_, ⟨_, _, rfl, fun x y hy => ?_⟩, ?_⟩
      · exact (Dev.b_answer _ _ _ _ _ _ _).trans (Dev.b_setB _ BOOT_FCMD_BUSY _ 0 0 (by decide) (by decide))
      · exact Tab.look_put_ne _ _ _ _ _ _ (fun e => hy (List.mem_singleton.mpr e))
      · exact answers_answer _ _ _ _ _ rfl
    · exact Runs.put_quiet hexec hacc (hwrite.trans (Dev.wFcmd_busy _ v hbusy)) hb rfl
  case erase =>
    rintro rfl hal rfl
    exact Runs.flash_erased hb hf ha hal
  case program =>
    rintro rfl hal rfl
    exact Runs.flash_programmed hb hf hal
  case read =>
    rintro rfl rfl hin
    exact Runs.flash_read hb hf hin
  case verify =>
    rintro rfl
    exact Runs.flash_idle hb hf (r := 0x80 + verifyImage s.otp (s.dev.flashImage s.dev.inactive (!bad) sfdp)) rfl
  case unaligned => exact fun h => Runs.flash_idle hb hf (Dev.flashDo_unaligned _ _ h)
  case error =>
    rintro h rfl
    exact Runs.flash_idle hb hf (Dev.flashDo_bad _ _ h)

/-! ### Release (R58): the commits -/

/-- `d'` differs from `d` at most in the registers in force and the commit instances. -/
def CommitOnly (d d' : Dev) : Prop := ∃ x c, d' = { d with regs := x, cmt := c }

/-- One such change after another. -/
theorem CommitOnly.trans {d d' d'' : Dev} (h : CommitOnly d d') (h' : CommitOnly d' d'') : CommitOnly d d'' := by
  obtain ⟨_, _, rfl⟩ := h
  obtain ⟨_, _, rfl⟩ := h'
  exact ⟨_, _, rfl⟩

/-- An arm for the next boundary, applied at once where `k` is idle, changes registers in force and commit instances only. -/
theorem CommitOnly.idleArm (d : Dev) (k : Nat) : CommitOnly d ((d.armNext k d.wall).idleNext k) := by
  unfold Dev.idleNext
  dsimp only
  split
  · obtain ⟨x, hx⟩ := Dev.takeForce_eq
      ((d.armNext k d.wall).setInst k { (d.armNext k d.wall).inst k with next := [], last := (d.armNext k d.wall).ns - 1 }) k false
    rw [hx]
    exact ⟨_, _, rfl⟩
  · exact ⟨_, _, rfl⟩

/-- What a register reads after it: where `k` is idle, its staged registers have their staged values (R36). -/
theorem Dev.rd_idleArm (d : Dev) (k : Nat) (r : Reg) (i j : Nat) (hf : findReg (r.addr i j) = some (r, i, j)) :
    ((d.armNext k d.wall).idleNext k).rd r i j =
      if d.instIdle k = true ∧ r.staged = true ∧ r.instOf i = some k then commitFix (r.addr i j) (d.rdStaged r i j) else d.rd r i j := by
  have harmed : ((d.armNext k d.wall).inst k).next.isEmpty = false := by simp [Dev.armNext]
  have hidle : (d.armNext k d.wall).instIdle k = d.instIdle k := rfl
  unfold Dev.idleNext
  dsimp only
  rw [harmed, hidle]
  cases hk : d.instIdle k with
  | false => rw [if_neg (by simp), if_neg (by simp)]; rfl
  | true =>
    rw [if_pos (by simp)]
    unfold Dev.countApplied
    dsimp only
    rw [Dev.rd_setInst, Dev.takeForce_rd _ _ _ _ _ _ hf]
    simp only [true_and]
    rfl

/-- The instances `l` committed in turn. -/
theorem Dev.commits_spec (l : List Nat) (d : Dev) :
    CommitOnly d (l.foldl (fun d k => (d.armNext k d.wall).idleNext k) d) ∧
      ∀ r i j, findReg (r.addr i j) = some (r, i, j) → (∀ k ∈ l, r.instOf i ≠ some k) →
        (l.foldl (fun d k => (d.armNext k d.wall).idleNext k) d).rd r i j = d.rd r i j := by
  induction l generalizing d with
  | nil => exact ⟨⟨d.regs, d.cmt, rfl⟩, fun _ _ _ _ _ => rfl⟩
  | cons k l ih =>
    obtain ⟨honly, hrd⟩ := ih ((d.armNext k d.wall).idleNext k)
    refine ⟨(CommitOnly.idleArm d k).trans honly, fun r i j hf hl => ?_⟩
    rw [List.foldl_cons, hrd r i j hf (fun n hn => hl n (List.mem_cons_of_mem k hn)), Dev.rd_idleArm d k r i j hf,
      if_neg (fun h => hl k List.mem_cons_self h.2.2)]

/-- The commits at release bring the staged registers of the station cycle (number 0) into force: it is idle until then (R36, R58). -/
theorem Dev.commitAll_spec (d : Dev) (h : d.boot.released = false) :
    CommitOnly d d.commitAll ∧ ∀ r i j, findReg (r.addr i j) = some (r, i, j) → r.staged = true → r.instOf i = some 0 →
      d.commitAll.rd r i j = commitFix (r.addr i j) (d.rdStaged r i j) := by
  have hsplit : List.range 81 = 0 :: (List.range 80).map Nat.succ := List.range_succ_eq_map
  have hidle : d.instIdle 0 = true := by simp [Dev.instIdle, Dev.releasedB, h]
  unfold Dev.commitAll
  refine ⟨(Dev.commits_spec _ d).1, fun r i j hf hs hi => ?_⟩
  rw [hsplit, List.foldl_cons, (Dev.commits_spec _ _).2 r i j hf (fun k hk => ?later), Dev.rd_idleArm d 0 r i j hf,
    if_pos ⟨hidle, hs, hi⟩]
  case later =>
    obtain ⟨n, -, rfl⟩ := List.mem_map.mp hk
    rw [hi]
    exact fun e => Nat.succ_ne_zero n (Option.some.inj e).symm

/-! ### Release: the cores -/

/-- A general register reads as it was set. -/
theorem Cpu.r_setR (c : Cpu) (k : Nat) (v : Word) : (c.setR k v).r k = v := Tab.look_put _ _ _ _

/-- Setting one leaves the others. -/
theorem Cpu.r_setR_ne (c : Cpu) (k n : Nat) (v : Word) (h : n ≠ k) : (c.setR k v).r n = c.r n := Tab.look_put_ne _ _ _ _ _ _ h

/-- Engine state `g` is engine `n` started at its INIT entry by release: G0 its number, G3 = 0, G15 its stack's top (R162). -/
def Eng.AtInit (g : Eng) (n : Nat) (x : LoadEntry) : Prop :=
  g.run = .run ∧ g.cpu.pc = BitVec.ofNat 32 (codeBase n + x.init) ∧ g.cpu.r 0 = BitVec.ofNat 32 n ∧ g.cpu.r 3 = 0 ∧
    g.cpu.r 15 = BitVec.ofNat 32 (dataBase n + x.stackTop)

/-- An engine that release starts is at INIT. -/
theorem Dev.startEngine_atInit (d : Dev) (n : Nat) : Eng.AtInit ((d.startEngine n 0).e n) n (d.entry n) := by
  unfold Dev.startEngine
  rw [Dev.e_setE]
  refine ⟨rfl, rfl, ?_, ?_, ?_⟩ <;> unfold Dev.startCpu <;> dsimp only
  · rw [Cpu.r_setR_ne _ _ _ _ (by decide), Cpu.r_setR_ne _ _ _ _ (by decide), Cpu.r_setR_ne _ _ _ _ (by decide),
      Cpu.r_setR_ne _ _ _ _ (by decide), Cpu.r_setR]
  · rw [Cpu.r_setR_ne _ _ _ _ (by decide), Cpu.r_setR]
    rfl
  · rw [Cpu.r_setR]

/-- Replacing an engine leaves the entry points of the loads. -/
theorem Dev.entry_setE (d : Dev) (k : Nat) (g : Eng) (n : Nat) : (d.setE k g).entry n = d.entry n := rfl

/-- Starting engines changes the engines only. -/
theorem Dev.startEngines_only (l : List Nat) (d : Dev) : ∃ x, l.foldl (fun d n => d.startEngine n 0) d = { d with eng := x } := by
  induction l generalizing d with
  | nil => exact ⟨d.eng, rfl⟩
  | cons n l ih =>
    obtain ⟨g, hg⟩ : ∃ g, d.startEngine n 0 = { d with eng := g } := ⟨_, rfl⟩
    rw [List.foldl_cons, hg]
    exact ih { d with eng := g }

/-- The engines listed are started, the others stay. -/
theorem Dev.startEngines_e (l : List Nat) (d : Dev) (n : Nat) :
    (n ∈ l → Eng.AtInit ((l.foldl (fun d n => d.startEngine n 0) d).e n) n (d.entry n)) ∧
      (n ∉ l → (l.foldl (fun d n => d.startEngine n 0) d).e n = d.e n) := by
  induction l generalizing d with
  | nil => exact ⟨fun h => absurd h List.not_mem_nil, fun _ => rfl⟩
  | cons k l ih =>
    obtain ⟨hin, hout⟩ := ih (d.startEngine k 0)
    rw [show (d.startEngine k 0).entry n = d.entry n from Dev.entry_setE _ _ _ _] at hin
    rw [List.foldl_cons]
    by_cases hl : n ∈ l
    · exact ⟨fun _ => hin hl, fun h => absurd (List.mem_cons_of_mem k hl) h⟩
    · rw [hout hl]
      by_cases hk : n = k
      · subst hk
        exact ⟨fun _ => d.startEngine_atInit n, fun h => absurd List.mem_cons_self h⟩
      · exact ⟨fun h => absurd (List.mem_cons.mp h) (not_or.mpr ⟨hk, hl⟩), fun _ => Dev.e_setE_ne _ _ _ _ hk⟩

/-- The cores that release starts: both supervisors and the bound engines. -/
def Dev.startCores (d : Dev) : Dev := d.boot.bound.foldl (fun d n => d.startEngine n 0) ((d.startSv false).startSv true)

/-- Starting them changes them and the free values taken: the supervisors run (where is a free value, log 10), the bound engines are at
INIT, the others stay. -/
theorem Dev.startCores_spec (d : Dev) : ∃ s0 s1 x g, d.startCores = { d with sv0 := s0, sv1 := s1, free := x, eng := g } ∧
    s0.run = .run ∧ s1.run = .run ∧ ∀ n, (n ∈ d.boot.bound → Eng.AtInit (d.startCores.e n) n (d.entry n)) ∧
      (n ∉ d.boot.bound → d.startCores.e n = d.e n) := by
  obtain ⟨g, hg⟩ := Dev.startEngines_only d.boot.bound ((d.startSv false).startSv true)
  exact ⟨_, _, _, g, hg, rfl, rfl, Dev.startEngines_e _ _⟩

/-! ### Release: what it reports -/

/-- The end of release: BOOT_NEXT's one-time preference goes, EV004 is raised, and EV010 where a report of the plumb check waits. -/
def Dev.releaseEvents (d : Dev) : Dev :=
  let d := if d.b BOOT_NEXT_ONCE then d.setF BOOT_NEXT_PREF 0 else d
  let d := d.raise 4
  if d.pw.report then (d.setPw { d.pw with report := false }).raise 10 else d

/-- It changes BOOT_NEXT, registers of the event unit, the journal queue, the messages and the report's flag only, with EV004 pending. -/
theorem Dev.releaseEvents_spec (d : Dev) :
    (∃ x q m p, d.releaseEvents = { d with regs := x, jq := q, msix := m, pw := p }) ∧ d.releaseEvents.evPending 4 = true ∧
      ∀ r i j, r.addr i j ≠ BOOT_NEXT.base → (r.addr i j < 0x40050000 ∨ 0x40060000 ≤ r.addr i j) →
        d.releaseEvents.rd r i j = d.rd r i j := by
  have hnext : ∃ x, (if d.b BOOT_NEXT_ONCE then d.setF BOOT_NEXT_PREF 0 else d) = { d with regs := x } ∧
      ∀ r i j, r.addr i j ≠ BOOT_NEXT.base → ({ d with regs := x } : Dev).rd r i j = d.rd r i j := by
    split
    · exact ⟨_, rfl, fun r i j hne => Dev.rd_setF_ne d BOOT_NEXT_PREF r 0 0 0 i j hne⟩
    · exact ⟨d.regs, rfl, fun _ _ _ _ => rfl⟩
  obtain ⟨x, hx, hrd⟩ := hnext
  unfold Dev.releaseEvents
  rw [hx]
  dsimp only
  generalize hd1 : ({ d with regs := x } : Dev) = d1 at hrd
  have h4 := d1.raise_pending 4 0 (by decide)
  have hev4 := EvtOnly.raise d1 4 0 (by decide)
  generalize d1.raise 4 = d2 at h4 hev4
  split
  · have h10 := (d2.setPw { d2.pw with report := false }).raise_keeps 10 0 4 (by decide) h4
    have hev10 := EvtOnly.raise (d2.setPw { d2.pw with report := false }) 10 0 (by decide)
    refine ⟨?_, h10, fun r i j hne hevt => (hev10.rd r i j hevt).trans ((hev4.rd r i j hevt).trans (hrd r i j hne))⟩
    obtain ⟨_, _, _, h2, -⟩ := hev4
    obtain ⟨_, _, _, h3, -⟩ := hev10
    rw [h3, h2, ← hd1]
    exact ⟨_, _, _, _, rfl⟩
  · refine ⟨?_, h4, fun r i j hne hevt => (hev4.rd r i j hevt).trans (hrd r i j hne)⟩
    obtain ⟨_, _, _, h2, -⟩ := hev4
    rw [h2, ← hd1]
    exact ⟨_, _, _, _, rfl⟩

/-- What release writes of the boot ROM's state: the LK registers are locked, and the confirmation window begins (R58, R67). -/
def Dev.lockRelease (d : Dev) : Dev :=
  d.setBoot { d.boot with locked := true, released := true, started := d.boot.bound, since := d.wall, phase := .running }

/-- Release is the commits, the locks, the cores and what it reports, in this order (R58). -/
theorem Dev.bootRelease_ready (d : Dev) (h : d.boot.phase = .ready) :
    d.bootRelease = d.commitAll.lockRelease.startCores.releaseEvents := by
  unfold Dev.bootRelease
  rw [if_neg (not_not_intro h)]
  rfl

/-! ### Release: where staged registers stand -/

/-- A register found in a list is of the list. -/
theorem findIn_mem (a : Nat) (l : List Reg) (r : Reg) (i j : Nat) (h : findIn a l = some (r, i, j)) : r ∈ l := by
  induction l with
  | nil => cases h
  | cons x l ih =>
    unfold findIn at h
    split at h
    · simp only [Option.some.injEq, Prod.mk.injEq] at h
      exact h.1 ▸ List.mem_cons_self
    · exact List.mem_cons_of_mem x (ih h)

/-- A register found in a block's range is one of the block's. -/
theorem findReg_mem {a : Nat} {k : Blk} {r : Reg} {i j : Nat} (hk : blkOf a = some k) (h : findReg a = some (r, i, j)) : r ∈ regsIn k := by
  unfold findReg at h
  rw [hk] at h
  split at h
  · cases h
  · exact findIn_mem _ _ _ _ _ h

/-- No register of the boot block or the event unit is staged (Table 1-5). -/
theorem staged_not_boot_evt (r : Reg) (i j : Nat) (hf : findReg (r.addr i j) = some (r, i, j)) (hs : r.staged = true) :
    (r.addr i j < 0x40038000 ∨ 0x40040000 ≤ r.addr i j) ∧ (r.addr i j < 0x40050000 ∨ 0x40060000 ≤ r.addr i j) := by
  have hnone : ∀ b ∈ [Blk.boot, Blk.evt], ∀ x ∈ regsIn b, x.staged = false := by decide
  refine blk_not_boot_evt (fun b hb hblk => ?_)
  rw [hnone b hb r (findReg_mem hblk hf)] at hs
  cases hs

/-- Settles O21: the commits, the locks, the cores and the events of release, one after another (`Dev.bootRelease_ready`). -/
theorem releaseStartsTheChip : Obligations.ReleaseStartsTheChip := by
  intro s hb hready hrel _ _
  have hrelease := s.dev.bootRelease_ready hready
  obtain ⟨⟨regs, cmt, hcommit⟩, hstaged⟩ := s.dev.commitAll_spec hrel
  obtain ⟨s0, s1, free, eng, hcores, hs0, hs1, heng⟩ := s.dev.commitAll.lockRelease.startCores_spec
  obtain ⟨⟨x, q, m, p, hev⟩, hpending, hrd⟩ := s.dev.commitAll.lockRelease.startCores.releaseEvents_spec
  rw [← hrelease] at hev hpending hrd
  have hregs : s.dev.commitAll.lockRelease.startCores.regs = s.dev.commitAll.regs := by rw [hcores]; rfl
  have he : ∀ n, s.dev.bootRelease.e n = s.dev.commitAll.lockRelease.startCores.e n := Dev.e_congr (by rw [hev])
  have hinit : ∀ n ∈ s.dev.boot.bound, Eng.AtInit (s.dev.bootRelease.e n) n (s.dev.entry n) := fun n hn => by
    have h := (heng n).1 (by rw [hcommit]; exact hn)
    rw [← he n, show s.dev.commitAll.lockRelease.entry n = s.dev.entry n by rw [hcommit]; rfl] at h
    exact h
  have hstay : ∀ n, n ∉ s.dev.boot.bound → s.dev.bootRelease.e n = s.dev.e n := fun n hn => by
    rw [he n, (heng n).2 (by rw [hcommit]; exact hn), hcommit]
    rfl
  have hforce : ∀ (r : Reg) (i j : Nat), findReg (r.addr i j) = some (r, i, j) → r.staged = true → r.instOf i = some 0 →
      s.dev.bootRelease.rd r i j = commitFix (r.addr i j) (s.dev.rdStaged r i j) := fun r i j hf hs hi => by
    obtain ⟨hboot, hevt⟩ := staged_not_boot_evt r i j hf hs
    rw [hrd r i j (by simp only [BOOT_NEXT]; omega) hevt, Dev.rd_congr hregs, hstaged r i j hf hs hi]
  rw [hcores, hcommit] at hev
  refine Runs.of_quiet (d := s.dev.bootRelease) rfl (by rw [hev]; exact hb)
    ⟨by rw [hev]; rfl, by rw [hev]; exact hs0, by rw [hev]; exact hs1, hpending, hinit, hstay, by rw [hev]; rfl, hforce⟩

end Sys2Proof.Machine
